-- ==== Sys2Proof/Word.lean ====
section
/-! DEFINITION. The word types of the C3 and their plainest arithmetic (R4, R23, R27). -/

namespace Sys2Proof

/-- A 32-bit register element (R121, R124). -/
abbrev Word := BitVec 32

/-- A byte of memory, scratchpad or a record (R4). -/
abbrev Byte := BitVec 8

/-- A 64-bit address or count. -/
abbrev Dword := BitVec 64

/-- The 96-bit mask of a crew's lanes (R124). -/
abbrev Mask := BitVec 96

/-- Lanes of a crew (R11). -/
abbrev laneCount : Nat := 96

/-- Bits `[lo + w - 1 : lo]` of a number (R4). -/
def bits (n lo w : Nat) : Nat := n / 2 ^ lo % 2 ^ w

end Sys2Proof
end

