-- ==== Sys2Proof/Config.lean ====
section
/-! DEFINITION. What the manual leaves to the part or to the run: free values with no body. Nothing in Lean can evaluate one or
prove a value of it, so a claim holds whatever they are (log entries 9, 10 and 14). -/

namespace Sys2Proof.Config

/-- The n-th open 32-bit value (log 9, 14): the word of a task's result that rests on an uncorrectable buffer word (R444). -/
opaque freeWord : Nat → Word

/-- An open 64-bit value drawn at the n-th use (log 9). -/
opaque freeDword : Nat → Dword

/-- Whether the signature over the loaded image verifies (R455). The public key stands in fuses, so the answer is the part's own. -/
opaque imageVerifies : List (Nat × Byte) → Bool

/-- The Falcon-1024 signature over an attestation body (R456), 1,280 B. -/
opaque attestSignature : BitVec 1024 → BitVec 10240

/-- Whether a life-cycle command's signature was made by Ocund (R458). -/
opaque lifeCycleSigned : Nat → BitVec 64 → Bool

/-- Serial and boot-ROM version of the module (R454, R456), and the firmware version word of an image. -/
opaque serial : BitVec 128
opaque romVersion : BitVec 32
opaque firmwareVersion : List (Nat × Byte) → BitVec 32

/-- What the arbiter measures in its n-th interval, in milliwatts (R460, log 10): the draw of memories, ports and complexes, and the demand
of a die. -/
opaque otherDraw : Nat → Nat
opaque dieDemand : Nat → Nat → Nat

/-- The power estimated for a core under a gate value in the n-th interval, in milliwatts: interval, core, value (R462, log 10). -/
opaque corePower : Nat → Nat → Nat → Nat

/-- The 32 B of a completion record (R452), whose layout the manual does not give (log 28): a free draw, and in this order 0 for
inbound or 1 for outbound, queue pair, operation, status, length, immediate, tag. -/
opaque portRecord : Nat → List Nat → BitVec 256

/-- A new key's material is never readable (R338), so only its generation is named. -/
opaque newKey : Nat → Dword


end Sys2Proof.Config
end

