-- ==== Sys2Proof/Machine/Table.lean ====
section
/-! DEFINITION. Sparse tables and byte memories, the plain data that State is made of. -/

namespace Sys2Proof.Machine

/-- A sparse table by number. An entry that is not listed stands for its table's default. -/
abbrev Table (β : Type) := List (Nat × β)

namespace Table
variable {β : Type}

def get? : Table β → Nat → Option β
  | [], _ => none
  | (k, x) :: t, a => if k = a then some x else get? t a

/-- The listed entry, or the default. -/
def getD (t : Table β) (a : Nat) (d : β) : β := (t.get? a).getD d

/-- Replaces or adds an entry, keeping ascending order. -/
def put : Table β → Nat → β → Table β
  | [], a, y => [(a, y)]
  | (k, x) :: t, a, y => if a < k then (a, y) :: (k, x) :: t else if a = k then (a, y) :: t else (k, x) :: put t a y

/-- Removes an entry. -/
def del (t : Table β) (a : Nat) : Table β := t.filter fun e => e.1 != a

/-- Adds, replaces or removes an entry. -/
def set (t : Table β) (a : Nat) : Option β → Table β
  | some x => t.put a x
  | none => t.del a

/-- Keys strictly rising. -/
def Sorted (t : Table β) : Prop := t.Pairwise fun x y => x.1 < y.1

end Table

/-! ## Bytes -/

/-- Bytes by address in canonical form: addresses strictly rising, no byte that is zero. An unlisted byte reads 0: every frame
reads zeros after a reset (R339, R296) and every SRAM is wiped (R457, R171). -/
abbrev Memory := List Host.Cell

namespace Memory

/-- The canonical form. -/
def wf : Memory → Bool
  | [] => true
  | [(_, b)] => b != 0
  | (k, b) :: (l, c) :: t => b != 0 && decide (k < l) && wf ((l, c) :: t)

/-- The byte at an address. -/
def byte (m : Memory) (a : Nat) : Byte := Table.getD m a 0

/-- Stores a byte. Storing zero removes the entry. -/
def store (m : Memory) (a : Nat) (b : Byte) : Memory := if b = 0 then Table.del m a else Table.put m a b

/-- Stores consecutive bytes. -/
def storeBytes (m : Memory) (a : Nat) : List Byte → Memory
  | [] => m
  | b :: bs => storeBytes (m.store a b) (a + 1) bs

/-- `n` consecutive bytes. -/
def bytes (m : Memory) (a n : Nat) : List Byte := (List.range n).map fun i => m.byte (a + i)

/-- Keeps the bytes whose address satisfies `p`; the others read 0. -/
def keep (m : Memory) (p : Nat → Bool) : Memory := m.filter fun c => p c.1

end Memory

/-- Little-endian value of bytes (R4). -/
def leNat : List Byte → Nat
  | [] => 0
  | b :: bs => b.toNat + 256 * leNat bs

/-- The `n` little-endian bytes of a number (R4). -/
def leBytes : Nat → Nat → List Byte
  | 0, _ => []
  | n + 1, x => BitVec.ofNat 8 x :: leBytes n (x / 256)

/-- Bits `[hi : lo]` of a number. -/
def field (x hi lo : Nat) : Nat := bits x lo (hi + 1 - lo)

/-- The value with `v` placed at bit `lo`; fields are added into a word of zeros. -/
def placeField (v lo : Nat) : Nat := v * 2 ^ lo

/-- Two's-complement reading of `n` bits. -/
def signed (n x : Nat) : Int := if x % 2 ^ n < 2 ^ (n - 1) then (x % 2 ^ n : Nat) else (x % 2 ^ n : Nat) - (2 ^ n : Nat)

/-- An integer wrapped to `n` bits. -/
def wrap (n : Nat) (x : Int) : Nat := (x % (2 ^ n : Nat)).toNat

end Sys2Proof.Machine
end

