-- ==== Sys2Proof/Machine/Hash.lean ====
section
/-! DEFINITION. SHAKE256, the measurement of a firmware image (R455, R456). The manual names the function; its steps and constants are
those of FIPS 202, from outside the manual (PRESUMED, log 80). -/

namespace Sys2Proof.Machine

/-- Rotation of the lane at x + 5 y. -/
def keccakTurns : List Nat := [0, 1, 62, 28, 27, 36, 44, 6, 55, 20, 3, 10, 43, 25, 39, 41, 45, 15, 21, 8, 18, 2, 61, 56, 14]

/-- The constant of each of the 24 rounds. -/
def keccakConstants : List Dword :=
  [0x1, 0x8082, 0x800000000000808A, 0x8000000080008000, 0x808B, 0x80000001, 0x8000000080008081, 0x8000000000008009, 0x8A, 0x88, 0x80008009,
    0x8000000A] ++
  [0x8000808B, 0x800000000000008B, 0x8000000000008089, 0x8000000000008003, 0x8000000000008002, 0x8000000000000080, 0x800A,
    0x800000008000000A, 0x8000000080008081, 0x8000000000008080, 0x80000001, 0x8000000080008008]

/-- One round on the 25 lanes. -/
def keccakRound (a : List Dword) (constant : Dword) : List Dword :=
  let lane (i : Nat) : Dword := a.getD i 0
  let columns := (List.range 5).map fun x => lane x ^^^ lane (x + 5) ^^^ lane (x + 10) ^^^ lane (x + 15) ^^^ lane (x + 20)
  let parity (x : Nat) : Dword := columns.getD ((x + 4) % 5) 0 ^^^ (columns.getD ((x + 1) % 5) 0).rotateLeft 1
  let moved := (List.range 25).map fun i =>
    let x := (i % 5 + 3 * (i / 5)) % 5
    let from_ := x + 5 * (i % 5)
    (lane from_ ^^^ parity x).rotateLeft (keccakTurns.getD from_ 0)
  (List.range 25).map fun i =>
    let near (n : Nat) : Dword := moved.getD ((i + n) % 5 + 5 * (i / 5)) 0
    moved.getD i 0 ^^^ (~~~near 1 &&& near 2) ^^^ (if i = 0 then constant else 0)

/-- The permutation of 1,600 bits. -/
def keccak (a : List Dword) : List Dword := keccakConstants.foldl keccakRound a

/-- A message padded to blocks of 136 B. -/
def shakePadded (message : List Byte) : List Byte :=
  let n := 136 - message.length % 136
  message ++ (if n = 1 then [0x9F] else 0x1F :: List.replicate (n - 2) 0 ++ [0x80])

/-- SHAKE256 with 64 B of output. -/
def shake256 (message : List Byte) : List Byte :=
  let padded := shakePadded message
  let last := (List.range (padded.length / 136)).foldl (fun a block =>
    keccak ((List.range 25).map fun i =>
      a.getD i 0 ^^^ (if i < 17 then BitVec.ofNat 64 (leNat ((padded.drop (136 * block + 8 * i)).take 8)) else 0)))
    (List.replicate 25 0)
  (last.take 8).flatMap fun lane => leBytes 8 lane.toNat

/-- The bytes of an image in a store, from its first to the last that was loaded; an SRAM byte that nothing wrote is zero (R454, R457). -/
def imageBytes (store : Table Byte) : List Byte :=
  (List.range (store.foldl (fun n (e : Nat × Byte) => max n (e.1 + 1)) 0)).map fun i => (store.get? i).getD 0

/-- The measurement of an image, its first byte lowest (R455). -/
def measurement (store : Table Byte) : BitVec 512 := BitVec.ofNat 512 (leNat (shake256 (imageBytes store)))

end Sys2Proof.Machine
end

