-- ==== Sys2Proof/Syntax.lean ====
section
/-! DEFINITION. The abstract syntax: operand specifiers, the fields of an instruction, and one constructor per row of
the opcode table (03_encoding R51 to R60, 16_policy R410 and R411, 95_what_each_step_holds). -/

namespace Sys2Proof

/-- An operand specifier (R52), as the tables of the families name operands. -/
inductive Opnd where
  /-- main vector file v0 to v255 -/
  | v (i : Fin 256)
  /-- scalar file s0 to s63 -/
  | s (i : Fin 64)
  /-- operand file o0 to o7 -/
  | o (i : Fin 8)
  /-- small immediate: the five index bits, read as a signed number -/
  | small (i : BitVec 5)
  /-- l0 of the instruction's pipe (R61) -/
  | l0
  /-- l1 of the instruction's pipe (R61) -/
  | l1
  /-- zero -/
  | zero
  /-- the 32-bit word of a 96-bit or 128-bit instruction -/
  | imm
  /-- the slot is unused -/
  | none
  /-- a control- or debug-register number standing in the in1 field (R96) -/
  | num (n : BitVec 10)
  deriving DecidableEq, Repr

/-- The format an instruction is encoded in (R49), the pair apart. -/
inductive Form where
  | f64
  | f96
  | f128
  deriving DecidableEq, Repr

/-- The fields of an unpaired instruction: R51, with the word of the longer formats and the fields of R56. Fields that a
format does not have are zero. -/
structure Args where
  form : Form
  /-- S, the switch marker -/
  sw : Bool
  /-- token wait mask -/
  wait : BitVec 8
  mod : BitVec 5
  dst : Opnd
  in0 : Opnd
  in1 : Opnd
  in2 : Opnd
  /-- bits [95:64] of a 96-bit instruction, bits [127:96] of a 128-bit one -/
  imm : BitVec 32
  aux : BitVec 16
  ctl : BitVec 9
  tv : Bool
  tok : BitVec 3
  scope : BitVec 3
  deriving DecidableEq, Repr

/-- One operation of a pair (R59). -/
structure Half where
  opcode : BitVec 8
  mod : BitVec 5
  dst : Opnd
  in0 : Opnd
  in1 : Opnd
  in2 : Opnd
  deriving DecidableEq, Repr

/-- The paired word (R59): operations A and B with the shared wait mask and switch marker. -/
structure PairArgs where
  sw : Bool
  wait : BitVec 8
  a : Half
  b : Half
  deriving DecidableEq, Repr

/-- Where the answers to a START request go (R455): IPv6 address and UDP port. -/
structure Requester where
  addr : BitVec 128
  port : Nat
  deriving DecidableEq, Repr

/-- What a firmware exception leaves for its crash record (R447). -/
structure CrashInfo where
  epc : BitVec 64
  tval : BitVec 64
  mcause : BitVec 64
  capx : BitVec 64
  trail : List (BitVec 64)
  deriving DecidableEq, Repr

/-- An operation arriving at a port (R305, R451): queue pair, memory-region key, virtual address, bytes to place or the
length to read, compare and swap or add operands, immediate. -/
structure RdmaOp where
  qp : Nat
  key : BitVec 32
  va : BitVec 64
  data : List (BitVec 8)
  length : Nat
  compare : BitVec 64
  operand : BitVec 64
  imm : BitVec 32
  deriving DecidableEq, Repr

/-- A work request of a partition's send queue (R452), with the event counter it may name. -/
structure WorkRequest where
  qp : Nat
  op : Nat
  va : BitVec 64
  length : Nat
  remote : BitVec 64
  key : BitVec 32
  tag : BitVec 64
  /-- launch identifier, block number and counter index -/
  counter : Option (Nat × Nat × Nat)
  /-- the record had landed when the port read it (R452) -/
  landed : Bool
  deriving DecidableEq, Repr

/-- A Grenone message: the header of R453, the queue pair it came on, where its bytes stand in this module, this module's own rank, and
for the collectives the elements that each rank brings, in rank order; those of the own rank are read from memory instead. -/
structure Grenone where
  qp : Nat
  header : BitVec 256
  va : BitVec 64
  own : Nat
  ranks : List (List (BitVec 32))
  deriving DecidableEq, Repr

/-- One constructor per row of the opcode table. The crew instructions carry the fields of R51 and R56, PAIR_ISSUE the
two halves of R59, the policy operations the fields of R410, and the steps of the device the agents they act on. -/
inductive Instr where
  /-- NOP, R58. -/
  | nop (a : Args)
  /-- BRA, R98. -/
  | bra (a : Args)
  /-- BRC, R98. -/
  | brc (a : Args)
  /-- BRX, R85. -/
  | brx (a : Args)
  /-- JOIN, R87. -/
  | join (a : Args)
  /-- CALL, R98. -/
  | call (a : Args)
  /-- CALLI, R98. -/
  | calli (a : Args)
  /-- RET, R98. -/
  | ret (a : Args)
  /-- JMPI, R98. -/
  | jmpi (a : Args)
  /-- LOOP, R98. -/
  | loop (a : Args)
  /-- EXIT, R94. -/
  | exit (a : Args)
  /-- SUSPEND, R91. -/
  | suspend (a : Args)
  /-- TRAP, R104. -/
  | trap (a : Args)
  /-- TRET, R436. -/
  | tret (a : Args)
  /-- TWAIT, R102. -/
  | twait (a : Args)
  /-- SETBND, R103. -/
  | setbnd (a : Args)
  /-- MFC, R106. -/
  | mfc (a : Args)
  /-- MTC, R106. -/
  | mtc (a : Args)
  /-- CLKRD, R108. -/
  | clkrd (a : Args)
  /-- DOZE, R109. -/
  | doze (a : Args)
  /-- YIELD, R110. -/
  | yield (a : Args)
  /-- BKPT, R104. -/
  | bkpt (a : Args)
  /-- TRAPC, R104. -/
  | trapc (a : Args)
  /-- IPREF, R111. -/
  | ipref (a : Args)
  /-- ICINV, R112. -/
  | icinv (a : Args)
  /-- PMRD, R113. -/
  | pmrd (a : Args)
  /-- TMARK, R115. -/
  | tmark (a : Args)
  /-- GRPQ, R117. -/
  | grpq (a : Args)
  /-- SPALLQ, R118. -/
  | spallq (a : Args)
  /-- DBGRD, R107. -/
  | dbgrd (a : Args)
  /-- DBGWR, R114. -/
  | dbgwr (a : Args)
  /-- PRIO, R110. -/
  | prio (a : Args)
  /-- IADD, R133. -/
  | iadd (a : Args)
  /-- ISUB, R133. -/
  | isub (a : Args)
  /-- IMUL, R133. -/
  | imul (a : Args)
  /-- IMULH, R133. -/
  | imulh (a : Args)
  /-- IMAD, R133. -/
  | imad (a : Args)
  /-- IADD3, R133. -/
  | iadd3 (a : Args)
  /-- IDIV, R134. -/
  | idiv (a : Args)
  /-- IREM, R134. -/
  | irem (a : Args)
  /-- IMIN, R133. -/
  | imin (a : Args)
  /-- IMAX, R133. -/
  | imax (a : Args)
  /-- IABS, R133. -/
  | iabs (a : Args)
  /-- INEG, R133. -/
  | ineg (a : Args)
  /-- ISAD, R133. -/
  | isad (a : Args)
  /-- IDOT4, R135. -/
  | idot4 (a : Args)
  /-- IAVG, R133. -/
  | iavg (a : Args)
  /-- CLAMP, R133. -/
  | clamp (a : Args)
  /-- AND, R136. -/
  | and (a : Args)
  /-- OR, R136. -/
  | or (a : Args)
  /-- XOR, R136. -/
  | xor (a : Args)
  /-- NOT, R136. -/
  | not (a : Args)
  /-- ANDN, R136. -/
  | andn (a : Args)
  /-- LOP3, R136. -/
  | lop3 (a : Args)
  /-- SHL, R137. -/
  | shl (a : Args)
  /-- SHR, R137. -/
  | shr (a : Args)
  /-- SAR, R137. -/
  | sar (a : Args)
  /-- ROL, R137. -/
  | rol (a : Args)
  /-- FSHL, R137. -/
  | fshl (a : Args)
  /-- FSHR, R137. -/
  | fshr (a : Args)
  /-- BFX, R138. -/
  | bfx (a : Args)
  /-- BFI, R138. -/
  | bfi (a : Args)
  /-- BREV, R139. -/
  | brev (a : Args)
  /-- POPC, R139. -/
  | popc (a : Args)
  /-- CLZ, R139. -/
  | clz (a : Args)
  /-- CTZ, R139. -/
  | ctz (a : Args)
  /-- BPERM, R140. -/
  | bperm (a : Args)
  /-- SEXT, R141. -/
  | sext (a : Args)
  /-- ZEXT, R141. -/
  | zext (a : Args)
  /-- BITSET, R142. -/
  | bitset (a : Args)
  /-- BITCLR, R142. -/
  | bitclr (a : Args)
  /-- BITTST, R142. -/
  | bittst (a : Args)
  /-- ICMP_EQ, R143. -/
  | icmpEq (a : Args)
  /-- ICMP_NE, R143. -/
  | icmpNe (a : Args)
  /-- ICMP_LT, R143. -/
  | icmpLt (a : Args)
  /-- ICMP_LE, R143. -/
  | icmpLe (a : Args)
  /-- ICMP_GT, R143. -/
  | icmpGt (a : Args)
  /-- ICMP_GE, R143. -/
  | icmpGe (a : Args)
  /-- SEL, R144. -/
  | sel (a : Args)
  /-- MOV, R144. -/
  | mov (a : Args)
  /-- LANEID, R145. -/
  | laneid (a : Args)
  /-- MAND, R147. -/
  | mand (a : Args)
  /-- MOR, R147. -/
  | mor (a : Args)
  /-- MXOR, R147. -/
  | mxor (a : Args)
  /-- MNOT, R147. -/
  | mnot (a : Args)
  /-- MPOPC, R147. -/
  | mpopc (a : Args)
  /-- MFFS, R147. -/
  | mffs (a : Args)
  /-- LEA, R148. -/
  | lea (a : Args)
  /-- IADD64, R149. -/
  | iadd64 (a : Args)
  /-- ISUB64, R149. -/
  | isub64 (a : Args)
  /-- IMULW, R149. -/
  | imulw (a : Args)
  /-- IMADW, R149. -/
  | imadw (a : Args)
  /-- SHL64, R149. -/
  | shl64 (a : Args)
  /-- SHR64, R149. -/
  | shr64 (a : Args)
  /-- MOV64, R144. -/
  | mov64 (a : Args)
  /-- CREWIX, R146. -/
  | crewix (a : Args)
  /-- FADD, R153. -/
  | fadd (a : Args)
  /-- FSUB, R153. -/
  | fsub (a : Args)
  /-- FMUL, R153. -/
  | fmul (a : Args)
  /-- FFMA, R153. -/
  | ffma (a : Args)
  /-- FDIV, R153. -/
  | fdiv (a : Args)
  /-- FMIN, R154. -/
  | fmin (a : Args)
  /-- FMAX, R154. -/
  | fmax (a : Args)
  /-- FAMAX, R154. -/
  | famax (a : Args)
  /-- FCLMP, R153. -/
  | fclmp (a : Args)
  /-- FRINT, R155. -/
  | frint (a : Args)
  /-- FFRAC, R155. -/
  | ffrac (a : Args)
  /-- FSCALE, R155. -/
  | fscale (a : Args)
  /-- FGETX, R155. -/
  | fgetx (a : Args)
  /-- FCLASS, R155. -/
  | fclass (a : Args)
  /-- FCMP_EQ, R156. -/
  | fcmpEq (a : Args)
  /-- FCMP_NE, R156. -/
  | fcmpNe (a : Args)
  /-- FCMP_LT, R156. -/
  | fcmpLt (a : Args)
  /-- FCMP_LE, R156. -/
  | fcmpLe (a : Args)
  /-- FCMP_GT, R156. -/
  | fcmpGt (a : Args)
  /-- FCMP_GE, R156. -/
  | fcmpGe (a : Args)
  /-- FCMP_UN, R156. -/
  | fcmpUn (a : Args)
  /-- FDOT2, R157. -/
  | fdot2 (a : Args)
  /-- FCPYS, R153. -/
  | fcpys (a : Args)
  /-- RCP, R158. -/
  | rcp (a : Args)
  /-- RSQ, R158. -/
  | rsq (a : Args)
  /-- SQRT, R158. -/
  | sqrt (a : Args)
  /-- EXP2, R158. -/
  | exp2 (a : Args)
  /-- LOG2, R158. -/
  | log2 (a : Args)
  /-- SINPI, R158. -/
  | sinpi (a : Args)
  /-- COSPI, R158. -/
  | cospi (a : Args)
  /-- TANH, R158. -/
  | tanh (a : Args)
  /-- CVT_F32_E4M3, R159. -/
  | cvtF32E4m3 (a : Args)
  /-- CVT_F32_BF16, R159. -/
  | cvtF32Bf16 (a : Args)
  /-- CVT_F32_F16, R159. -/
  | cvtF32F16 (a : Args)
  /-- CVT_BF16_F32, R159. -/
  | cvtBf16F32 (a : Args)
  /-- CVT_F16_F32, R159. -/
  | cvtF16F32 (a : Args)
  /-- CVT_E4M3_F32, R159. -/
  | cvtE4m3F32 (a : Args)
  /-- CVT_E4M3_BF16, R160. -/
  | cvtE4m3Bf16 (a : Args)
  /-- CVT_I32_F32, R159. -/
  | cvtI32F32 (a : Args)
  /-- CVT_I8_F32, R159. -/
  | cvtI8F32 (a : Args)
  /-- CVT_F32_I32, R159. -/
  | cvtF32I32 (a : Args)
  /-- CVT_F32_I8, R159. -/
  | cvtF32I8 (a : Args)
  /-- CVT_I8_I32, R159. -/
  | cvtI8I32 (a : Args)
  /-- TUNPK, R161. -/
  | tunpk (a : Args)
  /-- VGET, R164. -/
  | vget (a : Args)
  /-- VPUT, R165. -/
  | vput (a : Args)
  /-- VROT, R164. -/
  | vrot (a : Args)
  /-- VSLIDE, R164. -/
  | vslide (a : Args)
  /-- VBCAST, R164. -/
  | vbcast (a : Args)
  /-- VOTE_ALL, R166. -/
  | voteAll (a : Args)
  /-- VOTE_ANY, R166. -/
  | voteAny (a : Args)
  /-- BALLOT, R166. -/
  | ballot (a : Args)
  /-- VMATCH, R166. -/
  | vmatch (a : Args)
  /-- LRED_IADD, R166. -/
  | lredIadd (a : Args)
  /-- LRED_IMIN, R166. -/
  | lredImin (a : Args)
  /-- LRED_IMAX, R166. -/
  | lredImax (a : Args)
  /-- LRED_FADD, R166. -/
  | lredFadd (a : Args)
  /-- LRED_FMIN, R166. -/
  | lredFmin (a : Args)
  /-- LRED_FMAX, R166. -/
  | lredFmax (a : Args)
  /-- LRED_OR, R166. -/
  | lredOr (a : Args)
  /-- SCAN_IADD, R167. -/
  | scanIadd (a : Args)
  /-- SCAN_FADD, R167. -/
  | scanFadd (a : Args)
  /-- SCAN_IMAX, R167. -/
  | scanImax (a : Args)
  /-- VSQZ, R168. -/
  | vsqz (a : Args)
  /-- LD, R308. -/
  | ld (a : Args)
  /-- ST, R308. -/
  | st (a : Args)
  /-- LD_ACQ, R308. -/
  | ldAcq (a : Args)
  /-- ST_REL, R308. -/
  | stRel (a : Args)
  /-- LDC, R309. -/
  | ldc (a : Args)
  /-- PREF, R310. -/
  | pref (a : Args)
  /-- SPLD, R189. -/
  | spld (a : Args)
  /-- SPST, R189. -/
  | spst (a : Args)
  /-- SPLDP, R189. -/
  | spldp (a : Args)
  /-- SPSTP, R189. -/
  | spstp (a : Args)
  /-- SPATOM, R190. -/
  | spatom (a : Args)
  /-- SPATOM_CAS, R191. -/
  | spatomCas (a : Args)
  /-- ATOM, R311. -/
  | atom (a : Args)
  /-- ATOM_CAS, R312. -/
  | atomCas (a : Args)
  /-- ATOM_F, R311. -/
  | atomF (a : Args)
  /-- MRED, R311. -/
  | mred (a : Args)
  /-- MRED_F, R311. -/
  | mredF (a : Args)
  /-- FENCE, R313. -/
  | fence (a : Args)
  /-- FENCE_ALL, R313. -/
  | fenceAll (a : Args)
  /-- WAITADDR, R315. -/
  | waitaddr (a : Args)
  /-- LEASE, R363. -/
  | lease (a : Args)
  /-- LREL, R364. -/
  | lrel (a : Args)
  /-- CFLUSH, R310. -/
  | cflush (a : Args)
  /-- CINV, R309. -/
  | cinv (a : Args)
  /-- LDB, R308. -/
  | ldb (a : Args)
  /-- TLD, R192. -/
  | tld (a : Args)
  /-- TST, R192. -/
  | tst (a : Args)
  /-- TCLAIM, R193. -/
  | tclaim (a : Args)
  /-- TREADY, R193. -/
  | tready (a : Args)
  /-- TDRAIN, R193. -/
  | tdrain (a : Args)
  /-- TFREE, R193. -/
  | tfree (a : Args)
  /-- TDEF, R193. -/
  | tdef (a : Args)
  /-- HOIST, R255. -/
  | hoist (a : Args)
  /-- HOIST_T, R257. -/
  | hoistT (a : Args)
  /-- HOIST_MC, R259. -/
  | hoistMc (a : Args)
  /-- HOIST_ST, R258. -/
  | hoistSt (a : Args)
  /-- QFENCE, R260. -/
  | qfence (a : Args)
  /-- WLOAD, R280. -/
  | wload (a : Args)
  /-- MMA_E4M3, R281. -/
  | mmaE4m3 (a : Args)
  /-- MMA_I8, R281. -/
  | mmaI8 (a : Args)
  /-- MMA_BF16, R281. -/
  | mmaBf16 (a : Args)
  /-- MMA_TI8, R281. -/
  | mmaTi8 (a : Args)
  /-- MMA_DIST, R282. -/
  | mmaDist (a : Args)
  /-- TSACC, R283. -/
  | tsacc (a : Args)
  /-- TSACC_I, R283. -/
  | tsaccI (a : Args)
  /-- TOPK, R284. -/
  | topk (a : Args)
  /-- ACC_RD, R285. -/
  | accRd (a : Args)
  /-- ACC_ST, R286. -/
  | accSt (a : Args)
  /-- ACC_CLR, R287. -/
  | accClr (a : Args)
  /-- CH_ACQ, R231. -/
  | chAcq (a : Args)
  /-- CH_PUT, R233. -/
  | chPut (a : Args)
  /-- CH_TAKE, R232. -/
  | chTake (a : Args)
  /-- CH_FREE, R233. -/
  | chFree (a : Args)
  /-- EV_ADD, R211. -/
  | evAdd (a : Args)
  /-- EV_SET, R212. -/
  | evSet (a : Args)
  /-- EV_RD, R213. -/
  | evRd (a : Args)
  /-- BAR, R214. -/
  | bar (a : Args)
  /-- BAR_ARV, R214. -/
  | barArv (a : Args)
  /-- CAP_ENTER, R353. -/
  | capEnter (a : Args)
  /-- CAP_STEP, R358. -/
  | capStep (a : Args)
  /-- CAP_END, R358. -/
  | capEnd (a : Args)
  /-- CAP_RESULT, R365. -/
  | capResult (a : Args)
  /-- CH_TRYACQ, R231. -/
  | chTryacq (a : Args)
  /-- CH_TRYTAKE, R232. -/
  | chTrytake (a : Args)
  /-- PAIR_ISSUE, R60. -/
  | pairIssue (p : PairArgs)
  /-- ISSUE_CYCLE, R83. -/
  | issueCycle (core iss : Nat)
  /-- RESULT_RETURN, R62. -/
  | resultReturn (crew id : Nat)
  /-- RUN_LIMIT, R63. -/
  | runLimit (crew unit : Nat)
  /-- TRAP_ENTRY, R436. -/
  | trapEntry (crew unit : Nat)
  /-- DOZE_END, R109. -/
  | dozeEnd (crew unit : Nat)
  /-- UNIT_WAKE, R91. -/
  | unitWake (crew unit : Nat)
  /-- TILE_STALL, R184. -/
  | tileStall (crew unit : Nat)
  /-- CHUTE_WAIT_SUSPEND, R224. -/
  | chuteWaitSuspend (crew unit : Nat)
  /-- CREDIT_NOTIFICATION, R227. -/
  | creditNotification (id : Nat)
  /-- HOIST_LANDING, R252. -/
  | hoistLanding (core q id n : Nat)
  /-- HOIST_COMPLETE, R249. -/
  | hoistComplete (core q id : Nat)
  /-- HOIST_FAULT, R262. -/
  | hoistFault (core q id : Nat)
  /-- TASK_START, R274. -/
  | taskStart (core q id : Nat)
  /-- TASK_COMPLETE, R277. -/
  | taskComplete (core q id : Nat)
  /-- STORE_SEND, R302. -/
  | storeSend (crew id : Nat)
  /-- STORE_ACK, R303. -/
  | storeAck (id scope : Nat)
  /-- TABLE_WALK, R325. -/
  | tableWalk (core : Nat)(va : BitVec 64)(wr : Bool)
  /-- PEER_PROBE, R331. -/
  | peerProbe (core line : Nat)
  /-- PROBE_RELAY, R332. -/
  | probeRelay (id : Nat)
  /-- BANK_ACCEPT, R333. -/
  | bankAccept (bank : Nat)
  /-- OWNERSHIP_GRANT, R330. -/
  | ownershipGrant (line : Nat)
  /-- MEMORY_READ, R340. -/
  | memoryRead (line key : Nat)
  /-- MEMORY_WRITE, R340. -/
  | memoryWrite (line key : Nat)(data : BitVec 1024)
  /-- KEY_SWEEP_DONE, R341. -/
  | keySweepDone (slot : Nat)
  /-- RETENTION_ENTRY, R343. -/
  | retentionEntry (group : Nat)
  /-- RETENTION_EXIT, R344. -/
  | retentionExit (group : Nat)
  /-- LEASE_EXPIRE, R348. -/
  | leaseExpire (crew line : Nat)
  /-- CAPSULE_DESCHEDULE, R357. -/
  | capsuleDeschedule (crew : Nat)
  /-- ADOPTION_NOTICE, R351. -/
  | adoptionNotice (id : Nat)
  /-- CAPSULE_DELIVERY, R360. -/
  | capsuleDelivery (id : Nat)
  /-- QUEUE_TAIL_WRITE, R370. -/
  | queueTailWrite (queue : Nat)
  /-- PACKET_REREAD, R370. -/
  | packetReread (queue : Nat)
  /-- PACKET_LAND_TIMEOUT, R370. -/
  | packetLandTimeout (queue : Nat)
  /-- LAUNCH, R381. -/
  | launch (queue : Nat)
  /-- ADMISSION_RESUME, R218. -/
  | admissionResume (launch : Nat)
  /-- DEPEND, R372. -/
  | depend (queue : Nat)
  /-- DEPEND_SATISFIED, R372. -/
  | dependSatisfied (queue : Nat)
  /-- SIGNAL, R372. -/
  | signal (queue : Nat)
  /-- TIMESTAMP, R372. -/
  | timestamp (queue : Nat)
  /-- PACKET_COMPLETE, R375. -/
  | packetComplete (queue index : Nat)
  /-- CREATE_QUEUE, R395. -/
  | createQueue (queue : Nat)
  /-- DESTROY_QUEUE, R395. -/
  | destroyQueue (queue : Nat)
  /-- PREEMPT, R386. -/
  | preempt (queue : Nat)
  /-- HALT, R244. -/
  | halt (queue : Nat)
  /-- RESUME, R245. -/
  | resume (queue : Nat)
  /-- ABORT, R395. -/
  | abort (queue : Nat)
  /-- SET_ROOT, R319. -/
  | setRoot (queue : Nat)
  /-- INVALIDATE, R327. -/
  | invalidate (queue : Nat)
  /-- SET_GRANT, R293. -/
  | setGrant (queue : Nat)
  /-- KEY_LIVE, R338. -/
  | keyLive (queue : Nat)
  /-- KEY_DISCARD, R341. -/
  | keyDiscard (queue : Nat)
  /-- FRAME, R339. -/
  | frame (queue : Nat)
  /-- RETAIN, R342. -/
  | retain (queue : Nat)
  /-- PARTITION, R395. -/
  | partition (queue : Nat)
  /-- RESET_PART, R397. -/
  | resetPart (queue : Nat)
  /-- CLUSTER_WIPE, R459. -/
  | clusterWipe (part : Nat)
  /-- SET_DEBUG_ACCESS, R396. -/
  | setDebugAccess (queue : Nat)
  /-- SET_DEBUG_TRACING, R396. -/
  | setDebugTracing (queue : Nat)
  /-- SET_DEBUG_TRACE_BUFFER, R396. -/
  | setDebugTraceBuffer (queue : Nat)
  /-- SET_DEBUG_COUNTERS, R396. -/
  | setDebugCounters (queue : Nat)
  /-- POLICY_LOAD, R415. -/
  | policyLoad (queue : Nat)
  /-- POLICY_UNLOAD, R415. -/
  | policyUnload (queue : Nat)
  /-- BUDGET, R400. -/
  | budget (queue : Nat)
  /-- SHARE, R405. -/
  | share (queue : Nat)
  /-- PARAM, R414. -/
  | param (queue : Nat)
  /-- BLOCK_PLACE, R78. -/
  | blockPlace (launch block core : Nat)
  /-- CREW_START, R79. -/
  | crewStart (core bslot : Nat)
  /-- DRAIN_TO_SAVE, R388. -/
  | drainToSave (core bslot : Nat)
  /-- BLOCK_SAVE, R390. -/
  | blockSave (core bslot : Nat)
  /-- BLOCK_FLUSH, R391. -/
  | blockFlush (core bslot : Nat)
  /-- BLOCK_RESTORE, R390. -/
  | blockRestore (launch block core : Nat)
  /-- SAVED_BLOCK_RUNNABLE, R393. -/
  | savedBlockRunnable (launch block : Nat)
  /-- REBALANCE, R240. -/
  | rebalance (launch : Nat)
  /-- BUDGET_CHARGE, R399. -/
  | budgetCharge
  /-- BUDGET_PERIOD, R401. -/
  | budgetPeriod
  /-- ENQUEUE, R407. -/
  | enqueue (cluster launch block : Nat)
  /-- PICK, R407. -/
  | pick (cluster core : Nat)
  /-- TICK, R407. -/
  | tick (cluster : Nat)
  /-- BLOCK, R407. -/
  | block (core bslot : Nat)
  /-- WAKE, R407. -/
  | wake (cluster launch block : Nat)
  /-- ROUTINE_INVOKE, R419. -/
  | routineInvoke (cluster : Nat)
  /-- ROUTINE_OVERRUN, R421. -/
  | routineOverrun (cluster : Nat)
  /-- HOLDER_CHANGE, R406. -/
  | holderChange (cluster : Nat)
  /-- FLOOR_OVERDUE, R428. -/
  | floorOverdue (cluster : Nat)
  /-- MIGRATION_TAKE, R423. -/
  | migrationTake (die : Nat)
  /-- FAULT_RECORD_WRITE, R438. -/
  | faultRecordWrite (ring : Nat)
  /-- FAULT_RING_HEAD, R439. -/
  | faultRingHead (ring : Nat)
  /-- SOFT_ERROR, R444. -/
  | softError (code owner index : Nat)
  /-- ECC_CORRECTION, R442. -/
  | eccCorrection (die : Nat)
  /-- CORRECTED_SUMMARY, R446. -/
  | correctedSummary (die : Nat)
  /-- FIRMWARE_CRASH, R449. -/
  | firmwareCrash (die cpcore : Nat)(x : CrashInfo)
  /-- FIRMWARE_RESTART, R449. -/
  | firmwareRestart (die cpcore : Nat)
  /-- IDENTIFY, R454. -/
  | identify
  /-- BOOT_LOAD, R454. -/
  | bootLoad (offset : Nat)(chunk : List (BitVec 8))
  /-- START, R455. -/
  | start (who : Requester)
  /-- VERIFICATION_END, R455. -/
  | verificationEnd
  /-- ATTEST, R456. -/
  | attest (nonce : BitVec 256)
  /-- SPOIL_READ, R454. -/
  | spoilRead (index : Nat)
  /-- RESET, R457. -/
  | reset
  /-- POWER_ON_RESET, R457. -/
  | powerOnReset
  /-- MODULE_RESET, R457. -/
  | moduleReset
  /-- CK_RESYNC, R457. -/
  | ckResync (die : Nat)
  /-- LIFE_CYCLE_CHANGE, R458. -/
  | lifeCycleChange (target : Nat)(signature : BitVec 64)
  /-- POWER_ARBITER, R460. -/
  | powerArbiter
  /-- OVERCURRENT, R462. -/
  | overcurrent (die : Nat)
  /-- LINK_DOWN, R450. -/
  | linkDown (port : Nat)
  /-- RDMA_WRITE, R305. -/
  | rdmaWrite (op : RdmaOp)
  /-- RDMA_WRITE_WITH_IMMEDIATE, R451. -/
  | rdmaWriteWithImmediate (op : RdmaOp)
  /-- RDMA_SEND, R451. -/
  | rdmaSend (op : RdmaOp)
  /-- RDMA_SEND_WITH_IMMEDIATE, R451. -/
  | rdmaSendWithImmediate (op : RdmaOp)
  /-- RDMA_READ, R305. -/
  | rdmaRead (op : RdmaOp)
  /-- COMPARE_AND_SWAP, R305. -/
  | compareAndSwap (op : RdmaOp)
  /-- FETCH_AND_ADD, R305. -/
  | fetchAndAdd (op : RdmaOp)
  /-- DOORBELL_WRITE, R452. -/
  | doorbellWrite (part : Nat)(wr : WorkRequest)
  /-- RDMA_COMPLETION, R452. -/
  | rdmaCompletion (part id status : Nat)
  /-- ALL_REDUCE, R453. -/
  | allReduce (msg : Grenone)
  /-- REDUCE_SCATTER, R453. -/
  | reduceScatter (msg : Grenone)
  /-- ALL_GATHER, R453. -/
  | allGather (msg : Grenone)
  /-- BROADCAST, R453. -/
  | broadcast (msg : Grenone)
  /-- EXPORT, R453. -/
  | exportState (msg : Grenone)
  /-- IMPORT, R453. -/
  | importState (msg : Grenone)
  /-- REGISTER_WRITE, R461. -/
  | registerWrite (part : Nat)(value : BitVec 32)
  /-- POLICY_END, R420. -/
  | policyEnd
  /-- POLICY_ADD, R411. -/
  | policyAdd (d a b : Fin 16)
  /-- POLICY_SUB, R411. -/
  | policySub (d a b : Fin 16)
  /-- POLICY_MUL, R411. -/
  | policyMul (d a b : Fin 16)
  /-- POLICY_DIVU, R411. -/
  | policyDivu (d a b : Fin 16)
  /-- POLICY_REMU, R411. -/
  | policyRemu (d a b : Fin 16)
  /-- POLICY_AND, R411. -/
  | policyAnd (d a b : Fin 16)
  /-- POLICY_OR, R411. -/
  | policyOr (d a b : Fin 16)
  /-- POLICY_XOR, R411. -/
  | policyXor (d a b : Fin 16)
  /-- POLICY_SHL, R411. -/
  | policyShl (d a b : Fin 16)
  /-- POLICY_SHRU, R411. -/
  | policyShru (d a b : Fin 16)
  /-- POLICY_SHRS, R411. -/
  | policyShrs (d a b : Fin 16)
  /-- POLICY_MIN, R411. -/
  | policyMin (d a b : Fin 16)
  /-- POLICY_MAX, R411. -/
  | policyMax (d a b : Fin 16)
  /-- POLICY_MINU, R411. -/
  | policyMinu (d a b : Fin 16)
  /-- POLICY_MAXU, R411. -/
  | policyMaxu (d a b : Fin 16)
  /-- POLICY_SLT, R411. -/
  | policySlt (d a b : Fin 16)
  /-- POLICY_SLTU, R411. -/
  | policySltu (d a b : Fin 16)
  /-- POLICY_SEQ, R411. -/
  | policySeq (d a b : Fin 16)
  /-- POLICY_ADDI, R411. -/
  | policyAddi (d a : Fin 16)(imm : BitVec 18)
  /-- POLICY_ANDI, R411. -/
  | policyAndi (d a : Fin 16)(imm : BitVec 18)
  /-- POLICY_ORI, R411. -/
  | policyOri (d a : Fin 16)(imm : BitVec 18)
  /-- POLICY_XORI, R411. -/
  | policyXori (d a : Fin 16)(imm : BitVec 18)
  /-- POLICY_SHLI, R411. -/
  | policyShli (d a : Fin 16)(imm : BitVec 6)
  /-- POLICY_SHRUI, R411. -/
  | policyShrui (d a : Fin 16)(imm : BitVec 6)
  /-- POLICY_SHRSI, R411. -/
  | policyShrsi (d a : Fin 16)(imm : BitVec 6)
  /-- POLICY_LI, R411. -/
  | policyLi (d : Fin 16)(imm : BitVec 18)
  /-- POLICY_LCAT, R411. -/
  | policyLcat (d : Fin 16)(imm : BitVec 18)
  /-- POLICY_LD, R412. -/
  | policyLd (d a : Fin 16)(imm : BitVec 18)
  /-- POLICY_LDW, R412. -/
  | policyLdw (d a : Fin 16)(imm : BitVec 18)
  /-- POLICY_ST, R412. -/
  | policySt (d a : Fin 16)(imm : BitVec 18)
  /-- POLICY_STW, R412. -/
  | policyStw (d a : Fin 16)(imm : BitVec 18)
  /-- POLICY_RDC, R408. -/
  | policyRdc (d : Fin 16)(imm : BitVec 12)
  /-- POLICY_RDCX, R408. -/
  | policyRdcx (d a : Fin 16)(imm : BitVec 12)
  /-- POLICY_SETD, R409. -/
  | policySetd (a : Fin 16)(imm : BitVec 5)
  /-- POLICY_BEQ, R411. -/
  | policyBeq (d a : Fin 16)(imm : BitVec 18)
  /-- POLICY_BNE, R411. -/
  | policyBne (d a : Fin 16)(imm : BitVec 18)
  /-- POLICY_BLT, R411. -/
  | policyBlt (d a : Fin 16)(imm : BitVec 18)
  /-- POLICY_BLTU, R411. -/
  | policyBltu (d a : Fin 16)(imm : BitVec 18)
  /-- POLICY_JMP, R411. -/
  | policyJmp (imm : BitVec 18)
  /-- POLICY_LOOPI, R411. -/
  | policyLoopi (imm : BitVec 18)
  /-- POLICY_LOOPR, R411. -/
  | policyLoopr (a : Fin 16)
  /-- POLICY_ENDL, R411. -/
  | policyEndl
  /-- POLICY_ITER, R411. -/
  | policyIter (d : Fin 16)
  /-- LANE_PORT_PERFORM, R174. -/
  | lanePortPerform (core src : Nat)
  /-- LINK_UP, R450. -/
  | linkUp (port : Nat)
  /-- POWER_LOSS, R448. -/
  | powerLoss
  deriving DecidableEq, Repr

end Sys2Proof
end

