-- ==== Sys2Proof/WellFormed.lean ====
section
/-! DEFINITION. Which operands, modifier bits and fields each opcode admits (R52 to R60, R66, and the operand tables R96, R130 to
R150, R151 to R163, R188, R210, R229, R253, R278, R306, R362). A crew instruction that is not well formed is illegal-field (R67). -/

namespace Sys2Proof

/-! ## Operand classes -/

def Opnd.isV : Opnd → Bool | .v _ => true | _ => false
def Opnd.isS : Opnd → Bool | .s _ => true | _ => false
def Opnd.isO : Opnd → Bool | .o _ => true | _ => false
def Opnd.isL : Opnd → Bool | .l0 => true | .l1 => true | _ => false
def Opnd.isVec (x : Opnd) : Bool := x.isV || x.isO || x.isL
def Opnd.isConst : Opnd → Bool | .small _ => true | .zero => true | .imm => true | _ => false

/-- The index of a register operand; 0 for the others. -/
def Opnd.index : Opnd → Nat
  | .v i => i.val | .s i => i.val | .o i => i.val | _ => 0

def Opnd.isReg (x : Opnd) : Bool := x.isV || x.isS || x.isO

/-- The signed value of a small immediate (R52). -/
def Opnd.smallInt : Opnd → Int | .small i => i.toInt | _ => 0

/-- The classes in which the manual's operand tables name a slot. -/
inductive Slot where
  /-- must be none -/
  | none
  /-- any source of R52 -/
  | src
  /-- any source, or none -/
  | srcOrNone
  /-- a 64-bit source (R130): an even register, a small immediate, imm or zero -/
  | src64
  /-- a scalar source: s, small immediate, zero or imm -/
  | scal
  | scalOrNone
  /-- as BRX's in0: any source except imm -/
  | srcNoImm
  | s
  /-- an s register or none, for handles -/
  | sOrNone
  /-- s, zero or none -/
  | sZeroNone
  /-- an even s register -/
  | pair
  | pairOrNone
  | pairOrZero
  /-- sN with N at most 61 (R147) -/
  | triple
  /-- sN, N even and at most 54 (R253) -/
  | desc
  /-- a lane or scalar destination: v, o, s or zero (R53) -/
  | dst
  /-- v, o or zero -/
  | dstVec
  /-- v or o -/
  | vo
  | v
  /-- v, o or s -/
  | data
  /-- v, o, s, zero or none -/
  | dataZN
  /-- even v, o or s register, or zero -/
  | dst64
  /-- even v or o register -/
  | vo64
  /-- v, o or zero (VSLIDE's fill) -/
  | fill
  /-- none or a small immediate from 0 to n -/
  | sel (n : Nat)
  /-- a small immediate from 0 to n -/
  | small (n : Nat)
  /-- an s register or a small immediate from 0 to n -/
  | sOrSmall (n : Nat)
  /-- the same, or none -/
  | sOrSmallOrNone (n : Nat)
  /-- even s or even v register -/
  | base
  /-- the same, or none -/
  | baseOrNone
  | creg
  | dreg
  deriving DecidableEq, Repr

/-- A small immediate from 0 to n. -/
def Opnd.smallAtMost (n : Nat) : Opnd → Bool
  | .small i => decide (i.toNat < 16) && decide (i.toNat ≤ n)
  | _ => false

def Opnd.even (x : Opnd) : Bool := x.index % 2 == 0

/-- The control registers of R127 and R435. -/
def cregExists (n : Nat) : Bool :=
  decide (n ≤ 0x00C) || (decide (0x040 ≤ n) && decide (n ≤ 0x046)) || (decide (0x050 ≤ n) && decide (n ≤ 0x05F))

/-- The debug registers of R114. -/
def dregExists (n : Nat) : Bool :=
  n == 0x000 || (decide (0x010 ≤ n) && decide (n ≤ 0x013)) || n == 0x020 || n == 0x021 || n == 0x022 || n == 0x030

/-- The slot admits the operand; `im` says that the instruction has an immediate word that a specifier may name. -/
def Slot.accepts (im : Bool) : Slot → Opnd → Bool
  | .none, x => x == .none
  | .src, x => x.isReg || x.isL || (x.isConst && (x != .imm || im))
  | .srcOrNone, x => x == .none || x.isReg || x.isL || (x.isConst && (x != .imm || im))
  | .src64, x => (x.isReg && x.even) || (x.isConst && (x != .imm || im))
  | .scal, x => x.isS || (x.isConst && (x != .imm || im))
  | .scalOrNone, x => x == .none || x.isS || (x.isConst && (x != .imm || im))
  | .srcNoImm, x => x.isReg || x.isL || (x.isConst && x != .imm)
  | .s, x => x.isS
  | .sOrNone, x => x == .none || x.isS
  | .sZeroNone, x => x == .none || x == .zero || x.isS
  | .pair, x => x.isS && x.even
  | .pairOrNone, x => x == .none || (x.isS && x.even)
  | .pairOrZero, x => x == .zero || (x.isS && x.even)
  | .triple, x => x.isS && decide (x.index ≤ 61)
  | .desc, x => x.isS && x.even && decide (x.index ≤ 54)
  | .dst, x => x == .zero || x.isReg
  | .dstVec, x => x == .zero || x.isV || x.isO
  | .vo, x => x.isV || x.isO
  | .v, x => x.isV
  | .data, x => x.isReg
  | .dataZN, x => x == .none || x == .zero || x.isReg
  | .dst64, x => x == .zero || (x.isReg && x.even)
  | .vo64, x => (x.isV || x.isO) && x.even
  | .fill, x => x == .zero || x.isV || x.isO
  | .sel n, x => x == .none || x.smallAtMost n
  | .small n, x => x.smallAtMost n
  | .sOrSmall n, x => x.isS || x.smallAtMost n
  | .sOrSmallOrNone n, x => x == .none || x.isS || x.smallAtMost n
  | .base, x => (x.isS || x.isV) && x.even
  | .baseOrNone, x => x == .none || ((x.isS || x.isV) && x.even)
  | .creg, .num n => cregExists n.toNat
  | .creg, _ => false
  | .dreg, .num n => dregExists n.toNat
  | .dreg, _ => false

/-! ## The rows of the operand tables -/

/-- What the immediate word of a 96-bit or 128-bit instruction holds (R55, R56). -/
inductive WordUse where
  /-- an offset or a field of the instruction's own: no specifier may name imm -/
  | own
  /-- read only through a specifier that names imm -/
  | spec
  /-- an offset, and a specifier may name imm too: both read the one word (R73, R188, log 48) -/
  | both
  deriving DecidableEq, Repr

/-- How an opcode stands in a pair (R66). -/
inductive PairClass where
  | ab
  | b
  | no
  deriving DecidableEq, Repr

/-- The operand-table row of an opcode: admitted formats, slots, admitted modifier, ctl and aux bits, whether a token may be named,
the highest admitted scope code, and the use of the immediate word. -/
structure Row where
  f64 : Bool := false
  f96 : Bool := false
  f128 : Bool := false
  pc : PairClass := .no
  dst : Slot := .none
  in0 : Slot := .none
  in1 : Slot := .none
  in2 : Slot := .none
  mod : BitVec 5 := 0
  ctl : BitVec 9 := 0
  aux : BitVec 16 := 0
  tv : Bool := false
  scope : Nat := 0
  word : WordUse := .spec
  deriving DecidableEq, Repr

namespace Row

/-- A lane operation of class AB. -/
def ab (dst in0 in1 in2 : Slot) (mod : BitVec 5) : Row :=
  { f64 := true, f96 := true, pc := .ab, dst := dst, in0 := in0, in1 := in1, in2 := in2, mod := mod }

/-- A lane operation of class B. -/
def b (dst in0 in1 in2 : Slot) (mod : BitVec 5) : Row :=
  { f64 := true, f96 := true, pc := .b, dst := dst, in0 := in0, in1 := in1, in2 := in2, mod := mod }

/-- A control instruction of the 64-bit format only. -/
def c64 (dst in0 in1 : Slot) (mod : BitVec 5 := 0) : Row :=
  { f64 := true, dst := dst, in0 := in0, in1 := in1, mod := mod }

/-- A control instruction of both formats, the 96-bit one carrying imm. -/
def c6496 (dst in0 in1 : Slot) (mod : BitVec 5 := 0) : Row :=
  { f64 := true, f96 := true, dst := dst, in0 := in0, in1 := in1, mod := mod }

/-- A control instruction whose 96-bit word is a byte offset. -/
def off (dst in0 : Slot) (mod : BitVec 5 := 0) : Row :=
  { f96 := true, dst := dst, in0 := in0, mod := mod, word := .own }

/-- A 128-bit instruction. -/
def m (dst in0 in1 in2 : Slot) (ctl : BitVec 9) (aux : BitVec 16) (scope : Nat) (tv : Bool) (word : WordUse) : Row :=
  { f128 := true, dst := dst, in0 := in0, in1 := in1, in2 := in2, ctl := ctl, aux := aux, scope := scope, tv := tv, word := word }

end Row

/-- Opcodes 0x00 to 0x1F (R58, R96). NOP's slots are zero rather than none, which `Args.ok` treats apart. -/
def rowsControl : List Row := [
  { f64 := true, f96 := true },
  .off .none .none, .off .none .s 1, .off .none .srcNoImm 0x1F, .c64 .none .none .none 0xF,
  .off .pair .none, .c64 .pair .pair .none, .c64 .none .pair .none, .c64 .none .pair .none,
  .off .s .none, .c64 .none .none .none,
  { f64 := true, f96 := true, in0 := .scal, in1 := .scal, word := .own },
  .c6496 .none .scal .none, .c64 .none .none .none, .c64 .none .none .none, .c6496 .none .scal .none,
  .c64 .s .none .creg, .c6496 .none .scal .creg, .c64 .pair .none .none 1, .c6496 .none .scal .none,
  .c64 .none .none .none, .c6496 .none .scal .none, .c6496 .none .s .scal, .off .none .none 7,
  .c64 .none .none .none, .c6496 .s .scal .none, .c6496 .none .scal .none, .c6496 .s .scal .none 3,
  .c6496 .s .scalOrNone .none 3, .c64 .s .none .dreg, .c6496 .none .scal .dreg, .c6496 .none .scal .none]

/-- Opcodes 0x20 to 0x3F (R133 to R139). DEDUCED (log 65): u and sat are reserved (R54) on the shifts and rotates 0x36 to 0x3B, whose table
(R137) has no column for them, and sat on BFX and BFI (R138). -/
def rowsInteger : List Row := [
  .ab .dst .src .src .none 3, .ab .dst .src .src .none 3, .ab .dst .src .src .none 3, .ab .dst .src .src .none 2,
  .ab .dst .src .src .src 3, .ab .dst .src .src .src 3, .b .dst .src .src .none 3, .b .dst .src .src .none 2,
  .ab .dst .src .src .none 2, .ab .dst .src .src .none 2, .ab .dst .src .none .none 1, .ab .dst .src .none .none 1,
  .ab .dst .src .src .src 3, .ab .dst .src .src .src 3, .ab .dst .src .src .none 2, .ab .dst .src .src .src 2,
  .ab .dst .src .src .none 0, .ab .dst .src .src .none 0, .ab .dst .src .src .none 0, .ab .dst .src .none .none 0,
  .ab .dst .src .src .none 0, .ab .dst .src .src .scal 0, .ab .dst .src .src .none 0, .ab .dst .src .src .none 0,
  .ab .dst .src .src .none 0, .ab .dst .src .src .none 0, .ab .dst .src .src .src 0, .ab .dst .src .src .src 0,
  .ab .dst .src .src .src 2, .ab .dst .src .src .src 0, .ab .dst .src .none .none 0, .ab .dst .src .none .none 0]

/-- Opcodes 0x40 to 0x5F (R139 to R149). DEDUCED (log 65): u and sat are reserved (R54) on BPERM (R140), LANEID (R145) and CREWIX (R146),
whose descriptions use neither. DEDUCED (log 66): MPOPC and MFFS refuse the zero destination, since R147 wants an s register. -/
def rowsInteger2 : List Row := [
  .ab .dst .src .none .none 0, .ab .dst .src .none .none 0, .ab .dst .src .src .src 0, .ab .dst .src .src .none 0,
  .ab .dst .src .src .none 0, .ab .dst .src .src .none 0, .ab .dst .src .src .none 0, .ab .dst .src .src .none 0,
  .ab .dst .src .src .none 2, .ab .dst .src .src .none 2, .ab .dst .src .src .none 2, .ab .dst .src .src .none 2,
  .ab .dst .src .src .none 2, .ab .dst .src .src .none 2, .ab .dst .src .src .src 0, .ab .dst .src .none .none 0,
  .ab .dstVec (.sel 4) .none .none 0, .ab .triple .triple .triple .none 0, .ab .triple .triple .triple .none 0,
  .ab .triple .triple .triple .none 0, .ab .triple .triple .none .none 0, .ab .s .triple .none .none 0,
  .ab .s .triple .none .none 0, .ab .dst64 .src64 .src (.sOrSmall 7) 2,
  .ab .dst64 .src64 .src64 .none 3, .ab .dst64 .src64 .src64 .none 3, .ab .dst64 .src .src .none 2,
  .ab .dst64 .src .src .src64 3, .ab .dst64 .src64 .src .none 0, .ab .dst64 .src64 .src .none 2,
  .ab .dst64 .src64 .none .none 0, .ab .dst (.small 3) .none .none 0]

/-- Opcodes 0x60 to 0x7F (R151 to R159). -/
def rowsFloat : List Row := [
  .ab .dst .src .src .none 0x1F, .ab .dst .src .src .none 0x1F, .ab .dst .src .src .none 0x1F, .ab .dst .src .src .src 0x1F,
  .b .dst .src .src .none 0x1F, .ab .dst .src .src .none 0x1C, .ab .dst .src .src .none 0x1C, .ab .dst .src .src .none 0x1C,
  .ab .dst .src .src .src 0x1C, .ab .dst .src .none .none 0x17, .ab .dst .src .none .none 0x17, .ab .dst .src .src .none 0x1F,
  .ab .dst .src .none .none 0, .ab .dst .src .none .none 0, .ab .dst .src .src .none 0x1C, .ab .dst .src .src .none 0x1C,
  .ab .dst .src .src .none 0x1C, .ab .dst .src .src .none 0x1C, .ab .dst .src .src .none 0x1C, .ab .dst .src .src .none 0x1C,
  .ab .dst .src .src .none 0x1C, .ab .dst .src .src .src 0x1F, .ab .dst .src .src .none 0, .b .dst .src .none .none 0x14,
  .b .dst .src .none .none 0x14, .b .dst .src .none .none 0x14, .b .dst .src .none .none 0x14, .b .dst .src .none .none 0x14,
  .b .dst .src .none .none 0x14, .b .dst .src .none .none 0x14, .b .dst .src .none .none 0x14, .b .dst .src (.sel 3) .none 0]

/-- Opcodes 0x80 to 0x9F (R159 to R163). -/
def rowsCross : List Row := [
  .b .dst .src (.sel 1) .none 0, .b .dst .src (.sel 1) .none 0, .b .dst .src .srcOrNone .none 3, .b .dst .src .srcOrNone .none 3,
  .b .dst .src .srcOrNone .none 3, .b .dst .src .srcOrNone .none 3, .b .dst .src .none .none 3, .b .dst .src .none .none 3,
  .b .dst .src .none .none 3, .b .dst .src (.sel 3) .none 0, .b .dst .src .none .none 4, .b .vo64 .src .srcOrNone .none 0,
  .b .vo .src .src .none 0, .b .vo .src .src .none 0, .b .vo .src .scal .none 0, .b .vo .src .scal .fill 0,
  .b .data .src .scal .none 0, .b .data .src .none .none 0, .b .data .src .none .none 0, .b .triple .src .none .none 0,
  .b .data .src .none .none 0, .b .data .src .none .none 3, .b .data .src .none .none 2, .b .data .src .none .none 2,
  .b .data .src .none .none 3, .b .data .src .none .none 0, .b .data .src .none .none 0, .b .data .src .none .none 0,
  .b .vo .src .none .none 7, .b .vo .src .none .none 7, .b .vo .src .none .none 6, .b .vo .src .src .src 0]

/-- Opcodes 0xA0 to 0xBF (R188, R306, R362). -/
def rowsMemory : List Row := [
  .m .data .base .none .none 7 0 6 true .own, .m .none .base .srcNoImm .none 7 0 6 true .own,
  .m .data .base .none .none 7 0 6 true .own, .m .none .base .srcNoImm .none 7 0 6 true .own,
  .m .data .base .none .none 7 0 6 true .own, .m .none .base .none .none 3 0 6 true .own,
  .m .data .baseOrNone .none .none 7 0 0 false .own, .m .none .baseOrNone .src .none 7 0 0 true .both,
  .m .data .baseOrNone .none .none 7 0 0 false .own, .m .none .baseOrNone .src .none 7 0 0 true .both,
  .m .dataZN .baseOrNone .src .none 0x1F 0 0 true .both, .m .data .baseOrNone .src .src 0x10 0 0 true .both,
  .m .dataZN .base .srcNoImm .none 0x7F 0 6 true .own, .m .data .base .srcNoImm .srcNoImm 0x70 0 6 true .own,
  .m .dataZN .base .srcNoImm .none 0x63 0 6 true .own, .m .none .base .srcNoImm .none 0x3F 0 6 true .own,
  .m .none .base .srcNoImm .none 0x23 0 6 true .own, .m .none .none .none .none 3 0 6 false .spec,
  .m .none .none .none .none 3 0 6 false .spec, .m .sZeroNone .pair .scalOrNone .scal 3 0x7FF 6 false .own,
  .m .none .pair .none .none 0 0xFFF 0 false .own, .m .none .pairOrNone .none .none 1 0 0 false .own,
  .m .none .base .none .none 1 0 0 true .own, .m .none .baseOrNone .none .none 1 0 0 true .own,
  .m .vo .pair .none .none 7 0 6 true .own, .m .data .baseOrNone .none .sOrNone 0x107 0x1FF 0 false .own,
  .m .none .baseOrNone .src .sOrNone 0x107 0x1FF 0 true .both, .m .none .scal .none .sOrNone 0x100 0x1FF 0 false .spec,
  .m .none .none .none .sOrNone 0x100 0x1FF 0 false .spec, .m .none .none .none .sOrNone 0x100 0x1FF 0 false .spec,
  .m .none .none .none .sOrNone 0x100 0x1FF 0 false .spec, .m .none .scal .scal .sOrNone 0x100 0x1FF 0 false .spec]

/-- Opcodes 0xC0 to 0xDF (R253, R278, R229, R210, R362). -/
def rowsEngine : List Row := [
  .m .sOrNone .base .data .none 0x1CF 0x7FF 6 true .own, .m .sOrNone .pair .scal .desc 0x1C3 0x7FF 6 true .own,
  .m .none .pair .scal .desc 0x3F 0x3F 6 false .own, .m .sOrNone .base .srcNoImm .sOrNone 0x1DF 0x7FF 6 true .own,
  .m .sOrNone .none .none .none 0x1C7 0x7FF 0 true .own, .m .none .scal .none .sOrNone 0x1FF 0xFFFF 2 true .own,
  .m .none .none .none .sOrNone 0x1FB 0xFFFF 2 true .own, .m .none .none .none .sOrNone 0x1FB 0xFFFF 2 true .own,
  .m .none .none .none .sOrNone 0x1FB 0xFFFF 2 true .own, .m .none .none .none .sOrNone 0x1FB 0xFFFF 2 true .own,
  .m .none .none .none .sOrNone 0x1FF 0xFFFF 2 true .own, .m .none .scal .vo .none 0x1B 0 2 true .spec,
  .m .none .none .none .none 0x1B 0 2 true .spec, .m .v .scal .none .none 0x7B 0xF 2 true .spec,
  .m .v .scal .none .none 0x1B 0xF 2 true .spec, .m .none .scal .none .sOrNone 0x1FF 0x1FF 2 true .own,
  .m .none .none .none .none 0x7B 0 2 true .spec, .m .pair .none .none .sOrNone 0x100 0x3F 0 false .spec,
  .m .none .scal .none .s 1 0 5 false .spec, .m .pair .none .none .sOrNone 0x100 0x3F 0 false .spec,
  .m .none .none .none .s 0 0 0 false .spec, .m .sZeroNone .scal .none .sOrNone 0x113 0x7FF 5 false .spec,
  .m .none .scalOrNone .scalOrNone .sOrNone 0x107 0x7FF 0 false .spec, .m .s .none .none .sOrNone 0x11F 0x7FF 0 false .spec,
  .m .none .scalOrNone .none .none 1 0xFF 5 false .spec, .m .sZeroNone .none .none .none 0 0xFF 5 false .spec,
  .m .sZeroNone .pair (.sOrSmallOrNone 15) .none 0 0xFFF 0 false .own, .m .sZeroNone .none .none .none 0 0 0 false .spec,
  .m .sZeroNone .none .pairOrZero .none 0 0 0 false .spec, .m .pair .none .none .none 0 0 0 false .spec,
  .m .pair .none .none .sOrNone 0x100 0x3F 0 false .spec, .m .pair .none .none .sOrNone 0x100 0x3F 0 false .spec]

/-- The operand table of an opcode below 0xE0; opcodes from 0xE0 on are reserved (R65). -/
def row? (op : Nat) : Option Row :=
  if op < 0x20 then rowsControl[op]?
  else if op < 0x40 then rowsInteger[op - 0x20]?
  else if op < 0x60 then rowsInteger2[op - 0x40]?
  else if op < 0x80 then rowsFloat[op - 0x60]?
  else if op < 0xA0 then rowsCross[op - 0x80]?
  else if op < 0xC0 then rowsMemory[op - 0xA0]?
  else if op < 0xE0 then rowsEngine[op - 0xC0]?
  else none

/-! ## Checks that an opcode's own rule adds -/

/-- Registers that a memory element of the size code takes (R188). -/
def sizeRegs (size : Nat) : Nat := if size == 6 then 4 else if size == 5 then 2 else 1

/-- Bytes of a memory element of the size code (R188). -/
def sizeBytes (size : Nat) : Nat :=
  if size ≤ 1 then 1 else if size ≤ 3 then 2 else if size == 4 then 4 else if size == 5 then 8 else 16

/-- The register group of a memory element: an even pair, or four registers from a multiple of 4. A constant has none; l0 and l1
hold one word and cannot serve a wider element. -/
def groupOk (n : Nat) (x : Opnd) : Bool :=
  if x.isReg then x.index % n == 0 else n == 1 || !x.isL

/-- A scalar destination with a vector base or another vector source is illegal (R53, R189, R306). -/
def baseShapeOk (a : Args) : Bool := !(a.dst.isS && (a.in0.isVec || a.in1.isVec || a.in2.isVec))

/-- The handle naming of R188, R210 and R229: ind = 0 names the index by aux, ind = 1 by the s register in in2. -/
def handleOk (a : Args) : Bool :=
  if a.ctl.getLsbD 8 then a.in2.isS && a.aux == 0 else a.in2 == .none

def Args.size (a : Args) : Nat := a.ctl.toNat % 8

/-- Fields of a hoist's target (R253). `tgt` is ctl[7:6]. -/
def hoistTargetOk (a : Args) (fence : Bool) : Bool :=
  let tgt := bits a.ctl.toNat 6 2
  let ind := a.ctl.getLsbD 8
  (if tgt == 0 then (a.tv || fence) && !ind else !a.tv) &&
  (if ind then a.aux == 0 && a.dst.isS else a.dst == .none) &&
  (if tgt == 0 then a.aux == 0 else true) &&
  (if tgt == 1 && !ind then a.aux.toNat ≤ 0x7FF else true) &&
  (if tgt == 2 && !ind then a.aux.toNat ≤ 0x1FF else true) &&
  (if tgt == 3 then ind else true)

/-- Kind, handle and scheduling fields of WLOAD, the MMA family and ACC.ST (R278, R279). `ix` is the index field of aux. -/
def regionOk (a : Args) (ix : Nat) : Bool :=
  let kind := bits a.ctl.toNat 6 2
  let ind := a.ctl.getLsbD 8
  kind != 3 && (if ind then a.in2.isS && ix == 0 else a.in2 == .none) && (if kind == 1 then ind else true)

/-- What each opcode's own rule adds to its row of the operand table. -/
def extraOk (op : Nat) (a : Args) : Bool :=
  let ctl := a.ctl.toNat
  match op with
  | 0x11 => a.in1 != .num 0x004                                               -- MTC to c.bound (R106)
  | 0x1B => a.mod.toNat != 3                                                   -- GRPQ (R117)
  | 0x1C => a.mod.toNat != 3 && ((a.mod.toNat == 2) == (a.in0 != .none))       -- SPALLQ (R118)
  | 0x5F => !(a.in0 == .small 3 && a.dst.isS)                                  -- CREWIX (R146)
  | 0xA0 | 0xA2 | 0xA4 => a.size != 7 && groupOk (sizeRegs a.size) a.dst && baseShapeOk a
  | 0xA1 | 0xA3 => a.size != 7 && groupOk (sizeRegs a.size) a.in1
  | 0xA5 => ctl != 3
  | 0xA6 | 0xA8 => a.size != 7 && groupOk (sizeRegs a.size) a.dst && baseShapeOk a
  | 0xA7 | 0xA9 => a.size != 7 && groupOk (sizeRegs a.size) a.in1
  | 0xAA => decide (ctl % 16 ≤ 9) && baseShapeOk a
  | 0xAB => baseShapeOk a
  | 0xAC => decide (ctl % 16 ≤ 8) && baseShapeOk a &&
      (!a.ctl.getLsbD 4 || (groupOk 2 a.dst && groupOk 2 a.in1))
  | 0xAD => baseShapeOk a && (!a.ctl.getLsbD 4 || (groupOk 2 a.dst && groupOk 2 a.in1 && groupOk 2 a.in2))
  | 0xAE => ctl % 4 != 3 && baseShapeOk a
  | 0xAF => decide (ctl % 16 ≤ 7) && (!a.ctl.getLsbD 4 || groupOk 2 a.in1)
  | 0xB0 => ctl % 4 != 3
  | 0xB1 | 0xB2 => ctl != 3
  | 0xB3 => (if a.ctl.getLsbD 1 then a.in1 != .none else a.in1 == .none && a.aux == 0)
  | 0xB5 => (if a.ctl.getLsbD 0 then a.in0 == .none else a.in0 != .none)
  | 0xB7 => (if a.ctl.getLsbD 0 then a.in0 == .none else a.in0 != .none)
  | 0xB8 => decide (4 ≤ a.size) && decide (a.size ≤ 6) && groupOk (sizeRegs a.size) a.dst
  | 0xB9 => a.size != 7 && groupOk (sizeRegs a.size) a.dst && baseShapeOk a && handleOk a
  | 0xBA => a.size != 7 && groupOk (sizeRegs a.size) a.in1 && handleOk a
  | 0xBB | 0xBC | 0xBD | 0xBE | 0xBF => handleOk a
  | 0xC0 => bits ctl 2 2 != 3 && hoistTargetOk a false
  | 0xC1 => hoistTargetOk a false && a.in1 != .imm
  | 0xC2 => bits ctl 2 4 != 0 && a.in1 != .imm
  | 0xC3 => hoistTargetOk a false && decide (bits ctl 6 2 ≤ 1) &&
      (if a.ctl.getLsbD 4 then bits ctl 2 2 != 3 && a.in1.isReg && a.in2 == .none
       else bits ctl 2 2 == 0 && a.in0.isS && (a.in1.isS || a.in1.isConst) && a.in2.isS && a.in2.even &&
         decide (a.in2.index ≤ 54))
  | 0xC4 => hoistTargetOk a true && decide (ctl % 8 ≤ 5) && decide (a.imm.toNat < 64)
  | 0xC5 => regionOk a (bits a.aux.toNat 7 9) && bits ctl 4 2 != 3 && bits ctl 2 2 != 0 && decide (ctl % 4 ≤ 1)
  | 0xC6 | 0xC7 | 0xC8 | 0xC9 | 0xCA => regionOk a (bits a.aux.toNat 7 9) && ctl % 4 != 3 &&
      (bits ctl 3 3 == 0 || decide (4 ≤ bits ctl 3 3))
  | 0xCB | 0xCC | 0xCD | 0xCE => ctl % 4 != 3
  | 0xCF => regionOk a a.aux.toNat && ctl % 4 != 3 && bits ctl 4 2 != 3 &&
      (bits ctl 6 2 != 2 || decide (a.aux.toNat < 64)) && a.in0 != .imm
  | 0xD0 => ctl % 4 != 3 && bits ctl 5 2 != 3
  | 0xD1 | 0xD3 | 0xDE | 0xDF => handleOk a
  | 0xD5 => handleOk a && (a.ctl.getLsbD 4 || ctl % 4 == 0)
  | 0xD6 => handleOk a &&
      (if a.ctl.getLsbD 2 then a.in0 == .none && a.in1 == .none && ctl % 4 == 0 else true)
  | 0xD7 => handleOk a && (a.ctl.getLsbD 4 || ctl % 4 == 0)
  | 0xD8 => (if a.ctl.getLsbD 0 then a.in0 != .none else a.in0 == .none)
  | _ => true

/-! ## Well-formedness of an instruction -/

/-- The operation is vector-shaped (R53): its destination is v or o, or its destination is zero and a source is v, o, l0 or l1. -/
def vectorShape (dst in0 in1 in2 : Opnd) : Bool :=
  dst.isV || dst.isO || (!dst.isS && (in0.isVec || in1.isVec || in2.isVec))

/-- A scalar destination takes scalar sources only, except in the families that fold lanes (R53, R163). -/
def shapeOk (op : Nat) (dst in0 in1 in2 : Opnd) : Bool :=
  if decide (0x20 ≤ op) && decide (op < 0x90) then !(dst.isS && (in0.isVec || in1.isVec || in2.isVec)) else true

/-- Some specifier names imm. -/
def Args.namesImm (a : Args) : Bool := a.in0 == .imm || a.in1 == .imm || a.in2 == .imm

/-- The fields that a format lacks are zero: R51 has none of R56's, and the 64-bit format has no word. -/
def Args.formOk (a : Args) : Bool :=
  match a.form with
  | .f64 => a.imm == 0 && a.aux == 0 && a.ctl == 0 && !a.tv && a.tok == 0 && a.scope == 0
  | .f96 => a.aux == 0 && a.ctl == 0 && !a.tv && a.tok == 0 && a.scope == 0
  | .f128 => true

/-- The row's slots, bits and formats allow the fields (R52, R54 to R57). -/
def Row.accepts (r : Row) (a : Args) : Bool :=
  let im := a.form != .f64 && r.word != .own
  (match a.form with | .f64 => r.f64 | .f96 => r.f96 | .f128 => r.f128) &&
  r.dst.accepts false a.dst && r.in0.accepts im a.in0 && r.in1.accepts im a.in1 && r.in2.accepts im a.in2 &&
  (a.mod &&& ~~~r.mod) == 0 && (a.ctl &&& ~~~r.ctl) == 0 && (a.aux &&& ~~~r.aux) == 0 &&
  (r.tv || !a.tv) && (a.tv || a.tok == 0) && decide (a.scope.toNat ≤ r.scope) &&
  (match a.form, r.word with
   | .f64, _ => true
   | .f96, .own | .f96, .both => true
   | .f96, .spec => a.namesImm
   | .f128, .own | .f128, .both => true
   | .f128, .spec => a.namesImm || a.imm == 0)

/-- NOP (R58): the specifiers, modifier and word are zero. -/
def nopOk (a : Args) : Bool :=
  (a.form == .f64 || a.form == .f96) && a.mod == 0 && a.imm == 0 &&
  a.dst == .v 0 && a.in0 == .v 0 && a.in1 == .v 0 && a.in2 == .v 0

/-- LREL.all and CINV.all read no address, so their word has no use and must be zero (R56, R309, R364). -/
def wordUnused (op : Nat) (a : Args) : Bool :=
  (op == 0xB5 || op == 0xB7) && a.ctl.getLsbD 0

/-- An unpaired crew instruction of opcode `op` is well formed. -/
def Args.ok (op : Nat) (a : Args) : Bool :=
  a.formOk &&
  (if op == 0 then nopOk a
   else match row? op with
     | none => false
     | some r => r.accepts a && shapeOk op a.dst a.in0 a.in1 a.in2 && extraOk op a && (!wordUnused op a || a.imm == 0))

/-- The fields of a half as those of a 64-bit instruction, for the checks its family makes. -/
def Half.args (h : Half) : Args :=
  { form := .f64, sw := false, wait := 0, mod := h.mod, dst := h.dst, in0 := h.in0, in1 := h.in1, in2 := h.in2,
    imm := 0, aux := 0, ctl := 0, tv := false, tok := 0, scope := 0 }

/-- The opcode may stand in the pair at all: half A holds class AB, half B class AB or B (R60, R66). -/
def Half.classOk (first : Bool) (h : Half) : Bool :=
  match row? h.opcode.toNat with
  | some r => match r.pc with | .ab => true | .b => !first | .no => false
  | none => false

/-- A half that holds an admitted opcode satisfies its family's rules (R66). -/
def Half.familyOk (h : Half) : Bool := h.args.ok h.opcode.toNat

/-- The destination registers that a half writes: one, or a pair for the 64-bit forms and TUNPK (R149, R161). -/
def Half.dstRegs (h : Half) : List Opnd :=
  let op := h.opcode.toNat
  let wide := (decide (0x57 ≤ op) && decide (op ≤ 0x5E)) || op == 0x8B
  match h.dst with
  | .v i => if wide then [.v i, .v (i + 1)] else [.v i]
  | .o i => if wide then [.o i, .o (i + 1)] else [.o i]
  | _ => []

/-- The main-file registers that an operand reads: one, or two for a 64-bit operand (R130). -/
def vReads (wide : Bool) : Opnd → List Nat
  | .v i => if wide then [i.val, i.val + 1] else [i.val]
  | _ => []

/-- Which sources of an opcode are 64-bit operands (R148, R149). -/
def wideSrc (op slot : Nat) : Bool :=
  match op, slot with
  | 0x57, 0 | 0x58, 0 | 0x58, 1 | 0x59, 0 | 0x59, 1 | 0x5B, 2 | 0x5C, 0 | 0x5D, 0 | 0x5E, 0 => true
  | _, _ => false

/-- LOP3 and BFI read their old destination (R132). -/
def readsDst (op : Nat) : Bool := op == 0x35 || op == 0x3D

/-- Main-file registers that a half reads (R60, R132). -/
def Half.vReads (h : Half) : List Nat :=
  let op := h.opcode.toNat
  Sys2Proof.vReads (wideSrc op 0) h.in0 ++ Sys2Proof.vReads (wideSrc op 1) h.in1 ++ Sys2Proof.vReads (wideSrc op 2) h.in2 ++
    (if readsDst op then Sys2Proof.vReads false h.dst else [])

/-- Registers that a half reads as sources, low and high words of pairs. -/
def Half.srcRegs (h : Half) : List Opnd :=
  let op := h.opcode.toNat
  let one (slot : Nat) (x : Opnd) : List Opnd :=
    match x with
    | .v i => if wideSrc op slot then [.v i, .v (i + 1)] else [.v i]
    | .o i => if wideSrc op slot then [.o i, .o (i + 1)] else [.o i]
    | _ => []
  one 0 h.in0 ++ one 1 h.in1 ++ one 2 h.in2 ++ (if readsDst op then one 3 h.dst else [])

/-- The rules of a pair that do not depend on one half alone (R60, R149): vector destinations that differ, at most four main-file
registers in distinct banks, and B reading nothing that A writes. -/
def PairArgs.ruleOk (p : PairArgs) : Bool :=
  let reads := (p.a.vReads ++ p.b.vReads).eraseDups
  let banks := reads.map (· % 4)
  (p.a.dst.isV || p.a.dst.isO) && (p.b.dst.isV || p.b.dst.isO) &&
  p.a.dstRegs.all (fun r => !p.b.dstRegs.contains r) &&
  decide (reads.length ≤ 4) && decide (banks.eraseDups.length = banks.length) &&
  p.a.dstRegs.all (fun r => !p.b.srcRegs.contains r)

/-- A pair is well formed: both opcodes admitted, both halves legal under their families, the pair rules kept. -/
def PairArgs.ok (p : PairArgs) : Bool :=
  p.a.classOk true && p.b.classOk false && p.a.familyOk && p.b.familyOk && p.ruleOk

end Sys2Proof
end

