-- ==== Sys2Proof/Decode.lean ====
section
/-! DEFINITION. Decoding and encoding of crew instructions (R49 to R60, R65 to R68) and of policy words (R410, R411). Every
encoding that is not an instruction is rejected by name. -/

namespace Sys2Proof

/-- Why a fetched encoding is no instruction (R67). -/
inductive DecodeErr where
  | illegalOpcode
  | illegalField
  | pairRule
  deriving DecidableEq, Repr

/-! ## Operand specifiers (R52) -/

/-- The ten bits of a specifier. -/
def Opnd.spec : Opnd → BitVec 10
  | .v i => BitVec.ofNat 10 i.val
  | .s i => BitVec.ofNat 10 (0x100 + i.val)
  | .o i => BitVec.ofNat 10 (0x200 + i.val)
  | .small i => BitVec.ofNat 10 (0x300 + i.toNat)
  | .l0 => 0x320
  | .l1 => 0x321
  | .zero => 0x322
  | .imm => 0x323
  | .none => 0x3FF
  | .num n => n

/-- The operand a specifier names; none where R52 reserves it. -/
def Opnd.ofSpec (b : BitVec 10) : Option Opnd :=
  let n := b.toNat
  if n < 0x100 then some (.v (Fin.ofNat 256 n))
  else if n < 0x140 then some (.s (Fin.ofNat 64 (n - 0x100)))
  else if n < 0x200 then none
  else if n < 0x208 then some (.o (Fin.ofNat 8 (n - 0x200)))
  else if n < 0x300 then none
  else if n < 0x320 then some (.small (BitVec.ofNat 5 (n - 0x300)))
  else if n = 0x320 then some .l0
  else if n = 0x321 then some .l1
  else if n = 0x322 then some .zero
  else if n = 0x323 then some .imm
  else if n = 0x3FF then some .none
  else none

/-- MFC, MTC, DBGRD and DBGWR read their in1 field as a register number (R96). -/
def rawIn1 (op : Nat) : Bool := op == 0x10 || op == 0x11 || op == 0x1D || op == 0x1E

/-- The in1 field of an opcode. -/
def decodeIn1 (op : Nat) (b : BitVec 10) : Option Opnd := if rawIn1 op then some (.num b) else Opnd.ofSpec b

/-! ## Crew instructions -/

/-- The length in bytes that bits [1:0] select (R49). -/
def lengthOf (low : Nat) : Nat := if low % 4 = 0 then 8 else if low % 4 = 1 then 12 else 16

def Form.len : Form → BitVec 2
  | .f64 => 0
  | .f96 => 1
  | .f128 => 2

def Form.bytes : Form → Nat
  | .f64 => 8
  | .f96 => 12
  | .f128 => 16

/-- Bits [63:0] (R51). -/
def Args.low (op : Nat) (a : Args) : BitVec 64 :=
  a.mod ++ a.in2.spec ++ a.in1.spec ++ a.in0.spec ++ a.dst.spec ++ a.wait ++ BitVec.ofNat 8 op ++ BitVec.ofBool a.sw ++ a.form.len

/-- Bits [127:64]: the word of the 96-bit format (R49), the fields of R56 in the 128-bit one. -/
def Args.high (a : Args) : BitVec 64 :=
  match a.form with
  | .f64 => 0
  | .f96 => (0 : BitVec 32) ++ a.imm
  | .f128 => a.imm ++ a.aux ++ a.ctl ++ BitVec.ofBool a.tv ++ a.tok ++ a.scope

/-- The word of an unpaired instruction of an opcode; bits beyond its length are zero. -/
def Args.word (op : Nat) (a : Args) : BitVec 128 := a.high ++ a.low op

/-- The word of a pair (R59). -/
def PairArgs.word (p : PairArgs) : BitVec 128 :=
  (0 : BitVec 11) ++ p.b.mod ++ p.b.in2.spec ++ p.b.in1.spec ++ p.b.in0.spec ++ p.b.dst.spec ++ p.b.opcode ++
  p.a.mod ++ p.a.in2.spec ++ p.a.in1.spec ++ p.a.in0.spec ++ p.a.dst.spec ++ p.wait ++ p.a.opcode ++ BitVec.ofBool p.sw ++ (3 : BitVec 2)

/-- The fields of an unpaired word of the given format (R51, R56). -/
def decodeArgs (form : Form) (w : BitVec 128) : Option Args := do
  let op := (w.extractLsb' 3 8).toNat
  let dst ← Opnd.ofSpec (w.extractLsb' 19 10)
  let in0 ← Opnd.ofSpec (w.extractLsb' 29 10)
  let in1 ← decodeIn1 op (w.extractLsb' 39 10)
  let in2 ← Opnd.ofSpec (w.extractLsb' 49 10)
  let long := form == .f128
  some {
    form := form, sw := w.getLsbD 2, wait := w.extractLsb' 11 8, mod := w.extractLsb' 59 5,
    dst := dst, in0 := in0, in1 := in1, in2 := in2,
    imm := (match form with | .f64 => 0 | .f96 => w.extractLsb' 64 32 | .f128 => w.extractLsb' 96 32),
    aux := if long then w.extractLsb' 80 16 else 0,
    ctl := if long then w.extractLsb' 71 9 else 0,
    tv := long && w.getLsbD 70,
    tok := if long then w.extractLsb' 67 3 else 0,
    scope := if long then w.extractLsb' 64 3 else 0 }

/-- One half of a pair from the bits that start at its fields (R59). -/
def decodeHalf (op : BitVec 8) (lo : Nat) (w : BitVec 128) : Option Half := do
  let dst ← Opnd.ofSpec (w.extractLsb' lo 10)
  let in0 ← Opnd.ofSpec (w.extractLsb' (lo + 10) 10)
  let in1 ← Opnd.ofSpec (w.extractLsb' (lo + 20) 10)
  let in2 ← Opnd.ofSpec (w.extractLsb' (lo + 30) 10)
  if dst == .imm || in0 == .imm || in1 == .imm || in2 == .imm then none
  else some { opcode := op, mod := w.extractLsb' (lo + 40) 5, dst := dst, in0 := in0, in1 := in1, in2 := in2 }

/-- A pair (R59, R60, R66 to R68): illegal opcodes first, then illegal fields of admitted halves, then the pair rules. -/
def decodePair (w : BitVec 128) : Except DecodeErr PairArgs :=
  let opA := w.extractLsb' 3 8
  let opB := w.extractLsb' 64 8
  if 0xE0 ≤ opA.toNat || 0xE0 ≤ opB.toNat then .error .illegalOpcode
  else match decodeHalf opA 19 w, decodeHalf opB 72 w with
    | some a, some b =>
      let p : PairArgs := { sw := w.getLsbD 2, wait := w.extractLsb' 11 8, a := a, b := b }
      if w.extractLsb' 117 11 != 0 then .error .illegalField
      else if (a.classOk true && !a.familyOk) || (b.classOk false && !b.familyOk) then .error .illegalField
      else if p.ok then .ok p else .error .pairRule
    | _, _ => .error .illegalField


/-- The constructors of opcodes 0x00 to 0x1F (R65). -/
def crewCtors0 : List (Args → Instr) := [
  .nop, .bra, .brc, .brx, .join, .call, .calli, .ret, .jmpi, .loop, .exit, .suspend, .trap, .tret, .twait, .setbnd, .mfc, .mtc,
  .clkrd, .doze, .yield, .bkpt, .trapc, .ipref, .icinv, .pmrd, .tmark, .grpq, .spallq, .dbgrd, .dbgwr, .prio]

/-- The constructors of opcodes 0x20 to 0x3F (R65). -/
def crewCtors1 : List (Args → Instr) := [
  .iadd, .isub, .imul, .imulh, .imad, .iadd3, .idiv, .irem, .imin, .imax, .iabs, .ineg, .isad, .idot4, .iavg, .clamp, .and,
  .or, .xor, .not, .andn, .lop3, .shl, .shr, .sar, .rol, .fshl, .fshr, .bfx, .bfi, .brev, .popc]

/-- The constructors of opcodes 0x40 to 0x5F (R65). -/
def crewCtors2 : List (Args → Instr) := [
  .clz, .ctz, .bperm, .sext, .zext, .bitset, .bitclr, .bittst, .icmpEq, .icmpNe, .icmpLt, .icmpLe, .icmpGt, .icmpGe, .sel,
  .mov, .laneid, .mand, .mor, .mxor, .mnot, .mpopc, .mffs, .lea, .iadd64, .isub64, .imulw, .imadw, .shl64, .shr64, .mov64,
  .crewix]

/-- The constructors of opcodes 0x60 to 0x7F (R65). -/
def crewCtors3 : List (Args → Instr) := [
  .fadd, .fsub, .fmul, .ffma, .fdiv, .fmin, .fmax, .famax, .fclmp, .frint, .ffrac, .fscale, .fgetx, .fclass, .fcmpEq, .fcmpNe,
  .fcmpLt, .fcmpLe, .fcmpGt, .fcmpGe, .fcmpUn, .fdot2, .fcpys, .rcp, .rsq, .sqrt, .exp2, .log2, .sinpi, .cospi, .tanh,
  .cvtF32E4m3]

/-- The constructors of opcodes 0x80 to 0x9F (R65). -/
def crewCtors4 : List (Args → Instr) := [
  .cvtF32Bf16, .cvtF32F16, .cvtBf16F32, .cvtF16F32, .cvtE4m3F32, .cvtE4m3Bf16, .cvtI32F32, .cvtI8F32, .cvtF32I32, .cvtF32I8,
  .cvtI8I32, .tunpk, .vget, .vput, .vrot, .vslide, .vbcast, .voteAll, .voteAny, .ballot, .vmatch, .lredIadd, .lredImin,
  .lredImax, .lredFadd, .lredFmin, .lredFmax, .lredOr, .scanIadd, .scanFadd, .scanImax, .vsqz]

/-- The constructors of opcodes 0xA0 to 0xBF (R65). -/
def crewCtors5 : List (Args → Instr) := [
  .ld, .st, .ldAcq, .stRel, .ldc, .pref, .spld, .spst, .spldp, .spstp, .spatom, .spatomCas, .atom, .atomCas, .atomF, .mred,
  .mredF, .fence, .fenceAll, .waitaddr, .lease, .lrel, .cflush, .cinv, .ldb, .tld, .tst, .tclaim, .tready, .tdrain, .tfree,
  .tdef]

/-- The constructors of opcodes 0xC0 to 0xDF (R65). -/
def crewCtors6 : List (Args → Instr) := [
  .hoist, .hoistT, .hoistMc, .hoistSt, .qfence, .wload, .mmaE4m3, .mmaI8, .mmaBf16, .mmaTi8, .mmaDist, .tsacc, .tsaccI, .topk,
  .accRd, .accSt, .accClr, .chAcq, .chPut, .chTake, .chFree, .evAdd, .evSet, .evRd, .bar, .barArv, .capEnter, .capStep,
  .capEnd, .capResult, .chTryacq, .chTrytake]

/-- The constructor of an unpaired opcode (R65); opcodes from 0xE0 on are reserved. -/
def crewCtor? (op : Nat) : Option (Args → Instr) :=
  if op < 0x80 then
    if op < 0x40 then (if op < 0x20 then crewCtors0[op]? else crewCtors1[op - 0x20]?)
    else (if op < 0x60 then crewCtors2[op - 0x40]? else crewCtors3[op - 0x60]?)
  else
    if op < 0xC0 then (if op < 0xA0 then crewCtors4[op - 0x80]? else crewCtors5[op - 0xA0]?)
    else if op < 0xE0 then crewCtors6[op - 0xC0]? else none

/-- Opcode and fields of an unpaired crew instruction; none for the other steps. -/
def Instr.crewOp : Instr → Option (Nat × Args)
  | .nop a => some (0x00, a)
  | .bra a => some (0x01, a)
  | .brc a => some (0x02, a)
  | .brx a => some (0x03, a)
  | .join a => some (0x04, a)
  | .call a => some (0x05, a)
  | .calli a => some (0x06, a)
  | .ret a => some (0x07, a)
  | .jmpi a => some (0x08, a)
  | .loop a => some (0x09, a)
  | .exit a => some (0x0A, a)
  | .suspend a => some (0x0B, a)
  | .trap a => some (0x0C, a)
  | .tret a => some (0x0D, a)
  | .twait a => some (0x0E, a)
  | .setbnd a => some (0x0F, a)
  | .mfc a => some (0x10, a)
  | .mtc a => some (0x11, a)
  | .clkrd a => some (0x12, a)
  | .doze a => some (0x13, a)
  | .yield a => some (0x14, a)
  | .bkpt a => some (0x15, a)
  | .trapc a => some (0x16, a)
  | .ipref a => some (0x17, a)
  | .icinv a => some (0x18, a)
  | .pmrd a => some (0x19, a)
  | .tmark a => some (0x1A, a)
  | .grpq a => some (0x1B, a)
  | .spallq a => some (0x1C, a)
  | .dbgrd a => some (0x1D, a)
  | .dbgwr a => some (0x1E, a)
  | .prio a => some (0x1F, a)
  | .iadd a => some (0x20, a)
  | .isub a => some (0x21, a)
  | .imul a => some (0x22, a)
  | .imulh a => some (0x23, a)
  | .imad a => some (0x24, a)
  | .iadd3 a => some (0x25, a)
  | .idiv a => some (0x26, a)
  | .irem a => some (0x27, a)
  | .imin a => some (0x28, a)
  | .imax a => some (0x29, a)
  | .iabs a => some (0x2A, a)
  | .ineg a => some (0x2B, a)
  | .isad a => some (0x2C, a)
  | .idot4 a => some (0x2D, a)
  | .iavg a => some (0x2E, a)
  | .clamp a => some (0x2F, a)
  | .and a => some (0x30, a)
  | .or a => some (0x31, a)
  | .xor a => some (0x32, a)
  | .not a => some (0x33, a)
  | .andn a => some (0x34, a)
  | .lop3 a => some (0x35, a)
  | .shl a => some (0x36, a)
  | .shr a => some (0x37, a)
  | .sar a => some (0x38, a)
  | .rol a => some (0x39, a)
  | .fshl a => some (0x3A, a)
  | .fshr a => some (0x3B, a)
  | .bfx a => some (0x3C, a)
  | .bfi a => some (0x3D, a)
  | .brev a => some (0x3E, a)
  | .popc a => some (0x3F, a)
  | .clz a => some (0x40, a)
  | .ctz a => some (0x41, a)
  | .bperm a => some (0x42, a)
  | .sext a => some (0x43, a)
  | .zext a => some (0x44, a)
  | .bitset a => some (0x45, a)
  | .bitclr a => some (0x46, a)
  | .bittst a => some (0x47, a)
  | .icmpEq a => some (0x48, a)
  | .icmpNe a => some (0x49, a)
  | .icmpLt a => some (0x4A, a)
  | .icmpLe a => some (0x4B, a)
  | .icmpGt a => some (0x4C, a)
  | .icmpGe a => some (0x4D, a)
  | .sel a => some (0x4E, a)
  | .mov a => some (0x4F, a)
  | .laneid a => some (0x50, a)
  | .mand a => some (0x51, a)
  | .mor a => some (0x52, a)
  | .mxor a => some (0x53, a)
  | .mnot a => some (0x54, a)
  | .mpopc a => some (0x55, a)
  | .mffs a => some (0x56, a)
  | .lea a => some (0x57, a)
  | .iadd64 a => some (0x58, a)
  | .isub64 a => some (0x59, a)
  | .imulw a => some (0x5A, a)
  | .imadw a => some (0x5B, a)
  | .shl64 a => some (0x5C, a)
  | .shr64 a => some (0x5D, a)
  | .mov64 a => some (0x5E, a)
  | .crewix a => some (0x5F, a)
  | .fadd a => some (0x60, a)
  | .fsub a => some (0x61, a)
  | .fmul a => some (0x62, a)
  | .ffma a => some (0x63, a)
  | .fdiv a => some (0x64, a)
  | .fmin a => some (0x65, a)
  | .fmax a => some (0x66, a)
  | .famax a => some (0x67, a)
  | .fclmp a => some (0x68, a)
  | .frint a => some (0x69, a)
  | .ffrac a => some (0x6A, a)
  | .fscale a => some (0x6B, a)
  | .fgetx a => some (0x6C, a)
  | .fclass a => some (0x6D, a)
  | .fcmpEq a => some (0x6E, a)
  | .fcmpNe a => some (0x6F, a)
  | .fcmpLt a => some (0x70, a)
  | .fcmpLe a => some (0x71, a)
  | .fcmpGt a => some (0x72, a)
  | .fcmpGe a => some (0x73, a)
  | .fcmpUn a => some (0x74, a)
  | .fdot2 a => some (0x75, a)
  | .fcpys a => some (0x76, a)
  | .rcp a => some (0x77, a)
  | .rsq a => some (0x78, a)
  | .sqrt a => some (0x79, a)
  | .exp2 a => some (0x7A, a)
  | .log2 a => some (0x7B, a)
  | .sinpi a => some (0x7C, a)
  | .cospi a => some (0x7D, a)
  | .tanh a => some (0x7E, a)
  | .cvtF32E4m3 a => some (0x7F, a)
  | .cvtF32Bf16 a => some (0x80, a)
  | .cvtF32F16 a => some (0x81, a)
  | .cvtBf16F32 a => some (0x82, a)
  | .cvtF16F32 a => some (0x83, a)
  | .cvtE4m3F32 a => some (0x84, a)
  | .cvtE4m3Bf16 a => some (0x85, a)
  | .cvtI32F32 a => some (0x86, a)
  | .cvtI8F32 a => some (0x87, a)
  | .cvtF32I32 a => some (0x88, a)
  | .cvtF32I8 a => some (0x89, a)
  | .cvtI8I32 a => some (0x8A, a)
  | .tunpk a => some (0x8B, a)
  | .vget a => some (0x8C, a)
  | .vput a => some (0x8D, a)
  | .vrot a => some (0x8E, a)
  | .vslide a => some (0x8F, a)
  | .vbcast a => some (0x90, a)
  | .voteAll a => some (0x91, a)
  | .voteAny a => some (0x92, a)
  | .ballot a => some (0x93, a)
  | .vmatch a => some (0x94, a)
  | .lredIadd a => some (0x95, a)
  | .lredImin a => some (0x96, a)
  | .lredImax a => some (0x97, a)
  | .lredFadd a => some (0x98, a)
  | .lredFmin a => some (0x99, a)
  | .lredFmax a => some (0x9A, a)
  | .lredOr a => some (0x9B, a)
  | .scanIadd a => some (0x9C, a)
  | .scanFadd a => some (0x9D, a)
  | .scanImax a => some (0x9E, a)
  | .vsqz a => some (0x9F, a)
  | .ld a => some (0xA0, a)
  | .st a => some (0xA1, a)
  | .ldAcq a => some (0xA2, a)
  | .stRel a => some (0xA3, a)
  | .ldc a => some (0xA4, a)
  | .pref a => some (0xA5, a)
  | .spld a => some (0xA6, a)
  | .spst a => some (0xA7, a)
  | .spldp a => some (0xA8, a)
  | .spstp a => some (0xA9, a)
  | .spatom a => some (0xAA, a)
  | .spatomCas a => some (0xAB, a)
  | .atom a => some (0xAC, a)
  | .atomCas a => some (0xAD, a)
  | .atomF a => some (0xAE, a)
  | .mred a => some (0xAF, a)
  | .mredF a => some (0xB0, a)
  | .fence a => some (0xB1, a)
  | .fenceAll a => some (0xB2, a)
  | .waitaddr a => some (0xB3, a)
  | .lease a => some (0xB4, a)
  | .lrel a => some (0xB5, a)
  | .cflush a => some (0xB6, a)
  | .cinv a => some (0xB7, a)
  | .ldb a => some (0xB8, a)
  | .tld a => some (0xB9, a)
  | .tst a => some (0xBA, a)
  | .tclaim a => some (0xBB, a)
  | .tready a => some (0xBC, a)
  | .tdrain a => some (0xBD, a)
  | .tfree a => some (0xBE, a)
  | .tdef a => some (0xBF, a)
  | .hoist a => some (0xC0, a)
  | .hoistT a => some (0xC1, a)
  | .hoistMc a => some (0xC2, a)
  | .hoistSt a => some (0xC3, a)
  | .qfence a => some (0xC4, a)
  | .wload a => some (0xC5, a)
  | .mmaE4m3 a => some (0xC6, a)
  | .mmaI8 a => some (0xC7, a)
  | .mmaBf16 a => some (0xC8, a)
  | .mmaTi8 a => some (0xC9, a)
  | .mmaDist a => some (0xCA, a)
  | .tsacc a => some (0xCB, a)
  | .tsaccI a => some (0xCC, a)
  | .topk a => some (0xCD, a)
  | .accRd a => some (0xCE, a)
  | .accSt a => some (0xCF, a)
  | .accClr a => some (0xD0, a)
  | .chAcq a => some (0xD1, a)
  | .chPut a => some (0xD2, a)
  | .chTake a => some (0xD3, a)
  | .chFree a => some (0xD4, a)
  | .evAdd a => some (0xD5, a)
  | .evSet a => some (0xD6, a)
  | .evRd a => some (0xD7, a)
  | .bar a => some (0xD8, a)
  | .barArv a => some (0xD9, a)
  | .capEnter a => some (0xDA, a)
  | .capStep a => some (0xDB, a)
  | .capEnd a => some (0xDC, a)
  | .capResult a => some (0xDD, a)
  | .chTryacq a => some (0xDE, a)
  | .chTrytake a => some (0xDF, a)
  | _ => none

/-- The pair's fields, where the instruction is one. -/
def Instr.pair? : Instr → Option PairArgs
  | .pairIssue p => some p
  | _ => none

/-- The instruction in the 16 bytes from a PC, the first byte in bits [7:0] (R49, R67, R68). The fetch has already checked that it
does not cross its block. -/
def decodeCrew (w : BitVec 128) : Except DecodeErr Instr :=
  let low := (w.extractLsb' 0 2).toNat
  if low = 3 then (decodePair w).map .pairIssue
  else
    let op := (w.extractLsb' 3 8).toNat
    let form : Form := if low = 0 then .f64 else if low = 1 then .f96 else .f128
    match crewCtor? op with
    | none => .error .illegalOpcode
    | some c => match decodeArgs form w with
      | none => .error .illegalField
      | some a => if a.ok op then .ok (c a) else .error .illegalField

/-! ## Policy words (R410, R411) -/

/-- A register form: op, d, a and b. -/
def policyR (op : BitVec 6) (d a b : Fin 16) : BitVec 32 :=
  op ++ BitVec.ofNat 4 d.val ++ BitVec.ofNat 4 a.val ++ BitVec.ofNat 4 b.val ++ (0 : BitVec 14)

/-- An immediate form: op, d, a and imm. -/
def policyI (op : BitVec 6) (d a : Fin 16) (imm : BitVec 18) : BitVec 32 :=
  op ++ BitVec.ofNat 4 d.val ++ BitVec.ofNat 4 a.val ++ imm

/-- The word of a policy operation. -/
def Instr.policyWord : Instr → Option (BitVec 32)
  | .policyEnd => some (policyI 0x00 0 0 0)
  | .policyAdd d a b => some (policyR 0x01 d a b)
  | .policySub d a b => some (policyR 0x02 d a b)
  | .policyMul d a b => some (policyR 0x03 d a b)
  | .policyDivu d a b => some (policyR 0x04 d a b)
  | .policyRemu d a b => some (policyR 0x05 d a b)
  | .policyAnd d a b => some (policyR 0x06 d a b)
  | .policyOr d a b => some (policyR 0x07 d a b)
  | .policyXor d a b => some (policyR 0x08 d a b)
  | .policyShl d a b => some (policyR 0x09 d a b)
  | .policyShru d a b => some (policyR 0x0A d a b)
  | .policyShrs d a b => some (policyR 0x0B d a b)
  | .policyMin d a b => some (policyR 0x0C d a b)
  | .policyMax d a b => some (policyR 0x0D d a b)
  | .policyMinu d a b => some (policyR 0x0E d a b)
  | .policyMaxu d a b => some (policyR 0x0F d a b)
  | .policySlt d a b => some (policyR 0x10 d a b)
  | .policySltu d a b => some (policyR 0x11 d a b)
  | .policySeq d a b => some (policyR 0x12 d a b)
  | .policyAddi d a imm => some (policyI 0x14 d a imm)
  | .policyAndi d a imm => some (policyI 0x15 d a imm)
  | .policyOri d a imm => some (policyI 0x16 d a imm)
  | .policyXori d a imm => some (policyI 0x17 d a imm)
  | .policyShli d a imm => some (policyI 0x18 d a (imm.setWidth 18))
  | .policyShrui d a imm => some (policyI 0x19 d a (imm.setWidth 18))
  | .policyShrsi d a imm => some (policyI 0x1A d a (imm.setWidth 18))
  | .policyLi d imm => some (policyI 0x1B d 0 imm)
  | .policyLcat d imm => some (policyI 0x1C d 0 imm)
  | .policyLd d a imm => some (policyI 0x20 d a imm)
  | .policyLdw d a imm => some (policyI 0x21 d a imm)
  | .policySt d a imm => some (policyI 0x22 d a imm)
  | .policyStw d a imm => some (policyI 0x23 d a imm)
  | .policyRdc d imm => some (policyI 0x24 d 0 (imm.setWidth 18))
  | .policyRdcx d a imm => some (policyI 0x25 d a (imm.setWidth 18))
  | .policySetd a imm => some (policyI 0x26 0 a (imm.setWidth 18))
  | .policyBeq d a imm => some (policyI 0x28 d a imm)
  | .policyBne d a imm => some (policyI 0x29 d a imm)
  | .policyBlt d a imm => some (policyI 0x2A d a imm)
  | .policyBltu d a imm => some (policyI 0x2B d a imm)
  | .policyJmp imm => some (policyI 0x2C 0 0 imm)
  | .policyLoopi imm => some (policyI 0x30 0 0 imm)
  | .policyLoopr a => some (policyI 0x31 0 a 0)
  | .policyEndl => some (policyI 0x32 0 0 0)
  | .policyIter d => some (policyI 0x33 d 0 0)
  | _ => none

/-- The operation of a policy word; none where R411 reserves it or a field it does not use is not zero. The ranges of LOOPI's count
and of a counter or decision number are the checker's (R416). Noncomputable in compiled code only: the runtime has no object tags beyond 244, and Instr
has 394 constructors; the kernel evaluates it. -/
noncomputable def decodePolicy (w : BitVec 32) : Option Instr :=
  let d := Fin.ofNat 16 (w.extractLsb' 22 4).toNat
  let a := Fin.ofNat 16 (w.extractLsb' 18 4).toNat
  let b := Fin.ofNat 16 (w.extractLsb' 14 4).toNat
  let imm := w.extractLsb' 0 18
  match (w.extractLsb' 26 6).toNat with
  | 0x00 => if d = 0 ∧ a = 0 ∧ imm = 0 then some .policyEnd else none
  | 0x01 => if imm.extractLsb' 0 14 = 0 then some (.policyAdd d a b) else none
  | 0x02 => if imm.extractLsb' 0 14 = 0 then some (.policySub d a b) else none
  | 0x03 => if imm.extractLsb' 0 14 = 0 then some (.policyMul d a b) else none
  | 0x04 => if imm.extractLsb' 0 14 = 0 then some (.policyDivu d a b) else none
  | 0x05 => if imm.extractLsb' 0 14 = 0 then some (.policyRemu d a b) else none
  | 0x06 => if imm.extractLsb' 0 14 = 0 then some (.policyAnd d a b) else none
  | 0x07 => if imm.extractLsb' 0 14 = 0 then some (.policyOr d a b) else none
  | 0x08 => if imm.extractLsb' 0 14 = 0 then some (.policyXor d a b) else none
  | 0x09 => if imm.extractLsb' 0 14 = 0 then some (.policyShl d a b) else none
  | 0x0A => if imm.extractLsb' 0 14 = 0 then some (.policyShru d a b) else none
  | 0x0B => if imm.extractLsb' 0 14 = 0 then some (.policyShrs d a b) else none
  | 0x0C => if imm.extractLsb' 0 14 = 0 then some (.policyMin d a b) else none
  | 0x0D => if imm.extractLsb' 0 14 = 0 then some (.policyMax d a b) else none
  | 0x0E => if imm.extractLsb' 0 14 = 0 then some (.policyMinu d a b) else none
  | 0x0F => if imm.extractLsb' 0 14 = 0 then some (.policyMaxu d a b) else none
  | 0x10 => if imm.extractLsb' 0 14 = 0 then some (.policySlt d a b) else none
  | 0x11 => if imm.extractLsb' 0 14 = 0 then some (.policySltu d a b) else none
  | 0x12 => if imm.extractLsb' 0 14 = 0 then some (.policySeq d a b) else none
  | 0x14 => some (.policyAddi d a imm)
  | 0x15 => some (.policyAndi d a imm)
  | 0x16 => some (.policyOri d a imm)
  | 0x17 => some (.policyXori d a imm)
  | 0x18 => if imm.extractLsb' 6 12 = 0 then some (.policyShli d a (imm.extractLsb' 0 6)) else none
  | 0x19 => if imm.extractLsb' 6 12 = 0 then some (.policyShrui d a (imm.extractLsb' 0 6)) else none
  | 0x1A => if imm.extractLsb' 6 12 = 0 then some (.policyShrsi d a (imm.extractLsb' 0 6)) else none
  | 0x1B => if a = 0 then some (.policyLi d imm) else none
  | 0x1C => if a = 0 then some (.policyLcat d imm) else none
  | 0x20 => if imm.extractLsb' 16 2 = 0 then some (.policyLd d a imm) else none
  | 0x21 => if imm.extractLsb' 16 2 = 0 then some (.policyLdw d a imm) else none
  | 0x22 => if imm.extractLsb' 16 2 = 0 then some (.policySt d a imm) else none
  | 0x23 => if imm.extractLsb' 16 2 = 0 then some (.policyStw d a imm) else none
  | 0x24 => if a = 0 ∧ imm.extractLsb' 12 6 = 0 then some (.policyRdc d (imm.extractLsb' 0 12)) else none
  | 0x25 => if imm.extractLsb' 12 6 = 0 then some (.policyRdcx d a (imm.extractLsb' 0 12)) else none
  | 0x26 => if d = 0 ∧ imm.extractLsb' 5 13 = 0 then some (.policySetd a (imm.extractLsb' 0 5)) else none
  | 0x28 => some (.policyBeq d a imm)
  | 0x29 => some (.policyBne d a imm)
  | 0x2A => some (.policyBlt d a imm)
  | 0x2B => some (.policyBltu d a imm)
  | 0x2C => if d = 0 ∧ a = 0 then some (.policyJmp imm) else none
  | 0x30 => if d = 0 ∧ a = 0 then some (.policyLoopi imm) else none
  | 0x31 => if d = 0 ∧ imm = 0 then some (.policyLoopr a) else none
  | 0x32 => if d = 0 ∧ a = 0 ∧ imm = 0 then some .policyEndl else none
  | 0x33 => if a = 0 ∧ imm = 0 then some (.policyIter d) else none
  | _ => none

/-! ## Both spaces -/

/-- The instruction is well formed: its fields are ones the spec's tables allow. A step without an encoding always is. -/
def Instr.wf (i : Instr) : Bool :=
  match i.crewOp with
  | some (op, a) => a.ok op
  | none => match i with
    | .pairIssue p => p.ok
    | .policyLd _ _ imm => imm.extractLsb' 16 2 == 0
    | .policyLdw _ _ imm => imm.extractLsb' 16 2 == 0
    | .policySt _ _ imm => imm.extractLsb' 16 2 == 0
    | .policyStw _ _ imm => imm.extractLsb' 16 2 == 0
    | _ => true

/-- The instruction is a step of the device or of its surroundings: it has no encoding. -/
def Instr.isStep (i : Instr) : Bool := i.crewOp.isNone && i.pair?.isNone && i.policyWord.isNone

/-- Length in bytes and word of an instruction, the first byte in bits [7:0]; bits beyond the length are zero. A step of the device
has none. -/
def encode (i : Instr) : Option (Nat × BitVec 128) :=
  match i.crewOp with
  | some (op, a) => some (a.form.bytes, a.word op)
  | none => match i.pair? with
    | some p => some (16, p.word)
    | none => i.policyWord.map fun w => (4, w.setWidth 128)

/-- The instruction of a given length in bytes: 4 for a policy word, 8, 12 or 16 for a crew instruction. -/
noncomputable def decode (len : Nat) (w : BitVec 128) : Except DecodeErr Instr :=
  if len = 4 then
    match decodePolicy (w.extractLsb' 0 32) with
    | some i => .ok i
    | none => .error .illegalField
  else if len = lengthOf (w.extractLsb' 0 2).toNat then decodeCrew w
  else .error .illegalField

/-- The instruction of the first `nbits` bits, as the opcode table numbers them; bits above are zero. -/
noncomputable def decodeTableWord (nbits w : Nat) : Option Instr :=
  match decode (nbits / 8) (BitVec.ofNat 128 w) with
  | .ok i => some i
  | .error _ => none

end Sys2Proof
end

