-- ==== Sys2Proof/Machine/Parts.lean ====
section
/-! DEFINITION. The parts of State: units, crews, cores, blocks, launches, queues, policy engines and what is in flight between them.
Numbers are those of R7 and R11: core 0 to 127, crew slot 32 * core + 8 * issuer + slot, block key 16 * core + block slot. -/

namespace Sys2Proof.Machine

/-! ## Units and crews (R77 to R94, R120 to R129) -/

/-- A crew among those of its launch: its block's number and its global index. Indices of two benches with different `.crews` may be the same
(R77, R236); block numbers never are. -/
abbrev CrewName := Nat × Nat

/-- What a stalled unit waits for (R81). The instruction is executed again when it clears. -/
inductive Hazard where
  /-- tokens of the wait mask, R64, R102 -/
  | tokens (mask : BitVec 8)
  /-- a token at 63, R203 -/
  | tokenRoom (k : Nat)
  /-- the unit's outstanding results, R45, R63 -/
  | results
  /-- every outstanding result of the crew, R103 -/
  | crewResults
  /-- a tile entry of the core, named by an operand slot, to reach one of the states (R182 codes); `idle`: no engine operation names it,
  R183, R184 -/
  | entry (e : Nat) (states : List Nat) (idle : Bool) (slot : Nat)
  /-- earlier scratchpad accesses: stores and atomics, or loads; `peers` counts those to other cores, R181, R193, R225 -/
  | scratch (loads peers : Bool)
  /-- a release at a scope; `un` counts UN stores, `scr` scratchpad stores and atomics, `loads` scratchpad loads, R181, R299, R303 -/
  | release (scope : Nat) (un scr loads : Bool)
  /-- the crew's earlier SO stores, R298 -/
  | strong
  /-- the crew's own unperformed stores to a physical line, R296 -/
  | drain (line : Nat)
  /-- a free store-buffer entry and no piece waiting, R302 -/
  | storeRoom
  /-- a chute slot for at most 64 ck, R224 -/
  | chute (n : Nat) (acquire : Bool)
  /-- room in queue q of the core, R246, R272 -/
  | queueRoom (q : Nat)
  /-- multicast credits of the masked cores, R227 -/
  | credits (n mask : Nat)
  /-- a partial credit of the queue, R276 -/
  | partialCredit (q : Nat)
  /-- in-flight engine work that targets the counter, R199 -/
  | counterWork (e : Nat)
  /-- engine operations that name the slot entry of a home core, R226 -/
  | entryWork (core e : Nat)
  /-- another agent's lease, or the lock, of the physical line, R334, R347 -/
  | line (line : Nat)
  /-- ownership of a line, with the lines in ascending order that the instruction needs: those up to it which the core's L1 has obtained
  stay locked until the instruction is performed (R334, R345, R353) -/
  | owner (line : Nat) (lines : List Nat)
  /-- earlier LDC accesses of the crew, R309 -/
  | constLoads
  /-- another transition of the tile entry in this ck, R185 -/
  | turn (core e : Nat)
  /-- another acceptance by the core's hoist engine (0) or task scheduler (1) in this ck, R250, R272 -/
  | acceptance (engine : Nat)
  /-- tasks that name the slot entry of a home core, R279 -/
  | taskWork (core e : Nat)
  deriving DecidableEq, Repr

/-- What a suspended unit waits for (R91, R92). -/
inductive Wake where
  /-- SUSPEND on counter e of the core, R91 -/
  | counter (e target : Nat)
  /-- on the acquire or take list of a chute instance, R224 -/
  | chute (n : Nat) (acquire : Bool)
  /-- BAR: group and recorded epoch, R214 -/
  | barrier (group target : Nat)
  /-- WAITADDR: watched physical line, counter and target of `.ev`, R315 -/
  | watch (line : Nat) (counter : Option (Nat × Nat))
  /-- WAITADDR without a free watch: re-executes every 4,096 ck, R316 -/
  | poll (since : Nat)
  /-- CAP.ENTER: the record's first physical line and its deadline, R353 -/
  | record (line deadline : Nat)
  /-- CAP.RESULT, R365 -/
  | result
  deriving DecidableEq, Repr

/-- The stops of the debug registers (R114). -/
inductive DebugStop where
  | none
  | step
  | code
  | watch
  deriving DecidableEq, Repr

/-- A fault that holds a unit (R432): its cause, the bytes of the instruction (0 where none was decoded), whether the unit was in
capsule mode (R366), whether it is a stop of the debug registers (R114). -/
structure Hold where
  cause : Nat
  length : Nat
  capsule : Bool
  dbg : DebugStop
  /-- which of the holds of the machine it is: a record's disposition answers that one alone (R441) -/
  serial : Nat := 0
  deriving DecidableEq, Repr

/-- A stall that ends in tile-stall after 1,048,576 ck, with the record's operand slot, index kind and index (R184, R195, R227, R276). -/
def Hazard.limited : Hazard → Option (Nat × Nat × Nat)
  | .entry e _ _ slot => some (slot, 1, e)
  | .credits n _ => some (5, 2, n)
  | .partialCredit _ => some (0, 0, 0)
  | _ => none

/-- The states of R81, with the holds of R432 and R436. -/
inductive UnitState where
  | ready
  | stalled (h : Hazard)
  | marked
  /-- newly split from a unit of the crew, whose outstanding results it awaits (R85) -/
  | splitting (parent : Nat)
  /-- a transfer past 1,024 instructions, to behave as if it carried S (R63) -/
  | limited
  /-- at a JOIN; a merger carries the join id and its S -/
  | joined (merger : Option (Nat × Bool))
  | dozing (until_ : Nat)
  | suspended (w : Wake) (woken : Bool)
  /-- the main unit after EXIT; `move` at a bench retirement point (R94, R242) -/
  | retiring (move : Bool)
  /-- a spall at a JOIN with S, whose outstanding results it awaits before it is JOINED (R63, R87) -/
  | joining
  /-- at a fault whose record is formed, awaiting the unit's outstanding results before it is held (R432) -/
  | faulting (record : BitVec 512) (h : Hold)
  /-- held at a fault, awaiting a disposition (R432) -/
  | held (h : Hold)
  /-- waiting to enter the handler: record and resumption address (R436) -/
  | entering (record : BitVec 512) (resume : Dword)
  deriving DecidableEq, Repr

/-- A unit of a crew: the main unit (number 0) or a spall (its record slot 1 to 16) (R81, R86). -/
structure CrewUnit where
  pc : Dword
  /-- s60 to s62 -/
  mask : Mask
  dom : Mask
  st : UnitState
  /-- join id of a spall -/
  joinId : Nat
  /-- owner of a spall -/
  owner : Nat
  /-- open set (R85) -/
  opens : BitVec 16
  /-- instructions issued since it last left MARKED, or started (R63) -/
  run : Nat
  /-- nothing issued since it last left MARKED, JOINED, DOZING or SUSPENDED, or started (R82) -/
  stop : Bool
  /-- ck in which its instruction last stalled or trapped: it is not chosen again in that ck; the model's own (log 1) -/
  tried : Option Nat
  /-- ck at which the present stall began (R184, R224) -/
  since : Nat
  /-- PC of the instruction from which control arrived (R70) -/
  origin : Dword
  /-- epoch recorded with the unit at BAR, and the PC of that BAR (R214) -/
  barEpoch : Option Nat
  barPc : Dword
  /-- step and data-watch stops to raise at the next instruction (R114) -/
  debugStops : List DebugStop
  /-- the code breakpoint at this PC has been answered and does not fire again at this issue (R440) -/
  debugSkip : Bool
  /-- ck at which it last went on from a stop point, or started (R387) -/
  stopAt : Nat
  deriving DecidableEq, Repr

/-- A register write that an outstanding result will make: one main-file, operand-file or scalar register. -/
structure RegWrite where
  reg : Opnd
  mask : Mask
  vals : List Word
  deriving DecidableEq, Repr

/-- A variable-latency result on its way (R62). `parts` accesses are still to be performed before it can return. -/
structure Result where
  id : Nat
  /-- first ck in which it may return: the one after its issue (R62), or the fixed one of a scratchpad access (R174) -/
  due : Nat
  /-- record of the unit that awaits it; `orphanUnit` once that unit's record has been freed (R90) -/
  unit : Nat
  writes : List RegWrite
  flags : BitVec 7
  parts : Nat
  /-- an LDC (R309) -/
  ldc : Bool
  tok : Option Nat
  deriving DecidableEq, Repr

/-- A store-buffer entry, or a piece that waits for one (R302, R304). -/
structure StoreEntry where
  /-- physical line number and key slot -/
  line : Nat
  key : Nat
  kind : Nat
  scope : Nat
  rel : Bool
  /-- bytes of the line by offset: the byte mask and the data -/
  bytes : Table Byte
  /-- store instructions with lanes in it -/
  ids : List Nat
  /-- it came back with a restored crew: no newer store of the crew is sent before it, or merged into it (R304) -/
  old : Bool
  deriving DecidableEq, Repr

/-- The token that a store instruction falls when its pieces are performed at the scope (R306). -/
structure StoreToken where
  tok : Nat
  scope : Nat
  deriving DecidableEq, Repr

/-- Deferred record of a join id (R88). -/
structure Deferred where
  addr : Dword
  mask : Mask
  /-- the merger runs the record's lanes; `arrived` are those it saved -/
  running : Bool
  arrived : Mask
  deriving DecidableEq, Repr

inductive CapRole where
  | none
  | holder
  | adopter
  | displaced
  deriving DecidableEq, Repr

/-- A lease (R347, R356): virtual and physical line, deadline, whether it has ended since it was granted. -/
structure Lease where
  vline : Nat
  line : Nat
  deadline : Nat
  ended : Bool
  /-- the unit that took it (R348) -/
  unit : Nat
  deriving DecidableEq, Repr

/-- Capsule state (R351), with the leases on the record's two lines (R353). -/
structure Capsule where
  role : CapRole
  /-- executing capsule mode (R355): set by CAP.ENTER, cleared when CAP.STEP or CAP.END leaves it -/
  mode : Bool
  record : Dword
  gen : Nat
  step : Nat
  ckc : List Word
  count : Nat
  /-- step write buffer by physical byte address -/
  wbuf : Table Byte
  /-- lines that wbuf writes, with key slot -/
  wlines : Table Nat
  stash : List Word
  stashPc : Dword
  /-- start of the current step: image plus base plus 0x200 * step (R350, R357) -/
  stepPc : Dword
  adopted : Bool
  res : Dword
  rv : Bool
  /-- the unit was descheduled inside capsule mode and resumes under R357 -/
  descheduled : Bool
  recLeases : List Lease
  deriving DecidableEq, Repr

/-- Debug registers (R114). -/
structure Debug where
  ctl : Word
  bp : List Word
  wlo : Word
  whi : Word
  wctl : Word
  stat : Word
  deriving DecidableEq, Repr

/-- One bench's or kernel's shape values (R377, R380). -/
structure Shape where
  entry : Nat
  regs : Nat
  bound : Nat
  crews : Nat
  scratch : Nat
  wlines : Nat
  nx : Nat
  ny : Nat
  nz : Nat
  deriving DecidableEq, Repr

/-- A crew with all of its context (R79, R81, R120 to R129, R203, R206, R220, R271, R273, R276, R302, R351, R435). -/
structure Crew where
  launch : Nat
  block : Nat
  /-- global crew index (R77) -/
  index : Nat
  bench : Nat
  /-- ck at which it took its present slot, and ck run before that (R108) -/
  placed : Nat
  ranBefore : Nat
  budget : Nat
  bound : Nat
  /-- budget registers; unlisted registers are zero (R79) -/
  pool : Table (List Word)
  oregs : Table (List Word)
  sregs : Table Word
  /-- l0 and l1 of pipe A, then of pipe B (R61) -/
  last : List (Option (List Word))
  fflags : BitVec 7
  fenable : BitVec 7
  prio : BitVec 2
  tokens : Table Nat
  units : Table CrewUnit
  deferred : Table Deferred
  out : List Result
  nextId : Nat
  hpc : Dword
  hmask : Mask
  hcause : BitVec 8
  /-- [0] in handler, [5:1] spall id -/
  hstate : BitVec 6
  hrec : BitVec 512
  dbg : Debug
  /-- arrival records: target epoch by group (R206) -/
  arrivals : Table Nat
  cap : Capsule
  leases : List Lease
  sbuf : List StoreEntry
  pieces : List StoreEntry
  /-- unacknowledged counters of scopes 1 to 6 (R303) -/
  unack : Table Nat
  storeToks : Table StoreToken
  /-- chute slots held (R220) -/
  slots : Nat
  tileModes : Table Nat
  steer : Nat
  produce : Table Nat
  take : Table Nat
  deriving DecidableEq, Repr

def Crew.name (c : Crew) : CrewName := (c.block, c.index)

/-! ## The core -/

/-- A tile-table entry (R182); invalid entries are not listed. State 0 EMPTY, 1 FILLING, 2 READY, 3 DRAINING; size in KiB, minus one. -/
structure TileEntry where
  chute : Bool
  late : Bool
  owner : Nat
  state : Nat
  size : Nat
  base : Nat
  expect : Nat
  landed : Nat
  deriving DecidableEq, Repr

/-- An event counter (R196); invalid counters are not listed. -/
structure Counter where
  bytes : Bool
  owner : Nat
  epoch : Nat
  target : Nat
  count : Nat
  deriving DecidableEq, Repr

/-- A chute descriptor (R219); invalid descriptors are not listed. ssize and nslots are minus one, as the fields hold them. -/
structure Chute where
  launch : Nat
  cluster : Bool
  producer : Bool
  mc : Bool
  home : Nat
  cbslot : Nat
  base : Nat
  ssize : Nat
  nslots : Nat
  first : Nat
  head : Nat
  tail : Nat
  nready : Nat
  nempty : Nat
  allow : List Nat
  held : List Nat
  credit : List Nat
  /-- crew and unit waiting to acquire, and to take, first first (R224) -/
  acqList : List (CrewName × Nat)
  takeList : List (CrewName × Nat)
  deriving DecidableEq, Repr

/-- A slot record (R220). -/
structure SlotRec where
  item : Nat
  mark : Bool
  eng : Bool
  acqcore : Nat
  holder : Nat
  deriving DecidableEq, Repr

inductive SpOp where
  | load
  | store
  | atom (op : Nat)
  | cas
  deriving DecidableEq, Repr

/-- One lane of a scratchpad access: target block slot, byte offset within its allocation, bytes to store or to combine, compare
word. A scalar-shaped access is lane 0x7F. -/
structure SpLane where
  lane : Nat
  bslot : Nat
  offset : Nat
  data : List Byte
  cmp : Nat
  deriving DecidableEq, Repr

/-- A scratchpad instruction's part for one core, waiting at that core's lane port (R174, R180). -/
structure SpAccess where
  crew : Nat
  unit : Nat
  peer : Bool
  op : SpOp
  size : Nat
  /-- the result it fills, its id -/
  result : Option Nat
  tok : Option Nat
  /-- the parts of the instruction share this number -/
  serial : Nat
  /-- ck of its issue: the port serves it in a later one (R174) -/
  since : Nat
  lanes : List SpLane
  deriving DecidableEq, Repr

inductive HoistKind where
  | lane
  | tensor
  | multicast
  | storeLane
  | storeTensor
  | qfence
  deriving DecidableEq, Repr

/-- A hoist-queue entry (R254, R265). -/
structure Hoist where
  id : Nat
  /-- crew slot, launch, global crew index and block of the issuer -/
  crew : Nat
  launch : Nat
  index : Nat
  block : Nat
  bslot : Nat
  spall : Nat
  pc : Dword
  kind : HoistKind
  src : Nat
  win : Nat
  width : Nat
  rows : Nat
  planes : Nat
  mrow : Int
  mplane : Int
  srow : Nat
  splane : Nat
  /-- lane, memory address, window address -/
  lanes : List (Nat × Nat × Nat)
  size : Nat
  tgt : Nat
  tindex : Nat
  tok : Option Nat
  scope : Nat
  chute : Nat
  /-- landing slots of HOIST.MC: core within the cluster and tile entry -/
  landings : List (Nat × Nat)
  /-- entries that QFENCE waits for: queue and id -/
  after : List (Nat × Nat)
  cursor : Nat
  total : Nat
  /-- the release of R249 has been made -/
  started : Bool
  held : Bool
  /-- lanes whose window named the issuer's own block at issue, lane 0 for a tensor form (R264) -/
  own : Mask
  /-- source lines that a lane form has read, by virtual line: each is read once (R255) -/
  read : Table (List Byte)
  /-- d0 to d5 and the queue mask of QFENCE, as issued (R265) -/
  desc : List Word
  qmask : Nat
  /-- restored, so that its other windows are checked again when it resumes (R264) -/
  check : Bool
  /-- the line that its next piece waits for, and since which ck (R334, R347) -/
  wait : Option (Nat × Nat)
  deriving DecidableEq, Repr

/-- The crew that issued it. -/
def Hoist.name (h : Hoist) : CrewName := (h.block, h.index)

/-- A tile task (R272, R289), in queue mq0 or mq1. -/
structure Task where
  id : Nat
  /-- crew slot, launch, global crew index, block and block slot of the issuer -/
  crew : Nat
  launch : Nat
  index : Nat
  block : Nat
  bslot : Nat
  spall : Nat
  pc : Dword
  op : Nat
  ctl : BitVec 9
  aux : BitVec 16
  dst : Nat
  arg : Word
  /-- the region: kind (0 entry, 1 slot, 2 chute instance), block slot, offset of its first byte in that block's allocation, length -/
  kind : Nat
  regionBslot : Nat
  regionBase : Nat
  regionLen : Nat
  /-- tile entry or slot that the task names, or has taken -/
  entry : Option Nat
  chute : Nat
  offset : Nat
  scope : Nat
  tok : Option Nat
  steered : Bool
  pseq : Nat
  sa : List Word
  /-- merge registers of TOPK -/
  merge : List (List Word)
  lanes : Mask
  /-- id of the register result it fills -/
  result : Option Nat
  /-- accumulator tile -/
  tile : Option Nat
  /-- weight lines it reads or writes: first line, count, engines -/
  wbase : Nat
  wsize : Nat
  wmask : Nat
  /-- mode of the tile at acceptance (R271) -/
  mode : Nat
  started : Bool
  /-- ck of its acceptance, then of its start: it ends in a later one -/
  since : Nat
  /-- value of the in2 register, or zero (R289) -/
  handle : Word
  deriving DecidableEq, Repr

/-- The crew that issued it. -/
def Task.name (t : Task) : CrewName := (t.block, t.index)

/-- An entry of one of the six queues hq0 to hq3, mq0, mq1 (numbered 0 to 5, R253). -/
inductive QItem where
  | hoist (h : Hoist)
  | task (t : Task)
  deriving DecidableEq, Repr

/-- An unscaled partial (R267, R276): 128 columns of 96 rows. -/
structure Partial where
  queue : Nat
  launch : Nat
  name : CrewName
  seq : Nat
  fp : Bool
  cols : List (List Word)
  /-- words in error, as 128 * row + column (R444) -/
  bad : List Nat := []
  deriving DecidableEq, Repr

/-- A cached code line (R69, R112) or constant line (R309), with launch and physical line. -/
structure CodeLine where
  launch : Nat
  /-- virtual line number -/
  vline : Nat
  bytes : List Byte
  map : List Bool
  deriving DecidableEq, Repr

structure ConstLine where
  launch : Nat
  vline : Nat
  bytes : List Byte
  deriving DecidableEq, Repr

/-- A performance counter (R116). -/
structure Perf where
  event : Nat
  launch : Nat
  count : Dword
  deriving DecidableEq, Repr

inductive Mesi where
  | shared
  | exclusive
  | modified
  deriving DecidableEq, Repr

structure Core where
  tiles : Table TileEntry
  counters : Table Counter
  chutes : Table Chute
  slotRecs : Table SlotRec
  /-- lane-port requests by source: issuers 0 to 3, then the window (R174) -/
  port : Table (List SpAccess)
  portPtr : Nat
  /-- first ck in which the lane port is free (R174) -/
  portFree : Nat
  /-- hq0 to hq3, mq0, mq1 -/
  queues : Table (List QItem)
  partials : List Partial
  /-- partial credits taken, by queue (R276) -/
  creditsUsed : Table Nat
  perf : Table Perf
  /-- candidate unit and its age, by crew slot 0 to 31 (R83) -/
  cand : Table (Nat × Nat)
  watches : Nat
  icache : List CodeLine
  ccache : List ConstLine
  l1 : Table Mesi
  /-- predicted cluster by line (R331) -/
  predictor : Table Nat
  /-- gate value, and the one that takes its place at a window boundary (R462) -/
  gate : Nat
  gateNew : Nat
  gateAt : Nat
  deriving DecidableEq, Repr

/-! ## Blocks and launches -/

/-- A resident block, or a chute block (R78, R170, R218, R269, R270). -/
structure Block where
  launch : Nat
  number : Nat
  bench : Nat
  chute : Bool
  base : Nat
  size : Nat
  mem : Memory
  wbase : Nat
  wlines : Nat
  /-- weight table of engine 0 at 0 to 127, of engine 1 at 128 to 255: form and base (R270) -/
  wtab : Table (Nat × Nat)
  /-- lines of engine 0 and of engine 1, by byte -/
  w0 : Memory
  w1 : Memory
  placed : Nat
  /-- crew slots of its crews, in order -/
  crews : List Nat
  /-- ck at which the block point last fired (R407) -/
  idleSince : Option Nat
  /-- 0 none, 1 draining, 2 saving, 3 flushing (R387), 4 freed but for hoists that are to reach it (R179) -/
  strategy : Nat
  /-- ck by which a drain must end (R388) -/
  limit : Nat
  /-- priority set at its enqueue (R408) -/
  prio : Nat := 0
  /-- a change of holder, and nothing else, takes it away (R406) -/
  byChange : Bool := false
  deriving DecidableEq, Repr

/-- A block in the save area (R390), with the wake registrations of its units (R393). The crews' unit states carry what each waits for. -/
structure Saved where
  block : Block
  core : Nat
  bslot : Nat
  crews : List Crew
  tiles : Table TileEntry
  counters : Table Counter
  queues : Table (List QItem)
  partials : List Partial
  bytes : Nat
  /-- the parts of the save area that its image takes, and the image as written: its header (kind 0), then its sections -/
  extents : List (Nat × Nat)
  image : List (Nat × List Byte)
  /-- soft errors in it: structure code, position of the crew, index (R444) -/
  soft : List (Nat × Nat × Nat)
  /-- one of its units could continue; and it could from the save (R393) -/
  runnable : Bool
  fromSave : Bool
  /-- it stands in a run queue, a ring or a grant, or its wake decision is pending (R425) -/
  queued : Bool
  /-- ck of the save (R408) -/
  since : Nat := 0
  deriving DecidableEq, Repr

/-- A group-table item (R378): a range, or a bitmap over 64 indices. -/
structure GroupItem where
  bitmap : Bool
  lo : Nat
  hi : Nat
  deriving DecidableEq, Repr

/-- A barrier record (R205). -/
structure Barrier where
  members : Nat
  arrived : Nat
  leaving : Nat
  epoch : Nat
  deriving DecidableEq, Repr

/-- A chute declaration (R379). -/
structure ChuteDecl where
  index : Nat
  cluster : Bool
  producer : Bool
  mc : Bool
  slots : Nat
  kib : Nat
  allow : List Nat
  deriving DecidableEq, Repr

/-- A bench of a launch (R235, R380) with its run-time state (R238, R239). -/
structure Bench where
  shape : Shape
  inmask : BitVec 64
  outmask : BitVec 64
  persist : List Nat
  share : Nat
  mincores : Nat
  maxcores : Nat
  closing : Bool
  stack : List (List Word)
  deriving DecidableEq, Repr

/-- A chute instance saved by a halt (R244). -/
structure SavedChute where
  core : Nat
  index : Nat
  desc : Chute
  tiles : Table TileEntry
  recs : Table SlotRec
  deriving DecidableEq, Repr

inductive LaunchState where
  /-- admitted, waiting for a chute index (R218) -/
  | waiting
  | running
  | halting
  | halted
  /-- ended by ABORT, a disposition or a reset; completes with ABORTED -/
  | aborted
  deriving DecidableEq, Repr

structure Launch where
  tenant : Nat
  part : Nat
  /-- queue and packet index to complete -/
  queue : Nat
  packet : Nat
  st : LaunchState
  nblocks : Nat
  /-- next new block number (R236, R384) -/
  nextBlock : Nat
  shape : Shape
  trapoff : Nat
  imagetag : Word
  codesz : Nat
  code : Dword
  xmap : List Byte
  paramAddr : Dword
  parlen : Nat
  swap : Bool
  restart : Bool
  trace : Bool
  dbg : Bool
  tbase : Dword
  tlen : Nat
  tset : Bool
  groups : Table (List GroupItem)
  barriers : Table Barrier
  chutes : List ChuteDecl
  benches : List Bench
  /-- bench of each assigned core, and the bench a moving core goes to (R237, R242) -/
  assign : Table Nat
  moving : Table Nat
  rebal : Nat
  nextRebal : Nat
  saveAddr : Dword
  saveLen : Nat
  saved : Table Saved
  /-- flushed blocks to be queued again, with the cluster they left (R391) -/
  requeue : List (Nat × Nat)
  savedChutes : List SavedChute
  savedChuteBlocks : Table Block
  /-- the parts of the save area that they take -/
  chuteExtents : List (Nat × Nat)
  /-- block lifetimes, latest first, at most 16 (R387) -/
  lifetimes : List Nat
  /-- sum and number of measured distances between stop points (R387) -/
  runSum : Nat
  runCount : Nat
  /-- ck at which each block was first queued (R423) -/
  queuedAt : Table Nat := []
  /-- the cluster whose change of holder halts it (R406) -/
  haltedBy : Option Nat := none
  deriving DecidableEq, Repr

/-- A write to a launch's trace buffer that is to be made: a record of TMARK, or the zeroed header (`value` none); who made it, the buffer,
the ck of its issue (R115, R396). -/
structure TraceOp where
  launch : Nat
  tenant : Nat
  part : Nat
  index : Nat
  block : Nat
  bslot : Nat
  crew : Nat
  unit : Nat
  pc : Dword
  base : Nat
  len : Nat
  ck : Nat
  value : Option Word
  deriving DecidableEq, Repr

/-! ## Queues and packets -/

/-- A write of the complex: what it is for, address and bytes (R375, R481). -/
structure CpWrite where
  va : Dword
  data : List Byte
  /-- launch of the packet it is for -/
  launch : Nat
  deriving DecidableEq, Repr

/-- A started packet that has not completed: index, the packet, launch it opened (R374). -/
structure Started where
  index : Nat
  packet : BitVec 512
  launch : Nat
  /-- waits to complete: nothing more is to be done but the completion -/
  ready : Bool
  status : Nat
  detail : Nat
  /-- blocks that a PREEMPT waits for, by number (R395) -/
  waits : List Nat
  /-- the voidings of its queue's references when those of its own fields were derived (R367) -/
  life : Nat := 0
  deriving DecidableEq, Repr

/-- A packet read ahead of its turn (R382), with what a LAUNCH has had read for it: the launch block, the map, and by virtual line the first
64 KiB of its image and its parameters. -/
structure Ahead where
  packet : BitVec 512
  data : List Byte
  xmap : List Byte
  code : Table (List Byte)
  params : Table (List Byte)
  deriving DecidableEq, Repr

structure Queue where
  record : Dword
  pbase : Dword
  cbase : Dword
  lsize : Nat
  priv : Nat
  tenant : Nat
  part : Nat
  /-- window reference (R367): base, length, rd, wr, fx -/
  wbase : Dword
  wlen : Nat
  rd : Bool
  wr : Bool
  fx : Bool
  /-- generation of its slot when its window reference was made (R367) -/
  gen : Nat
  slot : Option Nat
  mappedAt : Nat
  head : Nat
  tail : Nat
  ctail : Nat
  /-- the packet at head as read, when it has landed -/
  current : Option (BitVec 512)
  /-- packets read ahead, by index (R382) -/
  ahead : Table Ahead
  /-- ck at which the packet at head was first found not landed, and was last read (R370) -/
  unlanded : Option (Nat × Nat)
  started : List Started
  /-- a DEPEND holds later packets (R372) -/
  depend : Bool
  stopped : Bool
  /-- being destroyed: the packet of DESTROY.QUEUE, by queue and index -/
  destroy : Option (Nat × Nat)
  /-- writes still to be made, first first; the first may be held at a fault (R481) -/
  writes : List CpWrite
  paused : Bool
  /-- ck since which it has gone without a slot while it qualified (R404) -/
  unmappedAt : Nat
  /-- how often its references have been voided (R367) -/
  life : Nat := 0
  /-- another queue is to have its slot (R404) -/
  giveUp : Bool := false
  /-- what follows head may not have been read ahead yet (R382) -/
  scan : Bool := false
  deriving DecidableEq, Repr

/-! ## Tenants, partitions, policy -/

structure Tenant where
  /-- scope grant: [0] tenant, [1] module, [2] system (R293) -/
  grant : BitVec 3
  root2 : Option Nat
  rate : Nat
  cap : Nat
  bcap : Nat
  debt : Nat
  level : Int
  alim : Nat
  enf : Bool
  exh : Bool
  /-- crew-cycles since the last charge (R399) -/
  used : Nat
  deriving DecidableEq, Repr

structure Part where
  tenant : Nat
  clusters : BitVec 32
  root1 : Option Nat
  /-- cap and weight of the power register (R461) -/
  power : BitVec 32
  /-- a reset is purging and wiping (R397, R398) -/
  resetting : Bool
  deriving DecidableEq, Repr

structure Routine where
  words : List Word
  /-- physical address and length of the window -/
  wbase : Nat
  wlen : Nat
  allowance : Nat
  part : Nat
  deriving DecidableEq, Repr

/-- An invocation of a decision point (R407, R419): point, layer (0 T, 1 H), candidate block and the core it concerns. -/
structure Invocation where
  point : Nat
  layer : Nat
  part : Nat
  launch : Nat
  block : Nat
  candidate : Bool
  core : Nat
  /-- ck at which the candidate was queued, saved or blocked (R408) -/
  since : Nat
  /-- ck of the event (R419) -/
  fired : Nat := 0
  deriving DecidableEq, Repr

structure Loop where
  start : Nat
  remaining : Nat
  iter : Nat
  deriving DecidableEq, Repr

/-- A run-queue entry (R408, R423). -/
structure RunEntry where
  launch : Nat
  block : Nat
  prio : Nat
  saved : Bool
  /-- ck at which it was first queued, and at which it entered this queue -/
  since : Nat
  here : Nat
  deriving DecidableEq, Repr

/-- A block that a pick has given to a core (R407): it is placed, or restored, there. -/
structure Grant where
  core : Nat
  launch : Nat
  block : Nat
  saved : Bool
  prio : Nat := 0
  deriving DecidableEq, Repr

/-- A cluster's dispatcher and policy engine (R405 to R421). -/
structure Cluster where
  holders : List Nat
  holder : Option Nat
  /-- partition that becomes holder when the change ends, and whether the floor forced it -/
  change : Option (Nat × Bool)
  servedSince : Table Nat
  runq : List RunEntry
  lastPicked : Nat
  /-- ck of the next tick (R407) -/
  nextTick : Nat
  /-- routines by routineKey of point, layer and partition; overruns likewise -/
  routines : Table Routine
  overruns : Table Nat
  pending : List Invocation
  /-- placements decided and not yet made -/
  granted : List Grant
  running : Option Invocation
  /-- ck at which the running routine started -/
  started : Nat
  code : Routine
  word : Nat
  regs : Table Dword
  loops : List Loop
  decisions : Table Dword
  cycles : Nat
  /-- ck at which its END was executed: the decision is applied in a later ck (R420) -/
  ended : Option Nat := none
  /-- launch and number of the block that d.pick named when it was set (R420) -/
  named : Option (Nat × Nat) := none
  /-- L1 misses, and L2 misses served from memory, of the last tick interval and of the current one (R408) -/
  misses : Nat
  l2misses : Nat
  missNow : Nat := 0
  l2Now : Nat := 0
  deriving DecidableEq, Repr

/-- A migration-ring entry (R423). -/
structure Migrant where
  launch : Nat
  block : Nat
  prio : Nat
  saved : Bool
  since : Nat
  from_ : Nat
  part : Nat
  /-- entry of the ring that holds it -/
  slot : Nat := 0
  deriving DecidableEq, Repr

/-! ## Memory system in flight -/

/-- A non-leaf table entry in a die's walk caches (R325): stage 1 of a partition or stage 2 of a tenant, the level, the part of the
address above it, and the entry as it was read. -/
structure WalkEntry where
  die : Nat
  stage1 : Bool
  owner : Nat
  level : Nat
  at_ : Nat
  lo : Nat
  entry : Nat
  deriving DecidableEq, Repr

/-- A cached combined translation (R324). Place 0 to 127 a core, 128 to 159 a cluster, 160 to 163 a die. -/
structure Tlb where
  place : Nat
  tenant : Nat
  part : Nat
  vbase : Nat
  pbase : Nat
  bits : Nat
  key : Nat
  kind : Nat
  w : Bool
  x : Bool
  d : Bool
  deriving DecidableEq, Repr

/-- A sent store (R303). -/
structure Flight where
  crew : Nat
  launch : Nat
  name : CrewName
  /-- partition through whose tables it was translated (R327) -/
  part : Nat
  entry : StoreEntry
  performed : Bool
  acks : List Nat
  deriving DecidableEq, Repr

/-- Directory and lock of a line (R330, R334). -/
structure Line where
  owner : Option Nat
  sharers : BitVec 32
  locked : Bool
  deriving DecidableEq, Repr

structure Frame where
  cleared : Bool
  key : Nat
  deriving DecidableEq, Repr

inductive KeyState where
  | free
  | live (n : Dword)
  | discarded
  deriving DecidableEq, Repr

/-- A request waiting at a bank: input (0 to 7 clusters, 8 to 10 die links, 11 port and complex), requesting core, line, ownership. -/
structure BankReq where
  input : Nat
  core : Nat
  line : Nat
  /-- key slot of the request (R340) -/
  key : Nat
  own : Bool
  /-- ck in which it joined the conflict queue (R334) -/
  since : Nat
  /-- partition number (R398) -/
  part : Nat
  deriving DecidableEq, Repr

structure Bank where
  inputs : List BankReq
  conflict : List BankReq
  /-- the accepted request whose transaction holds its line's lock (R334) -/
  active : List BankReq
  ptr : Nat
  deriving DecidableEq, Repr

/-- A probe, or the supplied line on its way back through the relay (R331, R332). -/
structure Probe where
  core : Nat
  line : Nat
  key : Nat
  target : Nat
  supplied : Bool
  /-- partition number (R398) -/
  part : Nat
  deriving DecidableEq, Repr

/-- A layer group's retention register and counts (R342 to R344). State 0 powered, 1 entering, 2 retained, 3 leaving. -/
structure Retention where
  reserve : BitVec 24
  idle : Nat
  wake : Nat
  state : Nat
  en : Bool
  lastAccess : Nat
  /-- ck of the latest accesses while it is not powered, latest first, at most `wake` -/
  recent : List Nat
  /-- frames that stand in the reserve while it is entering or leaving (R343, R344) -/
  moved : Nat
  deriving DecidableEq, Repr

/-! ## Faults, firmware, ports -/

/-- Whom a disposition reaches (R440, R441, R481). -/
inductive Target where
  | unit (launch : Nat) (crew : CrewName) (spall serial : Nat)
  | hoist (launch : Nat) (crew : CrewName) (id : Nat)
  | queue (q : Nat)
  | port (id : Nat)
  /-- the launch of a record that holds nothing (R433) -/
  | launch (l : Nat)
  | none
  deriving DecidableEq, Repr

/-- A record on its way to a ring, or written and awaiting its disposition. -/
structure FaultRec where
  record : BitVec 512
  target : Target
  restartable : Bool
  /-- its place among the records of one ck (R438) -/
  place : Nat := 0
  deriving DecidableEq, Repr

/-- A fault ring (R437, R438): 0 to 15 the partitions', 16 the hypervisor's. -/
structure Ring where
  /-- records formed and not yet written, first first -/
  waiting : List FaultRec
  /-- those among the waiting ones already counted in waited -/
  counted : Nat
  /-- records written that head has not passed -/
  open_ : List FaultRec
  head : Nat
  tail : Nat
  waited : Nat
  /-- the poisoned line of the header has been reported (R444) -/
  bad : Bool := false
  deriving DecidableEq, Repr

inductive Boot where
  | empty
  | loading
  | verifying
  | running
  | refused
  deriving DecidableEq, Repr

/-- An answer of the boot service or of a port (R451, R454): code, status (0 done, 1 refused or remote-access error, 2 verifying,
3 not ready), value. -/
structure Reply where
  code : Nat
  status : Nat
  value : List Byte
  deriving DecidableEq, Repr

/-- A memory region of a partition (R451). -/
structure Region where
  key : BitVec 32
  part : Nat
  base : Dword
  len : Nat
  rd : Bool
  wr : Bool
  atom : Bool
  deriving DecidableEq, Repr

/-- A queue pair (R451): port, partition, error state, placement address for SENDs (R305). -/
structure QueuePair where
  port : Nat
  part : Nat
  error : Bool
  recv : Dword
  deriving DecidableEq, Repr

/-- An outbound or inbound work request waiting for its completion (R452). -/
structure PortWork where
  id : Nat
  wr : WorkRequest
  deriving DecidableEq, Repr

/-- An operation that arrives at a port: RDMA (R451) or a Grenone message (R453). -/
inductive PortOp where
  | rdma (op : RdmaOp)
  | message (m : Grenone)
  deriving DecidableEq, Repr

/-- An operation that a fault holds; `told`: its record has not had its disposition. -/
structure PortHold where
  op : PortOp
  told : Bool
  deriving DecidableEq, Repr

/-- Completion ring of a partition (R452): base, entries, records written. -/
structure PortRing where
  base : Dword
  entries : Nat
  written : Nat
  deriving DecidableEq, Repr

/-- A notice or a delivery on its way to a crew (R357, R360). -/
inductive Notice where
  | adoption (launch index : Nat)
  | delivery (launch index : Nat) (res : Dword) (counter : Option Nat)
  deriving DecidableEq, Repr

/-- A multicast credit notification on its way (R227). -/
structure Credit where
  /-- receiving core, and the position of the freeing core in the cluster -/
  target : Nat
  from_ : Nat
  chute : Nat
  deriving DecidableEq, Repr

end Sys2Proof.Machine
end

