-- ==== Sys2Proof/Machine/State.lean ====
section
/-! DEFINITION. The machine's state, its stops, and the state right after the power-on reset (R457). Tables are sparse: an entry that
is not listed holds its reset value. -/

namespace Sys2Proof.Machine

/-- A stop of the model. -/
inductive Fault where
  /-- A crew instruction was executed while no unit had been chosen to issue: raised by every crew meaning. Safe: the hardware has no
  such event (R83). -/
  | noUnit
  /-- A policy operation was executed while no policy engine runs a routine: raised by every policy meaning. Safe: the hardware has
  no such event (R410). -/
  | noEngine
  deriving DecidableEq, Repr

/-- An instruction without a meaning. -/
inductive Refusal where
  /-- Raised by an arm of exec that has no meaning yet, naming the mnemonic. Safe: the machine stops. -/
  | notModelled (mnemonic : String)
  deriving DecidableEq, Repr

structure State where
  /-- module ck counter (R108) -/
  ck : Nat
  /-- supply present (R448) -/
  power : Bool
  /-- steps that the outside and the open timings bring next; the model's own (log 1) -/
  agenda : List Instr
  /-- crew slot and unit chosen to issue; the model's own (log 1) -/
  focus : Option (Nat × Nat)
  /-- part of the ck that the default scheduler is in: 0 engines, 1 issuers, 2 the rest; the model's own (log 1) -/
  phase : Nat
  /-- place, among the six of R201, that the issuers of this ck have reached; the model's own (log 1) -/
  place : Nat
  /-- crew slot and unit of each instruction issued in this ck (R83) -/
  spent : List (Nat × Nat)
  /-- engines, 0 hoist and 1 matrix, that have accepted an entry in this ck, by core (R250, R272) -/
  accepted : List (Nat × Nat)
  /-- tile entries, by core, that have changed state in this ck (R185) -/
  moved : List (Nat × Nat)
  /-- banks that have accepted a request in this ck (R333) -/
  banked : List Nat
  /-- counter of free values; the model's own (log 9) -/
  fresh : Nat
  /-- bytes of the physical space (R16) -/
  mem : Memory
  /-- physical addresses of the trace headers in force, by launch (R115) -/
  heads : Table Nat
  /-- writes to trace buffers that are to be made, oldest first (R115) -/
  traces : List TraceOp
  /-- poisoned lines (R337, R444) -/
  poison : List Nat
  /-- structure code of a line that was poisoned in a cache (R445) -/
  poisonIn : Table Nat
  /-- lines whose latest bytes only a cache holds: the bytes that the memory device still has (R310, R330, R339) -/
  dirty : Table (List Byte)
  /-- frame states by frame number, where they differ from reset (R339) -/
  frames : Table Frame
  /-- key slots that are not FREE (R338) -/
  keys : Table KeyState
  dropCount : Nat
  /-- retention-control registers and accesses, where they differ from reset (R342) -/
  retention : Table Retention
  /-- hot-remove (true) and hot-add (false) events: group (R343, R344) -/
  hotEvents : List (Nat × Bool)
  tlb : List Tlb
  /-- non-leaf table entries in the walk caches (R325) -/
  walks : List WalkEntry
  /-- directory entries and locks (R330, R334) -/
  dir : Table Line
  /-- key slot tag of each line held in L2 (R340) -/
  l2 : Table Nat
  banks : Table Bank
  probes : Table Probe
  /-- sent stores (R302 to R304) -/
  flights : Table Flight
  nextFlight : Nat
  /-- next identifier of hoist entries and tile tasks -/
  nextItem : Nat
  cores : Table Core
  /-- resident blocks by 16 * core + block slot -/
  blocks : Table Block
  /-- resident crews by crew slot -/
  crews : Table Crew
  launches : Table Launch
  nextLaunch : Nat
  queues : Table Queue
  /-- reference table of a complex by 256 * die + entry (R367) -/
  references : Table (BitVec 128)
  /-- generations of the hardware queue slots (R367) -/
  slotGens : Table Nat
  parts : Table Part
  tenants : Table Tenant
  clusters : Table Cluster
  /-- starvation floor, budget period in us, pool (R401, R427) -/
  floor : Nat
  period : Nat
  pool : Int
  /-- next charge, period boundary, arbiter and corrected-summary ck (R399, R401, R460, R446) -/
  nextCharge : Nat
  nextPeriod : Nat
  nextPower : Nat
  nextSummary : Table Nat
  /-- corrections counted by a die (R446) -/
  eccCount : Table Nat
  /-- soft errors not yet read: structure code, owner, index (R444) -/
  softErrors : List (Nat × Nat × Nat)
  rings : Table Ring
  /-- number of the next hold of a unit at a fault; the model's own (log 1) -/
  nextHold : Nat
  /-- policy log of a die: point, cluster and partition of each event (R421, R423, R424) -/
  policyLog : Table (List (Nat × Nat × Nat))
  /-- migration ring of a die (R423, R424) -/
  migRing : Table (List Migrant)
  /-- entry of a die's ring that the next record takes -/
  migNext : Table Nat
  credits : Table Credit
  notices : Table Notice
  nextNotice : Nat
  /-- spoil area: records by index, next, written (R447) -/
  spoil : Table (BitVec 2048)
  spoilNext : Nat
  spoilWritten : Nat
  /-- restarting command-processor cores by 8 * die + core (R449) -/
  cpDown : List Nat
  boot : Boot
  imageStore : List (Nat × Byte)
  /-- running firmware image (R455) -/
  firmware : List (Nat × Byte)
  lifeCycle : Nat
  boots : Nat
  resets : Nat
  /-- a die reset has put this die's ck counter out of step (R457) -/
  ckSkew : List Nat
  /-- ports whose link is down (R450) -/
  portsDown : List Nat
  qps : Table QueuePair
  regions : List Region
  portWork : Table PortWork
  portRings : Table PortRing
  /-- inbound operations refused for a fault that is not resolved, by queue pair (R305, R451) -/
  portHeld : Table PortHold
  replies : List Reply
  deriving DecidableEq, Repr

/-- The reset values of the parts. -/
def Frame.reset : Frame := { cleared := true, key := 0 }
def Retention.reset : Retention :=
  { reserve := 0, idle := 100, wake := 4096, state := 0, en := false, lastAccess := 0, recent := [], moved := 0 }
def Core.reset : Core :=
  { tiles := [], counters := [], chutes := [], slotRecs := [], port := [], portPtr := 0, portFree := 0, queues := [], partials := [],
    creditsUsed := [], perf := [], cand := [], watches := 0, icache := [], ccache := [], l1 := [], predictor := [], gate := 64, gateNew := 64, gateAt := 0 }
def Bank.reset : Bank := { inputs := [], conflict := [], active := [], ptr := 0 }
def Line.reset : Line := { owner := none, sharers := 0, locked := false }
def Tenant.reset : Tenant :=
  { grant := 1, root2 := none, rate := 0, cap := 0, bcap := 0, debt := 0, level := 0, alim := 2000, enf := false, exh := false, used := 0 }
def Routine.none : Routine := { words := [], wbase := 0, wlen := 0, allowance := 2000, part := 0 }
def Cluster.reset : Cluster :=
  { holders := [], holder := .none, change := .none, servedSince := [], runq := [], lastPicked := 0, nextTick := 19000, routines := [], overruns := [],
    pending := [], granted := [], running := .none, started := 0, code := Routine.none, word := 0, regs := [], loops := [], decisions := [], cycles := 0,
    misses := 0, l2misses := 0 }
def Ring.reset : Ring := { waiting := [], counted := 0, open_ := [], head := 0, tail := 0, waited := 0 }

/-- Right after the power-on reset (R457): ck zero, every SRAM and key wiped, no firmware, every frame cleared (R339). The values that
the manual does not give (nextLaunch, gate, lifeCycle, boots, ports) are log 15's. -/
def State.reset : State :=
  { ck := 0, power := true, agenda := [], focus := none, phase := 0, place := 0, spent := [], accepted := [], moved := [], banked := [], fresh := 0, mem := [], heads := [], traces := [], poison := [], poisonIn := [], dirty := [], frames := [], keys := [],
    dropCount := 0, retention := [], hotEvents := [], tlb := [], walks := [], dir := [], l2 := [], banks := [], probes := [],
    flights := [], nextFlight := 0, nextItem := 0, cores := [], blocks := [], crews := [], launches := [], nextLaunch := 1,
    queues := [], references := [], slotGens := [], parts := [], tenants := [], clusters := [], floor := 400000, period := 100, pool := 0,
    nextCharge := 64, nextPeriod := 190000, nextPower := 19000, nextSummary := [], eccCount := [],
    softErrors := [], rings := [], nextHold := 0, policyLog := [], migRing := [], migNext := [], credits := [], notices := [], nextNotice := 0, spoil := [],
    spoilNext := 1, spoilWritten := 0, cpDown := [], boot := .empty, imageStore := [], firmware := [], lifeCycle := 2, boots := 1,
    resets := 0, ckSkew := [], portsDown := [], qps := [], regions := [], portWork := [], portRings := [], portHeld := [],
    replies := [] }

end Sys2Proof.Machine
end

