-- ==== Sys2Proof/Machine/Lines.lean ====
section
/-! DEFINITION. The physical map, what the caches and directories hold of its lines, leases, and who waits for a line (R11, R16, R17, R316,
R329 to R336, R346 to R349). No datum lives in a cache (log 5); `dirty` keeps what the memory device has not been given yet. -/

namespace Sys2Proof.Machine

/-! ## The physical map (R16, R335, R336) -/

/-- HBM4 of the four dies, the capacity tier, the mailbox SRAM, the device registers of the command-processor complexes. -/
def inHbm (pa : Nat) : Bool := decide (pa < 0x008000000000)
def inCapacity (pa : Nat) : Bool := decide (0x010000000000 ≤ pa) && decide (pa < 0x020000000000)
def inMailbox (pa : Nat) : Bool := decide (0x0F0000000000 ≤ pa) && decide (pa < 0x0F0001000000)
def inDeviceRegisters (pa : Nat) : Bool := decide (0x0F1000000000 ≤ pa) && decide (pa < 0x0F1010000000)

/-- Offset of an address from the base of its range on its die. -/
def dieOffset (pa : Nat) : Nat :=
  if inHbm pa then pa % 0x002000000000 else if inCapacity pa then (pa - 0x010000000000) % 0x004000000000
  else if inDeviceRegisters pa then (pa - 0x0F1000000000) % 0x4000000
  else (pa - 0x0F0000000000) % 0x400000

/-- Home die of an address of the map. -/
def homeDie (pa : Nat) : Nat :=
  if inHbm pa then pa / 0x002000000000 else if inCapacity pa then (pa - 0x010000000000) / 0x004000000000
  else if inDeviceRegisters pa then (pa - 0x0F1000000000) / 0x4000000
  else (pa - 0x0F0000000000) / 0x400000

/-- The last 16 MiB of a die's HBM, reserved to the device (R336). -/
def inReserved (pa : Nat) : Bool := inHbm pa && decide (0x001FFF000000 ≤ pa % 0x002000000000)

/-- The top 64 KiB of a die's mailbox SRAM (R424). -/
def inDeviceRegion (pa : Nat) : Bool := inMailbox pa && decide (0x3F0000 ≤ pa % 0x400000)

/-- Physical base of a fault ring: the partitions', then the hypervisor's (R437). -/
def ringBase (ring : Nat) : Nat := 0x0F0000300000 + 0x8000 * ring

/-- The fault rings of die 0's mailbox SRAM. -/
def inRings (pa : Nat) : Bool := decide (ringBase 0 ≤ pa) && decide (pa < ringBase 17)

/-- A byte of a ring that only the device writes: all but the head and the dispositions of the records, whose other fields are read only
or reserved (R5, R430, R437). -/
def ringFixed (pa : Nat) : Bool :=
  let o := (pa - ringBase 0) % 0x8000
  inRings pa && !(decide (o < 4) || (decide (64 ≤ o) && o % 64 == 0))

/-- Number of the 32 KiB frame that holds an address. -/
def frameOf (pa : Nat) : Nat := pa / 32768

/-- Slice and bank of a line's home, as 64 * die + 4 * slice + bank. -/
def bankOf (pa : Nat) : Nat :=
  let o := dieOffset pa
  let slice := if inMailbox pa then bits o 7 4 else bits o 7 4 ^^^ bits o 16 4
  64 * homeDie pa + 4 * slice + bits o 11 2

/-- The stack of an HBM address, of the module's eight. -/
def stackOf (pa : Nat) : Nat := let o := dieOffset pa; 2 * homeDie pa + (bits o 15 1 + bits o 20 1) % 2

/-- The package of a capacity-tier address, of the module's sixteen. -/
def packageOf (pa : Nat) : Nat := let o := dieOffset pa; 4 * homeDie pa + (bits o 15 2 ^^^ bits o 21 2)

/-- The layer group of an HBM address (R342): four layers of its stack. -/
def groupOf (pa : Nat) : Nat := 4 * stackOf pa + bits (dieOffset pa) 33 4 / 4

/-- Which of its group's 524,288 frames an HBM address lies in (R343). -/
def groupFrame (pa : Nat) : Nat := bits (dieOffset pa) 16 19

/-- Structure code of the memory that holds an address (R445). -/
def structureCode (pa : Nat) : Nat := if inMailbox pa then 9 else if inHbm pa then 10 else 11

/-- Structure code of the error that a poisoned line holds: the cache in which it was lost, or the memory (R445). -/
def State.errorCode (s : State) (pa : Nat) : Nat := (s.poisonIn.get? (pa / 128)).getD (structureCode pa)

/-- Base of a group's retention reserve (R342): bits [47:24] of a 16 GiB-aligned range. -/
def Retention.base (r : Retention) : Nat := r.reserve.toNat * 2 ^ 24 / 2 ^ 34 * 2 ^ 34

/-- The address lies in a reserve range that the device holds (R342). -/
def State.inReserve (s : State) (pa : Nat) : Bool :=
  s.retention.any fun e => (e.2.en || e.2.state != 0) && decide (e.2.base ≤ pa) && decide (pa < e.2.base + 2 ^ 34)

/-- A crew, a hoist, a port, a routine or a walk may reach the address; device registers only a complex can (R17, R336, R342, R424). -/
def State.backed (s : State) (pa : Nat) : Bool :=
  (inHbm pa || inCapacity pa || inMailbox pa) && !inReserved pa && !inDeviceRegion pa && !s.inReserve pa

/-! ## Numbering (R7, R11) -/

def coreOf (k : Nat) : Nat := k / 32
def issuerOf (k : Nat) : Nat := k / 8 % 4
def slotOf (k : Nat) : Nat := k % 8
def clusterOf (core : Nat) : Nat := core / 4
def dieOf (core : Nat) : Nat := core / 32

/-- Key of a block slot of a core. -/
def blockKey (core bslot : Nat) : Nat := 16 * core + bslot

/-! ## Cores and crews -/

def State.core (s : State) (n : Nat) : Core := s.cores.getD n Core.reset
def State.setCore (s : State) (n : Nat) (c : Core) : State := { s with cores := s.cores.put n c }
def State.modCore (s : State) (n : Nat) (f : Core → Core) : State := s.setCore n (f (s.core n))

def State.cluster (s : State) (n : Nat) : Cluster := s.clusters.getD n Cluster.reset
def State.modCluster (s : State) (n : Nat) (f : Cluster → Cluster) : State :=
  { s with clusters := s.clusters.put n (f (s.cluster n)) }

/-- Block slot of a crew: that of the resident block of its core that lists it. -/
def State.bslotOf (s : State) (k : Nat) : Nat :=
  ((List.range 16).find? fun b =>
    match s.blocks.get? (blockKey (coreOf k) b) with | some x => x.crews.contains k | none => false).getD 0

/-- Changes every resident crew, every unit of a crew, every saved block of a launch. -/
def State.mapCrews (s : State) (f : Nat → Crew → Crew) : State := { s with crews := s.crews.map fun (e : Nat × Crew) => (e.1, f e.1 e.2) }
def Crew.mapUnits (c : Crew) (f : Nat → CrewUnit → CrewUnit) : Crew :=
  { c with units := c.units.map fun (e : Nat × CrewUnit) => (e.1, f e.1 e.2) }
def Launch.mapSaved (l : Launch) (f : Nat → Saved → Saved) : Launch :=
  { l with saved := l.saved.map fun (e : Nat × Saved) => (e.1, f e.1 e.2) }
def Saved.anyUnit (b : Saved) (p : CrewUnit → Bool) : Bool := b.crews.any fun c => c.units.any fun (e : Nat × CrewUnit) => p e.2

/-- A suspended unit that satisfies `p` is woken (R91). -/
def CrewUnit.wakeIf (h : CrewUnit) (p : Wake → Bool) : CrewUnit :=
  match h.st with
  | .suspended w _ => if p w then { h with st := .suspended w true } else h
  | _ => h

def CrewUnit.waitsFor (h : CrewUnit) (p : Wake → Bool) : Bool := match h.st with | .suspended w _ => p w | _ => false

/-- Writes to the lines of `p` have become performed: watches on them are woken (R316, R353), saved ones make their block runnable (R393). -/
def State.wakeLines (s : State) (p : Nat → Bool) : State :=
  let hit : Wake → Bool
    | .watch l _ => p l
    | .record l _ => p l
    | _ => false
  let s := s.mapCrews fun _ c => c.mapUnits fun _ h => h.wakeIf hit
  { s with launches := s.launches.map fun (e : Nat × Launch) =>
      (e.1, e.2.mapSaved fun _ x => { x with runnable := x.runnable || x.anyUnit fun h => h.waitsFor hit }) }

/-- A write to one line has become performed. -/
def State.wakeLine (s : State) (line : Nat) : State := s.wakeLines (· == line)

/-! ## The directory and the caches (R11, R329, R330, R333) -/

def State.line (s : State) (n : Nat) : Line := s.dir.getD n Line.reset
def State.setLine (s : State) (n : Nat) (x : Line) : State := { s with dir := s.dir.put n x }

/-- Another crew's lease on a physical line is in force (R347). -/
def State.leased (s : State) (line : Nat) (except : Option Nat) : Bool :=
  s.crews.any fun (k, c) => some k != except &&
    (c.leases ++ c.cap.recLeases).any fun l => l.line == line && !l.ended && decide (s.ck < l.deadline)

/-- A unit at a stop point whose block is being saved or flushed does not run (R82, R389, R391). -/
def State.halted (s : State) (k : Nat) (h : CrewUnit) : Bool :=
  match s.blocks.get? (blockKey (coreOf k) (s.bslotOf k)) with
  | some b => b.strategy == 3 || (decide (2 ≤ b.strategy) && h.stop)
  | none => true

/-- A core's L1 holds a line in E or M. -/
def State.owns (s : State) (core n : Nat) : Bool := match (s.core core).l1.get? n with | some .exclusive | some .modified => true | _ => false

def State.bank (s : State) (n : Nat) : Bank := s.banks.getD n Bank.reset
def State.modBank (s : State) (n : Nat) (f : Bank → Bank) : State := { s with banks := s.banks.put n (f (s.bank n)) }

/-- What a bank and its inputs have room for: the conflict queue holds 32 (R333). A unit that waits for a line of the bank stands in it. -/
def State.bankFull (s : State) (bank : Nat) : Bool :=
  let units := (s.crews.map fun e => (e.2.units.filter fun h => match h.2.st with
    | .stalled (.line n) => bankOf (n * 128) == bank
    | _ => false).length).sum
  decide (32 ≤ (s.bank bank).conflict.length + units)

/-- The bank that a core's request for a line enters first: the home's, or that of the same number on its own die, from whose slice the
request crosses the die link (R15). DESIGN CHOICE (log 71): the manual does not say which bank of the own die that is. -/
def firstBank (core n : Nat) : Nat := 64 * dieOf core + bankOf (n * 128) % 64

/-- Die-link input of a bank for a request from another die: 8 to 10 (R333). DESIGN CHOICE (log 71): the manual does not say which input
belongs to which die. -/
def linkInput (src home : Nat) : Nat := 8 + (src + 3 - home) % 4 % 3

/-- Of two claims to a line, each with its ck, crew and unit, the one that stands first. -/
def firstClaim (a : Option (Nat × Nat × Nat)) (b : Nat × Nat × Nat) : Option (Nat × Nat × Nat) :=
  match a with
  | none => some b
  | some x => if b.1 < x.1 ∨ (b.1 = x.1 ∧ (b.2.1 < x.2.1 ∨ (b.2.1 = x.2.1 ∧ b.2.2 < x.2.2))) then some b else some x

/-- The crew for which an obtained line stays locked: that of the first unit whose instruction is still to be performed on it (R334, R345). A
unit whose next request cannot be accepted keeps nothing from others (log 75). -/
def State.pinner (s : State) (line : Nat) : Option Nat :=
  (s.crews.foldl (fun acc (e : Nat × Crew) => e.2.units.foldl (fun acc (u : Nat × CrewUnit) => match u.2.st with
    | .stalled (.owner n ls) =>
      if ls.contains line && decide (line ≤ n) && s.owns (coreOf e.1) line && !s.halted e.1 u.2 &&
          (s.owns (coreOf e.1) n || !(s.bankFull (bankOf (n * 128)) || s.bankFull (firstBank (coreOf e.1) n))) then
        firstClaim acc (u.2.since, e.1, u.1)
      else acc
    | _ => acc) acc) (none : Option (Nat × Nat × Nat))).map fun e => e.2.1

/-- Another crew's atomic, lease or capsule instruction is about to be performed on a line that it has obtained. -/
def State.pinned (s : State) (line : Nat) (except : Option Nat) : Bool :=
  match s.pinner line with | some k => some k != except | none => false

/-- Another agent holds the line: a lease, the lock of its home bank, or that of a transaction whose data are still to be written (R334,
R347). -/
def State.lineHeld (s : State) (n : Nat) (except : Option Nat) : Bool := s.leased n except || (s.line n).locked || s.pinned n except

/-- Removes every L1 copy of a line, save a core's; a copy that a peer has supplied and that has not passed the relay is lost (R330, R332). -/
def State.dropCopies (s : State) (n : Nat) (keep : Option Nat) : State :=
  { s with
    cores := s.cores.map fun (e : Nat × Core) =>
      (e.1, if some e.1 = keep then e.2 else { e.2 with l1 := e.2.l1.del n })
    probes := s.probes.map fun (e : Nat × Probe) => (e.1, if e.2.line = n then { e.2 with supplied := false } else e.2) }

/-- A line is written at its home: every L1 copy is recalled first (R330). -/
def State.homeLine (s : State) (n : Nat) : State :=
  (s.dropCopies n none).setLine n { s.line n with owner := none, sharers := 0 }

/-- Lines of an L1 data cache, of an instruction cache, of a constant cache; ways of an L2 bank's sets (R11, R329, R333). -/
def l1Lines : Nat := 2048
def codeLines : Nat := 1024
def constLines : Nat := 512
def bankWays : Nat := 16

/-- The set of its bank that a line belongs to, of the bank's 512. DESIGN CHOICE (log 76): the manual does not say which address bits select
it; the model takes those above the bank's. -/
def setOf (n : Nat) : Nat := dieOffset (n * 128) / 8192 % 512

/-- Two lines of one set of one bank. -/
def sameSet (m n : Nat) : Bool := bankOf (m * 128) == bankOf (n * 128) && setOf m == setOf n

/-- Evicts a line from its L2 bank: every L1 copy is recalled, and the memory device gets its bytes (R330). -/
def State.evictL2 (s : State) (n : Nat) : State :=
  let s := s.homeLine n
  { s with l2 := s.l2.del n, dirty := s.dirty.del n }

/-- A line of the set that makes way for another: one that is neither leased nor locked (R347). Which one goes is log 13's. -/
def State.victim (s : State) (n : Nat) : Option Nat := (s.l2.find? fun e => sameSet e.1 n && !s.lineHeld e.1 none).map (·.1)

/-- A way of its set is free, or can be made so: otherwise what needs it waits (R347). -/
def State.l2Room (s : State) (n : Nat) : Bool :=
  (s.l2.get? n).isSome || decide ((s.l2.filter fun e => sameSet e.1 n).length < bankWays) || (s.victim n).isSome

/-- L2 holds a line under a request's key slot (R340); in a full set another line makes way. -/
def State.fillL2 (s : State) (n key : Nat) : State :=
  if (s.l2.get? n).isSome || decide ((s.l2.filter fun e => sameSet e.1 n).length < bankWays) then { s with l2 := s.l2.put n key }
  else match s.victim n with
    | some m => let s := s.evictL2 m; { s with l2 := s.l2.put n key }
    | none => s

/-- A core's L1 takes a line in a state. In a full L1 a line that no lease holds makes way (R347): an owned one goes back to L2. -/
def State.putL1 (s : State) (core n : Nat) (st : Mesi) : State :=
  let l1 := (s.core core).l1
  if (l1.get? n).isSome || decide (l1.length < l1Lines) then s.modCore core fun c => { c with l1 := c.l1.put n st }
  else match l1.find? fun e => !s.leased e.1 none with
    | some e =>
      let s := if e.2 = .shared then s else s.setLine e.1 { s.line e.1 with owner := none }
      s.modCore core fun c => { c with l1 := (c.l1.del e.1).put n st }
    | none => s

/-- A core's L1 takes a line in S, and its cluster is registered at the home (R330, R332). -/
def State.shareLine (s : State) (core n key : Nat) : State :=
  let s := s.fillL2 n key
  let s := if ((s.core core).l1.get? n).isSome then s else s.putL1 core n .shared
  let d := s.line n
  s.setLine n { d with sharers := d.sharers ||| (1#32 <<< clusterOf core) }

/-! ## Requests to the banks (R15, R116, R330 to R334) -/

/-- Adds to the performance counters of a core that count an event of a launch (R116). -/
def State.perf (s : State) (core launch event n : Nat) : State :=
  if (s.core core).perf.any (fun e => e.2.event == event && e.2.launch == launch) then
    s.modCore core fun c => { c with perf := c.perf.map fun (i, p) =>
      (i, if p.event = event ∧ p.launch = launch then { p with count := p.count + BitVec.ofNat 64 n } else p) }
  else s

/-- A request of a core for a line stands at its bank, or at the one that it passes first. -/
def State.asked (s : State) (core n : Nat) (own : Bool) : Bool :=
  let there (b : Bank) : Bool := (b.inputs ++ b.conflict ++ b.active).any fun x => x.core == core && x.line == n && x.own == own
  there (s.bank (firstBank core n)) || there (s.bank (bankOf (n * 128)))

/-- An L1 of a cluster has missed (R408). -/
def State.countMiss (s : State) (core : Nat) : State := s.modCluster (clusterOf core) fun c => { c with missNow := c.missNow + 1 }

/-- An access of a core that L2 does not hold, nor another L1 as its owner, and that HBM or the capacity tier serves (R408). -/
def State.countL2 (s : State) (core n : Nat) (hit : Bool) : State :=
  if hit || (s.line n).owner.isSome || inMailbox (n * 128) then s
  else s.modCluster (clusterOf core) fun c => { c with l2Now := c.l2Now + 1 }

/-- Sends a request for a line towards its home bank, once; one for ownership is counted (R116). -/
def State.askBank (s : State) (core launch n key : Nat) (own : Bool) : State :=
  if s.asked core n own then s
  else
    let part := match s.launches.get? launch with | some l => l.part | none => 0
    let r : BankReq := { input := core / 4 % 8, core := core, line := n, key := key, own := own, since := 0, part := part }
    let s := if own then s.perf core launch 9 1 else s
    let s := if own && ((s.core core).l1.get? n).isNone then s.countMiss core else s
    s.modBank (firstBank core n) fun x => { x with inputs := x.inputs ++ [r] }

/-- Inputs of a bank from its pointer on: eight cluster ports, three die links, the port and complex interface (R333). -/
def Bank.inputOrder (b : Bank) : List Nat := (List.range 12).map fun i => (b.ptr + i) % 12

/-- Input 11 of a bank: the die's ports and complexes. -/
def interfaceInput : Nat := 11

/-- The input that a core's cluster has at the banks of its die. -/
def portInput (core : Nat) : Nat := core / 4 % 8

/-- A bank would accept a request that comes by an input in this ck: it has accepted none, its conflict queue has room, and round-robin has no
other input before it (R333). -/
def State.bankTakes (s : State) (bank input : Nat) : Bool :=
  let b := s.bank bank
  !s.banked.contains bank && !s.bankFull bank &&
    (b.inputOrder.find? fun i => i == input || b.inputs.any fun r => r.input == i) == some input

/-- A bank has accepted the request of an input. -/
def State.bankTook (s : State) (bank input : Nat) : State :=
  { s.modBank bank fun b => { b with ptr := (input + 1) % 12 } with banked := bank :: s.banked }

/-- A bank takes what the die's ports and complexes bring to it. DESIGN CHOICE (log 77): all that they bring in one ck is one request, which the
entry bank + 1024 of `banked` marks. -/
def State.deviceTakes (s : State) (bank : Nat) : Bool := s.banked.contains (1024 + bank) || s.bankTakes bank interfaceInput
def State.deviceTook (s : State) (bank : Nat) : State :=
  if s.banked.contains (1024 + bank) then s
  else let s := s.bankTook bank interfaceInput
    { s with banked := (1024 + bank) :: s.banked }

/-- The banks that an access of a core to a line at its home passes in this ck, each with its input: one on the own die, and across the link
the home's (R14, R15, R330). -/
def homePath (core n : Nat) : List (Nat × Nat) :=
  let home := bankOf (n * 128)
  if dieOf core = home / 64 then [(home, portInput core)] else [(firstBank core n, portInput core), (home, linkInput (dieOf core) (home / 64))]

def State.homeTakes (s : State) (core n : Nat) : Bool := (homePath core n).all fun b => s.bankTakes b.1 b.2
def State.homeTook (s : State) (core n : Nat) : State :=
  (homePath core n).foldl (fun s b => s.bankTook b.1 b.2) (s.countL2 core n (s.l2.get? n).isSome)

/-! ## Who waits for a line (R334, R346 to R349, R354, R363) -/

/-- A unit that waits for a line, and has since an earlier ck than one that asks now, or stands before it in order. -/
def State.unitAhead (s : State) (n since : Nat) (me : Option (Nat × Nat)) : Bool :=
  s.crews.any fun e => e.2.units.any fun h =>
    h.2.st == .stalled (.line n) && some (e.1, h.1) != me && !s.halted e.1 h.2 &&
    (decide (h.2.since < since) || (h.2.since == since && match me with
      | some (k, u) => decide (e.1 < k) || (e.1 == k && decide (h.1 < u))
      | none => true))

/-- Requests for a line that its home bank holds in its conflict queue, since before a ck. -/
def State.queuedAhead (s : State) (n since : Nat) : Bool :=
  ((s.banks.getD (bankOf (n * 128)) Bank.reset).conflict.any fun r => r.line == n && decide (r.since < since))

/-- Hoist entries that wait for a line, since before a ck (R347); one that a fault holds does not. -/
def State.hoistAhead (s : State) (n since : Nat) (me : Option Nat) : Bool :=
  s.cores.any fun e => e.2.queues.any fun q => q.2.any fun i => match i with
    | .hoist h => !h.held && some h.id != me && (match h.wait with | some (l, t) => l == n && decide (t < since) | none => false)
    | .task _ => false

/-- Requests already waiting for a line are served before one that comes in a ck (R334). -/
def State.lineQueued (s : State) (n : Nat) : Bool := s.unitAhead n s.ck none || s.queuedAhead n (s.ck + 1) || s.hoistAhead n (s.ck + 1) none

/-- Since when a unit has asked for a line: since its stall for it, or from now on. -/
def CrewUnit.asksSince (h : CrewUnit) (n ck : Nat) : Nat :=
  match h.st with
  | .stalled (.line m) => if m = n then h.since else ck + 1
  | .stalled (.owner _ ls) => if ls.contains n then h.since else ck + 1
  | _ => ck + 1

/-- What an access of a unit to a line must wait for: another agent's hold of it, or, where it is no hit, requests accepted before its own. A
crew's own lease serves it at once (R347). -/
def State.lineStop (s : State) (k u n : Nat) (hit : Bool) (h : CrewUnit) : Bool :=
  let mine := match s.crews.get? k with
    | some c => (c.leases ++ c.cap.recLeases).any fun l => l.line == n && !l.ended && decide (s.ck < l.deadline)
    | none => false
  let since := h.asksSince n s.ck
  s.lineHeld n (some k) ||
    (!mine && !hit && (s.unitAhead n since (some (k, u)) || s.queuedAhead n since || s.hoistAhead n since none))

/-- An access that the L1 of the core can serve: ownership for a write, a copy for a read (R329). -/
def State.l1Hit (s : State) (core n : Nat) (wr : Bool) : Bool := if wr then s.owns core n else ((s.core core).l1.get? n).isSome

end Sys2Proof.Machine
end

