-- ==== Sys2Proof/Machine/Paging.lean ====
section
/-! DEFINITION. Physical memory under frames and keys (R16, R17, R335 to R344) and two-stage translation (R319 to R328). -/

namespace Sys2Proof.Machine

/-! ## Frames and keys (R338 to R341) -/

def State.frame (s : State) (pa : Nat) : Frame := s.frames.getD (frameOf pa) Frame.reset

def State.keyLive (s : State) (k : Nat) : Bool := match s.keys.get? k with | some (.live _) => true | _ => false

/-- A request with key slot `key` reaches the frame's data. Mailbox SRAM has no frames and no keys: R341's frame count is that of HBM
and capacity tier. -/
def State.keyed (s : State) (key pa : Nat) : Bool := inMailbox pa || ((s.frame pa).key == key && s.keyLive key)

/-- A byte read by a request with key slot `key` (R340). -/
def State.readByte (s : State) (key pa : Nat) : Byte :=
  if s.keyed key pa && (inMailbox pa || !(s.frame pa).cleared) then s.mem.byte pa else 0

def State.readBytes (s : State) (key pa n : Nat) : List Byte := (List.range n).map fun i => s.readByte key (pa + i)

/-- The other bytes of a cleared frame are zeros once it is written (R340). -/
def State.openFrame (s : State) (pa : Nat) : State :=
  if inMailbox pa || !(s.frame pa).cleared then s
  else { s with
    mem := s.mem.keep fun a => frameOf a != frameOf pa
    frames := s.frames.put (frameOf pa) { s.frame pa with cleared := false } }

/-- A load of the line finds an uncorrectable error (R337): no other read checks the tag (R340). -/
def State.poisoned (s : State) (key pa : Nat) : Bool :=
  s.poison.contains (pa / 128) && s.keyed key pa && (inMailbox pa || !(s.frame pa).cleared)

/-- Before a line's first write since it was last written back: the memory device keeps what it has. -/
def State.soil (s : State) (n : Nat) : State :=
  if inMailbox (n * 128) || (s.dirty.get? n).isSome then s else { s with dirty := s.dirty.put n (s.mem.bytes (n * 128) 128) }

/-- A byte that only the device writes: one of a fault ring, or of a trace header in force, whose `read` alone is software's (R5, R115). -/
def State.fixed (s : State) (pa : Nat) : Bool :=
  ringFixed pa || s.heads.any fun e => decide (e.2 ≤ pa) && decide (pa < e.2 + 64) && !(decide (e.2 + 16 ≤ pa) && decide (pa < e.2 + 24))

/-- A line with such bytes. -/
def State.guarded (s : State) (n : Nat) : Bool := inRings (n * 128) || s.heads.any fun e => e.2 / 128 == n

/-- Bytes stored by address, save those that stay fixed (R5). -/
def Memory.storeSome (m : Memory) (fixed : Nat → Bool) (xs : List (Nat × Byte)) : Memory :=
  xs.foldl (fun m e => if fixed e.1 then m else m.store e.1 e.2) m

/-- Bytes of one line written by a request with key slot `key` (R340): dropped and counted where the key does not own the frame. Only a
write of the whole line replaces a poisoned one (log 45). -/
def State.writeBytes (s : State) (key pa : Nat) (bs : List Byte) : State :=
  if s.keyed key pa then
    let s := (s.openFrame pa).soil (pa / 128)
    { s with
      mem := if s.guarded (pa / 128) then s.mem.storeSome s.fixed (bs.zipIdx.map fun e => (pa + e.2, e.1)) else s.mem.storeBytes pa bs
      poison := if 128 ≤ bs.length then s.poison.erase (pa / 128) else s.poison }
  else { s with dropCount := s.dropCount + 1 }

/-- Bytes of a line given by offset, as a store-buffer entry holds them. -/
def State.writeLine (s : State) (key line : Nat) (bytes : Table Byte) : State :=
  if s.keyed key (line * 128) then
    let s := (s.openFrame (line * 128)).soil line
    { s with
      mem := s.mem.storeSome s.fixed (bytes.map fun e => (line * 128 + e.1, e.2))
      poison := if 128 ≤ bytes.length then s.poison.erase line else s.poison }
  else { s with dropCount := s.dropCount + 1 }

/-- A performed write of bytes, with its wakes. -/
def State.perform (s : State) (key pa : Nat) (bs : List Byte) : State := (s.writeBytes key pa bs).wakeLine (pa / 128)

/-- Key slot under which the device itself reaches an address: the frame's own (log 17). -/
def State.ownKey (s : State) (pa : Nat) : Nat := (s.frame pa).key

/-- Line accesses to a group's frames, for R343 and R344. -/
def State.touch (s : State) (pa : Nat) : State :=
  if inHbm pa then
    match s.retention.get? (groupOf pa) with
    | none => s
    | some r =>
      let recent := if r.state = 0 then [] else (s.ck :: r.recent).take r.wake
      { s with retention := s.retention.put (groupOf pa) { r with lastAccess := s.ck, recent := recent } }
  else s

/-! ## Table entries (R320, R321) -/

inductive XlCause where
  | notValid
  | format
  | protection
  | attributes
  | physical
  | memory
  /-- not a fault: another agent holds the line of a table entry, whose number stands in `level` (R347) -/
  | waits
  deriving DecidableEq, Repr

/-- A translation fault: cause, stage (0 none), table level, or the structure code of a memory error. -/
structure XlFault where
  cause : XlCause
  stage : Nat
  level : Nat
  deriving DecidableEq, Repr

/-- The line that a walk waits for. -/
def XlFault.waits? (f : XlFault) : Option Nat := if f.cause = .waits then some f.level else none

/-- A level of a walk: low bit and width of its index, and whether a leaf may stand there. -/
structure Level where
  n : Nat
  lo : Nat
  width : Nat
  deriving DecidableEq, Repr

def levels1 : List Level := [⟨0, 41, 15⟩, ⟨1, 26, 15⟩, ⟨2, 21, 5⟩, ⟨3, 15, 6⟩]
def levels2 : List Level := [⟨0, 41, 7⟩, ⟨1, 26, 15⟩, ⟨2, 21, 5⟩, ⟨3, 15, 6⟩]

/-- Bytes of the table that stands at a level: the alignment of its address. -/
def Level.tableBytes (l : Level) : Nat := 8 * 2 ^ l.width

/-- The entry keeps R321's rules at its level; `next` is the level of the table that a non-leaf names. -/
def entryOk (stage1 : Bool) (l : Level) (next : Option Level) (e : Nat) : Bool :=
  let leaf := bits e 1 1 == 1
  bits e 60 4 == 0 && bits e 48 6 == 0 &&
  (bits e 54 6 == 0 || (!stage1 && leaf)) && (bits e 4 2 == 0 || leaf) &&
  (if leaf then l.n != 0 && e / 256 * 256 % 2 ^ 48 % 2 ^ l.lo == 0
   else match next with
     | some t => e / 256 * 256 % 2 ^ 48 % t.tableBytes == 0
     | none => false)

/-- What a stage of a walk found. -/
structure Leaf where
  out : Nat
  lo : Nat
  ord : Nat
  key : Nat
  w : Bool
  x : Bool
  d : Bool
  /-- level of the first entry that denies writes, and fetches (R322) -/
  wLevel : Nat
  xLevel : Nat
  level : Nat
  /-- accessed flag as found -/
  acc : Bool
  /-- physical address and key slot of the leaf entry, whether stage 2 lets it be written, and the level that denies it -/
  entryPa : Nat
  entryKey : Nat
  entryW : Bool
  entryLevel : Nat
  /-- non-leaf entries on the way to it: level, the address above it, low bit, entry -/
  path : List (Nat × Nat × Nat × Nat)
  /-- addresses of the entries that the walk read -/
  reads : List Nat
  deriving DecidableEq, Repr

/-- What stands in the walk caches: stage 1 or 2, owner, level, the address above the level (R325). -/
abbrev Held := Bool → Nat → Nat → Nat → Option Nat

/-- Nothing stands there: a fresh walk. -/
def noneHeld : Held := fun _ _ _ _ => none

/-- A table entry as a walk reads it, once its line is readable and no other agent holds it. -/
def State.tableEntry (s : State) (key pa : Nat) : Except XlFault Nat :=
  if !s.backed pa then .error ⟨.physical, 0, 0⟩
  else if s.poisoned key pa then .error ⟨.memory, 0, s.errorCode pa⟩
  else if s.lineHeld (pa / 128) none then .error ⟨.waits, 0, pa / 128⟩
  else .ok (leNat (s.readBytes key pa 8))

/-- One stage of a walk. `reach` gives a table entry's physical address and key slot, with the write permission over it,
or the other stage's fault; `held` gives the non-leaf entries that need no reading. -/
def walkStage (s : State) (stage1 : Bool) (held : Nat → Nat → Option Nat) (reach : Nat → Except XlFault (Nat × Nat × Bool × Nat × List Nat)) (va : Nat) :
    List Level → Nat → Bool → Bool → Nat → Nat → List (Nat × Nat × Nat × Nat) → List Nat → Except XlFault Leaf
  | [], _, _, _, _, _, _, _ => .error ⟨.format, if stage1 then 1 else 2, 3⟩
  | l :: rest, table, w, x, wl, xl, path, rs =>
    let stage := if stage1 then 1 else 2
    let below (e : Nat) : Bool × Bool × Nat × Nat :=
      (w && bits e 2 1 == 1, x && bits e 3 1 == 1, if w && bits e 2 1 == 0 then l.n else wl, if x && bits e 3 1 == 0 then l.n else xl)
    let oa (e : Nat) : Nat := e / 256 * 256 % 2 ^ 48
    match held l.n (va / 2 ^ l.lo) with
    | some e => walkStage s stage1 held reach va rest (oa e) (below e).1 (below e).2.1 (below e).2.2.1 (below e).2.2.2 path rs
    | none => match reach (table + 8 * bits va l.lo l.width) with
      | .error f => .error f
      | .ok (pa, key, ew, el, qs) => match s.tableEntry key pa with
        | .error f => .error f
        | .ok e =>
          if bits e 0 1 = 0 then .error ⟨.notValid, stage, l.n⟩
          else if !entryOk stage1 l rest.head? e then .error ⟨.format, stage, l.n⟩
          else if bits e 1 1 = 1 then
            .ok { out := oa e + va % 2 ^ l.lo, lo := l.lo, ord := bits e 4 2, key := bits e 54 6, w := (below e).1, x := (below e).2.1,
                  d := bits e 7 1 == 1, wLevel := (below e).2.2.1, xLevel := (below e).2.2.2, level := l.n, acc := bits e 6 1 == 1,
                  entryPa := pa, entryKey := key, entryW := ew, entryLevel := el, path := path, reads := rs ++ qs ++ [pa] }
          else walkStage s stage1 held reach va rest (oa e) (below e).1 (below e).2.1 (below e).2.2.1 (below e).2.2.2
            ((l.n, va / 2 ^ l.lo, l.lo, e) :: path) (rs ++ qs ++ [pa])

/-- Stage 2 of a tenant: intermediate to physical (R319). A tenant without a root has no valid entry. -/
def walk2 (s : State) (held : Held) (tenant : Nat) (root : Option Nat) (ia : Nat) : Except XlFault Leaf :=
  match root with
  | none => .error ⟨.notValid, 2, 0⟩
  | some r => walkStage s false (held false tenant) (fun pa => .ok (pa, s.ownKey pa, true, 0, [])) ia levels2 r true true 0 0 [] []

/-- Stage 1 of a partition, its tables reached through stage 2. -/
def walk1 (s : State) (held : Held) (part tenant : Nat) (root1 root2 : Option Nat) (va : Nat) : Except XlFault Leaf :=
  match root1 with
  | none => .error ⟨.notValid, 1, 0⟩
  | some r => walkStage s true (held true part) (fun ia => (walk2 s held tenant root2 ia).map fun l => (l.out, l.key, l.w, l.wLevel, l.reads)) va
      levels1 r true true 0 0 [] []

/-- Ordering attributes by strength: UN weaker than RC, RC weaker than SO (R322). -/
def ordRank (o : Nat) : Nat := if o = 2 then 0 else if o = 0 then 1 else 2

def weaker (a b : Nat) : Nat := if ordRank a ≤ ordRank b then a else b

/-- Sets acc, and d for a write, in a leaf entry: an atomic OR at the home slice, once every L1 copy is recalled (R323, R345). -/
def State.setFlags (s : State) (l : Leaf) (wr : Bool) : State :=
  let e := leNat (s.readBytes l.entryKey l.entryPa 1)
  let n := if wr then e ||| 0xC0 else e ||| 0x40
  if n = e then s else ((s.homeLine (l.entryPa / 128)).touch l.entryPa).perform l.entryKey l.entryPa [BitVec.ofNat 8 n]

/-- Physical address, key slot and page kind of a translated access. -/
structure Xl where
  pa : Nat
  key : Nat
  kind : Nat
  deriving DecidableEq, Repr

def State.part? (s : State) (p : Nat) : Option Part := s.parts.get? p
def State.tenant (s : State) (t : Nat) : Tenant := s.tenants.getD t Tenant.reset

/-- A walk for a partition: both stages, permissions, attributes, flag bits (R322, R323). `wr` and `ex` are the access. -/
def State.walkWith (s : State) (held : Held) (part : Nat) (va : Nat) (wr ex : Bool) : Except XlFault (Xl × Leaf × Leaf × State) :=
  match s.part? part with
  | none => .error ⟨.notValid, 1, 0⟩
  | some p =>
    let root2 := (s.tenant p.tenant).root2
    match walk1 s held part p.tenant p.root1 root2 va with
    | .error f => .error f
    | .ok l1 => match walk2 s held p.tenant root2 l1.out with
      | .error f => .error f
      | .ok l2 =>
        if l1.ord = 3 then .error ⟨.attributes, 1, l1.level⟩
        else if l2.ord = 3 then .error ⟨.attributes, 2, l2.level⟩
        else if wr && !l1.w then .error ⟨.protection, 1, l1.wLevel⟩
        else if wr && !l2.w then .error ⟨.protection, 2, l2.wLevel⟩
        else if ex && !l1.x then .error ⟨.protection, 1, l1.xLevel⟩
        else if ex && !l2.x then .error ⟨.protection, 2, l2.xLevel⟩
        else
          if (!l1.acc || (wr && !l1.d)) && !l1.entryW then .error ⟨.protection, 2, l1.entryLevel⟩
        else
          -- each entry read is an access of its line (R343, R344)
          let s := ((l1.reads ++ l2.reads).foldl State.touch s).setFlags l1 wr |>.setFlags l2 wr
          .ok (⟨l2.out, l2.key, weaker l1.ord l2.ord⟩, l1, l2, s)

/-- A fresh walk. -/
def State.walk (s : State) (part : Nat) (va : Nat) (wr ex : Bool) : Except XlFault (Xl × Leaf × Leaf × State) :=
  s.walkWith noneHeld part va wr ex

/-! ## Walk caches and TLBs (R324 to R326) -/

/-- What the walk caches of a die hold. -/
def State.heldOn (s : State) (die : Nat) : Held := fun stage1 owner level at_ =>
  (s.walks.find? fun w => w.die == die && w.stage1 == stage1 && w.owner == owner && w.level == level && w.at_ == at_).map (·.entry)

/-- Keeps the non-leaf entries that a walk read. -/
def State.keepPath (s : State) (die : Nat) (stage1 : Bool) (owner : Nat) (l : Leaf) : State :=
  let new : List WalkEntry := l.path.map fun e =>
    { die := die, stage1 := stage1, owner := owner, level := e.1, at_ := e.2.1, lo := e.2.2.1, entry := e.2.2.2 }
  let same (a b : WalkEntry) : Bool := a.die == b.die && a.stage1 == b.stage1 && a.owner == b.owner && a.level == b.level && a.at_ == b.at_
  { s with walks := new ++ s.walks.filter fun w => !new.any (same w) }

/-- The TLB places that serve a core: its own, its cluster's, its die's. -/
def tlbPlaces (core : Nat) : List Nat := [core, 128 + core / 4, 160 + core / 32]

def Tlb.covers (t : Tlb) (part va : Nat) : Bool := t.part == part && va / 2 ^ t.bits == t.vbase / 2 ^ t.bits

/-- A translation that the access may use: a write needs w and d, a fetch x (R323, R326). -/
def Tlb.permits (t : Tlb) (wr ex : Bool) : Bool := (!wr || (t.w && t.d)) && (!ex || t.x)

/-- Sets and ways of the TLB at a place (R324): a core's is one set of 64; a cluster's has 256 sets of 8 for each page size, a die's 1,024 of 16. -/
def tlbWays (place : Nat) : Nat := if place < 128 then 64 else if place < 160 then 8 else 16
def Tlb.set (t : Tlb) : Nat :=
  let page := t.vbase / 2 ^ t.bits
  if t.place < 128 then 0 else if t.place < 160 then 256 * t.bits + page % 256 else page % 1024

/-- Enters a translation, where the newest stand first; in a full set the oldest makes way (log 13). -/
def installTlb (ts : List Tlb) (t : Tlb) : List Tlb :=
  let mine := ts.filter fun x => x.place == t.place && x.set == t.set
  t :: (if mine.length < tlbWays t.place then ts else match mine.getLast? with | some x => ts.erase x | none => ts)

/-- What the TLBs and the walk caches that serve a core hold of an address is discarded: before a fault is reported (R326). -/
def State.forget (s : State) (core part va : Nat) : State :=
  let tenant := match s.part? part with | some p => p.tenant | none => 0
  { s with
    tlb := s.tlb.filter fun t => !((tlbPlaces core).contains t.place && t.covers part va)
    walks := s.walks.filter fun w => !(w.die == dieOf core &&
      if w.stage1 then w.owner == part && w.at_ == va / 2 ^ w.lo else w.owner == tenant) }

/-- A walk by a walker of the core's die, and the translation that it installs in the three TLBs that serve the core (R323 to R325). A fault
that the walk caches may have led to, an address outside the physical map among them, is reported only by a fresh walk (R326). -/
def State.walkFor (s : State) (core part va : Nat) (wr ex : Bool) : Except XlFault (Xl × State) :=
  let cached : Except XlFault (Xl × Leaf × Leaf × State) := match s.walkWith (s.heldOn (dieOf core)) part va wr ex with
    | .ok r => if s.backed r.1.pa then .ok r else { s with walks := s.walks.filter fun w => w.die != dieOf core }.walk part va wr ex
    | .error f => if f.cause = .waits then .error f else s.walk part va wr ex
  match cached with
  | .error f => .error f
  | .ok (x, l1, l2, s) =>
    let n := min l1.lo l2.lo
    let base := va / 2 ^ n * 2 ^ n
    let tenant := match s.part? part with | some p => p.tenant | none => 0
    let t (place : Nat) : Tlb :=
      { place := place, tenant := tenant, part := part, vbase := base, pbase := x.pa - va % 2 ^ n, bits := n, key := x.key,
        kind := x.kind, w := l1.w && l2.w, x := l1.x && l2.x, d := (l1.d && l2.d) || wr }
    let old := s.tlb.filter fun t => !((tlbPlaces core).contains t.place && t.covers part va)
    let s := (s.keepPath (dieOf core) true part l1).keepPath (dieOf core) false tenant l2
    .ok (x, { s with tlb := (tlbPlaces core).foldl (fun ts p => installTlb ts (t p)) old })

/-- Translates an access of a core for a partition (R319 to R326): a TLB hit, which also enters the core's own TLB, or a fresh walk. A hit
outside the physical map is discarded and walked again before anything is reported. Then the physical range and the poison of the line
(R17, R337) are checked; `load` says that data is read. -/
def State.translate (s : State) (core part va : Nat) (wr ex load : Bool) : Except XlFault (Xl × State) :=
  let xl : Except XlFault (Xl × State) :=
    match s.tlb.find? fun t => (tlbPlaces core).contains t.place && t.covers part va && t.permits wr ex && s.backed (t.pbase + (va - t.vbase)) with
    | some t =>
      let held := s.tlb.any fun x => x == { t with place := core }
      .ok (⟨t.pbase + (va - t.vbase), t.key, t.kind⟩, if held then s else { s with tlb := installTlb s.tlb { t with place := core } })
    | none => s.walkFor core part va wr ex
  match xl with
  | .error f => .error f
  | .ok (x, s) =>
    if !s.backed x.pa then .error ⟨.physical, 0, 0⟩
    else if load && s.poisoned x.key x.pa then .error ⟨.memory, 0, s.errorCode x.pa⟩
    -- a store is an access where it is performed
    else .ok (x, if wr && !load then s else s.touch x.pa)

end Sys2Proof.Machine
end

