-- ==== Sys2Proof/Machine/Ops.lean ====
section
/-! DEFINITION. The named operations that every meaning is built from: parts of the state, registers, flags, results on their way,
parking, event counters, leases, fault records, taking an exception and returning from one. -/

namespace Sys2Proof.Machine

abbrev Out := Host.Outcome State Fault Refusal

/-! ## Parts of the state -/

def State.setCrew (s : State) (k : Nat) (c : Crew) : State := { s with crews := s.crews.put k c }
def State.modCrew (s : State) (k : Nat) (f : Crew → Crew) : State :=
  match s.crews.get? k with | some c => s.setCrew k (f c) | none => s
def State.modLaunch (s : State) (l : Nat) (f : Launch → Launch) : State :=
  match s.launches.get? l with | some x => { s with launches := s.launches.put l (f x) } | none => s
def State.modBlock (s : State) (b : Nat) (f : Block → Block) : State :=
  match s.blocks.get? b with | some x => { s with blocks := s.blocks.put b (f x) } | none => s
def State.modQueue (s : State) (q : Nat) (f : Queue → Queue) : State :=
  match s.queues.get? q with | some x => { s with queues := s.queues.put q (f x) } | none => s
def State.modTenant (s : State) (n : Nat) (f : Tenant → Tenant) : State := { s with tenants := s.tenants.put n (f (s.tenant n)) }
def State.ring (s : State) (n : Nat) : Ring := s.rings.getD n Ring.reset
def State.modRing (s : State) (n : Nat) (f : Ring → Ring) : State := { s with rings := s.rings.put n (f (s.ring n)) }

def Crew.modUnit (c : Crew) (u : Nat) (f : CrewUnit → CrewUnit) : Crew :=
  match c.units.get? u with | some h => { c with units := c.units.put u (f h) } | none => c
def State.modUnit (s : State) (k u : Nat) (f : CrewUnit → CrewUnit) : State := s.modCrew k fun c => c.modUnit u f

def State.tenantOf (s : State) (c : Crew) : Nat := match s.launches.get? c.launch with | some l => l.tenant | none => 0
def State.partOf (s : State) (c : Crew) : Nat := match s.launches.get? c.launch with | some l => l.part | none => 0

/-- A crew of a launch, where it runs (R304, R351, R441). -/
def State.findCrew (s : State) (launch : Nat) (n : CrewName) : Option Nat :=
  (s.crews.find? fun e => e.2.launch == launch && e.2.name == n).map (·.1)

/-- Applies to a crew of a launch wherever it is: resident or in the save area (R199, R304, R441). -/
def State.reachCrew (s : State) (launch : Nat) (n : CrewName) (f : Crew → Crew) : State :=
  match s.findCrew launch n with
  | some k => s.modCrew k f
  | none => s.modLaunch launch fun l => l.mapSaved fun _ b => { b with crews := b.crews.map fun c => if c.name = n then f c else c }

/-- The crew of a launch that a capsule record names by its global index (R350): the first of them where the indices of two benches meet
(log 73). -/
def State.crewNamed (s : State) (launch index : Nat) : CrewName :=
  match s.crews.find? fun e => e.2.launch == launch && e.2.index == index with
  | some e => e.2.name
  | none => match s.launches.get? launch with
    | some l => ((((l.saved.map (·.2)).flatMap (·.crews)).find? fun c => c.index == index).map Crew.name).getD (0, index)
    | none => (0, index)

/-! ## Gating (R462) -/

/-- The gate value in force at a ck. -/
def Core.gateNow (c : Core) (ck : Nat) : Nat := if c.gateAt ≤ ck then c.gateNew else c.gate

/-- The core issues and its engines start work in this ck. -/
def State.ungated (s : State) (core : Nat) : Bool :=
  let g := (s.core core).gateNow s.ck
  let j := s.ck % 64
  decide (j * g / 64 < (j + 1) * g / 64)

/-- A new gate value, from the next window boundary on. -/
def Core.setGate (c : Core) (ck g : Nat) : Core := { c with gate := c.gateNow ck, gateNew := g, gateAt := (ck / 64 + 1) * 64 }

/-! ## Registers (R79, R89, R121 to R125) -/

def wordOf (n : Nat) : Word := BitVec.ofNat 32 n

/-- A vector of 96 lanes. -/
def lanesOf (f : Nat → Word) : List Word := (List.range laneCount).map f

def lane (x : List Word) (l : Nat) : Word := x.getD l 0

/-- Budget register j. -/
def Crew.pool? (c : Crew) (j : Nat) : List Word := c.pool.getD j []

/-- Word i of a mask: s60 to s62. -/
def maskWord (m : Mask) (i : Nat) : Word := (m >>> (32 * i)).setWidth 32

/-- A mask from its three words. -/
def maskOf (a b c : Word) : Mask := c ++ b ++ a

/-- A mask with one word replaced. -/
def setMaskWord (m : Mask) (i : Nat) (x : Word) : Mask :=
  maskOf (if i = 0 then x else maskWord m 0) (if i = 1 then x else maskWord m 1) (if i = 2 then x else maskWord m 2)

/-- A scalar register as a unit reads it: s63 is zero, s60 to s62 are its own (R89, R124). -/
def Crew.readS (c : Crew) (h : CrewUnit) (i : Nat) : Word :=
  if i = 63 then 0 else if 60 ≤ i then maskWord h.mask (i - 60) else c.sregs.getD i 0

/-- The pair sN:sN+1 (R96). -/
def Crew.readPair (c : Crew) (h : CrewUnit) (i : Nat) : Dword := c.readS h (i + 1) ++ c.readS h i

/-- Writes a scalar register for a unit: s63 discards, s60 to s62 keep only lanes of the unit's domain (R53, R89). -/
def Crew.writeS (c : Crew) (u i : Nat) (x : Word) : Crew :=
  if i = 63 then c
  else if 60 ≤ i then c.modUnit u fun h => { h with mask := setMaskWord h.mask (i - 60) x &&& h.dom }
  else { c with sregs := c.sregs.put i x }

def Crew.writePair (c : Crew) (u i : Nat) (x : Dword) : Crew :=
  (c.writeS u i (x.setWidth 32)).writeS u (i + 1) ((x >>> 32).setWidth 32)

/-- A v or o register's 96 lanes. -/
def Crew.readVec (c : Crew) : Opnd → List Word
  | .v i => c.pool? i.val
  | .o i => c.oregs.getD i.val []
  | _ => []

/-- The lanes of a register after a write under a mask (R126). -/
def mergeLanes (old new : List Word) (m : Mask) : List Word :=
  lanesOf fun l => if m.getLsbD l then lane new l else lane old l

/-- Writes one register: v, o or s. Other destinations discard. -/
def Crew.writeReg (c : Crew) (u : Nat) (w : RegWrite) : Crew :=
  match w.reg with
  | .v i => { c with pool := c.pool.put i.val (mergeLanes (c.pool? i.val) w.vals w.mask) }
  | .o i => { c with oregs := c.oregs.put i.val (mergeLanes (c.oregs.getD i.val []) w.vals w.mask) }
  | .s i => c.writeS u i.val (lane w.vals 0)
  | _ => c

/-- The register after an index, in the same file; none where the file ends. -/
def Opnd.next (x : Opnd) (n : Nat) : Opnd :=
  match x with
  | .v i => if i.val + n < 256 then .v (Fin.ofNat 256 (i.val + n)) else .none
  | .s i => if i.val + n < 64 then .s (Fin.ofNat 64 (i.val + n)) else .none
  | .o i => if i.val + n < 8 then .o (Fin.ofNat 8 (i.val + n)) else .none
  | x => x

/-! ## Last-result files, results, parking (R61 to R63) -/

def noLast : List (Option (List Word)) := [none, none, none, none]

/-- Enters a result, or an invalid entry, in a pipe's file (R61): pipe 0 is A, pipe 1 is B. -/
def Crew.pushLast (c : Crew) (pipe : Nat) (x : Option (List Word)) : Crew :=
  match c.last with
  | [a0, a1, b0, b1] => if pipe = 0 then { c with last := [x, a0, b0, b1] } else { c with last := [a0, a1, x, b0] }
  | _ => c

def Crew.waiting (c : Crew) (u : Nat) : Bool := c.out.any fun r => r.unit == u

/-- A unit leaves MARKED, or finds nothing to wait for at a marker (R63). -/
def Crew.leaveMarker (c : Crew) (u : Nat) : Crew :=
  { c.modUnit u fun h => { h with st := .ready, run := 0, stop := true } with last := noLast }

/-- Parks a unit at a marker (R63). -/
def Crew.park (c : Crew) (u : Nat) : Crew :=
  if c.waiting u then { c.modUnit u fun h => { h with st := .marked } with last := noLast } else c.leaveMarker u

/-- Registers on which a unit has results pending (R62, R90). -/
def Crew.pending (c : Crew) (u : Nat) : List Opnd := c.out.flatMap fun r => if r.unit = u then r.writes.map (·.reg) else []

def Crew.mergeFlags (c : Crew) (f : BitVec 7) : Crew := { c with fflags := c.fflags ||| f }

/-- A token falls (R203). -/
def Crew.fallToken (c : Crew) (t : Option Nat) : Crew :=
  match t with | some n => { c with tokens := c.tokens.put n (c.tokens.getD n 0 - 1) } | none => c

/-- Puts a result on its way; it holds the registers that it writes pending (R62). -/
def Crew.addResult (c : Crew) (r : Result) : Crew := { c with out := c.out ++ [{ r with id := c.nextId }], nextId := c.nextId + 1 }

/-! ## Spalls and their merge (R86 to R88, R90) -/

/-- Spalls of a unit under a join id that are not JOINED (R86). -/
def Crew.outstanding (c : Crew) (u k : Nat) : Nat :=
  (c.units.filter fun e => e.1 != 0 && e.1 != u && e.2.owner == u && e.2.joinId == k && e.2.st != .joined none).length

/-- Whose results are that a freed spall record left outstanding: no unit's, so that a later spall of the record is not held by them
(R90). -/
def orphanUnit : Nat := 17

/-- The merger takes its JOINED spalls and an arrived mask into itself and goes on (R87, R88). -/
def Crew.merge (c : Crew) (u k : Nat) : Crew :=
  let mine := c.units.filter fun e => e.1 != 0 && e.1 != u && e.2.owner == u && e.2.joinId == k && e.2.st == .joined none
  let mask := mine.foldl (fun m e => m ||| e.2.mask) 0
  let dom := mine.foldl (fun m e => m ||| e.2.dom) 0
  let arrived := match c.deferred.get? k with | some r => if r.running then r.arrived else 0 | none => 0
  let out := c.out.map fun r => if mine.any fun e => e.1 == r.unit then { r with unit := orphanUnit } else r
  let c := mine.foldl (fun c e => { c with units := c.units.del e.1 }) { c with out := out }
  let c := if (match c.deferred.get? k with | some r => r.running | none => false) then { c with deferred := c.deferred.del k } else c
  { c.modUnit u fun h => { h with
      mask := h.mask ||| mask ||| arrived, dom := h.dom ||| dom, opens := h.opens &&& ~~~((1 : BitVec 16) <<< k), st := .ready, stop := true } with
    last := noLast }

/-- A unit that was waiting at its JOIN merges once its count is zero (R87). -/
def Crew.tryMerge (c : Crew) (u : Nat) : Crew :=
  match c.units.get? u with
  | some h => match h.st with
    | .joined (some (k, sw)) => if c.outstanding u k = 0 then (let c := c.merge u k; if sw then c.park u else c) else c
    | _ => c
  | none => c

/-- What waited for a unit's results goes on: the unit at a marker (R63), at a JOIN with S (R87) or before its doze (R109), and what has
split from it (R85). -/
def Crew.resultsDone (c : Crew) (u : Nat) : Crew :=
  if c.waiting u then c
  else
    let c := match c.units.get? u with
      | some h => match h.st with
        | .marked => c.leaveMarker u
        | .dozing _ => { c.modUnit u fun h => { h with run := 0 } with last := noLast }
        | .joining => (c.modUnit u fun h => { h with st := .joined none }).tryMerge h.owner
        | _ => c
      | none => c
    c.mapUnits fun _ h => if h.st = UnitState.splitting u then { h with st := .ready } else h

/-! ## Group barriers' and counters' epochs (R198, R200) -/

/-- An epoch has reached a target (R200). -/
def reached (e t : Nat) : Bool := decide ((e + 65536 - t % 65536) % 65536 < 32768)

/-- An addition to a counter (R198): the counter after it. -/
def Counter.add (c : Counter) (n : Nat) : Counter :=
  let t := c.count + n
  if c.target = 0 then { c with count := t % 2 ^ 32 }
  else { c with count := t % c.target, epoch := (c.epoch + t / c.target) % 65536 }

/-- A wait on counter e of which an epoch reaches the target; `all` whatever the epoch (R198, R212, R316). -/
def Wake.onCounter (e epoch : Nat) (all : Bool) : Wake → Bool
  | .counter e' t => e' == e && (all || reached epoch t)
  | .watch _ (some (e', t)) => e' == e && (all || reached epoch t)
  | _ => false

/-- Units of a core that wait on a counter and whose target its epoch has reached are woken (R91, R198, R316). -/
def State.wakeCounter (s : State) (core e epoch : Nat) (all : Bool) : State :=
  s.mapCrews fun k c => if coreOf k = core then c.mapUnits fun _ h => h.wakeIf (Wake.onCounter e epoch all) else c

/-- add(e, n) at a resident counter, with its wakes (R198). -/
def State.addCounter (s : State) (core e n : Nat) : State :=
  match (s.core core).counters.get? e with
  | none => s
  | some c =>
    let c' := c.add n
    let s := s.modCore core fun x => { x with counters := x.counters.put e c' }
    if c'.epoch = c.epoch then s else s.wakeCounter core e c'.epoch false

/-- A block's counter: where the block is resident, or in its saved record (R199). -/
def State.addBlockCounter (s : State) (launch block e n : Nat) : State :=
  match s.blocks.find? (fun b => b.2.launch == launch && b.2.number == block && !b.2.chute) with
  | some (key, _) =>
    match (s.core (key / 16)).counters.get? e with
    | some c => if c.owner = key % 16 then s.addCounter (key / 16) e n else s
    | none => s
  | none => s.modLaunch launch fun l => match l.saved.get? block with
    | none => l
    | some b => match b.counters.get? e with
      | none => l
      | some c =>
        let c' := c.add n
        -- a unit saved on this counter makes its block runnable (R393)
        let woken := b.anyUnit fun h => h.waitsFor (Wake.onCounter e c'.epoch false)
        { l with saved := l.saved.put block { b with counters := b.counters.put e c', runnable := b.runnable || woken } }

/-! ## Leases and watched lines (R347, R348, R316) -/

/-- Ends every lease of a crew (R348). Data lines stay in the set until the step is left (R356). -/
def Crew.endLeases (c : Crew) : Crew :=
  { c with leases := if c.cap.mode then c.leases.map fun l => { l with ended := true } else []
           cap := { c.cap with recLeases := [] } }

/-- Ends the leases that one unit took (R348); the record's are the main unit's. -/
def Crew.endLeasesOf (c : Crew) (u : Nat) : Crew :=
  { c with leases := if c.cap.mode then c.leases.map fun l => if l.unit = u then { l with ended := true } else l
             else c.leases.filter fun l => l.unit != u
           cap := { c.cap with recLeases := if u = 0 then [] else c.cap.recLeases } }

/-! ## Fault records (R430, R431) -/

inductive Cause where
  | illegalOpcode | illegalField | pairRule | fetchCrossing | executedPool | misalignedPc | staleOperand | registerPending
  | registerRange | flag | user | breakpoint | handlerState | privilege
  | joinMismatch | divergenceOverflow | spallOutstanding | boundary
  | misalignedAddress | scratchRange | peerAbsent | tileIndex | tileUndefined | tileOwner | tileStall
  | eventIndex | eventUndefined | eventOwner | groupMember | barrierDivergence | barrierRearrival
  | chuteDivergence | chuteIndex | chuteUndefined | chuteRole | chuteHolder | chuteHeld
  | weightRange | weightUndefined | weightForm | accMode | accRange | partialOverflow | partialNone
  | capsuleDivergence | capsuleState | capsuleRecord | capsuleFault | leaseOverflow
  | scope | addressRange | notValid | format | protection | attributes | physicalRange | memoryError | softError
  | corrected | overrun | migration | firmware | messageDrop
  deriving DecidableEq, Repr

/-- The codes of R431. -/
def Cause.code : Cause → Nat
  | .illegalOpcode => 0x01 | .illegalField => 0x02 | .pairRule => 0x03 | .fetchCrossing => 0x04 | .executedPool => 0x05
  | .misalignedPc => 0x06 | .staleOperand => 0x07 | .registerPending => 0x08 | .registerRange => 0x09 | .flag => 0x0A
  | .user => 0x0B | .breakpoint => 0x0C | .handlerState => 0x0D | .privilege => 0x0E
  | .joinMismatch => 0x0F | .divergenceOverflow => 0x10 | .spallOutstanding => 0x11 | .boundary => 0x12
  | .misalignedAddress => 0x18 | .scratchRange => 0x19 | .peerAbsent => 0x1A | .tileIndex => 0x1B | .tileUndefined => 0x1C
  | .tileOwner => 0x1D | .tileStall => 0x1E
  | .eventIndex => 0x20 | .eventUndefined => 0x21 | .eventOwner => 0x22 | .groupMember => 0x23 | .barrierDivergence => 0x24
  | .barrierRearrival => 0x25
  | .chuteDivergence => 0x28 | .chuteIndex => 0x29 | .chuteUndefined => 0x2A | .chuteRole => 0x2B | .chuteHolder => 0x2C
  | .chuteHeld => 0x2D
  | .weightRange => 0x30 | .weightUndefined => 0x31 | .weightForm => 0x32 | .accMode => 0x33 | .accRange => 0x34
  | .partialOverflow => 0x35 | .partialNone => 0x36
  | .capsuleDivergence => 0x38 | .capsuleState => 0x39 | .capsuleRecord => 0x3A | .capsuleFault => 0x3B | .leaseOverflow => 0x3C
  | .scope => 0x40 | .addressRange => 0x41 | .notValid => 0x42 | .format => 0x43 | .protection => 0x44 | .attributes => 0x45
  | .physicalRange => 0x46 | .memoryError => 0x47 | .softError => 0x48
  | .corrected => 0x50 | .overrun => 0x51 | .migration => 0x52 | .firmware => 0x53 | .messageDrop => 0x54

/-- Restartable causes hold the unit, or the entry, for a replay (R431). -/
def restartableCode (n : Nat) : Bool := decide (0x42 ≤ n) && decide (n ≤ 0x47)
def Cause.restartable (c : Cause) : Bool := restartableCode c.code

/-- Flag and user traps go to the launch's handler where it has one (R431, R434). -/
def Cause.handled (c : Cause) : Bool := c == .flag || c == .user

/-- A trap as the rule that raises it names it. Fields that do not apply keep their zero, lane its 0x7F (R430). -/
structure Trap where
  cause : Cause
  addr : Nat := 0
  cursor : Nat := 0
  detail : Nat := 0
  lane : Nat := 0x7F
  /-- operand slot: 1 dst, 2 in0, 3 in1, 4 in2, 5 aux, 6 tok, 7 fetch -/
  slot : Nat := 0
  ixkind : Nat := 0
  index : Nat := 0
  stage : Nat := 0
  wr : Bool := false
  /-- target core that peer-absent names -/
  core : Option Nat := none
  /-- PC field, where it is not the instruction's -/
  pc : Option Dword := none
  /-- address at which a handler's TRET resumes, where it is not the instruction (R104) -/
  resume : Option Dword := none
  /-- the stop of the debug registers that it is (R114) -/
  dbg : DebugStop := .none
  deriving DecidableEq, Repr

/-- Who is at fault, for the fields that name agents. -/
structure Agent where
  launch : Nat := 0
  index : Nat := 0
  block : Nat := 0
  spall : Nat := 0
  core : Nat := 0
  issuer : Nat := 0
  slot : Nat := 0
  bslot : Nat := 0
  part : Nat := 0
  tenant : Nat := 0
  pc : Dword := 0
  deriving DecidableEq, Repr

/-- The 64 B record (R430). The ring fills in seq. -/
def faultRecord (a : Agent) (t : Trap) (route : Nat) (held : Bool) (ck : Nat) : BitVec 512 :=
  let core := t.core.getD a.core
  BitVec.ofNat 512 (placeField (t.addr % 2 ^ 64) 448 + placeField (t.cursor % 2 ^ 32) 416 +
    placeField (t.pc.getD a.pc).toNat 352 + placeField (t.detail % 2 ^ 32) 320 + placeField (a.launch % 2 ^ 32) 288 +
    placeField (a.index % 2 ^ 32) 256 + placeField t.cause.code 248 + placeField route 246 + placeField (t.lane % 128) 239 +
    placeField (a.spall % 32) 234 + placeField (t.slot % 16) 230 + placeField (t.ixkind % 8) 227 +
    placeField (t.index % 2048) 216 + placeField (core / 32 % 4) 214 + placeField (core / 4 % 8) 211 + placeField (core % 4) 209 +
    placeField (a.issuer % 4) 207 + placeField (a.slot % 8) 204 + placeField (a.bslot % 16) 200 + placeField (a.part % 16) 196 +
    placeField (a.tenant % 16) 192 + placeField (t.stage % 4) 190 + placeField (if t.wr then 1 else 0) 189 +
    placeField (if held then 1 else 0) 188 + placeField (a.block % 2 ^ 32) 128 + placeField (ck % 2 ^ 64) 64)

/-- Ring 16 is the hypervisor's (R437). -/
def hypervisorRing : Nat := 16

/-- Ring and route of a cause (R431): faults of stage 2 and physical-range go to the hypervisor, memory-error to the supervisor. -/
def Trap.route (t : Trap) : Nat :=
  if t.cause == .physicalRange || (t.cause.restartable && t.cause != .memoryError && t.stage == 2) then 2 else 1

/-- Place of a record among those of one ck: die, global core, issuer, crew slot, spall id, instruction before engine (R438). -/
def Agent.place (a : Agent) (target : Target) : Nat :=
  let engine : Nat := match target with | .unit _ _ _ _ => 0 | _ => 1
  (((a.core * 4 + a.issuer) * 8 + a.slot) * 32 + a.spall) * 2 + engine

/-- ck at which a record's fault was detected. -/
def FaultRec.time (r : FaultRec) : Nat := (r.record.extractLsb' 64 64).toNat

/-- A record joins those that wait: after the earlier ones, and in its place among those of its ck (R438). -/
def FaultRec.join (x : FaultRec) : List FaultRec → List FaultRec
  | [] => [x]
  | r :: rs => if r.time = x.time ∧ x.place < r.place then x :: r :: rs else r :: x.join rs

/-- Causes whose records the hypervisor gets a copy of (R431). -/
def copiedCode (cause : Nat) : Bool := cause == Cause.memoryError.code || cause == Cause.softError.code

/-- A formed record joins its ring's waiting records; memory-error and soft-error are copied to the hypervisor (R431, R438). The record's
own fields say its route, partition and cause. -/
def State.deliver (s : State) (record : BitVec 512) (target : Target) (place : Nat) : State :=
  let route := (record.extractLsb' 246 2).toNat
  let cause := (record.extractLsb' 248 8).toNat
  let ring := if route = 2 then hypervisorRing else (record.extractLsb' 196 4).toNat
  let s := s.modRing ring fun r => { r with waiting := FaultRec.join ⟨record, target, restartableCode cause, place⟩ r.waiting }
  if copiedCode cause then
    let copy := (record &&& ~~~(BitVec.ofNat 512 (3 * 2 ^ 246))) ||| BitVec.ofNat 512 (2 * 2 ^ 246)
    s.modRing hypervisorRing fun r => { r with waiting := FaultRec.join ⟨copy, .none, false, place⟩ r.waiting }
  else s

/-- Forms and delivers a record. -/
def State.report (s : State) (a : Agent) (t : Trap) (held : Bool) (target : Target) : State :=
  s.deliver (faultRecord a t t.route held s.ck) target (a.place target)

/-- A log-only record (R431). -/
def State.log (s : State) (ring : Nat) (a : Agent) (t : Trap) : State :=
  s.modRing ring fun r => { r with waiting := FaultRec.join ⟨faultRecord a t 3 false s.ck, .none, false, a.place .none⟩ r.waiting }

/-- The agent fields of a unit. -/
def State.agent (s : State) (k u : Nat) (c : Crew) (h : CrewUnit) : Agent :=
  { launch := c.launch, index := c.index, block := c.block, spall := u, core := coreOf k, issuer := issuerOf k, slot := slotOf k,
    bslot := s.bslotOf k, part := s.partOf c, tenant := s.tenantOf c, pc := h.pc }

/-- A unit is held at its fault, and the record goes to its ring (R432). -/
def State.holdUnit (s : State) (k u : Nat) (c : Crew) (record : BitVec 512) (hold : Hold) : State :=
  let target : Target := .unit c.launch c.name u s.nextHold
  let a : Agent := { core := coreOf k, issuer := issuerOf k, slot := slotOf k, spall := u }
  ({ s with nextHold := s.nextHold + 1 }.deliver record target (a.place target)).modUnit k u fun h =>
    { h with st := .held { hold with serial := s.nextHold } }

/-! ## Capsules leaving issue (R357) -/

/-- Fields of a capsule record (R350). -/
def recordField (r : BitVec 2048) (lo w : Nat) : Nat := (r.extractLsb' lo w).toNat

/-- The record's two lines hold its 256 bytes. -/
def State.readRecord (s : State) (key pa : Nat) : BitVec 2048 := BitVec.ofNat 2048 (leNat (s.readBytes key pa 256))

/-- The crew runs in capsule mode and has not been descheduled yet (R357). -/
def Crew.onIssue (c : Crew) : Bool := c.cap.mode && !c.cap.descheduled

/-- A core's L1 owns the line and writes it (R329, R330, R345). -/
def State.ownLine (s : State) (core n key : Nat) : State :=
  let s := ((s.dropCopies n (some core)).fillL2 n key).putL1 core n .modified
  s.setLine n { s.line n with owner := some core, sharers := 0 }

/-- A unit leaves issue: its leases end, and in capsule mode (R357), once the L1 owns the record's first line, run is cleared where the record
still names the crew and wbuf goes. Until then the line is requested. The record is reached through the runner's own translation (log 31). -/
def State.deschedule (s : State) (k u : Nat) : State :=
  match s.crews.get? k with
  | none => s
  | some c =>
    let off (s : State) : State :=
      s.modCrew k fun c => { c.endLeases with leases := [], cap := { c.cap with wbuf := [], wlines := [], recLeases := [], descheduled := true } }
    if !c.cap.mode then s.setCrew k (c.endLeasesOf u)
    else if c.cap.descheduled then s
    else match s.translate (coreOf k) (s.partOf c) c.cap.record.toNat true false false with
      | .error f => if f.waits?.isSome then s else off s
      | .ok (x, s') =>
        let line := x.pa / 128
        if !s'.owns (coreOf k) line then s.askBank (coreOf k) c.launch line x.key true
        else if s'.lineHeld line (some k) then s
        else
          let r := s'.readRecord x.key x.pa
          off (if recordField r 32 24 = c.cap.gen ∧ recordField r 0 32 = c.index ∧ recordField r 96 32 = c.launch then
            (s'.ownLine (coreOf k) line x.key).perform x.key (x.pa + 7) [BitVec.ofNat 8 (recordField r 56 8 % 32 + recordField r 62 2 * 64)]
          else s')

/-- The unit waits for its record, or for the record's disposition (R432). -/
def UnitState.atFault : UnitState → Bool
  | .held _ | .faulting _ _ => true
  | _ => false

/-- A runner resumes at a stop point inside capsule mode, unless it is at a fault (R357, R366): its step runs again, or it finds itself
adopted. -/
def Crew.resumeCapsule (c : Crew) : Crew :=
  if !(c.cap.mode && c.cap.descheduled) || (match c.units.get? 0 with | some h => h.st.atFault | none => false) then c
  else
    let stepPc := c.cap.stepPc
    let setS (c : Crew) (xs : List Word) : Crew :=
      (List.range 8).foldl (fun c i => { c with sregs := c.sregs.put i (xs.getD i 0) }) c
    if !c.cap.adopted then
      let c := setS c c.cap.ckc
      { c.modUnit 0 fun h => { h with pc := stepPc } with cap := { c.cap with count := 0, descheduled := false } }
    else if c.cap.role = .adopter then
      let c := setS c c.cap.stash
      { c.modUnit 0 fun h => { h with pc := c.cap.stashPc } with
        cap := { c.cap with role := .none, mode := false, adopted := false, descheduled := false, count := 0 } }
    else
      { c.modUnit 0 fun h => { h with pc := stepPc } with
        cap := { c.cap with role := .displaced, count := 0, descheduled := false } }

/-! ## Taking an exception and returning from one (R432 to R436) -/

/-- Image start plus the handler's offset. -/
def Launch.handler (l : Launch) : Dword := l.code + BitVec.ofNat 64 l.trapoff

/-- Entry into the launch's handler (R436): the saved registers, the handler state, the PC. The mask is unchanged. -/
def Crew.enterHandler (c : Crew) (u : Nat) (handler resume : Dword) (record : BitVec 512) : Crew :=
  let m := match c.units.get? u with | some h => h.mask | none => 0
  let c := { c with
    hpc := resume, hmask := m, hcause := record.extractLsb' 248 8, hrec := record, last := noLast
    hstate := BitVec.ofNat 6 (1 + 2 * u) }
  c.modUnit u fun h => { h with pc := handler, st := .ready, origin := h.pc }

/-- The unit is in the handler. -/
def Crew.inHandler (c : Crew) (u : Nat) : Bool := c.hstate.getLsbD 0 && (c.hstate.toNat / 2 == u)

/-- A unit takes a trap or a fault (R432, R434, R436), precisely: nothing of its instruction has taken effect. Route 0 enters the
launch's handler; any other route holds the unit and reports the record to its ring. Either waits until the unit's earlier register
results have returned and a runner is descheduled (R357), and the handler until no other unit is in it. `len` is the length of the instruction, 0 where none was decoded. -/
def State.takeTrap (s : State) (k u len : Nat) (t : Trap) : State :=
  match s.crews.get? k with
  | none => s
  | some c => match c.units.get? u with
    | none => s
    | some h =>
      let a := s.agent k u c h
      let hold : Hold := { cause := t.cause.code, length := len, capsule := c.cap.mode, dbg := t.dbg }
      let s := s.deschedule k u
      let busy := c.waiting u || (match s.crews.get? k with | some c => c.onIssue | none => false)
      let entry := match s.launches.get? c.launch with
        | some l => if t.cause.handled && l.trapoff != 0xFFFFFFFF && !c.inHandler u then some l.handler else none
        | none => none
      match entry with
      | some handler =>
        let record := faultRecord a t 0 false s.ck
        let resume := t.resume.getD h.pc
        if busy || c.hstate.getLsbD 0 then s.modUnit k u fun h => { h with st := .entering record resume }
        else (s.modCrew k fun c => c.enterHandler u handler resume record).modUnit k u fun h => { h with tried := some s.ck }
      | none =>
        let record := faultRecord a t t.route true s.ck
        if busy then s.modUnit k u fun h => { h with st := .faulting record hold }
        else s.holdUnit k u c record hold

/-- A unit at a fault whose results have returned, and which is descheduled, is held, and its record goes to the ring (R357, R432). -/
def State.settleFault (s : State) (k u : Nat) : State :=
  match s.crews.get? k with
  | none => s
  | some c => match c.units.get? u with
    | none => s
    | some h => match h.st with
      | .faulting record hold =>
        if c.waiting u || c.onIssue then s
        else s.holdUnit k u c record hold
      | _ => s

/-- Return from the handler (R436): mask under R89, handler state cleared, PC restored. -/
def Crew.leaveHandler (c : Crew) (u : Nat) : Crew :=
  { c.modUnit u fun h => { h with mask := c.hmask &&& h.dom, pc := c.hpc, origin := h.pc, st := .ready } with
    hstate := 0, last := noLast }

/-- The trap that a translation fault raises (R328, R431); asked only where the walk does not wait (XlFault.waits?). -/
def XlFault.trap (f : XlFault) (addr lane slot : Nat) (wr : Bool) : Trap :=
  { cause := match f.cause with
      | .notValid => .notValid | .format => .format | .protection => .protection | .attributes => .attributes
      | .physical => .physicalRange | .memory | .waits => .memoryError
    addr := addr, lane := lane, slot := slot, wr := wr, stage := f.stage
    detail := f.level }

end Sys2Proof.Machine
end

