-- ==== Sys2Proof/Machine/Operands.lean ====
section
/-! DEFINITION. Operand forms: the values that specifiers read (R52, R53, R130), the registers an instruction reads and writes (R56,
R62, R122, R132, R147, R188, R256, R284), and its shape (R53). -/

namespace Sys2Proof.Machine

/-- What a meaning knows of the instruction it runs: crew slot, unit, their state at issue, the fields, the length in bytes, the pipe
(0 A, 1 B) whose last-result file l0 and l1 read (R61). -/
structure Ctx where
  k : Nat
  u : Nat
  c : Crew
  h : CrewUnit
  a : Args
  len : Nat
  pipe : Nat
  deriving DecidableEq, Repr

def Ctx.core (x : Ctx) : Nat := coreOf x.k
def Ctx.pc (x : Ctx) : Dword := x.h.pc
def Ctx.next (x : Ctx) : Dword := x.h.pc + BitVec.ofNat 64 x.len

/-- pc plus the signed offset in the word of the 96-bit format (R96). -/
def Ctx.target (x : Ctx) : Dword := x.h.pc + x.a.imm.signExtend 64

/-! ## Values -/

/-- An entry of a pipe's last-result file: n = 0 for l0, 1 for l1. -/
def Crew.lastEntry (c : Crew) (pipe n : Nat) : Option (List Word) := (c.last.getD (2 * pipe + n) none)

/-- Lane l of a 32-bit operand of an integer instruction (R130). -/
def Ctx.word (x : Ctx) (o : Opnd) (l : Nat) : Word :=
  match o with
  | .v _ | .o _ => lane (x.c.readVec o) l
  | .s i => x.c.readS x.h i.val
  | .small i => i.signExtend 32
  | .l0 => lane ((x.c.lastEntry x.pipe 0).getD []) l
  | .l1 => lane ((x.c.lastEntry x.pipe 1).getD []) l
  | .imm => x.a.imm
  | .zero | .none | .num _ => 0

/-- Lane l of a 64-bit operand (R130); `unsig` extends a constant with zeros. -/
def Ctx.dword (x : Ctx) (o : Opnd) (unsig : Bool) (l : Nat) : Dword :=
  match o with
  | .v _ | .o _ | .s _ => x.word (Opnd.next o 1) l ++ x.word o l
  | .small i => if unsig then (i.signExtend 32).setWidth 64 else i.signExtend 64
  | .imm => if unsig then x.a.imm.setWidth 64 else x.a.imm.signExtend 64
  | _ => 0

/-- Scalar value of an operand (R130). -/
def Ctx.scalar (x : Ctx) (o : Opnd) : Word := x.word o 0

/-- The 96-bit mask in a triple (R147). -/
def Ctx.triple (x : Ctx) (o : Opnd) : Mask := maskOf (x.scalar o) (x.scalar (Opnd.next o 1)) (x.scalar (Opnd.next o 2))

/-! ## Registers read and written -/

/-- A register and its n - 1 successors. -/
def regGroup (o : Opnd) (n : Nat) : List Opnd := if o.isReg then (List.range n).map (Opnd.next o) else []

def isControl (op : Nat) : Bool := decide (op < 0x20)
def isLaneOp (op : Nat) : Bool := decide (0x20 ≤ op) && decide (op < 0xA0)

/-- Registers of in0 that an opcode reads: pairs, triples and memory bases (R96, R147, R149, R306). The scratchpad forms read only the
low register of their base (R187). -/
def width0 (op : Nat) : Nat :=
  if op == 0x06 || op == 0x07 || op == 0x08 then 2
  else if 0x51 ≤ op && op ≤ 0x56 then 3
  else if wideSrc op 0 then 2
  else if (0xA0 ≤ op && op ≤ 0xA5) || (0xAC ≤ op && op ≤ 0xB0) || (0xB3 ≤ op && op ≤ 0xB8) || (0xC0 ≤ op && op ≤ 0xC3) || op == 0xDA then 2
  else 1

def width1 (op : Nat) (a : Args) : Nat :=
  if 0x51 ≤ op && op ≤ 0x53 then 3
  else if wideSrc op 1 then 2
  else match op with
    | 0xA1 | 0xA3 | 0xA7 | 0xA9 | 0xBA => sizeRegs a.size
    | 0xAC | 0xAD | 0xAF => if a.ctl.getLsbD 4 then 2 else 1
    | 0xDC => 2
    | _ => 1

def width2 (op : Nat) (a : Args) : Nat :=
  if wideSrc op 2 then 2
  else match op with
    | 0xAD => if a.ctl.getLsbD 4 then 2 else 1
    | 0xC1 | 0xC2 => 6
    | 0xC3 => if a.ctl.getLsbD 4 then 1 else 6
    | _ => 1

/-- Registers of dst that an opcode writes. -/
def widthDst (op : Nat) (a : Args) : Nat :=
  match op with
  | 0x05 | 0x06 | 0x12 | 0x8B | 0xD1 | 0xD3 | 0xDD | 0xDE | 0xDF => 2
  | 0x51 | 0x52 | 0x53 | 0x54 | 0x93 => 3
  | 0x57 | 0x58 | 0x59 | 0x5A | 0x5B | 0x5C | 0x5D | 0x5E => 2
  | 0xA0 | 0xA2 | 0xA4 | 0xA6 | 0xA8 | 0xB8 | 0xB9 => sizeRegs a.size
  | 0xAC | 0xAD => if a.ctl.getLsbD 4 then 2 else 1
  | 0xCD => 2 * (a.aux.toNat % 16 + 1)
  | 0xCE => a.aux.toNat % 16 + 1
  | _ => 1

/-- dst names an indirect target that is read (R253). -/
def dstIsRead (op : Nat) : Bool := op == 0xC0 || op == 0xC1 || op == 0xC3 || op == 0xC4

/-- LREL.all and forms without a base read nothing through in0; a none operand is no register. NOP's zero specifiers name nothing
(R58). -/
def readRegs (op : Nat) (a : Args) : List Opnd :=
  if op == 0x00 then [] else
  regGroup a.in0 (width0 op) ++ regGroup a.in1 (width1 op a) ++ regGroup a.in2 (width2 op a) ++
  (if readsDst op || op == 0x09 || dstIsRead op then regGroup a.dst 1 else []) ++
  (if op == 0xCD && a.ctl.getLsbD 6 then regGroup a.dst (widthDst op a) else [])

def writeRegs (op : Nat) (a : Args) : List Opnd := if op == 0x00 || dstIsRead op then [] else regGroup a.dst (widthDst op a)

/-- The sources that name l0 or l1. -/
def lastsOf (a : Args) : List Opnd := [a.in0, a.in1, a.in2].filter Opnd.isL

/-- Vector-shaped, as the register files see it: the operation has a v or o destination or, without a destination, a v, o, l0 or l1
source (R53). CAP, chute, event and task instructions are scalar-shaped (R126, R210, R229, R278, R362). -/
def isVector (op : Nat) (a : Args) : Bool :=
  if isLaneOp op then a.dst.isV || a.dst.isO || a.in0.isVec || a.in1.isVec || a.in2.isVec
  else if 0xC4 ≤ op || isControl op || (0xB1 ≤ op && op ≤ 0xB5) || (0xBB ≤ op && op ≤ 0xBF) || op == 0xC1 || op == 0xC2 then op == 0x03 || op == 0xB8
  else a.dst.isV || a.dst.isO || a.in0.isVec || a.in1.isVec || a.in2.isVec || op == 0xC0 || (op == 0xC3 && a.ctl.getLsbD 4)

/-- VOTE, BALLOT, VMATCH and the lane reductions fold the active lanes, whatever their operands (R162, R164 to R166). -/
def foldsLanes (op : Nat) : Bool := decide (0x91 ≤ op) && decide (op ≤ 0x9B)

/-- CAP.ENTER, CAP.STEP and CAP.END checkpoint s0 to s7 (R353, R358). -/
def checkpoints (op : Nat) : Bool := decide (0xDA ≤ op) && decide (op ≤ 0xDC)

/-- The instruction reads s60 to s62 without naming them (R62): a vector instruction, save VBCAST to a scalar (R164), the folds, JOIN, which
merges its mask (R87, R88), and ACC.RD and TOPK, which take it at acceptance (R277). -/
def readsMask (op : Nat) (a : Args) : Bool :=
  (isVector op a && !(op == 0x90 && a.dst.isS)) || foldsLanes op || op == 0x04 || op == 0xCD || op == 0xCE

/-- The instruction writes s60 to s62 without naming them: TRET (R436). -/
def writesMask (op : Nat) : Bool := op == 0x0D

def maskRegs : List Opnd := [.s 60, .s 61, .s 62]

/-- The registers that an instruction reads, the implicit mask of an instruction that reads it and a checkpoint included (R62). -/
def allReadRegs (op : Nat) (a : Args) : List Opnd :=
  readRegs op a ++ (if readsMask op a then maskRegs else []) ++
  (if checkpoints op then [.s 0, .s 1, .s 2, .s 3, .s 4, .s 5, .s 6, .s 7] else [])

/-- The number of the specifier at fault in a register trap (R431: detail): the specifier's own bits. -/
def opndCode : Opnd → Nat
  | .v i => i.val
  | .s i => 0x100 + i.val
  | .o i => 0x200 + i.val
  | .small i => 0x300 + i.toNat
  | .l0 => 0x320
  | .l1 => 0x321
  | .zero => 0x322
  | .imm => 0x323
  | .none => 0x3FF
  | .num n => n.toNat

/-- The slot number of R430 of the first operand whose registers satisfy `p`. -/
def slotOfReg (op : Nat) (a : Args) (p : Opnd → Bool) : Nat :=
  if (regGroup a.dst (widthDst op a)).any p then 1 else if (regGroup a.in0 (width0 op)).any p then 2
  else if (regGroup a.in1 (width1 op a)).any p then 3 else if (regGroup a.in2 (width2 op a)).any p then 4 else 0

/-- A v register beyond the boundary (R122); a group that runs past v255 is beyond it too. -/
def Crew.outOfRange (c : Crew) : Opnd → Bool
  | .v i => decide (c.bound ≤ i.val)
  | _ => false

/-- A last-result operand without a valid entry (R61). -/
def staleTrap (a : Args) (pipe : Nat) (c : Crew) : Option Trap :=
  ((lastsOf a).find? fun o => c.lastEntry pipe (if o == .l0 then 0 else 1) == none).map fun o =>
    { cause := .staleOperand, detail := opndCode o, slot := if a.in0 == o then 2 else if a.in1 == o then 3 else 4 }

/-- A register read or written whose result is outstanding for the unit (R62). -/
def pendingTrap (op : Nat) (a : Args) (c : Crew) (u : Nat) : Option Trap :=
  let pend := c.pending u
  ((allReadRegs op a ++ writeRegs op a ++ if writesMask op then maskRegs else []).find? fun o => pend.contains o).map fun o =>
    { cause := .registerPending, detail := opndCode o, slot := slotOfReg op a (· == o) }

/-- A main-file register at or above the boundary, or a group that runs past v255 (R122, R284). -/
def rangeTrap (op : Nat) (a : Args) (c : Crew) : Option Trap :=
  match (readRegs op a ++ writeRegs op a).find? c.outOfRange with
  | some o => some { cause := .registerRange, detail := opndCode o, slot := slotOfReg op a (· == o) }
  | none =>
    if (op == 0xCD || op == 0xCE) && decide (c.bound < a.dst.index + widthDst op a) then
      some { cause := .registerRange, detail := opndCode a.dst, slot := 1 }
    else none

/-- The register traps that stand before the family's own, in the order of R68: stale-operand, register-pending, register-range. -/
def regTrap (op : Nat) (a : Args) (pipe : Nat) (c : Crew) (u : Nat) : Option Trap :=
  match staleTrap a pipe c with
  | some t => some t
  | none => match pendingTrap op a c u with
    | some t => some t
    | none => rangeTrap op a c

end Sys2Proof.Machine
end

