-- ==== Sys2Proof/Machine/Flags.lean ====
section
/-! DEFINITION. The sticky flags (R42 to R45) and the flag of the integer instructions (R131). -/

namespace Sys2Proof.Machine

/-- Bits of c.fflags (R42). -/
def flagIX : BitVec 7 := 0x01
def flagUF : BitVec 7 := 0x02
def flagOF : BitVec 7 := 0x04
def flagDZ : BitVec 7 := 0x08
def flagIV : BitVec 7 := 0x10
def flagSAT : BitVec 7 := 0x20
def flagTC : BitVec 7 := 0x40

def flagIf (b : Bool) (f : BitVec 7) : BitVec 7 := if b then f else 0

/-- An exact value narrowed to `w` bits (R131): the bits, and SAT where saturation changed it. -/
def narrow (w : Nat) (sat unsig : Bool) (t : Int) : Nat × BitVec 7 :=
  if !sat then (wrap w t, 0)
  else
    let lo : Int := if unsig then 0 else -(2 ^ (w - 1) : Nat)
    let hi : Int := if unsig then (2 ^ w : Nat) - 1 else (2 ^ (w - 1) : Nat) - 1
    let r := if t < lo then lo else if hi < t then hi else t
    (wrap w r, flagIf (r != t) flagSAT)

/-- Flags of the active lanes of a vector result, of one result for a scalar shape (R43, R126). -/
def laneFlags (m : Mask) (f : Nat → BitVec 7) : BitVec 7 :=
  (List.range laneCount).foldl (fun acc l => if m.getLsbD l then acc ||| f l else acc) 0

/-- Fence-class opcodes (R45, R210, R229, R315, R362). -/
def isFence (op : Nat) : Bool :=
  [0x0A, 0x0B, 0xB1, 0xB2, 0xB3, 0xD1, 0xD3, 0xD5, 0xD6, 0xD7, 0xD8, 0xD9, 0xDA, 0xDD].contains op

/-- Traps enabled for flags that are set (R45). -/
def Crew.flagTest (c : Crew) : BitVec 7 := c.fflags &&& c.fenable

end Sys2Proof.Machine
end

