-- ==== Sys2Proof/Machine/Issue.lean ====
section
/-! DEFINITION. The frame that every crew instruction runs in: what stands before its effect (debug stops, wait mask, tokens, register
and capsule traps, the flag test) and what follows it (PC, switch marker, run length). R44, R45, R61 to R68, R81, R92, R97, R114, R355. -/

namespace Sys2Proof.Machine

/-- What a meaning answers. -/
inductive Res where
  /-- the effect is made; the unit goes on at next -/
  | done (s : State)
  /-- the effect is made and the unit parks as if S were set (R210, R229, R362) -/
  | parked (s : State)
  /-- a taken transfer; `park` as if S were set (R85) -/
  | goto (s : State) (pc : Dword) (park : Bool)
  /-- the effect has placed the unit itself -/
  | placed (s : State)
  /-- nothing happens yet (R81) -/
  | stall (h : Hazard)
  /-- the instruction is executed again later, in the state that it leaves (R349) -/
  | again (s : State) (h : Hazard)
  /-- the unit suspends with a continuation (R91, R92) -/
  | suspend (s : State) (pc : Dword) (w : Wake)
  /-- a precise trap; the state holds what precedes it (a flag bit of a table, a release) -/
  | trap (s : State) (t : Trap)

/-- The PC after an instruction: the last word of a fetch block is skipped (R50). -/
def skipTail (pc : Dword) : Dword := if pc.toNat % 32 = 0x1C then pc + 4 else pc

/-- What a debug register stop raises (R114, R104). -/
def breakTrap (kind : DebugStop) (code : Word) : Trap := { cause := .breakpoint, detail := code.toNat, dbg := kind }

/-- Breakpoint n whose offset names the instruction about to issue (R114). -/
def Crew.codeBreak (c : Crew) (image pc : Dword) : Option Nat :=
  if c.dbg.ctl.getLsbD 1 then
    (List.range 4).find? fun n =>
      let b := c.dbg.bp.getD n 0
      b.getLsbD 0 && ((b.toNat / 4) * 4 == (pc - image).toNat)
  else none

def setStat (c : Crew) (kind n : Nat) : Crew :=
  { c with dbg := { c.dbg with stat := wordOf (kind + 256 * n) } }

/-- The debug stop that stands before the instruction, with its dbg.stat (R114): a data watch's and a step's first, each with a record of
its own, then a code breakpoint's (log 46). -/
def debugStop (s : State) (x : Ctx) : Option (State × DebugStop × Word) :=
  match x.h.debugStops with
  | d :: rest =>
    let watch := d == .watch
    some (s.modCrew x.k fun c => (setStat c (if watch then 3 else 1) 0).modUnit x.u fun h => { h with debugStops := rest }, d,
      if watch then 0xFFFFFF20 else 0xFFFFFF00)
  | [] =>
    let image := match s.launches.get? x.c.launch with | some l => l.code | none => 0
    if x.h.debugSkip then none
    else match x.c.codeBreak image x.pc with
      | some n => some (s.modCrew x.k fun c => setStat c 2 n, .code, wordOf (0xFFFFFF10 + n))
      | none => none

/-- In the step slot of the capsule that begins at `start` (R352). -/
def inSlot (start t : Dword) : Bool := decide ((t - start).toNat < 0x200)

/-- Instructions that capsule mode allows (R355), lines apart. -/
def capsuleAllows (op : Nat) (x : Ctx) : Bool :=
  if op == 0x00 then true
  else if 0x20 ≤ op && op < 0x60 then
    !isVector op x.a && !((writeRegs op x.a).any fun o => o == .s 60 || o == .s 61 || o == .s 62)
  else if op == 0x01 || op == 0x02 then decide (0 < x.a.imm.toInt) && inSlot x.c.cap.stepPc x.target
  else if op == 0xA0 then x.a.in0.isS && x.a.dst.isS && decide (x.a.size ≤ 5) && x.a.scope == 0 && !x.a.tv
  else if op == 0xA1 then x.a.in0.isS && x.a.in1.isS && decide (x.a.size ≤ 5) && x.a.scope == 0 && !x.a.tv
  else op == 0xB4 || op == 0xDB || op == 0xDC

/-- R355 refuses the instruction: capsule mode does not allow it, or the step has issued 32. -/
def Ctx.capsuleFault (x : Ctx) (op : Nat) : Bool := x.c.cap.mode && (decide (32 ≤ x.c.cap.count) || !capsuleAllows op x)

def Ctx.capsuleTrap (x : Ctx) : Trap := { cause := .capsuleFault, addr := x.c.cap.record.toNat }

/-- Instructions whose own traps of R366 stand before capsule-fault, which their meanings test in its place. -/
def testsCapsule (op : Nat) : Bool :=
  op == 0xA0 || op == 0xA1 || op == 0xB4 || op == 0xDA || op == 0xDB || op == 0xDC || op == 0xDD

/-- A word holds an uncorrectable error (R444): structure code, owner, index. In a register file (codes 1 and 2) the owner is a crew slot
and the index 128 times the register's number plus the lane; scalars are 0 to 63 of the second file, o registers follow. -/
def State.soft (s : State) (code owner index : Nat) : Bool := s.softErrors.contains (code, owner, index)

/-- Lane l of a vector operand is read: the active lanes, by a pull any lane, by VBCAST the lane that it names (R162, R164), by an engine's
task every lane (R277). -/
def Ctx.readsLane (op : Nat) (x : Ctx) (l : Nat) : Bool :=
  if op == 0x90 then l == (x.scalar x.a.in1).toNat
  else op == 0x8C || op == 0x8E || op == 0x8F || decide (0xC4 ≤ op) || x.h.mask.getLsbD l

/-- The trap of a register word in error that the instruction reads (R430, R444). -/
def softRegister (s : State) (op : Nat) (x : Ctx) : Option Trap :=
  if s.softErrors.isEmpty then none
  else
    let trap (code : Nat) (o : Opnd) (lane : Nat) : Trap := { cause := .softError, detail := code, slot := slotOfReg op x.a (· == o), lane := lane }
    let word (code n : Nat) (o : Opnd) : Option Trap :=
      ((List.range laneCount).find? fun l => x.readsLane op l && s.soft code x.k (128 * n + l)).map (trap code o)
    (allReadRegs op x.a).findSome? fun o => match o with
      | .v i => word 1 i.val o
      | .o i => word 2 (64 + i.val) o
      | .s i => if s.soft 2 x.k (128 * i.val) then some (trap 2 o 0x7F) else none
      | _ => none

/-- Stalls a unit on a hazard. The count of R224 goes on while the hazard is the same; that of R184 is of consecutive ck and starts again. -/
def State.stallUnit (s : State) (k u : Nat) (hz : Hazard) : State :=
  s.modUnit k u fun h =>
    { h with since := if h.st = .stalled hz && hz.limited.isNone then h.since else s.ck, st := .stalled hz, tried := some s.ck }

/-- Suspends a unit (R91): its leases end (R348). With S it has been at a marker, where a suspending instruction, being fence-class, has no
result to wait for (R45, R63, R96). -/
def State.suspendUnit (s : State) (k u : Nat) (pc : Dword) (w : Wake) (sw : Bool) (core launch : Nat) : State :=
  let s := s.modCrew k fun c =>
    { (c.endLeasesOf u).modUnit u fun h => { h with
        st := .suspended w false, pc := pc, origin := h.pc, stop := true, since := s.ck, run := if sw then 0 else h.run } with last := noLast }
  s.perf core launch 15 1

/-- The step bit as the instruction found it: a write to the debug registers takes effect at the next instruction (R114). -/
def Ctx.stepping (x : Ctx) : Bool := x.c.dbg.ctl.getLsbD 0

/-- Marks of an issued instruction: run length, stop point, step debug (R63, R82, R114), capsule count (R355). The epoch recorded at a BAR
goes once the unit issues something else outside its handler (R214). -/
def Crew.issued (c : Crew) (u : Nat) (step : Bool) : Crew :=
  let inside := c.inHandler u
  let c := c.modUnit u fun h => { h with
    run := h.run + 1, stop := false, st := .ready, debugSkip := false
    barEpoch := if inside || h.barPc == h.pc then h.barEpoch else none
    debugStops := if step then h.debugStops ++ [.step] else h.debugStops }
  if c.cap.mode then { c with cap := { c.cap with count := c.cap.count + 1 } } else c

/-- After the effect: PC, origin, marker. -/
def State.finish (s : State) (x : Ctx) (sw : Bool) : State :=
  s.modCrew x.k fun c =>
    let c := (c.issued x.u x.stepping).modUnit x.u fun h => { h with pc := skipTail (x.h.pc + BitVec.ofNat 64 x.len), origin := x.h.pc }
    if sw then c.park x.u else c

/-- A taken transfer (R61, R63, R97): the target is checked before anything of it; past 1,024 instructions it is to park. -/
def State.transfer (s : State) (x : Ctx) (t : Dword) (park : Bool) : State :=
  if t.toNat % 4 ≠ 0 then s.takeTrap x.k x.u x.len { cause := .misalignedPc, addr := t.toNat }
  else if 2 ^ 56 ≤ t.toNat then s.takeTrap x.k x.u x.len { cause := .addressRange, addr := t.toNat }
  else s.modCrew x.k fun c =>
    let c := { (c.issued x.u x.stepping).modUnit x.u fun h => { h with pc := t, origin := x.h.pc } with last := noLast }
    if park then c.park x.u
    else if 1024 ≤ x.h.run then c.modUnit x.u fun h => { h with st := .limited } else c

/-- A transfer target that R97 refuses. -/
def badTarget (t : Dword) : Bool := t.toNat % 4 != 0 || decide (2 ^ 56 ≤ t.toNat)

/-- A unit goes on from a stop point: the ck since it last did (R387, log 19). -/
def State.noteStop (s : State) (x : Ctx) : State :=
  if x.h.stop then
    (s.modLaunch x.c.launch fun l => { l with runSum := l.runSum + (s.ck - x.h.stopAt), runCount := l.runCount + 1 }).modUnit x.k x.u
      fun h => { h with stopAt := s.ck }
  else s

/-- The unit runs a pair: its length is not that of a format of one instruction. -/
def Ctx.isPair (x : Ctx) : Bool := x.len != x.a.form.bytes

/-- An instruction has issued: its issuer's ck is used (R83) and the counters of R116 count it, a pair as two instructions. -/
def State.noteIssue (s : State) (x : Ctx) : State :=
  let s := s.noteStop x
  let s := (s.perf x.core x.c.launch 3 (if x.isPair then 2 else 1)).perf x.core x.c.launch 2 1
  { (if x.isPair then s.perf x.core x.c.launch 4 1 else s) with spent := (x.k, x.u) :: s.spent }

/-- Applies a meaning's answer. A stall or a trap issues nothing. -/
def applyRes (x : Ctx) (s : State) : Res → State
  | .done s' => (s'.finish x x.a.sw).noteIssue x
  | .parked s' => (s'.finish x true).noteIssue x
  | .goto s' t park => let r := s'.transfer x t (x.a.sw || park)
    if badTarget t then r else r.noteIssue x
  | .placed s' => s'.noteIssue x
  | .stall hz => s.stallUnit x.k x.u hz
  | .again s' hz => s'.stallUnit x.k x.u hz
  | .suspend s' pc w =>
    ((s'.modCrew x.k fun c => c.issued x.u x.stepping).suspendUnit x.k x.u pc w x.a.sw x.core x.c.launch).noteIssue x
  | .trap s' t => s'.takeTrap x.k x.u x.len t

/-- Everything that stands before a meaning's own effect. -/
def runInstr (op : Nat) (x : Ctx) (body : Ctx → State → Res) (s : State) : State :=
  match debugStop s x with
  | some (s, kind, code) => s.takeTrap x.k x.u x.len (breakTrap kind code)
  | none =>
    if !x.a.ok op then s.takeTrap x.k x.u x.len { cause := .illegalField }
    else if (List.range 8).any (fun n => x.a.wait.getLsbD n && x.c.tokens.getD n 0 != 0) then s.stallUnit x.k x.u (.tokens x.a.wait)
    else if x.a.tv && x.c.tokens.getD x.a.tok.toNat 0 == 63 then s.stallUnit x.k x.u (.tokenRoom x.a.tok.toNat)
    else match regTrap op x.a x.pipe x.c x.u with
      | some t => s.takeTrap x.k x.u x.len t
      | none => match softRegister s op x with
        | some t => s.takeTrap x.k x.u x.len t
        | none =>
          if isFence op && op != 0x0A && x.c.waiting x.u then s.stallUnit x.k x.u .results
          else if isFence op && op != 0x0A && x.c.flagTest != 0 then
            s.takeTrap x.k x.u x.len { cause := .flag, detail := x.c.flagTest.toNat }
          else if !testsCapsule op && x.capsuleFault op then s.takeTrap x.k x.u x.len x.capsuleTrap
          else applyRes x s (body x s)

/-- Runs a crew instruction of an opcode on the unit chosen to issue. -/
def issue (op : Nat) (a : Args) (body : Ctx → State → Res) (s : State) : Out :=
  match s.focus with
  | none => .fault .noUnit
  | some (k, u) => match s.crews.get? k with
    | none => .fault .noUnit
    | some c => match c.units.get? u with
      | none => .fault .noUnit
      | some h =>
        let pipe := match row? op with | some r => if r.pc = .b then 1 else 0 | none => 0
        .next (runInstr op ⟨k, u, c, h, a, a.form.bytes, pipe⟩ body { s with focus := none })

/-- An instruction's effect on the crew alone. -/
def Ctx.crewDone (x : Ctx) (s : State) (f : Crew → Crew) : Res := .done (s.modCrew x.k f)

/-- Writes a scalar result. -/
def Ctx.doneS (x : Ctx) (s : State) (o : Opnd) (v : Word) : Res :=
  x.crewDone s fun c => c.writeReg x.u ⟨o, 0, [v]⟩

def Ctx.donePair (x : Ctx) (s : State) (o : Opnd) (v : Dword) : Res := x.crewDone s fun c => c.writePair x.u o.index v

/-- The launch of the crew. -/
def Ctx.launch? (x : Ctx) (s : State) : Option Launch := s.launches.get? x.c.launch

/-- The block of the crew, with its block slot. -/
def Ctx.bslot (x : Ctx) (s : State) : Nat := s.bslotOf x.k
def Ctx.block? (x : Ctx) (s : State) : Option Block := s.blocks.get? (blockKey x.core (x.bslot s))

/-- The unit is a spall, or the crew is divided (R214, R230, R353). -/
def Ctx.divided (x : Ctx) : Bool := x.u != 0 || decide (1 < x.c.units.length) || !x.c.deferred.isEmpty

/-- The scope code may be named by the tenant (R293, R294): tenant 4, module 5, system 6. -/
def Ctx.scopeOk (x : Ctx) (s : State) : Bool :=
  let g := (s.tenant (s.tenantOf x.c)).grant
  match x.a.scope.toNat with
  | 4 => g.getLsbD 0
  | 5 => g.getLsbD 1
  | 6 => g.getLsbD 2
  | _ => true

def Ctx.scopeTrap (x : Ctx) : Trap := { cause := .scope, detail := x.a.scope.toNat }

end Sys2Proof.Machine
end

