-- ==== Sys2Proof/Machine/Fetch.lean ====
section
/-! DEFINITION. Fetching code (R49, R50, R69, R70, R111, R112): the instruction cache with its map bits, and the bytes at a PC. -/

namespace Sys2Proof.Machine

/-- The map bit of the block that holds an address; false beyond the image (R69). -/
def Launch.executable (l : Launch) (addr : Nat) : Bool :=
  let off := addr - l.code.toNat
  decide (l.code.toNat ≤ addr) && decide (off < l.codesz) && (l.xmap.getD (off / 256) 0).getLsbD (off / 32 % 8)

/-- The line of the image lies in part within it. -/
def Launch.lineInImage (l : Launch) (vline : Nat) : Bool :=
  decide (l.code.toNat < vline * 128 + 128) && decide (vline * 128 < l.code.toNat + l.codesz)

/-- The cached line. -/
def Core.codeLine (c : Core) (launch vline : Nat) : Option CodeLine := c.icache.find? fun e => e.launch == launch && e.vline == vline

/-- What a fetch of a line meets: a line that another agent holds, or a fault of its translation. -/
inductive CodeStop where
  | waits (line : Nat)
  | fault (f : XlFault)

/-- Reads a line of code with its four map bits into the core's instruction cache, where the oldest of 1,024 makes way (R11, R69). -/
def State.fillCode (s : State) (core launch : Nat) (l : Launch) (vline : Nat) : Except CodeStop (CodeLine × State) :=
  match s.translate core l.part (vline * 128) false true true with
  | .error f => .error (match f.waits? with | some n => .waits n | none => .fault f)
  | .ok (x, s) =>
    if s.lineHeld (x.pa / 128) none || !s.homeTakes core (x.pa / 128) then .error (.waits (x.pa / 128))
    else
    let s := s.homeTook core (x.pa / 128)
    let line : CodeLine :=
      { launch := launch, vline := vline, bytes := s.readBytes x.key x.pa 128
        map := (List.range 4).map fun i => l.executable (vline * 128 + 32 * i) }
    .ok (line, s.modCore core fun c =>
      { c with icache := (line :: c.icache.filter fun e => !(e.launch == launch && e.vline == vline)).take codeLines })

/-- Brings a line into the cache, or skips it (R111). -/
def State.prefetchCode (s : State) (core launch : Nat) (l : Launch) (vline : Nat) : State :=
  if !l.lineInImage vline || ((s.core core).codeLine launch vline).isSome then s
  else match s.fillCode core launch l vline with
    | .ok (_, s) => s
    | .error _ => s

/-- A fetch that gives no instruction: a trap, or a line that another agent holds (R347). -/
inductive FetchStop where
  | trap (t : Trap)
  | waits (line : Nat)

/-- What a fetch at a PC gives: the first traps of R68, or the 128 bits from the PC and the length. `origin` is where control came from. -/
def State.fetch (s : State) (core launch : Nat) (l : Launch) (pc origin : Dword) : State × Except FetchStop (BitVec 128 × Nat) :=
  let a := pc.toNat
  let vline := a / 128
  let cached := (s.core core).codeLine launch vline
  let exe := match cached with
    | some e => e.map.getD (a % 128 / 32) false
    | none => l.executable a
  if !exe then (s, .error (.trap { cause := .executedPool, pc := some pc, addr := origin.toNat, slot := 7 }))
  else if a % 32 = 0x1C then (s, .error (.trap { cause := .fetchCrossing, pc := some pc, addr := origin.toNat, slot := 7 }))
  else
    let r : Except CodeStop (CodeLine × State) := match cached with
      | some e => .ok (e, s)
      | none => s.fillCode core launch l vline
    match r with
    | .error (.fault f) => (s, .error (.trap (f.trap a 0x7F 7 false)))
    | .error (.waits n) => (s, .error (.waits n))
    | .ok (line, s) =>
      let bs := (List.range (32 - a % 32)).map fun i => line.bytes.getD (a % 128 + i) 0
      let w : BitVec 128 := BitVec.ofNat 128 (leNat (bs.take 16))
      let len := lengthOf (w.extractLsb' 0 2).toNat
      if 32 < a % 32 + len then (s, .error (.trap { cause := .fetchCrossing, pc := some pc, slot := 7 }))
      else (s, .ok (w, len))

end Sys2Proof.Machine
end

