-- ==== Sys2Proof/Machine/Caches.lean ====
section
/-! DEFINITION. Requests to the home banks, and the accesses of the agents that reach a line at its home (R15, R329 to R334, R345). -/

namespace Sys2Proof.Machine

/-- A line is read or written at its home: L1 copies are recalled or invalidated first (R330). -/
def State.atHome (s : State) (line : Nat) (wr : Bool) : State :=
  if wr || (s.line line).owner.isSome then s.homeLine line else s

/-- A load or a prefetch that misses in L1 probes a predicted cluster, or asks the home (R331). -/
def State.missLine (s : State) (core launch n key : Nat) : State :=
  if ((s.core core).l1.get? n).isSome then s
  else
  let s := s.countMiss core
  match (s.core core).predictor.get? n with
    | some target =>
      let part := match s.launches.get? launch with | some l => l.part | none => 0
      let p : Probe := { core := core, line := n, key := key, target := target, supplied := false, part := part }
      if homeDie (n * 128) = dieOf core then (if s.probes.any fun e => e.2.core == core && e.2.line == n then s
        else { s with probes := s.probes.put s.nextNotice p, nextNotice := s.nextNotice + 1 })
      else s.askBank core launch n key false
    | none => s.askBank core launch n key false

/-! ## Accesses of the complexes, the dispatchers, the ports and the trace (R115, R367, R451, R481) -/

/-- Why a device access does not take place: a line held by another agent, or a fault at an address. -/
inductive DevStop where
  | waits (line : Nat)
  | fault (f : XlFault) (va : Nat)
  deriving DecidableEq, Repr

/-- Lengths of the pieces of n bytes from an address, one for each 128 B line: offset and length. -/
def linePieces (va n : Nat) : List (Nat × Nat) :=
  (List.range ((va + n + 127) / 128 - va / 128)).map fun i =>
    let a := if i = 0 then va else (va / 128 + i) * 128
    (a - va, min (va + n) ((va / 128 + i + 1) * 128) - a)

/-- Translates one piece of a device access, afresh. -/
def State.devXlate (s : State) (part va : Nat) (wr load : Bool) : Except DevStop (Xl × State) :=
  match s.walk part va wr false with
  | .error f => .error (match f.waits? with | some n => .waits n | none => .fault f va)
  | .ok (x, _, _, s) =>
    if !s.backed x.pa then .error (.fault ⟨.physical, 0, 0⟩ va)
    else if load && s.poisoned x.key x.pa then .error (.fault ⟨.memory, 0, s.errorCode x.pa⟩ va)
    else if s.lineHeld (x.pa / 128) none || s.lineQueued (x.pa / 128) ||
        !s.deviceTakes (bankOf x.pa) then .error (.waits (x.pa / 128))
    else .ok (x, s.touch x.pa)

/-- The banks of a device access have accepted it. DESIGN CHOICE (log 77): the device comes by the home die's interface. -/
def State.deviceTookAll (s : State) (pas : List Nat) : State := pas.foldl (fun s pa => s.deviceTook (bankOf pa)) s

/-- Writes bytes at a partition's virtual address: every piece is translated before the first is written. -/
def State.vwrite (s : State) (part va : Nat) (bs : List Byte) : Except DevStop State :=
  let pieces := linePieces va bs.length
  let check := pieces.foldl (fun acc (p : Nat × Nat) => match acc with
    | .error e => .error e
    | .ok (s, xs) => match s.devXlate part (va + p.1) true false with
      | .error e => .error e
      | .ok (x, s) => .ok (s, xs ++ [(x, p)])) ((.ok (s, [])) : Except DevStop (State × List (Xl × Nat × Nat)))
  match check with
  | .error e => .error e
  | .ok (s, xs) => .ok (xs.foldl (fun s (e : Xl × Nat × Nat) =>
      (s.homeLine (e.1.pa / 128)).perform e.1.key e.1.pa ((bs.drop e.2.1).take e.2.2)) (s.deviceTookAll (xs.map fun e => e.1.pa)))

/-- Reads n bytes at a partition's virtual address. -/
def State.vread (s : State) (part va n : Nat) : Except DevStop (List Byte × State) :=
  ((linePieces va n).foldl (fun acc (p : Nat × Nat) => match acc with
    | .error e => .error e
    | .ok (bs, pas, s) => match s.devXlate part (va + p.1) false true with
      | .error e => .error e
      | .ok (x, s) => .ok (bs ++ s.readBytes x.key x.pa p.2, pas ++ [x.pa], s.atHome (x.pa / 128) false))
    ((.ok ([], [], s)) : Except DevStop (List Byte × List Nat × State))).map fun r => (r.1, r.2.2.deviceTookAll r.2.1)

/-! ## The trace buffers (R115, R396) -/

/-- A write that the device makes to a trace buffer: its header's read-only fields do not stop it (R5). -/
def State.traceWrite (s : State) (part va : Nat) (bs : List Byte) : Except DevStop State :=
  (State.vwrite { s with heads := [] } part va bs).map fun t => { t with heads := s.heads }

/-- Records that a trace buffer of a length holds. -/
def traceRoom (len : Nat) : Nat := (len - 64) / 16

/-- A record of 16 bytes. -/
def traceBytes (t : TraceOp) (v : Word) : List Byte := leBytes 4 v.toNat ++ leBytes 4 t.index ++ leBytes 8 t.ck

/-- A trace record and the count of it, or the count of one dropped (R115). -/
def State.traceMark (s : State) (t : TraceOp) (v : Word) : Except DevStop State :=
  match s.vread t.part t.base 24 with
  | .error e => .error e
  | .ok (hd, s) =>
    let written := leNat (hd.take 8)
    let dropped := leNat ((hd.drop 8).take 8)
    let read := leNat (hd.drop 16)
    if (written + 2 ^ 64 - read) % 2 ^ 64 < traceRoom t.len then
      match s.traceWrite t.part (t.base + 64 + 16 * (written % traceRoom t.len)) (traceBytes t v) with
      | .ok s => s.traceWrite t.part t.base (leBytes 8 ((written + 1) % 2 ^ 64))
      | .error e => .error e
    else s.traceWrite t.part (t.base + 8) (leBytes 8 ((dropped + 1) % 2 ^ 64))

/-- The header zeroed before the first record: from here its fields are the device's (R396). -/
def State.traceZero (s : State) (t : TraceOp) : Except DevStop State :=
  match s.devXlate t.part t.base true false with
  | .error e => .error e
  | .ok (x, s) => (s.traceWrite t.part t.base (List.replicate 64 0)).map fun r => { r with heads := r.heads.put t.launch x.pa }

/-- Whose write it is. -/
def TraceOp.agent (t : TraceOp) : Agent :=
  { launch := t.launch, index := t.index, block := t.block, spall := t.unit, core := coreOf t.crew, issuer := issuerOf t.crew
    slot := slotOf t.crew, bslot := t.bslot, part := t.part, tenant := t.tenant, pc := t.pc }

/-- Makes the writes that can be made, in order for each launch; one whose line is held waits, and those of its launch behind it. One that
faults is lost with its record (R17, log 18), and with a header that could not be zeroed the buffer. -/
def State.flushTraces (waits : List Nat) : List TraceOp → State → List TraceOp × State
  | [], s => ([], s)
  | t :: ts, s =>
    if waits.contains t.launch then (let (rest, s) := State.flushTraces waits ts s; (t :: rest, s))
    else match (match t.value with | some v => s.traceMark t v | none => s.traceZero t) with
      | .ok s => State.flushTraces waits ts s
      | .error (.waits _) => let (rest, s) := State.flushTraces (t.launch :: waits) ts s; (t :: rest, s)
      | .error (.fault f va) =>
        let s := s.report t.agent (f.trap va 0x7F 0 true) false .none
        let s := if t.value.isSome then s else s.modLaunch t.launch fun l => { l with tset := false }
        State.flushTraces waits ts s

/-- Makes what can be made now of a list of writes, and keeps the rest. -/
def State.traceAll (s : State) (ts : List TraceOp) : State :=
  let (rest, s) := State.flushTraces [] ts s
  { s with traces := rest }

def State.traceNow (s : State) : State := s.traceAll s.traces

/-- A write to a trace buffer joins those that are to be made. -/
def State.trace (s : State) (t : TraceOp) : State := s.traceAll (s.traces ++ [t])

end Sys2Proof.Machine
end

