-- ==== Sys2Proof/Machine/Lanes.lean ====
section
/-! DEFINITION. The frame of the lane instructions, opcodes 0x20 to 0x9F (R53, R61, R126, R131): an instruction's lanes give a result
word or pair and flags; the frame writes, merges and enters the last-result file, or puts a variable-latency result on its way. -/

namespace Sys2Proof.Machine

/-- One lane's result: low word, high word of a pair, flags. -/
structure LaneRes where
  lo : Word
  hi : Word
  fl : BitVec 7
  deriving DecidableEq, Repr

def LaneRes.of (w : Word) : LaneRes := ⟨w, 0, 0⟩

/-- What a lane instruction writes and raises. -/
structure LaneOut where
  writes : List RegWrite
  flags : BitVec 7
  deriving DecidableEq, Repr

/-- The meaning of a lane instruction. -/
abbrev LaneSem := Ctx → State → LaneOut

/-- A vector-shaped operation (R53). -/
def Ctx.vector (x : Ctx) : Bool := vectorShape x.a.dst x.a.in0 x.a.in1 x.a.in2

/-- Lanes to writes (R53, R126): active lanes of a vector destination, lane 0 of a scalar shape, flags alone for zero. -/
def perLane (wide : Bool) (f : Ctx → State → Nat → LaneRes) : LaneSem := fun x s =>
  let d := x.a.dst
  let f := f x s
  if x.vector then
    let flags := laneFlags x.h.mask fun l => (f l).fl
    if d.isVec then
      let lo : RegWrite := ⟨d, x.h.mask, lanesOf fun l => (f l).lo⟩
      let hi : RegWrite := ⟨Opnd.next d 1, x.h.mask, lanesOf fun l => (f l).hi⟩
      ⟨if wide then [lo, hi] else [lo], flags⟩
    else ⟨[], flags⟩
  else
    let r := f 0
    if d.isS then ⟨if wide then [⟨d, 0, [r.lo]⟩, ⟨Opnd.next d 1, 0, [r.hi]⟩] else [⟨d, 0, [r.lo]⟩], r.fl⟩ else ⟨[], r.fl⟩

/-- Applies an output to the crew: registers, flags. -/
def Crew.applyLane (c : Crew) (u : Nat) (o : LaneOut) : Crew := (o.writes.foldl (fun c w => c.writeReg u w) c).mergeFlags o.flags

/-- The last-result entry of a fixed-latency instruction: the destination after the write, in all lanes (R61). -/
def Crew.lastOf (c : Crew) (d : Opnd) : Option (List Word) := if d.isV || d.isO then some (c.readVec d) else none

/-- Register words written hold their errors no longer (R444). -/
def State.clearSoft (s : State) (k : Nat) (ws : List RegWrite) : State :=
  if s.softErrors.isEmpty then s
  else { s with softErrors := s.softErrors.filter fun (code, owner, index) => !(owner == k && ws.any fun w =>
    match w.reg with
    | .v i => code == 1 && index / 128 == i.val && w.mask.getLsbD (index % 128)
    | .s i => code == 2 && index / 128 == i.val
    | .o i => code == 2 && index / 128 == 64 + i.val && w.mask.getLsbD (index % 128)
    | _ => false) }

/-- A fixed-latency lane instruction (R61, R62). -/
def fixedLane (sem : LaneSem) (x : Ctx) (s : State) : Res :=
  let o := sem x s
  .done ((s.modCrew x.k fun c => let c := c.applyLane x.u o; c.pushLast x.pipe (c.lastOf x.a.dst)).clearSoft x.k o.writes)

/-- A variable-latency lane instruction: its result returns later with its flags (R44, R62). -/
def variableLane (sem : LaneSem) (x : Ctx) (s : State) : Res :=
  let o := sem x s
  x.crewDone s fun c =>
    (c.addResult { id := 0, due := s.ck + 1, unit := x.u, writes := o.writes, flags := o.flags, parts := 0, ldc := false, tok := none }).pushLast x.pipe none

/-- Modifier bits of the integer frame (R131, R150). -/
def Ctx.uns (x : Ctx) : Bool := x.a.mod.getLsbD 1
def Ctx.sat (x : Ctx) : Bool := x.a.mod.getLsbD 0

/-- A word under the reading that u selects. -/
def readInt (unsig : Bool) (w : Word) : Int := if unsig then w.toNat else w.toInt

/-- A dword under the reading that u selects. -/
def readInt64 (unsig : Bool) (w : Dword) : Int := if unsig then w.toNat else w.toInt

end Sys2Proof.Machine
end

