-- ==== Sys2Proof/Machine/Integer.lean ====
section
/-! DEFINITION. The integer lane instructions, opcodes 0x20 to 0x5F (R130 to R150). -/

namespace Sys2Proof.Machine

/-! ## Operands and results -/

def Ctx.int0 (x : Ctx) (l : Nat) : Int := readInt x.uns (x.word x.a.in0 l)
def Ctx.int1 (x : Ctx) (l : Nat) : Int := readInt x.uns (x.word x.a.in1 l)
def Ctx.int2 (x : Ctx) (l : Nat) : Int := readInt x.uns (x.word x.a.in2 l)

/-- The old destination of LOP3 and BFI; zero for the zero destination (R132). -/
def Ctx.old (x : Ctx) (l : Nat) : Word := x.word x.a.dst l

/-- A 32-bit result narrowed with its SAT flag (R131). -/
def narrowed (x : Ctx) (t : Int) : LaneRes := let (r, f) := narrow 32 x.sat x.uns t; ⟨wordOf r, 0, f⟩

def ofDword (d : Dword) : LaneRes := ⟨d.setWidth 32, (d >>> 32).setWidth 32, 0⟩

def narrowed64 (x : Ctx) (t : Int) : LaneRes :=
  let (r, f) := narrow 64 x.sat x.uns t
  { ofDword (BitVec.ofNat 64 r) with fl := f }

def ofInt (t : Int) : LaneRes := .of (BitVec.ofInt 32 t)
def wideInt (t : Int) : LaneRes := ofDword (BitVec.ofInt 64 t)
def flagWord (b : Bool) : Word := if b then 1 else 0

/-- Byte i of a word, signed or unsigned (R135). -/
def byteInt (unsig : Bool) (w : Word) (i : Nat) : Int :=
  let b := w.extractLsb' (8 * i) 8
  if unsig then b.toNat else b.toInt

/-! ## Bit operations (R136 to R142) -/

def lop3 (x y c table : Word) : Word :=
  BitVec.ofFnLE fun i : Fin 32 => table.getLsbD
    ((if x.getLsbD i then 4 else 0) + (if y.getLsbD i then 2 else 0) + (if c.getLsbD i then 1 else 0))

/-- Number of one bits among the low n. -/
def popCount (n x : Nat) : Nat := ((List.range n).filter fun i => x.testBit i).length

/-- Leading zero bits; 32 for zero. -/
def leadingZeros (x : Word) : Nat := ((List.range 32).takeWhile fun i => !x.getLsbD (31 - i)).length

def bfx (unsig : Bool) (x : Word) (p w : Nat) : Word :=
  let shifted : Word := if unsig then x >>> p else x.sshiftRight p
  if w = 0 then 0
  else if 32 ≤ w then shifted
  else if unsig then wordOf (shifted.toNat % 2 ^ w)
  else BitVec.ofInt 32 (signed w shifted.toNat)

def bfi (x c : Word) (p w : Nat) : Word :=
  if 32 ≤ p then c
  else
    let m : Word := wordOf (2 ^ w - 1) <<< p
    (c &&& ~~~m) ||| ((x <<< p) &&& m)

def bperm (x sel z : Word) : Word :=
  let byte (i : Nat) : BitVec 8 :=
    let n := (sel.extractLsb' (4 * i) 4).toNat
    if 8 ≤ n then 0 else if n < 4 then x.extractLsb' (8 * n) 8 else z.extractLsb' (8 * (n - 4)) 8
  byte 3 ++ byte 2 ++ byte 1 ++ byte 0

def extend (sign : Bool) (x : Word) (w : Nat) : Word :=
  if w = 0 ∨ 32 ≤ w then x
  else if sign then BitVec.ofInt 32 (signed w x.toNat)
  else wordOf (x.toNat % 2 ^ w)

/-! ## Indices (R77, R145, R146) -/

/-- The shape of the crew's block: its bench's in a bench pipeline (R77, R236). -/
def Launch.shapeOf (l : Launch) (bench : Nat) : Shape := match l.benches[bench]? with | some b => b.shape | none => l.shape

/-- Crew within its block. -/
def Ctx.inBlock (x : Ctx) (s : State) : Nat :=
  match x.launch? s with | some l => x.c.index % (l.shapeOf x.c.bench).crews | none => 0

def laneIndex (x : Ctx) (s : State) (l : Nat) : Word :=
  let i := 96 * x.inBlock s + l
  let sh := match x.launch? s with | some p => p.shapeOf x.c.bench | none => ⟨0, 0, 0, 0, 0, 0, 1, 1, 1⟩
  wordOf (match x.a.in0 with
    | .small n => match n.toNat with
      | 0 => l
      | 1 => i
      | 2 => i % sh.nx
      | 3 => i / sh.nx % sh.ny
      | _ => i / (sh.nx * sh.ny)
    | _ => l)

def crewIndex (x : Ctx) (s : State) (l : Nat) : Word :=
  wordOf (match x.a.in0 with
    | .small n => match n.toNat with
      | 0 => x.c.index
      | 1 => x.c.block
      | 2 => x.inBlock s
      | _ => 96 * x.c.index + l
    | _ => 0)

/-! ## Masks (R147) -/

def writeTriple (o : Opnd) (m : Mask) : List RegWrite :=
  (List.range 3).map fun i => ⟨Opnd.next o i, 0, [maskWord m i]⟩

def maskSem (f : Mask → Mask → Mask) : LaneSem := fun x _ => ⟨writeTriple x.a.dst (f (x.triple x.a.in0) (x.triple x.a.in1)), 0⟩

/-- Index of the lowest one bit, or 0xFFFF_FFFF. -/
def firstSet (m : Mask) : Word := match (List.range 96).find? fun i => m.getLsbD i with | some i => wordOf i | none => 0xFFFFFFFF

/-- MAND (R147). -/
def semMand : LaneSem := maskSem (· &&& ·)
/-- MOR (R147). -/
def semMor : LaneSem := maskSem (· ||| ·)
/-- MXOR (R147). -/
def semMxor : LaneSem := maskSem (· ^^^ ·)
/-- MNOT (R147). -/
def semMnot : LaneSem := maskSem fun m _ => ~~~m
/-- MPOPC (R147). -/
def semMpopc : LaneSem := fun x _ => ⟨[⟨x.a.dst, 0, [wordOf (popCount 96 (x.triple x.a.in0).toNat)]⟩], 0⟩
/-- MFFS (R147). -/
def semMffs : LaneSem := fun x _ => ⟨[⟨x.a.dst, 0, [firstSet (x.triple x.a.in0)]⟩], 0⟩

/-! ## The lane meanings -/

/-- IADD (R133). -/
def semIadd : LaneSem := perLane false fun x _ l => narrowed x (x.int0 l + x.int1 l)
/-- ISUB (R133). -/
def semIsub : LaneSem := perLane false fun x _ l => narrowed x (x.int0 l - x.int1 l)
/-- IMUL (R133). -/
def semImul : LaneSem := perLane false fun x _ l => narrowed x (x.int0 l * x.int1 l)
/-- IMULH: the high word of the exact product (R133). -/
def semImulh : LaneSem := perLane false fun x _ l => ofInt (x.int0 l * x.int1 l / (2 ^ 32 : Nat))
/-- IMAD (R133). -/
def semImad : LaneSem := perLane false fun x _ l => narrowed x (x.int0 l * x.int1 l + x.int2 l)
/-- IADD3 (R133). -/
def semIadd3 : LaneSem := perLane false fun x _ l => narrowed x (x.int0 l + x.int1 l + x.int2 l)
/-- IDIV, toward zero; by zero it gives all ones under either reading, with no flag (R134). -/
def semIdiv : LaneSem := perLane false fun x _ l => if x.int1 l = 0 then .of 0xFFFFFFFF else narrowed x ((x.int0 l).tdiv (x.int1 l))
/-- IREM, with the sign of x (R134). -/
def semIrem : LaneSem := perLane false fun x _ l => ofInt (if x.int1 l = 0 then x.int0 l else (x.int0 l).tmod (x.int1 l))
/-- IMIN (R133). -/
def semImin : LaneSem := perLane false fun x _ l => ofInt (min (x.int0 l) (x.int1 l))
/-- IMAX (R133). -/
def semImax : LaneSem := perLane false fun x _ l => ofInt (max (x.int0 l) (x.int1 l))
/-- IABS (R133). -/
def semIabs : LaneSem := perLane false fun x _ l => narrowed x (((x.int0 l).natAbs : Int))
/-- INEG (R133). -/
def semIneg : LaneSem := perLane false fun x _ l => narrowed x (-(x.int0 l))
/-- ISAD (R133). -/
def semIsad : LaneSem := perLane false fun x _ l => narrowed x (((x.int0 l - x.int1 l).natAbs : Int) + x.int2 l)
/-- IDOT4 (R135). -/
def semIdot4 : LaneSem := perLane false fun x _ l => narrowed x (x.int2 l + ((List.range 4).map fun i => byteInt x.uns (x.word x.a.in0 l) i * byteInt x.uns (x.word x.a.in1 l) i).sum)
/-- IAVG (R133). -/
def semIavg : LaneSem := perLane false fun x _ l => ofInt ((x.int0 l + x.int1 l + 1) / 2)
/-- CLAMP; y > z gives z (R133). -/
def semClamp : LaneSem := perLane false fun x _ l => ofInt (min (max (x.int0 l) (x.int1 l)) (x.int2 l))
/-- AND (R136). -/
def semAnd : LaneSem := perLane false fun x _ l => .of (x.word x.a.in0 l &&& x.word x.a.in1 l)
/-- OR (R136). -/
def semOr : LaneSem := perLane false fun x _ l => .of (x.word x.a.in0 l ||| x.word x.a.in1 l)
/-- XOR (R136). -/
def semXor : LaneSem := perLane false fun x _ l => .of (x.word x.a.in0 l ^^^ x.word x.a.in1 l)
/-- NOT (R136). -/
def semNot : LaneSem := perLane false fun x _ l => .of (~~~(x.word x.a.in0 l))
/-- ANDN (R136). -/
def semAndn : LaneSem := perLane false fun x _ l => .of (x.word x.a.in0 l &&& ~~~(x.word x.a.in1 l))
/-- LOP3: a table over x, y and the old destination (R132, R136). -/
def semLop3 : LaneSem := perLane false fun x _ l => .of (lop3 (x.word x.a.in0 l) (x.word x.a.in1 l) (x.old l) (x.word x.a.in2 l))
/-- SHL (R137). -/
def semShl : LaneSem := perLane false fun x _ l => .of (x.word x.a.in0 l <<< ((x.word x.a.in1 l).toNat % 256))
/-- SHR (R137). -/
def semShr : LaneSem := perLane false fun x _ l => .of (x.word x.a.in0 l >>> ((x.word x.a.in1 l).toNat % 256))
/-- SAR (R137). -/
def semSar : LaneSem := perLane false fun x _ l => .of ((x.word x.a.in0 l).sshiftRight ((x.word x.a.in1 l).toNat % 256))
/-- ROL (R137). -/
def semRol : LaneSem := perLane false fun x _ l => .of ((x.word x.a.in0 l).rotateLeft ((x.word x.a.in1 l).toNat % 256 % 32))
/-- FSHL (R137). -/
def semFshl : LaneSem := perLane false fun x _ l => .of ((((x.word x.a.in0 l ++ x.word x.a.in1 l) <<< ((x.word x.a.in2 l).toNat % 32)) >>> 32).setWidth 32)
/-- FSHR (R137). -/
def semFshr : LaneSem := perLane false fun x _ l => .of (((x.word x.a.in0 l ++ x.word x.a.in1 l) >>> ((x.word x.a.in2 l).toNat % 32)).setWidth 32)
/-- BFX (R138). -/
def semBfx : LaneSem := perLane false fun x _ l => .of (bfx x.uns (x.word x.a.in0 l) ((x.word x.a.in1 l).toNat % 256) (min 32 ((x.word x.a.in2 l).toNat % 256)))
/-- BFI over the old destination (R132, R138). -/
def semBfi : LaneSem := perLane false fun x _ l => .of (bfi (x.word x.a.in0 l) (x.old l) ((x.word x.a.in1 l).toNat % 256) (min 32 ((x.word x.a.in2 l).toNat % 256)))
/-- BREV (R139). -/
def semBrev : LaneSem := perLane false fun x _ l => .of ((x.word x.a.in0 l).reverse)
/-- POPC (R139). -/
def semPopc : LaneSem := perLane false fun x _ l => .of (wordOf (popCount 32 (x.word x.a.in0 l).toNat))
/-- CLZ (R139). -/
def semClz : LaneSem := perLane false fun x _ l => .of (wordOf (leadingZeros (x.word x.a.in0 l)))
/-- CTZ (R139). -/
def semCtz : LaneSem := perLane false fun x _ l => .of (wordOf (leadingZeros (x.word x.a.in0 l).reverse))
/-- BPERM (R140). -/
def semBperm : LaneSem := perLane false fun x _ l => .of (bperm (x.word x.a.in0 l) (x.word x.a.in1 l) (x.word x.a.in2 l))
/-- SEXT (R141). -/
def semSext : LaneSem := perLane false fun x _ l => .of (extend true (x.word x.a.in0 l) ((x.word x.a.in1 l).toNat % 64))
/-- ZEXT (R141). -/
def semZext : LaneSem := perLane false fun x _ l => .of (extend false (x.word x.a.in0 l) ((x.word x.a.in1 l).toNat % 64))
/-- BITSET (R142). -/
def semBitset : LaneSem := perLane false fun x _ l => .of (x.word x.a.in0 l ||| ((1 : Word) <<< ((x.word x.a.in1 l).toNat % 32)))
/-- BITCLR (R142). -/
def semBitclr : LaneSem := perLane false fun x _ l => .of (x.word x.a.in0 l &&& ~~~((1 : Word) <<< ((x.word x.a.in1 l).toNat % 32)))
/-- BITTST (R142). -/
def semBittst : LaneSem := perLane false fun x _ l => .of (flagWord ((x.word x.a.in0 l).getLsbD ((x.word x.a.in1 l).toNat % 32)))
/-- ICMP.EQ (R143). -/
def semIcmpEq : LaneSem := perLane false fun x _ l => .of (flagWord (decide (x.int0 l = x.int1 l)))
/-- ICMP.NE (R143). -/
def semIcmpNe : LaneSem := perLane false fun x _ l => .of (flagWord (decide (x.int0 l ≠ x.int1 l)))
/-- ICMP.LT (R143). -/
def semIcmpLt : LaneSem := perLane false fun x _ l => .of (flagWord (decide (x.int0 l < x.int1 l)))
/-- ICMP.LE (R143). -/
def semIcmpLe : LaneSem := perLane false fun x _ l => .of (flagWord (decide (x.int0 l ≤ x.int1 l)))
/-- ICMP.GT (R143). -/
def semIcmpGt : LaneSem := perLane false fun x _ l => .of (flagWord (decide (x.int0 l > x.int1 l)))
/-- ICMP.GE (R143). -/
def semIcmpGe : LaneSem := perLane false fun x _ l => .of (flagWord (decide (x.int0 l ≥ x.int1 l)))
/-- SEL (R144). -/
def semSel : LaneSem := perLane false fun x _ l => .of (if x.word x.a.in2 l ≠ 0 then x.word x.a.in0 l else x.word x.a.in1 l)
/-- MOV (R144). -/
def semMov : LaneSem := perLane false fun x _ l => .of (x.word x.a.in0 l)
/-- LANEID (R145). -/
def semLaneid : LaneSem := perLane false fun x s l => .of (laneIndex x s l)
/-- LEA (R148). -/
def semLea : LaneSem := perLane true fun x _ l => wideInt (readInt64 true (x.dword x.a.in0 x.uns l) + x.int1 l * ((2 ^ ((x.word x.a.in2 l).toNat % 8) : Nat) : Int))
/-- IADD64 (R149). -/
def semIadd64 : LaneSem := perLane true fun x _ l => narrowed64 x (readInt64 x.uns (x.dword x.a.in0 x.uns l) + readInt64 x.uns (x.dword x.a.in1 x.uns l))
/-- ISUB64 (R149). -/
def semIsub64 : LaneSem := perLane true fun x _ l => narrowed64 x (readInt64 x.uns (x.dword x.a.in0 x.uns l) - readInt64 x.uns (x.dword x.a.in1 x.uns l))
/-- IMULW: the exact product (R149). -/
def semImulw : LaneSem := perLane true fun x _ l => wideInt (x.int0 l * x.int1 l)
/-- IMADW (R149). -/
def semImadw : LaneSem := perLane true fun x _ l => narrowed64 x (x.int0 l * x.int1 l + readInt64 x.uns (x.dword x.a.in2 x.uns l))
/-- SHL64 (R149). -/
def semShl64 : LaneSem := perLane true fun x _ l => ofDword (x.dword x.a.in0 x.uns l <<< ((x.word x.a.in1 l).toNat % 256))
/-- SHR64 (R149). -/
def semShr64 : LaneSem := perLane true fun x _ l => ofDword (if x.uns then x.dword x.a.in0 true l >>> ((x.word x.a.in1 l).toNat % 256) else (x.dword x.a.in0 false l).sshiftRight ((x.word x.a.in1 l).toNat % 256))
/-- MOV64 (R144). -/
def semMov64 : LaneSem := perLane true fun x _ l => ofDword (x.dword x.a.in0 x.uns l)
/-- CREWIX (R146). -/
def semCrewix : LaneSem := perLane false fun x s l => .of (crewIndex x s l)

/-! ## The instructions -/

def execIadd (a : Args) (s : State) : Out := issue 0x20 a (fixedLane semIadd) s
def execIsub (a : Args) (s : State) : Out := issue 0x21 a (fixedLane semIsub) s
def execImul (a : Args) (s : State) : Out := issue 0x22 a (fixedLane semImul) s
def execImulh (a : Args) (s : State) : Out := issue 0x23 a (fixedLane semImulh) s
def execImad (a : Args) (s : State) : Out := issue 0x24 a (fixedLane semImad) s
def execIadd3 (a : Args) (s : State) : Out := issue 0x25 a (fixedLane semIadd3) s
def execIdiv (a : Args) (s : State) : Out := issue 0x26 a (variableLane semIdiv) s
def execIrem (a : Args) (s : State) : Out := issue 0x27 a (variableLane semIrem) s
def execImin (a : Args) (s : State) : Out := issue 0x28 a (fixedLane semImin) s
def execImax (a : Args) (s : State) : Out := issue 0x29 a (fixedLane semImax) s
def execIabs (a : Args) (s : State) : Out := issue 0x2A a (fixedLane semIabs) s
def execIneg (a : Args) (s : State) : Out := issue 0x2B a (fixedLane semIneg) s
def execIsad (a : Args) (s : State) : Out := issue 0x2C a (fixedLane semIsad) s
def execIdot4 (a : Args) (s : State) : Out := issue 0x2D a (fixedLane semIdot4) s
def execIavg (a : Args) (s : State) : Out := issue 0x2E a (fixedLane semIavg) s
def execClamp (a : Args) (s : State) : Out := issue 0x2F a (fixedLane semClamp) s
def execAnd (a : Args) (s : State) : Out := issue 0x30 a (fixedLane semAnd) s
def execOr (a : Args) (s : State) : Out := issue 0x31 a (fixedLane semOr) s
def execXor (a : Args) (s : State) : Out := issue 0x32 a (fixedLane semXor) s
def execNot (a : Args) (s : State) : Out := issue 0x33 a (fixedLane semNot) s
def execAndn (a : Args) (s : State) : Out := issue 0x34 a (fixedLane semAndn) s
def execLop3 (a : Args) (s : State) : Out := issue 0x35 a (fixedLane semLop3) s
def execShl (a : Args) (s : State) : Out := issue 0x36 a (fixedLane semShl) s
def execShr (a : Args) (s : State) : Out := issue 0x37 a (fixedLane semShr) s
def execSar (a : Args) (s : State) : Out := issue 0x38 a (fixedLane semSar) s
def execRol (a : Args) (s : State) : Out := issue 0x39 a (fixedLane semRol) s
def execFshl (a : Args) (s : State) : Out := issue 0x3A a (fixedLane semFshl) s
def execFshr (a : Args) (s : State) : Out := issue 0x3B a (fixedLane semFshr) s
def execBfx (a : Args) (s : State) : Out := issue 0x3C a (fixedLane semBfx) s
def execBfi (a : Args) (s : State) : Out := issue 0x3D a (fixedLane semBfi) s
def execBrev (a : Args) (s : State) : Out := issue 0x3E a (fixedLane semBrev) s
def execPopc (a : Args) (s : State) : Out := issue 0x3F a (fixedLane semPopc) s
def execClz (a : Args) (s : State) : Out := issue 0x40 a (fixedLane semClz) s
def execCtz (a : Args) (s : State) : Out := issue 0x41 a (fixedLane semCtz) s
def execBperm (a : Args) (s : State) : Out := issue 0x42 a (fixedLane semBperm) s
def execSext (a : Args) (s : State) : Out := issue 0x43 a (fixedLane semSext) s
def execZext (a : Args) (s : State) : Out := issue 0x44 a (fixedLane semZext) s
def execBitset (a : Args) (s : State) : Out := issue 0x45 a (fixedLane semBitset) s
def execBitclr (a : Args) (s : State) : Out := issue 0x46 a (fixedLane semBitclr) s
def execBittst (a : Args) (s : State) : Out := issue 0x47 a (fixedLane semBittst) s
def execIcmpEq (a : Args) (s : State) : Out := issue 0x48 a (fixedLane semIcmpEq) s
def execIcmpNe (a : Args) (s : State) : Out := issue 0x49 a (fixedLane semIcmpNe) s
def execIcmpLt (a : Args) (s : State) : Out := issue 0x4A a (fixedLane semIcmpLt) s
def execIcmpLe (a : Args) (s : State) : Out := issue 0x4B a (fixedLane semIcmpLe) s
def execIcmpGt (a : Args) (s : State) : Out := issue 0x4C a (fixedLane semIcmpGt) s
def execIcmpGe (a : Args) (s : State) : Out := issue 0x4D a (fixedLane semIcmpGe) s
def execSel (a : Args) (s : State) : Out := issue 0x4E a (fixedLane semSel) s
def execMov (a : Args) (s : State) : Out := issue 0x4F a (fixedLane semMov) s
def execLaneid (a : Args) (s : State) : Out := issue 0x50 a (fixedLane semLaneid) s
def execMand (a : Args) (s : State) : Out := issue 0x51 a (fixedLane semMand) s
def execMor (a : Args) (s : State) : Out := issue 0x52 a (fixedLane semMor) s
def execMxor (a : Args) (s : State) : Out := issue 0x53 a (fixedLane semMxor) s
def execMnot (a : Args) (s : State) : Out := issue 0x54 a (fixedLane semMnot) s
def execMpopc (a : Args) (s : State) : Out := issue 0x55 a (fixedLane semMpopc) s
def execMffs (a : Args) (s : State) : Out := issue 0x56 a (fixedLane semMffs) s
def execLea (a : Args) (s : State) : Out := issue 0x57 a (fixedLane semLea) s
def execIadd64 (a : Args) (s : State) : Out := issue 0x58 a (fixedLane semIadd64) s
def execIsub64 (a : Args) (s : State) : Out := issue 0x59 a (fixedLane semIsub64) s
def execImulw (a : Args) (s : State) : Out := issue 0x5A a (fixedLane semImulw) s
def execImadw (a : Args) (s : State) : Out := issue 0x5B a (fixedLane semImadw) s
def execShl64 (a : Args) (s : State) : Out := issue 0x5C a (fixedLane semShl64) s
def execShr64 (a : Args) (s : State) : Out := issue 0x5D a (fixedLane semShr64) s
def execMov64 (a : Args) (s : State) : Out := issue 0x5E a (fixedLane semMov64) s
def execCrewix (a : Args) (s : State) : Out := issue 0x5F a (fixedLane semCrewix) s

/-- The lane meanings of opcodes 0x20 to 0x5F, in order (R66). -/
def integerSems : List LaneSem := [
  semIadd, semIsub, semImul, semImulh, semImad, semIadd3, semIdiv, semIrem, semImin, semImax, semIabs, semIneg,
  semIsad, semIdot4, semIavg, semClamp, semAnd, semOr, semXor, semNot, semAndn, semLop3, semShl, semShr, semSar,
  semRol, semFshl, semFshr, semBfx, semBfi, semBrev, semPopc, semClz, semCtz, semBperm, semSext, semZext, semBitset,
  semBitclr, semBittst, semIcmpEq, semIcmpNe, semIcmpLt, semIcmpLe, semIcmpGt, semIcmpGe, semSel, semMov, semLaneid,
  semMand, semMor, semMxor, semMnot, semMpopc, semMffs, semLea, semIadd64, semIsub64, semImulw, semImadw, semShl64,
  semShr64, semMov64, semCrewix]

end Sys2Proof.Machine
end

