-- ==== Sys2Proof/Machine/Float.lean ====
section
/-! DEFINITION. Floating-point values, the one rounding of every operation, conversions and the special functions (R23 to R35, R151 to
R158). Every operation is computed exactly on dyadic numbers and rounded once. -/

namespace Sys2Proof.Machine

/-! ## Formats and values (R23, R24) -/

/-- A format: exponent width, fraction width, bias, and whether it has infinities (E4M3 has none). -/
structure Fmt where
  ew : Nat
  fw : Nat
  bias : Nat
  ieee : Bool
  deriving DecidableEq, Repr

def fp32 : Fmt := ⟨8, 23, 127, true⟩
def bf16 : Fmt := ⟨8, 7, 127, true⟩
def fp16 : Fmt := ⟨5, 10, 15, true⟩
def e4m3 : Fmt := ⟨4, 3, 7, false⟩

/-- A value: a NaN (signalling or not), an infinity, or ±m × 2^e. -/
inductive Fp where
  | nan (sig : Bool)
  | inf (neg : Bool)
  | num (neg : Bool) (m : Nat) (e : Int)
  deriving DecidableEq, Repr

def Fmt.width (f : Fmt) : Nat := 1 + f.ew + f.fw

/-- Exponent of the least significant bit of a subnormal. -/
def Fmt.qmin (f : Fmt) : Int := 1 - (f.bias : Int) - (f.fw : Int)

/-- Bits of the largest finite magnitude. -/
def Fmt.largest (f : Fmt) : Nat := if f.ieee then (2 ^ f.ew - 1) * 2 ^ f.fw - 1 else 2 ^ (f.ew + f.fw) - 2

def Fmt.decode (f : Fmt) (x : Nat) : Fp :=
  let neg := bits x (f.ew + f.fw) 1 == 1
  let e := bits x f.fw f.ew
  let m := bits x 0 f.fw
  if f.ieee && e == 2 ^ f.ew - 1 then (if m = 0 then .inf neg else .nan (bits m (f.fw - 1) 1 == 0))
  else if !f.ieee && bits x 0 (f.ew + f.fw) == 2 ^ (f.ew + f.fw) - 1 then .nan true
  else if e = 0 then .num neg m f.qmin
  else .num neg (m + 2 ^ f.fw) (f.qmin + (e : Int) - 1)

def Fmt.signBit (f : Fmt) (neg : Bool) : Nat := if neg then 2 ^ (f.ew + f.fw) else 0

/-- The canonical NaN (R25). -/
def Fmt.nan (f : Fmt) : Nat := if f.ieee then (2 ^ f.ew - 1) * 2 ^ f.fw + 2 ^ (f.fw - 1) else 2 ^ (f.ew + f.fw) - 1

def Fmt.infinity (f : Fmt) (neg : Bool) : Nat := f.signBit neg + (2 ^ f.ew - 1) * 2 ^ f.fw

/-- Bits and flags of a result. -/
abbrev FRes := Nat × BitVec 7

/-! ## Rounding (R30 to R33) -/

/-- Number of bits of a magnitude. -/
def bitLen (m : Nat) : Nat := if m = 0 then 0 else Nat.log2 m + 1

/-- m / 2^k rounded in mode rnd (0 nearest even, 1 toward zero, 2 down, 3 up) for a sign. -/
def roundShift (rnd : Nat) (neg : Bool) (m k : Nat) : Nat :=
  let q := m / 2 ^ k
  let r := m % 2 ^ k
  if r = 0 then q
  else
    let up := match rnd with
      | 0 => decide (2 ^ k < 2 * r) || (2 * r == 2 ^ k && q % 2 == 1)
      | 1 => false
      | 2 => neg
      | _ => !neg
    if up then q + 1 else q

/-- m × 2^e as a multiple of 2^q: the multiple, and whether it is exact. -/
def toScale (rnd : Nat) (neg : Bool) (m : Nat) (e q : Int) : Nat × Bool :=
  if q ≤ e then (m * 2 ^ (e - q).toNat, true)
  else
    let k := (q - e).toNat
    (roundShift rnd neg m k, m % 2 ^ k == 0)

/-- The overflow result of R31; E4M3 saturates in every mode (R32). -/
def Fmt.overflow (f : Fmt) (rnd : Nat) (neg : Bool) : Nat :=
  let toInf := match rnd with | 0 => true | 1 => false | 2 => neg | _ => !neg
  if f.ieee && toInf then f.infinity neg else f.signBit neg + f.largest

/-- Rounds ±m × 2^e, m not zero, once to a format (R31, R32). UF: tiny after rounding to the format's precision with an unbounded
exponent, and inexact. -/
def Fmt.roundNum (f : Fmt) (rnd : Nat) (neg : Bool) (m : Nat) (e : Int) : FRes :=
  let top := e + (bitLen m : Int) - 1
  let qFree := top - (f.fw : Int)
  let q := if qFree < f.qmin then f.qmin else qFree
  let (r, exact) := toScale rnd neg m e q
  let mag := (q - f.qmin).toNat * 2 ^ f.fw + r
  let (rFree, _) := toScale rnd neg m e qFree
  -- the value rounded with an unbounded exponent lies below 2^(1 - bias)
  let tiny := decide (qFree + (bitLen rFree : Int) - 1 < 1 - (f.bias : Int))
  if f.largest < mag then (f.overflow rnd neg, flagOF ||| flagIX)
  else (f.signBit neg + mag, flagIf (!exact) flagIX ||| flagIf (!exact && tiny) flagUF)

/-- An exact value with a sticky bit below it: 2m + 1 at half the unit lies strictly between its neighbours. -/
def Fmt.roundSticky (f : Fmt) (rnd : Nat) (neg : Bool) (m : Nat) (e : Int) (sticky : Bool) : FRes :=
  if sticky then f.roundNum rnd neg (2 * m + 1) (e - 1) else if m = 0 then (f.signBit neg, 0) else f.roundNum rnd neg m e

def Fmt.invalid (f : Fmt) : FRes := (f.nan, flagIV)
def Fmt.quiet (f : Fmt) (sig : Bool) : FRes := (f.nan, flagIf sig flagIV)

def Fp.isNan : Fp → Bool | .nan _ => true | _ => false
def Fp.isSig : Fp → Bool | .nan s => s | _ => false
def Fp.neg? : Fp → Bool | .inf n => n | .num n _ _ => n | .nan _ => false
def Fp.isZero : Fp → Bool | .num _ m _ => m == 0 | _ => false

/-! ## Exact sums -/

/-- The least exponent of the non-zero terms. -/
def leastExp : List Fp → Option Int
  | [] => none
  | .num _ m e :: t => if m = 0 then leastExp t else match leastExp t with | some q => some (min e q) | none => some e
  | _ :: t => leastExp t

/-- The exact sum of the finite terms as a multiple of 2^q. -/
def sumAt (q : Int) : List Fp → Int
  | [] => 0
  | .num n m e :: t => (if m = 0 then 0 else (if n then -1 else 1) * ((m * 2 ^ (e - q).toNat : Nat) : Int)) + sumAt q t
  | _ :: t => sumAt q t

/-- Sign of an exact zero sum (R33): the common sign of zeros, else + except in mode down. -/
def zeroSign (rnd : Nat) (xs : List Fp) : Bool :=
  if !xs.isEmpty && xs.all (fun x => x.isZero && x.neg?) then true
  else if xs.all (fun x => x.isZero && !x.neg?) then false
  else rnd == 2

/-- round(exact sum) of terms of which none is a NaN (R31, R33); infinities of both signs are invalid. -/
def Fmt.roundSum (f : Fmt) (rnd : Nat) (xs : List Fp) : FRes :=
  let pos := xs.any fun x => x == .inf false
  let neg := xs.any fun x => x == .inf true
  if pos && neg then f.invalid
  else if pos || neg then (f.infinity neg, 0)
  else match leastExp xs with
    | none => (f.signBit (zeroSign rnd xs), 0)
    | some q =>
      let t := sumAt q xs
      if t = 0 then (f.signBit (zeroSign rnd xs), 0) else f.roundNum rnd (decide (t < 0)) t.natAbs q

/-- Infinities of both signs. -/
def opposed (xs : List Fp) : Bool := xs.contains (.inf false) && xs.contains (.inf true)

/-- A product as an exact value; none for 0 × ∞ (R153). The factors are not NaNs. -/
def Fp.mul : Fp → Fp → Option Fp
  | .num n m e, .num n' m' e' => some (.num (n != n') (m * m') (e + e'))
  | .inf n, y => if y.isZero then none else some (.inf (n != y.neg?))
  | x, .inf n => if x.isZero then none else some (.inf (n != x.neg?))
  | x, _ => some x

/-! ## Arithmetic (R152 to R157) -/

def anyNan (xs : List Fp) : Bool := xs.any Fp.isNan
def anySig (xs : List Fp) : Bool := xs.any Fp.isSig

/-- x + y. -/
def fAdd (rnd : Nat) (x y : Fp) : FRes := if anyNan [x, y] then fp32.quiet (anySig [x, y]) else fp32.roundSum rnd [x, y]

/-- x × y. -/
def fMul (rnd : Nat) (x y : Fp) : FRes :=
  if anyNan [x, y] then fp32.quiet (anySig [x, y])
  else match x.mul y with
    | none => fp32.invalid
    | some (.num n m e) => if m = 0 then (fp32.signBit n, 0) else fp32.roundNum rnd n m e
    | some p => (fp32.infinity p.neg?, 0)

/-- x × y + z with one rounding: 0 × ∞ is invalid even when z is a quiet NaN. -/
def fFma (rnd : Nat) (x y z : Fp) : FRes :=
  if anyNan [x, y] then fp32.quiet (anySig [x, y, z])
  else match x.mul y with
    | none => fp32.invalid
    | some p => if z.isNan then fp32.quiet z.isSig else fp32.roundSum rnd [p, z]

/-- m / m' with at least 64 quotient bits, its exponent and its sticky bit. -/
def divNat (m m' : Nat) : Nat × Nat × Bool :=
  let k := 64 + bitLen m'
  (m * 2 ^ k / m', k, m * 2 ^ k % m' != 0)

def fDiv (rnd : Nat) (x y : Fp) : FRes :=
  if anyNan [x, y] then fp32.quiet (anySig [x, y])
  else
    let n := x.neg? != y.neg?
    match x, y with
    | .inf _, .inf _ => fp32.invalid
    | .inf _, _ => (fp32.infinity n, 0)
    | _, .inf _ => (fp32.signBit n, 0)
    | .num _ m e, .num _ m' e' =>
      if m' = 0 then (if m = 0 then fp32.invalid else (fp32.infinity n, flagDZ))
      else if m = 0 then (fp32.signBit n, 0)
      else
        let (q, k, st) := divNat m m'
        fp32.roundSticky rnd n q (e - e' - (k : Int)) st
    | _, _ => fp32.invalid

/-- Numbers in order, −0 below +0 when zeros is set: x < y. Neither is a NaN. -/
def Fp.lt (zeros : Bool) (x y : Fp) : Bool :=
  match x, y with
  | .inf n, .inf n' => n && !n'
  | .inf n, _ => n
  | _, .inf n => !n
  | .num n m e, .num n' m' e' =>
    let q := min e e'
    let a : Int := (if n then -1 else 1) * ((m * 2 ^ (e - q).toNat : Nat) : Int)
    let b : Int := (if n' then -1 else 1) * ((m' * 2 ^ (e' - q).toNat : Nat) : Int)
    decide (a < b) || (zeros && m == 0 && m' == 0 && n && !n')
  | _, _ => false

/-- FMIN and FMAX on bits (R154). -/
def fMinMax (max : Bool) (x y : Nat) : FRes :=
  let a := fp32.decode x
  let b := fp32.decode y
  let fl := flagIf (anySig [a, b]) flagIV
  if a.isNan && b.isNan then (fp32.nan, fl)
  else if a.isNan then (y, fl)
  else if b.isNan then (x, fl)
  else if max then (if a.lt true b then y else x, fl) else (if b.lt true a then y else x, fl)

/-- Clears the sign bit. -/
def absBits (x : Nat) : Nat := x % 2 ^ 31

/-- FCLMP: FMIN(FMAX(x, y), z). -/
def fClamp (x y z : Nat) : FRes :=
  let (r, f) := fMinMax true x y
  let (r', f') := fMinMax false r z
  (r', f ||| f')

/-- ±m × 2^e rounded to an integer. -/
def roundInt (rnd : Nat) (neg : Bool) (m : Nat) (e : Int) : Nat × Bool := toScale rnd neg m e 0

def fRint (rnd x : Nat) : FRes :=
  match fp32.decode x with
  | .nan s => fp32.quiet s
  | .inf _ => (x, 0)
  | .num n m e =>
    let (r, _) := roundInt rnd n m e
    if r = 0 then (fp32.signBit n, 0) else ((fp32.roundNum 0 n r 0).1, 0)

/-- FFRAC: x − floor(x), rounded once (R155). -/
def fFrac (rnd x : Nat) : FRes :=
  match fp32.decode x with
  | .nan s => fp32.quiet s
  | .inf _ => fp32.invalid
  | .num n m e =>
    if 0 ≤ e then (0, 0)
    else
      let d := 2 ^ (-e).toNat
      let r := m % d
      if r = 0 then (0, 0) else fp32.roundNum rnd false (if n then d - r else r) e

/-- FSCALE: x × 2^n (R155). -/
def fScale (rnd x : Nat) (n : Int) : FRes :=
  match fp32.decode x with
  | .nan s => fp32.quiet s
  | .inf g => (fp32.infinity g, 0)
  | .num g m e => if m = 0 then (fp32.signBit g, 0)
    -- an exponent beyond ±1,000 rounds as one at ±1,000: every such value overflows or is tiny
    else fp32.roundNum rnd g m (e + max (-1000) (min 1000 n))

/-- FGETX (R155). -/
def fGetx (x : Nat) : FRes :=
  match fp32.decode x with
  | .nan s => (0x7FFFFFFF, flagIf s flagIV)
  | .inf _ => (0x7FFFFFFF, 0)
  | .num _ m e => if m = 0 then (0x80000000, 0) else (wrap 32 (e + (bitLen m : Int) - 1), 0)

/-- FCLASS (R155). -/
def fClass (x : Nat) : Nat :=
  match fp32.decode x with
  | .nan s => if s then 0x100 else 0x200
  | .inf n => if n then 0x1 else 0x80
  | .num n m _ =>
    if m = 0 then (if n then 0x8 else 0x10)
    else if bits x 23 8 = 0 then (if n then 0x4 else 0x20)
    else if n then 0x2 else 0x40

/-- FCMP by condition: 0 EQ, 1 NE, 2 LT, 3 LE, 4 GT, 5 GE, 6 UN (R156). -/
def fCmp (cc x y : Nat) : FRes :=
  let a := fp32.decode x
  let b := fp32.decode y
  let un := anyNan [a, b]
  let iv := if cc = 2 ∨ cc = 3 ∨ cc = 4 ∨ cc = 5 then un else anySig [a, b]
  let lt := a.lt false b
  let gt := b.lt false a
  let r := match cc with
    | 0 => !un && !lt && !gt
    | 1 => un || lt || gt
    | 2 => !un && lt
    | 3 => !un && !gt
    | 4 => !un && gt
    | 5 => !un && !lt
    | _ => un
  (if r then 1 else 0, flagIf iv flagIV)

/-- The sum of exact products and a further term (R157, R36, R39). Any 0 × ∞ is invalid, and so are infinities of both signs, beside a NaN
too; NaNs are quiet unless one signals. -/
def dotSum (rnd : Nat) (ps : List (Fp × Fp)) (z : List Fp) : FRes :=
  let ops := ps.flatMap fun p => [p.1, p.2]
  let products := (ps.filter fun p => !anyNan [p.1, p.2]).map fun p => p.1.mul p.2
  if products.contains none || opposed (products.filterMap id ++ z) then fp32.invalid
  else if anyNan (ops ++ z) then fp32.quiet (anySig (ops ++ z))
  else fp32.roundSum rnd (ps.map (fun p => (p.1.mul p.2).getD p.1) ++ z)

/-! ## Special functions (R35, R158), under nearest

Values are fixed-point numbers with 400 fractional bits; a result that is not exact carries a sticky bit (log 6). -/

def fixBits : Nat := 400

/-- floor(2^400 ln 2) and floor(2^400 π). -/
def ln2Fix : Nat := 0xb17217f7d1cf79abc9e3b39803f2f6af40f343267298b62d8a0d175b8baafa2be7b876206debac98559552fb4afa1b10ed2e
def piFix : Nat := 0x3243f6a8885a308d313198a2e03707344a4093822299f31d0082efa98ec4e6c89452821e638d01377be5466cf34e90c6cc0ac

/-- floor(√n) from its top bit 2^i down. -/
def isqrtFrom (n : Nat) : Nat → Nat → Nat
  | 0, r => r
  | i + 1, r => isqrtFrom n i (if (r + 2 ^ i) * (r + 2 ^ i) ≤ n then r + 2 ^ i else r)

def isqrt (n : Nat) : Nat := isqrtFrom n (bitLen n / 2 + 1) 0

/-- Σ y^k / k! from term k on, in fixed point. -/
def expSeries (y : Nat) : Nat → Nat → Nat → Nat
  | 0, _, _ => 0
  | n + 1, k, t => t + expSeries y n (k + 1) (t * y / 2 ^ fixBits / (k + 1))

/-- e^y for 0 ≤ y < 1. -/
def expFix (y : Nat) : Nat := expSeries y 110 0 (2 ^ fixBits)

/-- 2^(i + f), f in fixed point: mantissa at scale 2^(i - 400). -/
def exp2Fix (f : Nat) : Nat := expFix (f * ln2Fix / 2 ^ fixBits)

/-- Alternating sine series: y − y³/3! + …, in fixed point. -/
def sinSeries (y2 : Nat) : Nat → Nat → Nat → Int → Int
  | 0, _, _, acc => acc
  | n + 1, k, t, acc => sinSeries y2 n (k + 1) (t * y2 / 2 ^ fixBits / ((2 * k + 2) * (2 * k + 3)))
      (if k % 2 = 0 then acc + t else acc - t)

/-- sin πr for 0 ≤ r ≤ 1/2, r in fixed point. -/
def sinPiFix (r : Nat) : Nat :=
  let y := r * piFix / 2 ^ fixBits
  (sinSeries (y * y / 2 ^ fixBits) 60 0 y 0).toNat

/-- Σ t^(2k+1) / (2k+1), in fixed point. -/
def atanhSeries (t2 : Nat) : Nat → Nat → Nat → Nat
  | 0, _, _ => 0
  | n + 1, k, t => t / (2 * k + 1) + atanhSeries t2 n (k + 1) (t * t2 / 2 ^ fixBits)

/-- ln m for 1 ≤ m < 2, m = a / b. -/
def lnFix (a b : Nat) : Nat :=
  let t := (a - b) * 2 ^ fixBits / (a + b)
  2 * atanhSeries (t * t / 2 ^ fixBits) 140 0 t

def fRcp (x : Fp) : FRes :=
  match x with
  | .nan s => fp32.quiet s
  | .inf n => (fp32.signBit n, 0)
  | .num n m e =>
    if m = 0 then (fp32.infinity n, flagDZ)
    else
      let (q, k, st) := divNat 1 m
      fp32.roundSticky 0 n q (-e - (k : Int)) st

def fSqrt (x : Fp) : FRes :=
  match x with
  | .nan s => fp32.quiet s
  | .inf n => if n then fp32.invalid else (fp32.infinity false, 0)
  | .num n m e =>
    if m = 0 then (fp32.signBit n, 0)
    else if n then fp32.invalid
    else
      -- an even exponent, and at least 64 bits of root
      let k : Nat := if e % 2 = 0 then 128 else 129
      let r := isqrt (m * 2 ^ k)
      fp32.roundSticky 0 false r ((e - (k : Int)) / 2) (r * r != m * 2 ^ k)

def fRsq (x : Fp) : FRes :=
  match x with
  | .nan s => fp32.quiet s
  | .inf n => if n then fp32.invalid else (0, 0)
  | .num n m e =>
    if m = 0 then (fp32.infinity n, flagDZ)
    else if n then fp32.invalid
    else
      -- 1 / √(m 2^e) = √(2^t / m) 2^(-(e + t) / 2) with e + t even
      let t : Nat := if e % 2 = 0 then 192 else 193
      let r := isqrt (2 ^ t / m)
      fp32.roundSticky 0 false r (-((e + (t : Int)) / 2)) (r * r * m != 2 ^ t)

def fExp2 (x : Fp) : FRes :=
  match x with
  | .nan s => fp32.quiet s
  | .inf n => if n then (0, 0) else (fp32.infinity false, 0)
  | .num n m e =>
    if m = 0 then (0x3F800000, 0)
    else if 20 < e + (bitLen m : Int) then
      if n then fp32.roundNum 0 false 1 (-1000) else (fp32.infinity false, flagOF ||| flagIX)
    else
      -- |x| in fixed point is exact: its exponent is -149 or more
      let v := m * 2 ^ (e + (fixBits : Int)).toNat
      let w : Int := if n then -(v : Int) else v
      let i := w / ((2 ^ fixBits : Nat) : Int)
      let f := (w % ((2 ^ fixBits : Nat) : Int)).toNat
      if f = 0 then fp32.roundNum 0 false 1 i
      else fp32.roundSticky 0 false (exp2Fix f) (i - (fixBits : Int)) true

def fLog2 (x : Fp) : FRes :=
  match x with
  | .nan s => fp32.quiet s
  | .inf n => if n then fp32.invalid else (fp32.infinity false, 0)
  | .num n m e =>
    if m = 0 then (fp32.infinity true, flagDZ)
    else if n then fp32.invalid
    else
      let b := bitLen m - 1
      let k := e + (b : Int)
      if m = 2 ^ b then (if k = 0 then (0, 0) else fp32.roundNum 0 (decide (k < 0)) k.natAbs 0)
      else
        let f := lnFix m (2 ^ b) * 2 ^ fixBits / ln2Fix
        let t := k * ((2 ^ fixBits : Nat) : Int) + (f : Int)
        fp32.roundSticky 0 (decide (t < 0)) t.natAbs (-(fixBits : Int)) true

/-- sin π(a / 2^d) rounded, for a sign; a multiple of one half is exact. -/
def sinPi (neg : Bool) (a d : Nat) : FRes :=
  let r := a % 2 ^ (d + 1)
  let neg := neg != decide (2 ^ d ≤ r)
  let r := r % 2 ^ d
  let r := if 2 ^ d < 2 * r then 2 ^ d - r else r
  if r = 0 then (fp32.signBit neg, 0)
  else if 2 * r = 2 ^ d then (fp32.signBit neg + 0x3F800000, 0)
  else fp32.roundSticky 0 neg (sinPiFix (r * 2 ^ fixBits / 2 ^ d)) (-(fixBits : Int)) true

def fSinpi (x : Fp) : FRes :=
  match x with
  | .nan s => fp32.quiet s
  | .inf _ => fp32.invalid
  | .num n m e =>
    if 0 ≤ e || m == 0 then (fp32.signBit n, 0)
    else if m % 2 ^ (-e).toNat = 0 then (fp32.signBit n, 0)
    else sinPi n m (-e).toNat

/-- cos πx = sin π(|x| + 1/2). -/
def fCospi (x : Fp) : FRes :=
  match x with
  | .nan s => fp32.quiet s
  | .inf _ => fp32.invalid
  | .num _ m e =>
    let d := if 0 ≤ e then 0 else (-e).toNat
    let a := if 0 ≤ e then m * 2 ^ e.toNat else m
    let r := sinPi false (2 * a + 2 ^ d) (d + 1)
    if r.1 % 2 ^ 31 = 0 then (0, r.2) else r

def fTanh (x : Fp) : FRes :=
  match x with
  | .nan s => fp32.quiet s
  | .inf n => (fp32.signBit n + 0x3F800000, 0)
  | .num n m e =>
    if m = 0 then (fp32.signBit n, 0)
    else if 6 < e + (bitLen m : Int) then fp32.roundNum 0 n (2 ^ 300 - 1) (-300)
    else
      let y := 2 * (m * 2 ^ (e + (fixBits : Int)).toNat)
      let i := y / ln2Fix
      let p := expFix (y % ln2Fix) * 2 ^ i
      let t := (p - 2 ^ fixBits) * 2 ^ fixBits / (p + 2 ^ fixBits)
      fp32.roundSticky 0 n t (-(fixBits : Int)) true

/-! ## Conversions (R32, R34, R159) -/

/-- Widening to FP32: exact. -/
def Fmt.toF32 (f : Fmt) (x : Nat) : FRes :=
  match f.decode x with
  | .nan s => fp32.quiet s
  | .inf n => (fp32.infinity n, 0)
  | .num n m e => if m = 0 then (fp32.signBit n, 0) else fp32.roundNum 0 n m e

/-- FP32 to a narrower format (R31, R32). Converting to E4M3, every NaN sets IV and an infinity saturates. -/
def Fmt.ofF32 (f : Fmt) (rnd x : Nat) : FRes :=
  match fp32.decode x with
  | .nan s => (f.nan, flagIf (s || !f.ieee) flagIV)
  | .inf n => if f.ieee then (f.infinity n, 0) else (f.signBit n + f.largest, flagOF ||| flagIX)
  | .num n m e => if m = 0 then (f.signBit n, 0) else f.roundNum rnd n m e

/-- BF16 to E4M3 through FP32, flags of both steps (R160). -/
def bf16ToE4m3 (rnd x : Nat) : FRes :=
  let (y, fl) := bf16.toF32 x
  let (z, fl') := e4m3.ofF32 rnd y
  (z, fl ||| fl')

/-- FP32 to a signed integer of w bits, clamped (R34). -/
def f32ToInt (w rnd x : Nat) : FRes :=
  let hi : Int := (2 ^ (w - 1) : Nat) - 1
  let lo : Int := -(2 ^ (w - 1) : Nat)
  match fp32.decode x with
  | .nan _ => (0, flagIV)
  | .inf n => (wrap 32 (if n then lo else hi), flagIV)
  | .num n m e =>
    let (r, exact) := roundInt rnd n m e
    let t : Int := if n then -(r : Int) else r
    if t < lo then (wrap 32 lo, flagIV) else if hi < t then (wrap 32 hi, flagIV) else (wrap 32 t, flagIf (!exact) flagIX)

def intToF32 (rnd : Nat) (t : Int) : FRes :=
  if t = 0 then (0, 0) else fp32.roundNum rnd (decide (t < 0)) t.natAbs 0

end Sys2Proof.Machine
end

