-- ==== Sys2Proof/Machine/Sync.lean ====
section
/-! DEFINITION. Group barriers (R80, R205 to R208) and chute instances (R216 to R227): membership, completion, slots, waiters. -/

namespace Sys2Proof.Machine

/-! ## Groups (R80, R117) -/

def GroupItem.has (i : GroupItem) (n : Nat) : Bool :=
  if i.bitmap then decide (i.lo ≤ n) && decide (n < i.lo + 64) && i.hi.testBit (n - i.lo) else decide (i.lo ≤ n) && decide (n ≤ i.hi)

def Launch.groupHas (l : Launch) (g n : Nat) : Bool := (l.groups.getD g []).any fun i => i.has n

/-- Crews of a kernel launch. -/
def Launch.crewCount (l : Launch) : Nat := l.nblocks * l.shape.crews

/-- Members of an entry below an index. -/
def Launch.groupBelow (l : Launch) (g n : Nat) : Nat := ((List.range n).filter fun i => l.groupHas g i).length

/-- The entry is defined in the group table. -/
def Launch.groupUsed (l : Launch) (g : Nat) : Bool := (l.groups.get? g).isSome

/-- Entries that a crew belongs to. -/
def Launch.groupsOf (l : Launch) (n : Nat) : List Nat := (l.groups.filter fun e => e.2.any fun i => i.has n).map (·.1)

/-! ## Barriers (R206 to R208) -/

/-- Wakes the units suspended at a group whose recorded epoch is reached; saved ones make their block runnable (R207, R393). -/
def State.wakeBarrier (s : State) (launch g epoch : Nat) : State :=
  let hit : Wake → Bool
    | .barrier g' t => g' == g && reached epoch t
    | _ => false
  let s := s.mapCrews fun _ c => if c.launch = launch then c.mapUnits fun _ h => h.wakeIf hit else c
  s.modLaunch launch fun l => l.mapSaved fun _ x => { x with runnable := x.runnable || x.anyUnit fun h => h.waitsFor hit }

/-- Completes a phase where it is due (R207). -/
def State.completeBarrier (s : State) (launch g : Nat) : State :=
  match s.launches.get? launch with
  | none => s
  | some l => match l.barriers.get? g with
    | none => s
    | some b =>
      if b.arrived = 0 ∨ b.arrived < b.members then s
      else
        let epoch := (b.epoch + 1) % 65536
        let s := s.modLaunch launch fun l =>
          { l with barriers := l.barriers.put g { members := b.members - b.leaving, arrived := 0, leaving := 0, epoch := epoch } }
        s.wakeBarrier launch g epoch

/-- The crew is pending at a group (R206). -/
def Crew.pendingAt (c : Crew) (g epoch : Nat) : Bool :=
  match c.arrivals.get? g with | some t => !reached epoch t | none => false

/-- A freed member leaves a group (R208). -/
def State.leaveBarrier (s : State) (launch : Nat) (c : Crew) (g : Nat) : State :=
  let s := s.modLaunch launch fun l => match l.barriers.get? g with
    | none => l
    | some b =>
      let b' : Barrier := if c.pendingAt g b.epoch then { b with leaving := b.leaving + 1 } else { b with members := b.members - 1 }
      { l with barriers := l.barriers.put g b' }
  s.completeBarrier launch g

/-! ## Chute instances (R216, R219 to R224) -/

/-- The core that is home to the instance which a core sees. -/
def Chute.homeCore (d : Chute) (core : Nat) : Nat := if d.cluster then 4 * clusterOf core + d.home else core

/-- Home core and descriptor of the instance that a core sees; none where the descriptor is not valid on it. -/
def State.inst? (s : State) (core n : Nat) : Option (Nat × Chute) :=
  match (s.core core).chutes.get? n with
  | none => none
  | some d => ((s.core (d.homeCore core)).chutes.get? n).map fun i => (d.homeCore core, i)

def State.modChute (s : State) (core n : Nat) (f : Chute → Chute) : State :=
  match (s.core core).chutes.get? n with
  | some d => s.modCore core fun c => { c with chutes := c.chutes.put n (f d) }
  | none => s

def State.tile? (s : State) (core e : Nat) : Option TileEntry := (s.core core).tiles.get? e

/-- Writes an entry; a change of its state is the entry's transition of this ck (R185). -/
def State.putTile (s : State) (core e : Nat) (t : TileEntry) : State :=
  let moves := match s.tile? core e with | some x => x.state != t.state | none => false
  let s := s.modCore core fun c => { c with tiles := c.tiles.put e t }
  if moves then { s with moved := (core, e) :: s.moved } else s

def State.modTile (s : State) (core e : Nat) (f : TileEntry → TileEntry) : State :=
  match s.tile? core e with
  | some t => s.putTile core e (f t)
  | none => s

def SlotRec.empty : SlotRec := { item := 0, mark := false, eng := false, acqcore := 0, holder := 0 }

def State.slotRec (s : State) (core e : Nat) : SlotRec := (s.core core).slotRecs.getD e SlotRec.empty

def State.setSlotRec (s : State) (core e : Nat) (r : SlotRec) : State :=
  s.modCore core fun c => { c with slotRecs := c.slotRecs.put e r }

/-- Tile entries of the slots of an instance. -/
def Chute.entries (d : Chute) : List Nat := (List.range (d.nslots + 1)).map (d.first + ·)

/-- Slot after an index. -/
def Chute.after (d : Chute) (i : Nat) : Nat := (i + 1) % (d.nslots + 1)

/-- An acquisition by core position c would succeed (R222). -/
def State.canAcquire (s : State) (home : Nat) (d : Chute) (c : Nat) : Bool :=
  (match s.tile? home (d.first + d.tail) with | some t => t.state == 0 | none => false) &&
  decide (d.held.getD c 0 < d.allow.getD c 0)

/-- The tail slot of an instance has made its transition of this ck (R185). -/
def State.tailMoved (s : State) (home n : Nat) : Bool :=
  match (s.core home).chutes.get? n with
  | some d => s.moved.contains (home, d.first + d.tail)
  | none => false

/-- The head slot is READY (R222). -/
def State.canTake (s : State) (home : Nat) (d : Chute) : Bool :=
  match s.tile? home (d.first + d.head) with | some t => t.state == 2 | none => false

/-- Where a crew of a launch is, or was saved from. -/
def State.crewCore (s : State) (launch : Nat) (n : CrewName) : Option Nat :=
  match s.findCrew launch n with
  | some k => some (coreOf k)
  | none => match s.launches.get? launch with
    | none => none
    | some l => (l.saved.find? fun b => b.2.crews.any fun c => c.name == n).map (·.2.core)

/-- Wakes a unit suspended at a chute, or makes its saved block runnable (R224, R393). -/
def State.wakeWaiter (s : State) (launch : Nat) (n : CrewName) (u : Nat) : State :=
  match s.findCrew launch n with
  | some k => s.modUnit k u fun h => h.wakeIf fun _ => true
  | none => s.modLaunch launch fun l => l.mapSaved fun _ x => { x with runnable := x.runnable || x.crews.any fun c => c.name == n }

/-- A listed unit is waiting still: suspended, or on its way to execute its instruction again. One held at a fault is not, until it is
replayed. -/
def State.stillWaits (s : State) (launch : Nat) (w : CrewName × Nat) : Bool :=
  match s.findCrew launch w.1 with
  | some k => (match s.crews.get? k with
    | some c => (match c.units.get? w.2 with
      | some h => (match h.st with | .ready | .stalled _ | .suspended _ _ => true | _ => false)
      | none => false)
    | none => false)
  | none => true

/-- A change at an instance wakes the first waiter of each list that it makes satisfiable (R224). -/
def State.wakeChute (s : State) (home n : Nat) : State :=
  match (s.core home).chutes.get? n with
  | none => s
  | some d =>
    let s := match d.acqList.find? (s.stillWaits d.launch) with
      | some (i, u) =>
        let c := (s.crewCore d.launch i).getD home % 4
        if s.canAcquire home d c then s.wakeWaiter d.launch i u else s
      | none => s
    match d.takeList.find? (s.stillWaits d.launch) with
      | some (i, u) => if s.canTake home d then s.wakeWaiter d.launch i u else s
      | none => s

/-- Waiters of a launch leave every list; where a first one has left, the next is first (R224). -/
def State.unlist (s : State) (launch : Nat) (leaves : CrewName × Nat → Bool) : State :=
  let hit : List (Nat × Nat) := s.cores.flatMap fun (e : Nat × Core) =>
    (e.2.chutes.filter fun d => d.2.launch == launch && (d.2.acqList.any leaves || d.2.takeList.any leaves)).map fun d => (e.1, d.1)
  hit.foldl (fun s (x : Nat × Nat) => (s.modChute x.1 x.2 fun d =>
    { d with acqList := d.acqList.filter fun w => !leaves w, takeList := d.takeList.filter fun w => !leaves w }).wakeChute x.1 x.2) s

/-- Changes one entry of a list of four. -/
def setAt (xs : List Nat) (i : Nat) (f : Nat → Nat) : List Nat := (List.range 4).map fun j => if j = i then f (xs.getD j 0) else xs.getD j 0

/-- A slot leaves FILLING for READY (R233, R252): the instance's counts, and its waiters. -/
def State.slotReady (s : State) (home n e : Nat) : State :=
  let r := s.slotRec home e
  let s := s.modTile home e fun t => { t with state := 2 }
  let s := s.modChute home n fun d => { d with nready := d.nready + 1, held := setAt d.held r.acqcore (· - 1) }
  s.wakeChute home n

/-- Sends the credit notifications of a freed slot of an mc instance (R227). -/
def State.sendCredits (s : State) (home n : Nat) : State :=
  (List.range 4).foldl (fun s j =>
    { s with credits := s.credits.put s.nextNotice ⟨4 * clusterOf home + j, home % 4, n⟩, nextNotice := s.nextNotice + 1 }) s

/-- A slot becomes EMPTY (R233, R226). -/
def State.slotEmpty (s : State) (home n e : Nat) : State :=
  let mc := match (s.core home).chutes.get? n with | some d => d.mc | none => false
  let s := s.modTile home e fun t => { t with state := 0 }
  let s := s.modChute home n fun d => { d with nempty := d.nempty + 1 }
  let s := if mc then s.sendCredits home n else s
  s.wakeChute home n

end Sys2Proof.Machine
end

