-- ==== Sys2Proof/Machine/Stores.lean ====
section
/-! DEFINITION. The store buffer (R302 to R304): entry of pieces, forwarding, sending, and when a release is complete (R299, R303). -/

namespace Sys2Proof.Machine

/-- Entries of the buffer (R302). -/
def storeEntries : Nat := 16

/-- Scopes whose counters a sent entry raises; a crew-scope one counts at block scope (log 4). -/
def countedScopes (scope : Nat) : List Nat := (List.range 6).map (· + 1) |>.filter fun x => decide (x ≤ max scope 1)

/-- Two pieces that may merge (R302). -/
def StoreEntry.sameLine (a b : StoreEntry) : Bool :=
  a.line == b.line && a.kind == b.kind && a.scope == b.scope && a.rel == b.rel && a.key == b.key

/-- A later piece over an earlier one: byte by byte. -/
def StoreEntry.merge (a b : StoreEntry) : StoreEntry :=
  { a with bytes := b.bytes.foldl (fun m (e : Nat × Byte) => Table.put m e.1 e.2) a.bytes, ids := (a.ids ++ b.ids).eraseDups }

/-- The entry that a piece merges into, by position: the youngest that R302 names, unless that would put the piece before a store that must
be performed first: a younger one to the line (R296), a younger strong one before a strong piece (R298), and, before a release, any that it
covers (R299, log 4). A store that came back with its crew takes nothing new in (R304). -/
def Crew.mergeInto (c : Crew) (p : StoreEntry) : Option Nat :=
  match (c.sbuf.zipIdx.filter fun e => !e.1.old && e.1.sameLine p).getLast? with
  | none => none
  | some e =>
    if (c.sbuf.drop (e.2 + 1)).any fun y => y.line == p.line || (p.kind == 1 && y.kind == 1) || (p.rel && y.kind != 2) then none
    else some e.2

/-- Puts a piece into the buffer: merged, or as a new entry where one is free. -/
def Crew.enterPiece (c : Crew) (p : StoreEntry) : Option Crew :=
  match c.mergeInto p with
  | some i => some { c with sbuf := c.sbuf.mapIdx fun j e => if j = i then e.merge p else e }
  | none => if c.sbuf.length < storeEntries then some { c with sbuf := c.sbuf ++ [p] } else none

/-- Moves waiting pieces into the buffer in order, as entries free (R302). -/
def enterPieces (c : Crew) : List StoreEntry → Crew
  | [] => { c with pieces := [] }
  | p :: ps => match c.enterPiece p with
    | some c' => enterPieces c' ps
    | none => { c with pieces := p :: ps }

def Crew.refill (c : Crew) : Crew := enterPieces c c.pieces

/-- Bytes that a crew has stored and that are not yet performed, newest last: flights, buffer, pieces (R296, R302). -/
def State.ownBytes (s : State) (c : Crew) (pa : Nat) : Option Byte :=
  let hit (e : StoreEntry) : Option Byte := if e.line = pa / 128 then e.bytes.get? (pa % 128) else none
  let sent := (s.flights.map (·.2)).filter fun f => f.launch == c.launch && f.name == c.name && !f.performed
  ((sent.map (·.entry)) ++ c.sbuf ++ c.pieces).foldl (fun acc e => match hit e with | some b => some b | none => acc) none

/-- Bytes as a load of the crew reads them: its own unperformed stores first, then memory (R296, R302). -/
def State.loadBytes (s : State) (c : Crew) (key pa n : Nat) : List Byte :=
  (List.range n).map fun i => (s.ownBytes c (pa + i)).getD (s.readByte key (pa + i))

/-- An entry leaves the buffer: its flight, its counters (R302, R303). -/
def State.sendEntry (s : State) (k : Nat) (c : Crew) (e : StoreEntry) (count : Bool) : State :=
  let f : Flight :=
    { crew := k, launch := c.launch, name := c.name, part := s.partOf c, entry := e, performed := false, acks := countedScopes e.scope }
  let s := { s with flights := s.flights.put s.nextFlight f, nextFlight := s.nextFlight + 1 }
  if count then s.modCrew k fun c =>
    { c with unack := (countedScopes e.scope).foldl (fun t x => Table.put t x (t.getD x 0 + 1)) c.unack }
  else s

/-- Its stores keep the order of those of before a save (R304). -/
def StoreEntry.keep (e : StoreEntry) : StoreEntry := { e with old := true }

/-- A crew's flights that are not performed and that a release covers; `un` counts UN ones too. -/
def State.unperformed (s : State) (c : Crew) (un : Bool) : Bool :=
  s.flights.any fun e => e.2.launch == c.launch && e.2.name == c.name && !e.2.performed && (un || e.2.entry.kind != 2)

/-- A release at a scope is complete for stores (R299, R303). Crew scope needs none. -/
def State.storesDone (s : State) (c : Crew) (scope : Nat) (un : Bool) : Bool :=
  scope == 0 ||
    (!(c.sbuf ++ c.pieces).any (fun e => un || e.kind != 2) && !s.unperformed c un &&
      (List.range 7).all fun x => decide (x < scope) || c.unack.getD x 0 == 0)

/-- Scratchpad accesses of the crew still at a lane port (R181): `loads` or stores and atomics; `peers` counts those to other cores. -/
def State.scratchBusy (s : State) (k : Nat) (loads peers : Bool) : Bool :=
  s.cores.any fun e => e.2.port.any fun q => q.2.any fun a =>
    a.crew == k && (peers || !a.peer) && (match a.op with | .load => loads | _ => !loads)

/-- A release at a scope for everything it covers (R181, R299, R303). -/
def State.released (s : State) (k : Nat) (c : Crew) (scope : Nat) (un scr loads : Bool) : Bool :=
  scope == 0 ||
    (s.storesDone c scope un && (!scr || !s.scratchBusy k false (decide (2 ≤ scope))) &&
      (!loads || !s.scratchBusy k true (decide (2 ≤ scope))))

/-- The crew has an SO store that is not performed (R298). -/
def State.strongBusy (s : State) (c : Crew) : Bool :=
  (c.sbuf ++ c.pieces).any (fun e => e.kind == 1) ||
  s.flights.any fun e => e.2.launch == c.launch && e.2.name == c.name && !e.2.performed && e.2.entry.kind == 1

/-- The line of a store of before the crew's restore that is not performed: no new store comes before it (R304). -/
def State.oldLine (s : State) (c : Crew) : Option Nat :=
  (((c.sbuf ++ c.pieces).find? fun e => e.old).map (·.line)).or
    ((s.flights.find? fun e => e.2.launch == c.launch && e.2.name == c.name && !e.2.performed && e.2.entry.old).map fun e => e.2.entry.line)

/-- The crew has an unperformed store to a line (R296). -/
def State.lineBusy (s : State) (c : Crew) (line : Nat) : Bool :=
  (c.sbuf ++ c.pieces).any (fun e => e.line == line) ||
  s.flights.any fun e => e.2.launch == c.launch && e.2.name == c.name && !e.2.performed && e.2.entry.line == line

/-- Tokens of the store instructions none of whose pieces still waits for its scope (R306). -/
def State.settleTokens (s : State) (launch : Nat) (n : CrewName) : State :=
  let flights := s.flights.map (·.2)
  s.reachCrew launch n fun c =>
    let busy (id : Nat) (t : StoreToken) : Bool :=
      (c.sbuf ++ c.pieces).any (fun e => e.ids.contains id) ||
      flights.any fun f => f.launch == launch && f.name == n && f.entry.ids.contains id && f.acks.contains (max t.scope 1)
    let done := c.storeToks.filter fun e => !busy e.1 e.2
    { done.foldl (fun c (e : Nat × StoreToken) => c.fallToken (some e.2.tok)) c with
      storeToks := c.storeToks.filter fun e => busy e.1 e.2 }

end Sys2Proof.Machine
end

