-- ==== Sys2Proof/Machine/Port.lean ====
section
/-! DEFINITION. The lane port of a core (R173 to R175, R180, R190, R191): accesses waiting by source, and what performing one does. -/

namespace Sys2Proof.Machine

/-! ## The cluster window (R177) -/

/-- Where an access goes: core, block slot, offset within the allocation. -/
structure Place where
  core : Nat
  bslot : Nat
  offset : Nat
  deriving DecidableEq, Repr

/-- Fields of a cluster-window address (R177). -/
def windowPlace (core va : Nat) : Place :=
  { core := 4 * clusterOf core + field va 27 26, bslot := field va 25 22, offset := field va 19 0 }

def windowFieldsOk (va : Nat) : Bool := field va 31 28 == 0 && field va 21 20 == 0

/-! ## Elements and atomic operations (R188, R190, R311) -/

/-- The words of a loaded element by register: zero- or sign-extended (R188). -/
def elementWord (size : Nat) (bs : List Byte) (j : Nat) : Word :=
  let n := leNat ((bs.drop (4 * j)).take 4)
  match size with
  | 1 => BitVec.ofInt 32 (signed 8 n)
  | 3 => BitVec.ofInt 32 (signed 16 n)
  | _ => wordOf n

/-- f of R311 on w-bit words. -/
def atomOp (op w old y : Nat) : Nat :=
  match op with
  | 0 => (old + y) % 2 ^ w
  | 1 => if signed w y < signed w old then y else old
  | 2 => if signed w old < signed w y then y else old
  | 3 => min old y
  | 4 => max old y
  | 5 => old &&& y
  | 6 => old ||| y
  | 7 => old ^^^ y
  | _ => y

/-- f of ATOM.F and MRED.F (R311). -/
def atomFloat (fop old y : Nat) : FRes :=
  match fop with
  | 0 => fAdd 0 (fp32.decode old) (fp32.decode y)
  | 1 => fMinMax false old y
  | _ => fMinMax true old y

/-- The value that a scratchpad access leaves in its element, and its flags; none where it only reads (R189 to R191). -/
def SpOp.apply (op : SpOp) (old : Nat) (l : SpLane) : Option Nat × BitVec 7 :=
  match op with
  | .load => (none, 0)
  | .store => (some (leNat l.data), 0)
  | .atom 9 => let r := atomFloat 0 old (leNat l.data); (some r.1, r.2)
  | .atom n => (some (atomOp n 32 old (leNat l.data)), 0)
  | .cas => (if old = l.cmp then some (leNat l.data) else none, 0)

/-! ## Soft errors in words (R444) -/

/-- A word that is written holds its error no longer. -/
def State.mend (s : State) (code owner index : Nat) : State := { s with softErrors := s.softErrors.erase (code, owner, index) }

/-! ## Performing -/

/-- One lane at its bank: the bytes it found, its flags, the block after it. -/
def SpLane.perform (l : SpLane) (op : SpOp) (n : Nat) (m : Memory) : List Byte × BitVec 7 × Memory :=
  let old := m.bytes l.offset n
  match op.apply (leNat old) l with
  | (some v, fl) => (old, fl, m.storeBytes l.offset (leBytes n v))
  | (none, fl) => (old, fl, m)

/-- All lanes in ascending order. -/
def State.performLanes (s : State) (core n : Nat) (op : SpOp) : List SpLane → List (Nat × List Byte) × BitVec 7 × State
  | [] => ([], 0, s)
  | l :: ls =>
    let key := blockKey core l.bslot
    let m := match s.blocks.get? key with | some b => b.mem | none => []
    let (old, fl, m') := l.perform op n m
    let s := if m' = m then s else s.modBlock key fun b => { b with mem := m' }
    let s := if op = .load || n < 4 then s else (List.range (n / 4)).foldl (fun s i => s.mend 3 key (l.offset / 4 + i)) s
    let (rest, fl', s) := s.performLanes core n op ls
    ((l.lane, old) :: rest, fl ||| fl', s)

/-- The word of lane l of register j among the words found; a scalar-shaped access fills every lane. -/
def foundWord (size : Nat) (vs : List (Nat × List Byte)) (old : List Word) (j l : Nat) : Word :=
  match vs.find? fun v => v.1 == l || v.1 == 0x7F with
  | some v => elementWord size v.2 j
  | none => lane old l

/-- Enters the words found into a result on its way, which is due in a ck. -/
def Result.fill (r : Result) (size due : Nat) (vs : List (Nat × List Byte)) (fl : BitVec 7) : Result :=
  { r with
    parts := r.parts - 1
    due := max r.due due
    flags := r.flags ||| fl
    writes := r.writes.mapIdx fun j w => { w with vals := lanesOf (foundWord size vs w.vals j) } }

/-- The access has a part still to be performed at some port. -/
def State.partWaits (s : State) (crew serial : Nat) : Bool :=
  s.cores.any fun e => e.2.port.any fun q => q.2.any fun a => a.crew == crew && a.serial == serial

/-- Passes of one beat (R173): the most distinct words requested in one bank; for an atomic each repeat of a word adds one (R190).
DEDUCED (log 67): R191 does not say it of SPATOM.CAS, which reads and writes in lane order as SPATOM does; the model counts its repeats too. -/
def SpAccess.beatPasses (a : SpAccess) (beat : Nat) : Nat :=
  let ls := a.lanes.filter fun l => l.lane / 32 == beat || (beat == 0 && l.lane == 0x7F)
  let words := ls.flatMap fun l => (List.range ((sizeBytes a.size + 3) / 4)).map fun i => (l.bslot, l.offset / 4 + i)
  let one := words.eraseDups
  let most := ((List.range 32).map fun b => (one.filter fun (w : Nat × Nat) => w.2 % 32 == b).length).foldl max 0
  match a.op with
  | .atom _ | .cas => most + (words.length - one.length)
  | _ => most

/-- Passes of the access's beats. -/
def SpAccess.passes (a : SpAccess) : Nat := ((List.range 3).map a.beatPasses).sum

/-- Passes beyond the first of each beat (R116). -/
def SpAccess.extraPasses (a : SpAccess) : Nat := ((List.range 3).map fun beat => a.beatPasses beat - 1).sum

/-- Performs an access that has left its port's queue; its own core counts its further passes (R116). Its result is due 21 ck and its
passes, 57 ck and its passes from a peer, after the ck before this one (R174). -/
def State.performAccess (s : State) (core : Nat) (a : SpAccess) : State :=
  let s := match s.crews.get? a.crew with
    | some c => if a.peer then s else s.perf core c.launch 10 a.extraPasses
    | none => s
  let (vs, fl, s) := s.performLanes core (sizeBytes a.size) a.op a.lanes
  let due := s.ck + a.passes + (if a.peer then 56 else 20)
  match a.result with
  | some id => s.modCrew a.crew fun c => { c with out := c.out.map fun r => if r.id = id then r.fill a.size due vs fl else r }
  | none =>
    let more := s.partWaits a.crew a.serial
    s.modCrew a.crew fun c => (if more then c else c.fallToken a.tok).mergeFlags fl

/-- The source that the port serves next: round robin from the pointer (R174). -/
def Core.portNext (c : Core) : Option Nat :=
  ((List.range 5).map fun i => (c.portPtr + i) % 5).find? fun i => !(c.port.getD i []).isEmpty

/-- The port is free for the first access of a source, which has arrived (R174). -/
def Core.portReady (c : Core) (src ck : Nat) : Bool :=
  decide (c.portFree ≤ ck) && (match c.port.getD src [] with | a :: _ => decide (a.since < ck) | [] => false)

/-- Serves one source's first access, which holds the port for its passes (R174). -/
def State.servePort (s : State) (core src : Nat) : State :=
  match (s.core core).port.getD src [] with
  | [] => s
  | a :: rest =>
    let s := s.modCore core fun c => { c with port := c.port.put src rest, portPtr := (src + 1) % 5, portFree := s.ck + a.passes }
    s.performAccess core a

/-- An access that satisfies `p` waits at a port of the cluster. -/
def State.portHas (s : State) (core : Nat) (p : Nat → SpAccess → Bool) : Bool :=
  (List.range 4).any fun j => let c := 4 * clusterOf core + j; (s.core c).port.any fun q => q.2.any (p c)

/-- An access that passed the check against a block has still to be performed (R178, R179). -/
def State.portNames (s : State) (key : Nat) : Bool :=
  s.portHas (key / 16) fun c a => c == key / 16 && a.lanes.any fun l => l.bslot == key % 16

/-- An access of one of some crews has still to be performed. -/
def State.portOf (s : State) (core : Nat) (ks : List Nat) : Bool := s.portHas core fun _ a => ks.contains a.crew

end Sys2Proof.Machine
end

