-- ==== Sys2Proof/Machine/Retire.lean ====
section
/-! DEFINITION. How a crew, its block and its launch end (R94, R208, R228, R237 to R239, R242, R375). -/

namespace Sys2Proof.Machine

/-- Whose an engine entry is. -/
def QItem.ofCrew (i : QItem) (launch : Nat) (n : CrewName) : Bool :=
  match i with
  | .hoist h => h.launch == launch && h.name == n
  | .task t => t.launch == launch && t.name == n

def State.queue (s : State) (core q : Nat) : List QItem := (s.core core).queues.getD q []
def State.setQueue (s : State) (core q : Nat) (xs : List QItem) : State :=
  s.modCore core fun c => { c with queues := c.queues.put q xs }

/-- Entries of all six queues of a core. -/
def State.items (s : State) (core : Nat) : List QItem := (List.range 6).flatMap fun q => s.queue core q

/-- The crew has an entry that has not completed on its core. -/
def State.engineBusy (s : State) (core launch : Nat) (n : CrewName) : Bool := (s.items core).any fun i => i.ofCrew launch n

/-- A LAUNCH or another packet is ready to complete with a status (R375). -/
def State.packetReady (s : State) (q index status detail : Nat) : State :=
  s.modQueue q fun x => { x with started := x.started.map fun p =>
    if p.index = index ∧ !p.ready then { p with ready := true, status := status, detail := detail } else p }

/-- Block slots of a launch: resident blocks, chute blocks or the others. -/
def State.blocksOf (s : State) (launch : Nat) (chute : Bool) : List (Nat × Block) :=
  s.blocks.filter fun e => e.2.launch == launch && e.2.chute == chute

/-- Releases what a block holds on its core: its slot, scratchpad, tile entries and counters (R94, R197). Every access that passed the check
against it has been performed (R179): those who release it wait. -/
def State.releaseBlock (s : State) (key : Nat) : State :=
  let core := key / 16
  let b := key % 16
  let s := { s with blocks := s.blocks.del key, softErrors := s.softErrors.filter fun e => !((e.1 == 3 || e.1 == 4) && e.2.1 == key) }
  s.modCore core fun c => { c with
    tiles := c.tiles.filter fun e => e.2.owner != b
    counters := c.counters.filter fun e => e.2.owner != b }

/-- Releases the chute blocks, descriptors and slot records of a launch (R218). -/
def State.releaseChutes (s : State) (launch : Nat) : State :=
  let s := (s.blocksOf launch true).foldl (fun s e => s.releaseBlock e.1) s
  { s with cores := s.cores.map fun (e : Nat × Core) =>
      (e.1, { e.2 with
        slotRecs := e.2.slotRecs.filter fun r => (e.2.chutes.all fun d => d.2.launch != launch || !d.2.entries.contains r.1)
        chutes := e.2.chutes.filter fun d => d.2.launch != launch }) }

/-- A launch leaves the machine, and its packet is ready to complete. -/
def State.finishLaunch (s : State) (launch status : Nat) : State :=
  match s.launches.get? launch with
  | none => s
  | some l =>
    let s := s.releaseChutes launch
    let s := { s with launches := s.launches.del launch, heads := s.heads.del launch }
    s.packetReady l.queue l.packet status 0

/-- An access to a chute block of the launch has still to be performed, so that it is not released (R179, R218). -/
def State.chuteWork (s : State) (launch : Nat) : Bool := (s.blocksOf launch true).any fun e => s.portNames e.1

/-- No block of the launch is left: none to come, waiting, resident or saved (R236, R238, R384). -/
def State.launchEnded (s : State) (launch : Nat) (l : Launch) : Bool :=
  (s.blocksOf launch false).isEmpty && l.saved.isEmpty && !s.chuteWork launch &&
  (if l.benches.isEmpty then decide (l.nblocks ≤ l.nextBlock) else l.benches.all (·.closing)) &&
  !s.clusters.any (fun c => c.2.runq.any (fun r => r.launch == launch) || c.2.granted.any fun r => r.launch == launch) &&
  l.requeue.isEmpty &&
  !s.migRing.any (fun m => m.2.any fun r => r.launch == launch)

/-- The launch completes when no block of it is left; one that was ended completes with ABORTED (R395), unless its packet has completed with
RESTORE (R390). -/
def State.checkLaunch (s : State) (launch : Nat) : State :=
  match s.launches.get? launch with
  | some l =>
    if l.st = .running ∧ s.launchEnded launch l then s.finishLaunch launch 0
    else if l.st = .aborted ∧ (s.blocksOf launch false).isEmpty ∧ !s.chuteWork launch then s.finishLaunch launch 0x0A
    else s
  | none => s

/-- A core that holds no block of its launch: its move completes, and with a closing bench it becomes idle (R238, R242). A block that is saved is not freed: it
comes back to its core. -/
def State.coreFreed (s : State) (launch core : Nat) : State :=
  s.modLaunch launch fun l =>
    if l.benches.isEmpty || s.blocks.any (fun e => e.1 / 16 == core && e.2.launch == launch && !e.2.chute) ||
        l.saved.any (fun e => e.2.core == core) then l
    else
      let closing (b : Nat) : Bool := match l.benches[b]? with | some x => x.closing | none => false
      match (l.moving.get? core).or (l.assign.get? core) with
      | some b => { l with assign := if closing b then l.assign.del core else l.assign.put core b, moving := l.moving.del core }
      | none => l

/-- A block whose last crew has been freed (R94); its lifetime is kept for R387. -/
def State.freeBlock (s : State) (key : Nat) : State :=
  match s.blocks.get? key with
  | none => s
  | some b =>
    let s := s.releaseBlock key
    let s := s.modLaunch b.launch fun l => { l with lifetimes := ((s.ck - b.placed) :: l.lifetimes).take 16 }
    (s.coreFreed b.launch (key / 16)).checkLaunch b.launch

/-- Keys of the blocks that its window addresses name (R179). -/
def Hoist.windows (h : Hoist) (core : Nat) : List Nat :=
  let key (w : Nat) : Nat := let p := windowPlace core w; blockKey p.core p.bslot
  match h.kind with
  | .lane | .storeLane => (h.lanes.map fun l => key l.2.2).eraseDups
  | .tensor | .storeTensor => [key h.win]
  | _ => []

/-- A hoist of the cluster or an access at the core's port has still to reach a block (R179). -/
def State.windowBusy (s : State) (key : Nat) : Bool :=
  s.portNames key ||
  (List.range 4).any fun j =>
    let core := 4 * clusterOf (key / 16) + j
    (s.items core).any fun i => match i with
      | .hoist h => (h.windows core).contains key
      | .task _ => false

/-- A block without crews is freed; it waits for the hoists and accesses that passed their check against it
(R94, R179). -/
def State.emptyBlock (s : State) (key : Nat) : State :=
  if s.windowBusy key then s.modBlock key fun b => { b with strategy := 4 } else s.freeBlock key

/-- Blocks of a cluster that waited for hoists and accesses are freed once none is left. -/
def State.releaseIdle (s : State) (core : Nat) : State :=
  let keys := (s.blocks.filter fun e => e.1 / 64 == clusterOf core && e.2.strategy == 4).map (·.1)
  keys.foldl (fun s k => if s.windowBusy k then s else s.freeBlock k) s

/-- What has waited for the lane ports is done: blocks are freed, launches end (R179). -/
def State.settlePorts (s : State) : State :=
  let s := (s.blocks.filter fun e => e.2.strategy == 4).foldl (fun s e => s.releaseIdle (e.1 / 16)) s
  s.launches.foldl (fun s e => s.checkLaunch e.1) s

/-- Changes one bench. -/
def Launch.modBench (l : Launch) (b : Nat) (f : Bench → Bench) : Launch :=
  { l with benches := l.benches.mapIdx fun i x => if i = b then f x else x }

/-- A bench closes: its cores that hold no block become idle at once, the others when their last block is freed (R238). -/
def State.closeBench (s : State) (launch b : Nat) : State :=
  match s.launches.get? launch with
  | none => s
  | some l => l.assign.foldl (fun s e => s.coreFreed launch e.1) (s.modLaunch launch fun l => l.modBench b fun x => { x with closing := true })

/-- Scratchpad accesses of a freed crew still take place, but answer nobody. -/
def State.orphanScratch (s : State) (k : Nat) : State :=
  { s with cores := s.cores.map fun (e : Nat × Core) => (e.1, { e.2 with
      port := e.2.port.map fun (q : Nat × List SpAccess) =>
        (q.1, (q.2.filter fun a => a.crew != k || a.op != .load).map fun a =>
          if a.crew = k then { a with result := none, tok := none, crew := 4096 } else a) }) }

/-- A crew is freed (R94). Its buffered stores are sent; its barriers, partials and bench learn of it (R208, R276, R238, R239). -/
def State.freeCrew (s : State) (k : Nat) (move : Bool) : State :=
  match s.crews.get? k with
  | none => s
  | some c =>
    let core := coreOf k
    let s := (c.sbuf ++ c.pieces).foldl (fun s e => s.sendEntry k c e false) s
    let s : State := match s.launches.get? c.launch with
      | none => s
      | some l =>
        let s := (l.groupsOf c.index).foldl (fun s g => s.leaveBarrier c.launch c g) s
        if l.benches.isEmpty then s
        else if move then s.modLaunch c.launch fun l => l.modBench c.bench fun b =>
          { b with stack := (b.persist.map fun r => c.sregs.getD r 0) :: b.stack }
        else s.closeBench c.launch c.bench
    let s := s.modCore core fun x =>
      let mine := x.partials.filter fun p => p.launch == c.launch && p.name == c.name
      { x with
        partials := x.partials.filter fun p => !(p.launch == c.launch && p.name == c.name)
        creditsUsed := mine.foldl (fun t p => Table.put t p.queue (t.getD p.queue 0 - 1)) x.creditsUsed
        cand := x.cand.del (k % 32) }
    let s := s.orphanScratch k
    let b := blockKey core (s.bslotOf k)
    let s := { s with crews := s.crews.del k }
    let s := s.modBlock b fun x => { x with crews := x.crews.filter (· != k) }
    match s.blocks.get? b with
    | some x => if x.crews.isEmpty then s.emptyBlock b else s
    | none => s

/-- A RETIRING crew whose engine work has completed: the flag test, then it is freed (R94, R242). -/
def State.tryRetire (s : State) (k : Nat) : State :=
  match s.crews.get? k with
  | none => s
  | some c => match c.units.get? 0 with
    | none => s
    | some h => match h.st with
      | .retiring move =>
        if s.engineBusy (coreOf k) c.launch c.name then s
        else if c.flagTest != 0 then
          (s.modUnit k 0 fun h => { h with st := .ready }).takeTrap k 0 (if move then 16 else 8) { cause := .flag, detail := c.flagTest.toNat }
        else s.freeCrew k move
      | _ => s

end Sys2Proof.Machine
end

