-- ==== Sys2Proof/Machine/Control.lean ====
section
/-! DEFINITION. The control and system instructions, opcodes 0x00 to 0x1F (R58, R85 to R119). -/

namespace Sys2Proof.Machine

/-! ## Branches and calls (R97, R98) -/

/-- A taken transfer with effects that its target check precedes (R97). -/
def Ctx.go (x : Ctx) (s : State) (t : Dword) (f : Crew → Crew) : Res :=
  if badTarget t then .goto s t false else .goto (s.modCrew x.k f) t false

def bodyNop (_ : Ctx) (s : State) : Res := .done s

def bodyBra (x : Ctx) (s : State) : Res := .goto s x.target false

/-- BRC: z inverts (R98). -/
def bodyBrc (x : Ctx) (s : State) : Res :=
  if (x.scalar x.a.in0 != 0) != x.a.mod.getLsbD 0 then .goto s x.target false else .done s

def bodyCall (x : Ctx) (s : State) : Res := x.go s x.target fun c => c.writePair x.u x.a.dst.index x.next

/-- CALLI: the target is read before the link is written. -/
def bodyCalli (x : Ctx) (s : State) : Res :=
  x.go s (x.c.readPair x.h x.a.in0.index) fun c => c.writePair x.u x.a.dst.index x.next

def bodyRet (x : Ctx) (s : State) : Res := .goto s (x.c.readPair x.h x.a.in0.index) false

def bodyJmpi (x : Ctx) (s : State) : Res := .goto s (x.c.readPair x.h x.a.in0.index) false

def bodyLoop (x : Ctx) (s : State) : Res :=
  let n := x.scalar x.a.dst - 1
  let f (c : Crew) : Crew := c.writeS x.u x.a.dst.index n
  if n != 0 then x.go s x.target f else x.crewDone s f

/-! ## Divergence (R85 to R88, R99) -/

/-- The first free spall record. -/
def Crew.freeSpall (c : Crew) : Option Nat := ((List.range 16).map (· + 1)).find? fun n => (c.units.get? n).isNone

/-- Detaches the minority as a spall (R85, R86). -/
def Crew.split (c : Crew) (u k n : Nat) (minority : Mask) (pc origin : Dword) (ck : Nat) : Crew :=
  match c.units.get? u with
  | none => c
  | some h =>
    let owner := if u != 0 && h.joinId == k then h.owner else u
    let opens := match c.units.get? owner with | some o => o.opens | none => 0
    let spall : CrewUnit :=
      { pc := pc, mask := minority, dom := minority, st := if c.waiting u then .splitting u else .ready, joinId := k, owner := owner,
        opens := opens, run := 0, stop := true, tried := none, since := ck, origin := origin, barEpoch := none, barPc := 0, debugStops := [],
        debugSkip := false, stopAt := ck }
    { c.modUnit u (fun h => { h with mask := h.mask &&& ~~~minority, dom := h.dom &&& ~~~minority }) with
      units := (c.modUnit u fun h => { h with mask := h.mask &&& ~~~minority, dom := h.dom &&& ~~~minority }).units.put n spall }

def setOpen (u k : Nat) (c : Crew) : Crew := c.modUnit u fun h => { h with opens := h.opens ||| (1 <<< k) }

/-- BRX (R85, R88, R99): the condition is l0's or l1's of pipe A too. DESIGN CHOICE (log 70): a unit with no lane in its mask has both T and N
empty; the model tests N first, so that the unit branches. -/
def bodyBrx (x : Ctx) (s : State) : Res :=
  let z := x.a.mod.getLsbD 4
  let k := x.a.mod.toNat % 16
  let cond : Mask := BitVec.ofFnLE fun l : Fin 96 => (x.word x.a.in0 l != 0) != z
  let taken := x.h.mask &&& cond
  let fall := x.h.mask &&& ~~~cond
  let next := skipTail x.next
  if fall = 0 then x.go s x.target (setOpen x.u k)
  else if taken = 0 then x.crewDone s (setOpen x.u k)
  else match x.c.freeSpall with
    | none =>
      let rec? := x.c.deferred.get? k
      if (match rec? with | some r => r.addr != next | none => false) then .trap s { cause := .divergenceOverflow, detail := k }
      else x.go s x.target fun c =>
        let r : Deferred := match rec? with
          | some r => { r with mask := r.mask ||| fall }
          | none => { addr := next, mask := fall, running := false, arrived := 0 }
        let c := setOpen x.u k c
        { c.modUnit x.u fun h => { h with mask := h.mask &&& ~~~fall, dom := h.dom &&& ~~~fall } with deferred := c.deferred.put k r }
    | some n =>
      if badTarget x.target then .goto s x.target true
      else
        let major := decide (popCount 96 fall.toNat ≤ popCount 96 taken.toNat)
        let minority := if major then fall else taken
        let s := (s.modCrew x.k fun c =>
          (setOpen x.u k c).split x.u k n minority (if major then next else x.target) x.pc s.ck).perf x.core x.c.launch 14 1
        if major then .goto s x.target true else .parked s

/-- JOIN (R87, R88). -/
def bodyJoin (x : Ctx) (s : State) : Res :=
  let k := x.a.mod.toNat % 16
  let next := skipTail x.next
  if x.u != 0 && x.h.joinId == k then
    .placed (s.modCrew x.k fun c =>
      let c := { c.issued x.u x.stepping with last := noLast }
      if x.a.sw && c.waiting x.u then c.modUnit x.u fun h => { h with st := .joining }
      else (c.modUnit x.u fun h => { h with st := .joined none }).tryMerge x.h.owner)
  else if !x.h.opens.getLsbD k then .trap s { cause := .joinMismatch, detail := k }
  else .placed (s.modCrew x.k fun c =>
    let c := { c.issued x.u x.stepping with last := noLast }
    match c.deferred.get? k with
    | some r =>
      if r.running then { c.modUnit x.u fun h => { h with st := .joined (some (k, x.a.sw)), pc := next, origin := x.pc } with last := noLast }.tryMerge x.u
      else
        let c := { c.modUnit x.u fun h => { h with mask := r.mask, dom := h.dom ||| r.mask, pc := r.addr, origin := x.pc } with
          deferred := c.deferred.put k { r with running := true, arrived := x.h.mask } }
        if x.a.sw then c.park x.u else c
    | none => (c.modUnit x.u fun h => { h with st := .joined (some (k, x.a.sw)), pc := next, origin := x.pc }).tryMerge x.u)

/-! ## Waiting and ending (R91, R94, R100 to R103, R109, R110) -/

def evTrap (cause : Cause) (e slot : Nat) : Trap := { cause := cause, ixkind := 3, index := e, slot := slot }

/-- A counter that the unit's own block owns (R197). -/
def State.ownCounter (s : State) (core bslot e slot : Nat) : Except Trap Counter :=
  match (s.core core).counters.get? e with
  | none => .error (evTrap .eventUndefined e slot)
  | some c => if c.owner = bslot then .ok c else .error (evTrap .eventOwner e slot)

/-- SUSPEND (R91, R100). -/
def bodySuspend (x : Ctx) (s : State) : Res :=
  let n := (x.scalar x.a.in0).toNat
  let target := (x.scalar x.a.in1).toNat % 65536
  let far := x.a.form == .f96
  let pc := if far then x.target else skipTail x.next
  if 2047 < n then .trap s (evTrap .eventIndex (n % 2048) 2)
  else if far && badTarget pc then .goto s pc false
  else match s.ownCounter x.core (x.bslot s) n 2 with
    | .error t => .trap s t
    | .ok e =>
      if reached e.epoch target then (if far then .goto s pc false else .done s)
      else .suspend s pc (.counter n target)

/-- EXIT (R94, R228): the crew becomes RETIRING, and is freed once its engine work is done and the flag test passes. -/
def bodyExit (x : Ctx) (s : State) : Res :=
  if x.divided then .trap s { cause := .spallOutstanding }
  else if x.c.slots != 0 then .trap s { cause := .chuteHeld }
  else if x.c.waiting x.u then .stall .results
  else
    let s := s.modCrew x.k fun c => { c.endLeases.modUnit x.u fun h => { h with st := .retiring false } with last := noLast }
    .placed (s.tryRetire x.k)

/-- TWAIT: its wait mask, or all eight tokens (R102). -/
def bodyTwait (x : Ctx) (s : State) : Res :=
  if x.a.wait = 0 && (List.range 8).any (fun n => x.c.tokens.getD n 0 != 0) then .stall (.tokens 0xFF) else .done s

/-- The crew has a task that names an accumulator tile (R103). -/
def State.tileBusy (s : State) (core : Nat) (c : Crew) : Bool :=
  (s.items core).any fun i => i.ofCrew c.launch c.name && (match i with | .task t => t.tile.isSome | .hoist _ => false)

/-- SETBND (R103). -/
def bodySetbnd (x : Ctx) (s : State) : Res :=
  let n := (x.scalar x.a.in0).toNat
  let b := x.c.budget
  if 256 < n || b < n || (b - n) % 128 != 0 || 4 < (b - n) / 128 then .trap s { cause := .boundary, slot := 2 }
  else if decide (1 < x.c.units.length) || !x.c.deferred.isEmpty then .trap s { cause := .boundary }
  else if s.tileBusy x.core x.c then .trap s { cause := .boundary }
  else if !x.c.out.isEmpty then .stall .crewResults
  else x.crewDone s fun c =>
    let lo := min n c.bound
    let hi := max n c.bound
    { c with pool := c.pool.filter fun e => decide (e.1 < lo) || decide (hi ≤ e.1), bound := n, tileModes := [], last := noLast }

/-- DOZE (R109): the unit leaves the marker that S would set once its results have returned, and dozes until n ck after issue. Its
leases end (R348). -/
def bodyDoze (x : Ctx) (s : State) : Res :=
  let n := min (x.scalar x.a.in0).toNat 65535
  if n = 0 then .parked s
  else .placed ((s.finish x false).modCrew x.k fun c =>
    ({ (c.endLeasesOf x.u).modUnit x.u fun h => { h with st := .dozing (s.ck + n), stop := true } with last := noLast }).resultsDone x.u)

def bodyYield (x : Ctx) (s : State) : Res :=
  .done (s.modCore x.core fun c => match c.cand.get? (x.k % 32) with
    | some (u, _) => { c with cand := c.cand.put (x.k % 32) (u, 0) }
    | none => c)

def bodyPrio (x : Ctx) (s : State) : Res := x.crewDone s fun c => { c with prio := (x.scalar x.a.in0).setWidth 2 }

/-! ## Traps (R104, R105, R436) -/

def bodyTrap (x : Ctx) (s : State) : Res :=
  .trap s { cause := .user, detail := (x.scalar x.a.in0).toNat, resume := some x.next }

def bodyTrapc (x : Ctx) (s : State) : Res :=
  if x.scalar x.a.in0 != 0 then .trap s { cause := .user, detail := (x.scalar x.a.in1).toNat, resume := some x.next } else .done s

def bodyBkpt (x : Ctx) (s : State) : Res := .trap s { cause := .breakpoint, detail := (x.scalar x.a.in0).toNat }

/-- Units that wait to enter the handler and may: the lowest spall id enters first (R436). -/
def Crew.nextEntry (c : Crew) : Option Nat :=
  if c.hstate.getLsbD 0 then none
  else (c.units.find? fun e => match e.2.st with | .entering _ _ => !c.waiting e.1 && !c.onIssue | _ => false).map (·.1)

/-- TRET (R105, R436): a bad resumption address traps before anything is restored (R97). -/
def bodyTret (x : Ctx) (s : State) : Res :=
  if !x.c.inHandler x.u then .trap s { cause := .handlerState }
  else if badTarget x.c.hpc then .goto s x.c.hpc false
  else .placed (s.modCrew x.k fun c =>
    let c := (c.issued x.u x.stepping).leaveHandler x.u
    if x.a.sw then c.park x.u else c)

/-! ## Control and debug registers (R106, R107, R114, R127 to R129, R435) -/

/-- The number in the in1 slot. -/
def Opnd.number : Opnd → Nat | .num n => n.toNat | _ => 0

/-- Value of a control register (R127, R435). -/
def readCreg (x : Ctx) (s : State) (n : Nat) : Word :=
  let c := x.c
  match n with
  | 0x000 => wordOf c.index
  | 0x001 => wordOf c.block
  | 0x002 => match x.launch? s with
    | some l => let sh := l.shapeOf c.bench; wordOf (sh.nx + 2 ^ 10 * sh.ny + 2 ^ 20 * sh.nz)
    | none => 0
  | 0x003 => wordOf (x.core * 2 ^ 16 + issuerOf x.k * 2 ^ 12 + slotOf x.k * 2 ^ 8 + x.bslot s)
  | 0x004 => wordOf c.bound
  | 0x005 => wordOf c.budget
  | 0x006 => c.fflags.setWidth 32
  | 0x007 => c.fenable.setWidth 32
  | 0x008 => c.prio.setWidth 32
  | 0x009 => wordOf (s.tenantOf c + 2 ^ 8 * s.partOf c)
  | 0x00A => wordOf c.launch
  | 0x00B => match x.launch? s with | some l => wordOf l.nblocks | none => 0
  | 0x00C => match x.launch? s with | some l => if l.benches.isEmpty then 0 else wordOf (c.bench + 2 ^ 31) | none => 0
  | 0x040 => c.hpc.setWidth 32
  | 0x041 => (c.hpc >>> 32).setWidth 32
  | 0x042 => maskWord c.hmask 0
  | 0x043 => maskWord c.hmask 1
  | 0x044 => maskWord c.hmask 2
  | 0x045 => c.hcause.setWidth 32
  | 0x046 => c.hstate.setWidth 32
  | n => if 0x050 ≤ n then (c.hrec >>> (32 * (n - 0x050))).setWidth 32 else 0

/-- A write to a control register; read-only fields ignore it (R5, R106). -/
def writeCreg (n : Nat) (v : Word) (c : Crew) : Crew :=
  match n with
  | 0x006 => { c with fflags := v.setWidth 7 }
  | 0x007 => { c with fenable := v.setWidth 7 }
  | 0x008 => { c with prio := v.setWidth 2 }
  | 0x040 => { c with hpc := (c.hpc >>> 32).setWidth 32 ++ v }
  | 0x041 => { c with hpc := v ++ c.hpc.setWidth 32 }
  | 0x042 => { c with hmask := setMaskWord c.hmask 0 v }
  | 0x043 => { c with hmask := setMaskWord c.hmask 1 v }
  | 0x044 => { c with hmask := setMaskWord c.hmask 2 v }
  | _ => c

def bodyMfc (x : Ctx) (s : State) : Res := x.doneS s x.a.dst (readCreg x s (Opnd.number x.a.in1))

def bodyMtc (x : Ctx) (s : State) : Res := x.crewDone s (writeCreg (Opnd.number x.a.in1) (x.scalar x.a.in0))

/-- Value of a debug register (R114). -/
def Debug.read (d : Debug) (n : Nat) : Word :=
  match n with
  | 0x000 => d.ctl
  | 0x020 => d.wlo
  | 0x021 => d.whi
  | 0x022 => d.wctl
  | 0x030 => d.stat
  | n => d.bp.getD (n - 0x010) 0

def Debug.write (d : Debug) (n : Nat) (v : Word) : Debug :=
  match n with
  | 0x000 => { d with ctl := v &&& 7 }
  | 0x020 => { d with wlo := v }
  | 0x021 => { d with whi := v }
  | 0x022 => { d with wctl := v &&& 3 }
  | 0x030 => d
  | n => { d with bp := setAt d.bp (n - 0x010) (v &&& ~~~2) }
where
  setAt (xs : List Word) (i : Nat) (v : Word) : List Word := (List.range 4).map fun j => if j = i then v else xs.getD j 0

/-- Debug access is granted to the launch (R107, R396). -/
def Ctx.mayDebug (x : Ctx) (s : State) : Bool := match x.launch? s with | some l => l.dbg | none => false

def bodyDbgrd (x : Ctx) (s : State) : Res :=
  if !x.mayDebug s then .trap s { cause := .privilege } else x.doneS s x.a.dst (x.c.dbg.read (Opnd.number x.a.in1))

def bodyDbgwr (x : Ctx) (s : State) : Res :=
  if !x.mayDebug s then .trap s { cause := .privilege }
  else x.crewDone s fun c => { c with dbg := c.dbg.write (Opnd.number x.a.in1) (x.scalar x.a.in0) }

/-! ## Time, caches, counters, trace (R108, R111 to R116) -/

/-- CLKRD (R108). -/
def bodyClkrd (x : Ctx) (s : State) : Res :=
  if x.a.mod.getLsbD 0 then x.donePair s x.a.dst (BitVec.ofNat 64 (x.c.ranBefore + (s.ck - x.c.placed)))
  else if s.ckSkew.contains (dieOf x.core) then
    -- the die's counter is out of step until it is set again (R457)
    x.donePair { s with fresh := s.fresh + 1 } x.a.dst (Config.freeDword s.fresh)
  else x.donePair s x.a.dst (BitVec.ofNat 64 s.ck)

/-- IPREF (R111). -/
def bodyIpref (x : Ctx) (s : State) : Res :=
  match x.launch? s with
  | none => .done s
  | some l =>
    let first := x.target.toNat / 128
    .done ((List.range (x.a.mod.toNat % 8 + 1)).foldl (fun s i => s.prefetchCode x.core x.c.launch l (first + i)) s)

/-- ICINV (R112). -/
def bodyIcinv (x : Ctx) (s : State) : Res :=
  .done (s.modCore x.core fun c => { c with icache := c.icache.filter fun e => e.launch != x.c.launch })

/-- PMRD (R113, R116). -/
def bodyPmrd (x : Ctx) (s : State) : Res :=
  let n := (x.scalar x.a.in0).toNat
  let v : Word := if 7 < n then 0 else match (s.core x.core).perf.get? n with
    | some p => if p.launch = x.c.launch then p.count.setWidth 32 else 0
    | none => 0
  x.doneS s x.a.dst v

/-- TMARK (R113, R115): the record is made by the device, and the unit does not wait for it. -/
def bodyTmark (x : Ctx) (s : State) : Res :=
  match x.launch? s with
  | some l =>
    if l.trace && l.tset then
      .done (s.trace
        { launch := x.c.launch, tenant := l.tenant, part := l.part, index := x.c.index, block := x.c.block, bslot := x.bslot s, crew := x.k
          unit := x.u, pc := x.pc, base := l.tbase.toNat, len := l.tlen, ck := s.ck, value := some (x.scalar x.a.in0) })
    else .done s
  | none => .done s

/-! ## Queries (R117, R118) -/

/-- GRPQ (R117). -/
def bodyGrpq (x : Ctx) (s : State) : Res :=
  let g := (x.scalar x.a.in0).toNat % 256
  let v : Word := match x.launch? s with
    | none => 0
    | some l => match x.a.mod.toNat % 4 with
      | 0 => flagWord (l.groupHas g x.c.index)
      | 1 => wordOf (l.groupBelow g l.crewCount)
      | _ => if l.groupHas g x.c.index then wordOf (l.groupBelow g x.c.index) else 0xFFFFFFFF
  x.doneS s x.a.dst v

/-- SPALLQ (R118). -/
def bodySpallq (x : Ctx) (s : State) : Res :=
  let v := match x.a.mod.toNat % 4 with
    | 0 => x.c.units.length - 1
    | 1 => x.u
    | _ => x.c.outstanding x.u ((x.scalar x.a.in0).toNat % 16)
  x.doneS s x.a.dst (wordOf v)

/-! ## The instructions -/

def execNop (a : Args) (s : State) : Out := issue 0x00 a bodyNop s
def execBra (a : Args) (s : State) : Out := issue 0x01 a bodyBra s
def execBrc (a : Args) (s : State) : Out := issue 0x02 a bodyBrc s
def execBrx (a : Args) (s : State) : Out := issue 0x03 a bodyBrx s
def execJoin (a : Args) (s : State) : Out := issue 0x04 a bodyJoin s
def execCall (a : Args) (s : State) : Out := issue 0x05 a bodyCall s
def execCalli (a : Args) (s : State) : Out := issue 0x06 a bodyCalli s
def execRet (a : Args) (s : State) : Out := issue 0x07 a bodyRet s
def execJmpi (a : Args) (s : State) : Out := issue 0x08 a bodyJmpi s
def execLoop (a : Args) (s : State) : Out := issue 0x09 a bodyLoop s
def execExit (a : Args) (s : State) : Out := issue 0x0A a bodyExit s
def execSuspend (a : Args) (s : State) : Out := issue 0x0B a bodySuspend s
def execTrap (a : Args) (s : State) : Out := issue 0x0C a bodyTrap s
def execTret (a : Args) (s : State) : Out := issue 0x0D a bodyTret s
def execTwait (a : Args) (s : State) : Out := issue 0x0E a bodyTwait s
def execSetbnd (a : Args) (s : State) : Out := issue 0x0F a bodySetbnd s
def execMfc (a : Args) (s : State) : Out := issue 0x10 a bodyMfc s
def execMtc (a : Args) (s : State) : Out := issue 0x11 a bodyMtc s
def execClkrd (a : Args) (s : State) : Out := issue 0x12 a bodyClkrd s
def execDoze (a : Args) (s : State) : Out := issue 0x13 a bodyDoze s
def execYield (a : Args) (s : State) : Out := issue 0x14 a bodyYield s
def execBkpt (a : Args) (s : State) : Out := issue 0x15 a bodyBkpt s
def execTrapc (a : Args) (s : State) : Out := issue 0x16 a bodyTrapc s
def execIpref (a : Args) (s : State) : Out := issue 0x17 a bodyIpref s
def execIcinv (a : Args) (s : State) : Out := issue 0x18 a bodyIcinv s
def execPmrd (a : Args) (s : State) : Out := issue 0x19 a bodyPmrd s
def execTmark (a : Args) (s : State) : Out := issue 0x1A a bodyTmark s
def execGrpq (a : Args) (s : State) : Out := issue 0x1B a bodyGrpq s
def execSpallq (a : Args) (s : State) : Out := issue 0x1C a bodySpallq s
def execDbgrd (a : Args) (s : State) : Out := issue 0x1D a bodyDbgrd s
def execDbgwr (a : Args) (s : State) : Out := issue 0x1E a bodyDbgwr s
def execPrio (a : Args) (s : State) : Out := issue 0x1F a bodyPrio s

end Sys2Proof.Machine
end

