-- ==== Sys2Proof/Machine/Floats.lean ====
section
/-! DEFINITION. The floating-point and conversion lane instructions and the ternary unpack, opcodes 0x60 to 0x8B (R151 to R161). -/

namespace Sys2Proof.Machine

/-! ## Operands and results -/

/-- Lane l of an FP32 operand (R53): a small immediate is the value of its integer. -/
def Ctx.fword (x : Ctx) (o : Opnd) (l : Nat) : Nat :=
  match o with
  | .small i => (intToF32 0 i.toInt).1
  | o => (x.word o l).toNat

def Ctx.rnd (x : Ctx) : Nat := x.a.mod.toNat % 4
def Ctx.neg0 (x : Ctx) : Bool := x.a.mod.getLsbD 2
def Ctx.neg1 (x : Ctx) : Bool := x.a.mod.getLsbD 3
def Ctx.abs (x : Ctx) : Bool := x.a.mod.getLsbD 4

def negBits (b : Nat) : Nat := if 2 ^ 31 ≤ b then b - 2 ^ 31 else b + 2 ^ 31

/-- abs, then negation (R151). -/
def modified (abs neg : Bool) (b : Nat) : Nat :=
  let b := if abs then absBits b else b
  if neg then negBits b else b

def Ctx.fl0 (x : Ctx) (l : Nat) : Nat := modified x.abs x.neg0 (x.fword x.a.in0 l)
def Ctx.fl1 (x : Ctx) (l : Nat) : Nat := modified x.abs x.neg1 (x.fword x.a.in1 l)
/-- z is never modified (R151). -/
def Ctx.fl2 (x : Ctx) (l : Nat) : Nat := x.fword x.a.in2 l

/-- FSCALE's n: abs and negation as integers, exactly (R155). -/
def Ctx.scaleInt (x : Ctx) (l : Nat) : Int :=
  let n := (x.word x.a.in1 l).toInt
  let n := if x.abs then (n.natAbs : Int) else n
  if x.neg1 then -n else n

/-- A BF16 element of FDOT2, its sign modified (R157). -/
def bf16Element (abs neg : Bool) (w : Word) (i : Nat) : Fp :=
  let e := bits w.toNat (16 * i) 16
  let e := if abs then e % 2 ^ 15 else e
  bf16.decode (if neg then (if 2 ^ 15 ≤ e then e - 2 ^ 15 else e + 2 ^ 15) else e)

def Ctx.half0 (x : Ctx) (i l : Nat) : Fp := bf16Element x.abs x.neg0 (x.word x.a.in0 l) i
def Ctx.half1 (x : Ctx) (i l : Nat) : Fp := bf16Element x.abs x.neg1 (x.word x.a.in1 l) i

def ofF (r : FRes) : LaneRes := ⟨wordOf r.1, 0, r.2⟩

/-- The byte or half selector of a conversion: none means 0 (R159). -/
def Ctx.sel (x : Ctx) (top : Nat) : Nat := match x.a.in1 with | .small i => min top i.toNat | _ => 0

/-- Elements of x, and of y if named, converted to `w` bits each (R159). -/
def Ctx.pack2 (x : Ctx) (w : Nat) (f : Nat → FRes) (l : Nat) : LaneRes :=
  let (a, fa) := f (x.fword x.a.in0 l)
  let (b, fb) := if x.a.in1 = .none then (0, 0) else f (x.fword x.a.in1 l)
  ⟨wordOf (a + b * 2 ^ w), 0, fa ||| fb⟩

/-- Both BF16 halves of x, and of y if named, to bytes (R159). -/
def Ctx.pack4 (x : Ctx) (f : Nat → FRes) (l : Nat) : LaneRes :=
  let half (o : Opnd) (i : Nat) : FRes := if o = .none then (0, 0) else f (bits (x.word o l).toNat (16 * i) 16)
  let rs := [half x.a.in0 0, half x.a.in0 1, half x.a.in1 0, half x.a.in1 1]
  ⟨wordOf (rs.foldr (fun r acc => r.1 + 256 * acc) 0), 0, rs.foldl (fun acc r => acc ||| r.2) 0⟩

/-- CVT.I8.I32 (R27, R159). -/
def clampByte (sat : Bool) (w : Word) : LaneRes :=
  let (r, f) := narrow 8 sat false w.toInt
  ⟨BitVec.ofInt 32 (signed 8 r), 0, f⟩

/-- The byte selector of TUNPK (R161). -/
def Ctx.byteSel (x : Ctx) (l : Nat) : Nat := if x.a.in1 = .none then 0 else (x.word x.a.in1 l).toNat % 4

/-- Trit i of a packed byte, lowest digit first (R28). -/
def trit (b i : Nat) : Int := ((b / 3 ^ i % 3 : Nat) : Int) - 1

/-- The five trits of a byte as INT8, or zeros and TC for a reserved code (R28, R161). -/
def tunpk (b : Nat) : LaneRes :=
  if 242 < b then ⟨0, 0, flagTC⟩
  else
    let t (i : Nat) : Nat := wrap 8 (trit b i)
    ⟨wordOf (t 0 + 2 ^ 8 * t 1 + 2 ^ 16 * t 2 + 2 ^ 24 * t 3), wordOf (t 4), 0⟩

/-! ## The lane meanings -/

/-- FADD (R153). -/
def semFadd : LaneSem := perLane false fun x _ l => ofF (fAdd x.rnd (fp32.decode (x.fl0 l)) (fp32.decode (x.fl1 l)))
/-- FSUB: x + (-y), y negated exactly (R153). -/
def semFsub : LaneSem := perLane false fun x _ l => ofF (fAdd x.rnd (fp32.decode (x.fl0 l)) (fp32.decode (negBits (x.fl1 l))))
/-- FMUL (R153). -/
def semFmul : LaneSem := perLane false fun x _ l => ofF (fMul x.rnd (fp32.decode (x.fl0 l)) (fp32.decode (x.fl1 l)))
/-- FFMA, one rounding (R153). -/
def semFfma : LaneSem := perLane false fun x _ l => ofF (fFma x.rnd (fp32.decode (x.fl0 l)) (fp32.decode (x.fl1 l)) (fp32.decode (x.fl2 l)))
/-- FDIV (R153). -/
def semFdiv : LaneSem := perLane false fun x _ l => ofF (fDiv x.rnd (fp32.decode (x.fl0 l)) (fp32.decode (x.fl1 l)))
/-- FMIN (R154). -/
def semFmin : LaneSem := perLane false fun x _ l => ofF (fMinMax false (x.fl0 l) (x.fl1 l))
/-- FMAX (R154). -/
def semFmax : LaneSem := perLane false fun x _ l => ofF (fMinMax true (x.fl0 l) (x.fl1 l))
/-- FAMAX (R154). -/
def semFamax : LaneSem := perLane false fun x _ l => ofF (fMinMax true (absBits (x.fl0 l)) (absBits (x.fl1 l)))
/-- FCLMP (R153, R154). -/
def semFclmp : LaneSem := perLane false fun x _ l => ofF (fClamp (x.fl0 l) (x.fl1 l) (x.fl2 l))
/-- FRINT (R155). -/
def semFrint : LaneSem := perLane false fun x _ l => ofF (fRint x.rnd (x.fl0 l))
/-- FFRAC (R155). -/
def semFfrac : LaneSem := perLane false fun x _ l => ofF (fFrac x.rnd (x.fl0 l))
/-- FSCALE, n read as an integer (R155). -/
def semFscale : LaneSem := perLane false fun x _ l => ofF (fScale x.rnd (x.fl0 l) (x.scaleInt l))
/-- FGETX (R155). -/
def semFgetx : LaneSem := perLane false fun x _ l => ofF (fGetx (x.fl0 l))
/-- FCLASS; IV is never set (R155). -/
def semFclass : LaneSem := perLane false fun x _ l => .of (wordOf (fClass (x.fl0 l)))
/-- FCMP.EQ (R156). -/
def semFcmpEq : LaneSem := perLane false fun x _ l => ofF (fCmp 0 (x.fl0 l) (x.fl1 l))
/-- FCMP.NE (R156). -/
def semFcmpNe : LaneSem := perLane false fun x _ l => ofF (fCmp 1 (x.fl0 l) (x.fl1 l))
/-- FCMP.LT (R156). -/
def semFcmpLt : LaneSem := perLane false fun x _ l => ofF (fCmp 2 (x.fl0 l) (x.fl1 l))
/-- FCMP.LE (R156). -/
def semFcmpLe : LaneSem := perLane false fun x _ l => ofF (fCmp 3 (x.fl0 l) (x.fl1 l))
/-- FCMP.GT (R156). -/
def semFcmpGt : LaneSem := perLane false fun x _ l => ofF (fCmp 4 (x.fl0 l) (x.fl1 l))
/-- FCMP.GE (R156). -/
def semFcmpGe : LaneSem := perLane false fun x _ l => ofF (fCmp 5 (x.fl0 l) (x.fl1 l))
/-- FCMP.UN (R156). -/
def semFcmpUn : LaneSem := perLane false fun x _ l => ofF (fCmp 6 (x.fl0 l) (x.fl1 l))
/-- FDOT2 on BF16 elements, one rounding (R157). -/
def semFdot2 : LaneSem := perLane false fun x _ l => ofF (dotSum x.rnd [(x.half0 0 l, x.half1 0 l), (x.half0 1 l, x.half1 1 l)] [fp32.decode (x.fl2 l)])
/-- FCPYS: exact, no flag (R153). -/
def semFcpys : LaneSem := perLane false fun x _ l => .of (wordOf (absBits (x.fl0 l) + (x.fl1 l) / 2 ^ 31 * 2 ^ 31))
/-- RCP (R158). -/
def semRcp : LaneSem := perLane false fun x _ l => ofF (fRcp (fp32.decode (x.fl0 l)))
/-- RSQ (R158). -/
def semRsq : LaneSem := perLane false fun x _ l => ofF (fRsq (fp32.decode (x.fl0 l)))
/-- SQRT (R158). -/
def semSqrt : LaneSem := perLane false fun x _ l => ofF (fSqrt (fp32.decode (x.fl0 l)))
/-- EXP2 (R158). -/
def semExp2 : LaneSem := perLane false fun x _ l => ofF (fExp2 (fp32.decode (x.fl0 l)))
/-- LOG2 (R158). -/
def semLog2 : LaneSem := perLane false fun x _ l => ofF (fLog2 (fp32.decode (x.fl0 l)))
/-- SINPI (R158). -/
def semSinpi : LaneSem := perLane false fun x _ l => ofF (fSinpi (fp32.decode (x.fl0 l)))
/-- COSPI (R158). -/
def semCospi : LaneSem := perLane false fun x _ l => ofF (fCospi (fp32.decode (x.fl0 l)))
/-- TANH (R158). -/
def semTanh : LaneSem := perLane false fun x _ l => ofF (fTanh (fp32.decode (x.fl0 l)))
/-- CVT.F32.E4M3 (R159). -/
def semCvtF32E4m3 : LaneSem := perLane false fun x _ l => ofF (e4m3.toF32 (bits ((x.word x.a.in0 l).toNat) (8 * x.sel 3) 8))
/-- CVT.F32.BF16 (R159). -/
def semCvtF32Bf16 : LaneSem := perLane false fun x _ l => ofF (bf16.toF32 (bits ((x.word x.a.in0 l).toNat) (16 * x.sel 1) 16))
/-- CVT.F32.F16 (R159). -/
def semCvtF32F16 : LaneSem := perLane false fun x _ l => ofF (fp16.toF32 (bits ((x.word x.a.in0 l).toNat) (16 * x.sel 1) 16))
/-- CVT.BF16.F32 (R159). -/
def semCvtBf16F32 : LaneSem := perLane false fun x _ l => x.pack2 16 (bf16.ofF32 x.rnd) l
/-- CVT.F16.F32 (R159). -/
def semCvtF16F32 : LaneSem := perLane false fun x _ l => x.pack2 16 (fp16.ofF32 x.rnd) l
/-- CVT.E4M3.F32 (R159). -/
def semCvtE4m3F32 : LaneSem := perLane false fun x _ l => x.pack2 8 (e4m3.ofF32 x.rnd) l
/-- CVT.E4M3.BF16 (R159, R160). -/
def semCvtE4m3Bf16 : LaneSem := perLane false fun x _ l => x.pack4 (bf16ToE4m3 x.rnd) l
/-- CVT.I32.F32 (R34, R159). -/
def semCvtI32F32 : LaneSem := perLane false fun x _ l => ofF (f32ToInt 32 x.rnd (x.fword x.a.in0 l))
/-- CVT.I8.F32, sign-extended (R34, R159). -/
def semCvtI8F32 : LaneSem := perLane false fun x _ l => ofF (f32ToInt 8 x.rnd (x.fword x.a.in0 l))
/-- CVT.F32.I32 (R159). -/
def semCvtF32I32 : LaneSem := perLane false fun x _ l => ofF (intToF32 x.rnd (x.word x.a.in0 l).toInt)
/-- CVT.F32.I8 (R159). -/
def semCvtF32I8 : LaneSem := perLane false fun x _ l => ofF (intToF32 0 (signed 8 (bits ((x.word x.a.in0 l).toNat) (8 * x.sel 3) 8)))
/-- CVT.I8.I32 (R27, R159). -/
def semCvtI8I32 : LaneSem := perLane false fun x _ l => clampByte (x.a.mod.getLsbD 2) (x.word x.a.in0 l)
/-- TUNPK (R28, R161). -/
def semTunpk : LaneSem := perLane true fun x _ l => tunpk (bits ((x.word x.a.in0 l).toNat) (8 * x.byteSel l) 8)

/-! ## The instructions -/

def execFadd (a : Args) (s : State) : Out := issue 0x60 a (fixedLane semFadd) s
def execFsub (a : Args) (s : State) : Out := issue 0x61 a (fixedLane semFsub) s
def execFmul (a : Args) (s : State) : Out := issue 0x62 a (fixedLane semFmul) s
def execFfma (a : Args) (s : State) : Out := issue 0x63 a (fixedLane semFfma) s
def execFdiv (a : Args) (s : State) : Out := issue 0x64 a (variableLane semFdiv) s
def execFmin (a : Args) (s : State) : Out := issue 0x65 a (fixedLane semFmin) s
def execFmax (a : Args) (s : State) : Out := issue 0x66 a (fixedLane semFmax) s
def execFamax (a : Args) (s : State) : Out := issue 0x67 a (fixedLane semFamax) s
def execFclmp (a : Args) (s : State) : Out := issue 0x68 a (fixedLane semFclmp) s
def execFrint (a : Args) (s : State) : Out := issue 0x69 a (fixedLane semFrint) s
def execFfrac (a : Args) (s : State) : Out := issue 0x6A a (fixedLane semFfrac) s
def execFscale (a : Args) (s : State) : Out := issue 0x6B a (fixedLane semFscale) s
def execFgetx (a : Args) (s : State) : Out := issue 0x6C a (fixedLane semFgetx) s
def execFclass (a : Args) (s : State) : Out := issue 0x6D a (fixedLane semFclass) s
def execFcmpEq (a : Args) (s : State) : Out := issue 0x6E a (fixedLane semFcmpEq) s
def execFcmpNe (a : Args) (s : State) : Out := issue 0x6F a (fixedLane semFcmpNe) s
def execFcmpLt (a : Args) (s : State) : Out := issue 0x70 a (fixedLane semFcmpLt) s
def execFcmpLe (a : Args) (s : State) : Out := issue 0x71 a (fixedLane semFcmpLe) s
def execFcmpGt (a : Args) (s : State) : Out := issue 0x72 a (fixedLane semFcmpGt) s
def execFcmpGe (a : Args) (s : State) : Out := issue 0x73 a (fixedLane semFcmpGe) s
def execFcmpUn (a : Args) (s : State) : Out := issue 0x74 a (fixedLane semFcmpUn) s
def execFdot2 (a : Args) (s : State) : Out := issue 0x75 a (fixedLane semFdot2) s
def execFcpys (a : Args) (s : State) : Out := issue 0x76 a (fixedLane semFcpys) s
def execRcp (a : Args) (s : State) : Out := issue 0x77 a (variableLane semRcp) s
def execRsq (a : Args) (s : State) : Out := issue 0x78 a (variableLane semRsq) s
def execSqrt (a : Args) (s : State) : Out := issue 0x79 a (variableLane semSqrt) s
def execExp2 (a : Args) (s : State) : Out := issue 0x7A a (variableLane semExp2) s
def execLog2 (a : Args) (s : State) : Out := issue 0x7B a (variableLane semLog2) s
def execSinpi (a : Args) (s : State) : Out := issue 0x7C a (variableLane semSinpi) s
def execCospi (a : Args) (s : State) : Out := issue 0x7D a (variableLane semCospi) s
def execTanh (a : Args) (s : State) : Out := issue 0x7E a (variableLane semTanh) s
def execCvtF32E4m3 (a : Args) (s : State) : Out := issue 0x7F a (fixedLane semCvtF32E4m3) s
def execCvtF32Bf16 (a : Args) (s : State) : Out := issue 0x80 a (fixedLane semCvtF32Bf16) s
def execCvtF32F16 (a : Args) (s : State) : Out := issue 0x81 a (fixedLane semCvtF32F16) s
def execCvtBf16F32 (a : Args) (s : State) : Out := issue 0x82 a (fixedLane semCvtBf16F32) s
def execCvtF16F32 (a : Args) (s : State) : Out := issue 0x83 a (fixedLane semCvtF16F32) s
def execCvtE4m3F32 (a : Args) (s : State) : Out := issue 0x84 a (fixedLane semCvtE4m3F32) s
def execCvtE4m3Bf16 (a : Args) (s : State) : Out := issue 0x85 a (fixedLane semCvtE4m3Bf16) s
def execCvtI32F32 (a : Args) (s : State) : Out := issue 0x86 a (fixedLane semCvtI32F32) s
def execCvtI8F32 (a : Args) (s : State) : Out := issue 0x87 a (fixedLane semCvtI8F32) s
def execCvtF32I32 (a : Args) (s : State) : Out := issue 0x88 a (fixedLane semCvtF32I32) s
def execCvtF32I8 (a : Args) (s : State) : Out := issue 0x89 a (fixedLane semCvtF32I8) s
def execCvtI8I32 (a : Args) (s : State) : Out := issue 0x8A a (fixedLane semCvtI8I32) s
def execTunpk (a : Args) (s : State) : Out := issue 0x8B a (fixedLane semTunpk) s

/-- The lane meanings of opcodes 0x60 to 0x8B, in order (R66). -/
def floatSems : List LaneSem := [
  semFadd, semFsub, semFmul, semFfma, semFdiv, semFmin, semFmax, semFamax, semFclmp, semFrint, semFfrac, semFscale,
  semFgetx, semFclass, semFcmpEq, semFcmpNe, semFcmpLt, semFcmpLe, semFcmpGt, semFcmpGe, semFcmpUn, semFdot2,
  semFcpys, semRcp, semRsq, semSqrt, semExp2, semLog2, semSinpi, semCospi, semTanh, semCvtF32E4m3, semCvtF32Bf16,
  semCvtF32F16, semCvtBf16F32, semCvtF16F32, semCvtE4m3F32, semCvtE4m3Bf16, semCvtI32F32, semCvtI8F32, semCvtF32I32,
  semCvtF32I8, semCvtI8I32, semTunpk]

end Sys2Proof.Machine
end

