-- ==== Sys2Proof/Machine/CrossLane.lean ====
section
/-! DEFINITION. The cross-lane instructions, opcodes 0x8C to 0x9F (R162 to R168). -/

namespace Sys2Proof.Machine

/-- Active lanes of the issuing unit, ascending. -/
def Ctx.active (x : Ctx) : List Nat := (List.range laneCount).filter fun l => x.h.mask.getLsbD l

def Ctx.act (x : Ctx) (l : Nat) : Bool := x.h.mask.getLsbD l

/-- A vector result in the active lanes. -/
def Ctx.outVec (x : Ctx) (f : Nat → Word) (fl : BitVec 7) : LaneOut := ⟨[⟨x.a.dst, x.h.mask, lanesOf f⟩], fl⟩

/-- One result: to every active lane of a vector destination, or to the scalar one whatever the mask (R162, R166). -/
def Ctx.outOne (x : Ctx) (v : Word) (fl : BitVec 7) : LaneOut := ⟨[⟨x.a.dst, x.h.mask, lanesOf fun _ => v⟩], fl⟩

/-- Lane j of x; a lane out of range reads 0 (R164). -/
def Ctx.pull (x : Ctx) (j : Nat) : Word := if j < laneCount then x.word x.a.in0 j else 0

/-! ## Pulls and pushes (R164, R165) -/

/-- VGET (R164). -/
def semVget : LaneSem := fun x _ => x.outVec (fun l => x.pull (x.word x.a.in1 l).toNat) 0

/-- VROT (R164). -/
def semVrot : LaneSem := fun x _ =>
  let n := (x.scalar x.a.in1).toInt
  x.outVec (fun l => x.pull (((l : Int) + n) % 96).toNat) 0

/-- VSLIDE, the fill f before and after x (R164). -/
def semVslide : LaneSem := fun x _ =>
  let n := (x.scalar x.a.in1).toInt
  x.outVec (fun l =>
    let j := (l : Int) + n
    if 0 ≤ j ∧ j ≤ 95 then x.word x.a.in0 j.toNat
    else if 96 ≤ j ∧ j ≤ 191 then x.word x.a.in2 (j - 96).toNat
    else if -96 ≤ j ∧ j ≤ -1 then x.word x.a.in2 (j + 96).toNat
    else 0) 0

/-- VBCAST (R164). -/
def semVbcast : LaneSem := fun x _ => x.outOne (x.pull (x.scalar x.a.in1).toNat) 0

/-- The highest active lane that pushes to lane d (R165). -/
def Ctx.pusher (x : Ctx) (d : Nat) : Option Nat := x.active.reverse.find? fun l => (x.word x.a.in1 l).toNat == d

/-- VPUT: lanes that no push reaches keep their value (R165). -/
def semVput : LaneSem := fun x _ =>
  let m : Mask := BitVec.ofFnLE fun d : Fin 96 => x.act d && (x.pusher d).isSome
  ⟨[⟨x.a.dst, m, lanesOf fun d => match x.pusher d with | some l => x.word x.a.in0 l | none => 0⟩], 0⟩

/-! ## Votes, match, reductions (R166) -/

/-- VOTE.ALL (R166). -/
def semVoteAll : LaneSem := fun x _ => x.outOne (flagWord (x.active.all fun l => x.word x.a.in0 l != 0)) 0

/-- VOTE.ANY (R166). -/
def semVoteAny : LaneSem := fun x _ => x.outOne (flagWord (x.active.any fun l => x.word x.a.in0 l != 0)) 0

/-- BALLOT (R166). -/
def semBallot : LaneSem := fun x _ =>
  ⟨writeTriple x.a.dst (BitVec.ofFnLE fun l : Fin 96 => x.act l && x.word x.a.in0 l != 0), 0⟩

/-- VMATCH: the lowest matching lane, or the number of distinct values (R166). -/
def semVmatch : LaneSem := fun x _ =>
  if x.a.dst.isS then x.outOne (wordOf ((x.active.map fun l => x.word x.a.in0 l).eraseDups.length)) 0
  else x.outVec (fun l => wordOf ((x.active.find? fun j => x.word x.a.in0 j == x.word x.a.in0 l).getD l)) 0

/-- The integers of the active lanes under u. -/
def Ctx.activeInts (x : Ctx) : List Int := x.active.map x.int0

/-- Largest and smallest value of the reading that u selects. -/
def intTop (unsig : Bool) : Int := if unsig then 2 ^ 32 - 1 else 2 ^ 31 - 1
def intBottom (unsig : Bool) : Int := if unsig then 0 else -(2 ^ 31)

/-- LRED.IADD: the exact sum, narrowed (R131, R166). -/
def semLredIadd : LaneSem := fun x _ => let r := narrowed x x.activeInts.sum; x.outOne r.lo r.fl

/-- LRED.IMIN (R166). -/
def semLredImin : LaneSem := fun x _ => x.outOne (BitVec.ofInt 32 (x.activeInts.foldl min (intTop x.uns))) 0

/-- LRED.IMAX (R166). -/
def semLredImax : LaneSem := fun x _ => x.outOne (BitVec.ofInt 32 (x.activeInts.foldl max (intBottom x.uns))) 0

/-- FP32 bits of the active lanes among `ls`. -/
def Ctx.floats (x : Ctx) (ls : List Nat) : List Nat := ls.map fun l => x.fword x.a.in0 l

/-- The exact sum rounded once; an empty one is +0, and infinities of both signs are invalid (R166, R167). Its zero sign is log 7's. -/
def sumFloats (rnd : Nat) (xs : List Nat) : FRes :=
  let vs := xs.map fp32.decode
  if xs.isEmpty then (0, 0) else if opposed vs then fp32.invalid else if anyNan vs then fp32.quiet (anySig vs) else fp32.roundSum rnd vs

/-- LRED.FADD (R166). -/
def semLredFadd : LaneSem := fun x _ => let r := sumFloats x.rnd (x.floats x.active); x.outOne (wordOf r.1) r.2

/-- The fold of FMIN or FMAX; a NaN result is canonical (R152, R154, R166). -/
def foldMinMax (max : Bool) : List Nat → FRes
  | [] => (fp32.infinity max, 0)
  | b :: bs =>
    let r := bs.foldl (fun acc y => (fMinMax max acc y).1) b
    (if (fp32.decode r).isNan then fp32.nan else r, flagIf (anySig ((b :: bs).map fp32.decode)) flagIV)

/-- LRED.FMIN (R166). -/
def semLredFmin : LaneSem := fun x _ => let r := foldMinMax false (x.floats x.active); x.outOne (wordOf r.1) r.2

/-- LRED.FMAX (R166). -/
def semLredFmax : LaneSem := fun x _ => let r := foldMinMax true (x.floats x.active); x.outOne (wordOf r.1) r.2

/-- LRED.OR (R166). -/
def semLredOr : LaneSem := fun x _ => x.outOne (x.active.foldl (fun acc l => acc ||| x.word x.a.in0 l) 0) 0

/-! ## Scans and squeeze (R167, R168) -/

/-- P(L): active lanes up to L, or before it with e. -/
def Ctx.before (x : Ctx) (l : Nat) : List Nat := x.active.filter fun j => decide (if x.a.mod.getLsbD 2 then j < l else j ≤ l)

/-- One output a lane, flags of all active ones. -/
def Ctx.scan (x : Ctx) (f : List Nat → LaneRes) : LaneOut :=
  x.outVec (fun l => if x.act l then (f (x.before l)).lo else 0) (laneFlags x.h.mask fun l => (f (x.before l)).fl)

/-- SCAN.IADD (R167). -/
def semScanIadd : LaneSem := fun x _ => x.scan fun ls => narrowed x (ls.map x.int0).sum

/-- SCAN.FADD (R167). -/
def semScanFadd : LaneSem := fun x _ => x.scan fun ls => ofF (sumFloats x.rnd (x.floats ls))

/-- SCAN.IMAX (R167). -/
def semScanImax : LaneSem := fun x _ => x.scan fun ls => ofInt ((ls.map x.int0).foldl max (intBottom x.uns))

/-- VSQZ: the m-th active lane takes the m-th selected value, or its fill (R168). -/
def semVsqz : LaneSem := fun x _ =>
  let chosen := x.active.filter fun l => x.word x.a.in1 l != 0
  x.outVec (fun l =>
    let m := (x.active.filter fun j => decide (j < l)).length
    match chosen[m]? with
    | some j => x.word x.a.in0 j
    | none => x.word x.a.in2 l) 0

/-! ## The instructions -/

def execVget (a : Args) (s : State) : Out := issue 0x8C a (variableLane semVget) s
def execVput (a : Args) (s : State) : Out := issue 0x8D a (variableLane semVput) s
def execVrot (a : Args) (s : State) : Out := issue 0x8E a (variableLane semVrot) s
def execVslide (a : Args) (s : State) : Out := issue 0x8F a (variableLane semVslide) s
def execVbcast (a : Args) (s : State) : Out := issue 0x90 a (variableLane semVbcast) s
def execVoteAll (a : Args) (s : State) : Out := issue 0x91 a (variableLane semVoteAll) s
def execVoteAny (a : Args) (s : State) : Out := issue 0x92 a (variableLane semVoteAny) s
def execBallot (a : Args) (s : State) : Out := issue 0x93 a (variableLane semBallot) s
def execVmatch (a : Args) (s : State) : Out := issue 0x94 a (variableLane semVmatch) s
def execLredIadd (a : Args) (s : State) : Out := issue 0x95 a (variableLane semLredIadd) s
def execLredImin (a : Args) (s : State) : Out := issue 0x96 a (variableLane semLredImin) s
def execLredImax (a : Args) (s : State) : Out := issue 0x97 a (variableLane semLredImax) s
def execLredFadd (a : Args) (s : State) : Out := issue 0x98 a (variableLane semLredFadd) s
def execLredFmin (a : Args) (s : State) : Out := issue 0x99 a (variableLane semLredFmin) s
def execLredFmax (a : Args) (s : State) : Out := issue 0x9A a (variableLane semLredFmax) s
def execLredOr (a : Args) (s : State) : Out := issue 0x9B a (variableLane semLredOr) s
def execScanIadd (a : Args) (s : State) : Out := issue 0x9C a (variableLane semScanIadd) s
def execScanFadd (a : Args) (s : State) : Out := issue 0x9D a (variableLane semScanFadd) s
def execScanImax (a : Args) (s : State) : Out := issue 0x9E a (variableLane semScanImax) s
def execVsqz (a : Args) (s : State) : Out := issue 0x9F a (variableLane semVsqz) s

/-- The lane meanings of opcodes 0x8C to 0x9F, in order (R66). -/
def crossSems : List LaneSem := [
  semVget, semVput, semVrot, semVslide, semVbcast, semVoteAll, semVoteAny, semBallot, semVmatch, semLredIadd, semLredImin,
  semLredImax, semLredFadd, semLredFmin, semLredFmax, semLredOr, semScanIadd, semScanFadd, semScanImax, semVsqz]

end Sys2Proof.Machine
end

