-- ==== Sys2Proof/Machine/Memory.lean ====
section
/-! DEFINITION. The memory instructions of 12_ordering: loads, stores, atomics, fences, WAITADDR and the cache operations, opcodes 0xA0
to 0xA5, 0xAC to 0xB3 and 0xB6 to 0xB8 (R306 to R318), with the loads and stores of capsule mode (R355, R356). -/

namespace Sys2Proof.Machine

/-! ## Lanes and addresses (R306, R307) -/

/-- a := (base pair of lane L + sext64(imm)) mod 2^64. -/
def Ctx.addr (x : Ctx) (l : Nat) : Nat := (x.dword x.a.in0 true l + x.a.imm.signExtend 64).toNat

/-- A memory access of one lane: lane number (0x7F for a scalar-shaped one) and virtual address. -/
structure Acc where
  lane : Nat
  va : Nat
  deriving DecidableEq, Repr

/-- Accesses of a vector-shaped instruction's active lanes, or the one of a scalar-shaped one (R126). -/
def Ctx.accs (x : Ctx) (vec : Bool) : List Acc :=
  if vec then x.active.map fun l => ⟨l, x.addr l⟩ else [⟨0x7F, x.addr 0⟩]

/-- Accesses of a load: a vector destination with a scalar base makes one access, whose value is broadcast (R308). -/
def Ctx.loadAccs (x : Ctx) : List Acc :=
  if x.a.dst.isS then [⟨0x7F, x.addr 0⟩]
  else if x.a.in0.isS then (if x.active.isEmpty then [] else [⟨0x7F, x.addr 0⟩])
  else x.accs true

/-- The lane whose operands an access reads. -/
def Acc.src (a : Acc) : Nat := if a.lane = 0x7F then 0 else a.lane

/-- The address checks of R307, over all lanes: alignment, then range. -/
def addrTrap (e slot : Nat) (as : List Acc) : Option Trap :=
  match as.find? fun a => a.va % e != 0 with
  | some a => some { cause := .misalignedAddress, addr := a.va, lane := a.lane, slot := slot }
  | none => (as.find? fun a => decide (2 ^ 56 ≤ a.va)).map fun a =>
      { cause := .addressRange, addr := a.va, lane := a.lane, slot := slot }

/-- What an access answers where its translation gives none: a fault, or a wait for a table entry's line (R328, R347). -/
def XlFault.res (f : XlFault) (s : State) (va lane slot : Nat) (wr : Bool) : Res :=
  match f.waits? with
  | some n => .stall (.line n)
  | none => .trap s (f.trap va lane slot wr)

/-- Translates every lane before any is performed (R307, R328); the lowest faulting lane is reported. -/
def State.xlateAll (s : State) (core part slot : Nat) (wr load : Bool) : List Acc → Except Res (List (Acc × Xl) × State)
  | [] => .ok ([], s)
  | a :: as => match s.translate core part a.va wr false load with
    | .error f => .error (f.res (s.forget core part a.va) a.va a.lane slot wr)
    | .ok (x, s) => match s.xlateAll core part slot wr load as with
      | .error e => .error e
      | .ok (xs, s) => .ok ((a, x) :: xs, s)

/-- Partition through whose tables the crew's addresses go. -/
def Ctx.part (x : Ctx) (s : State) : Nat := s.partOf x.c

/-- The data watch (R114): the trap comes at the unit's next instruction. -/
def Ctx.watch (x : Ctx) (s : State) (as : List Acc) (bit : Nat) : State :=
  let d := x.c.dbg
  let line := (d.whi ++ d.wlo).toNat / 128
  if d.ctl.getLsbD 2 && d.wctl.getLsbD bit && as.any (fun a => a.va / 128 == line) then
    s.modUnit x.k x.u fun h => { h with debugStops := [.watch] }
  else s

/-! ## Elements (R188) -/

/-- The bytes that a store's source gives in a lane: its low bytes, a group's words, or a constant sign-extended (R188). -/
def Ctx.sourceBytes (x : Ctx) (o : Opnd) (size l : Nat) : List Byte :=
  let n := sizeBytes size
  if o.isReg && 4 < n then (List.range (n / 4)).flatMap fun j => leBytes 4 (x.word (Opnd.next o j) l).toNat
  else leBytes n (wrap (8 * n) (x.word o l).toInt)

/-- The result of a load: `val` gives the bytes of an access. -/
def Ctx.loadWrites (x : Ctx) (size : Nat) (val : Nat → List Byte) : List RegWrite :=
  (List.range (sizeRegs size)).map fun j =>
    if x.a.dst.isS then ⟨Opnd.next x.a.dst j, 0, [elementWord size (val 0) j]⟩
    else ⟨Opnd.next x.a.dst j, x.h.mask, lanesOf fun l => elementWord size (val l) j⟩

/-- Bytes by lane of the accesses performed; a lone access serves every lane. -/
def laneBytes (vs : List (Acc × List Byte)) (l : Nat) : List Byte :=
  match vs with
  | [(a, b)] => if a.lane = 0x7F ∨ a.lane = l then b else []
  | vs => ((vs.find? fun v => v.1.lane == l).map (·.2)).getD []

/-! ## Tokens (R203) -/

def Ctx.tok? (x : Ctx) : Option Nat := if x.a.tv then some x.a.tok.toNat else none

def Crew.raiseToken (c : Crew) (t : Option Nat) : Crew :=
  match t with | some n => { c with tokens := c.tokens.put n (c.tokens.getD n 0 + 1) } | none => c

/-- Puts a register result on its way, with the token that falls when it returns. -/
def Ctx.result (x : Ctx) (s : State) (ws : List RegWrite) (ldc : Bool) : State :=
  s.modCrew x.k fun c => (c.raiseToken x.tok?).addResult
    { id := 0, due := s.ck + 1, unit := x.u, writes := ws, flags := 0, parts := 0, ldc := ldc, tok := x.tok? }

/-! ## What precedes every access -/

/-- Pieces of an earlier store still wait for the buffer (R302). -/
def Ctx.piecesWait (x : Ctx) : Bool := !x.c.pieces.isEmpty

/-- The first line that an access must wait for (R334, R346, R347). -/
def Ctx.heldLine (x : Ctx) (s : State) (xs : List (Acc × Xl)) : Option Nat :=
  (xs.find? fun e => s.lineStop x.k x.u (e.2.pa / 128) (s.l1Hit x.core (e.2.pa / 128) false) x.h).map fun e => e.2.pa / 128

/-- Checks and translates the accesses of an instruction of element size e (R307, R318); `go` runs once nothing stands in the way. -/
def Ctx.access (x : Ctx) (s : State) (e : Nat) (wr load : Bool) (as : List Acc) (go : List (Acc × Xl) → State → Res) : Res :=
  if x.piecesWait then .stall .storeRoom
  else if !x.scopeOk s then .trap s x.scopeTrap
  else match addrTrap e 2 as with
    | some t => .trap s t
    | none => match s.xlateAll x.core (x.part s) 2 wr load as with
      | .error r => r
      | .ok (xs, s) => go xs s

/-! ## Loads (R308) -/

/-- An L1 data load of whose lines one is not in the L1 counts once (R116, R331). -/
def Ctx.missAll (x : Ctx) (s : State) (xs : List (Acc × Xl)) : State :=
  let miss := xs.any fun e => ((s.core x.core).l1.get? (e.2.pa / 128)).isNone
  xs.foldl (fun s e => s.missLine x.core x.c.launch (e.2.pa / 128) e.2.key) (if miss then s.perf x.core x.c.launch 8 1 else s)

/-- A load's value is fixed at issue (log 3). -/
def loadAs (as : Ctx → List Acc) (x : Ctx) (s : State) : Res :=
  let n := sizeBytes x.a.size
  x.access s n false true (as x) fun xs s =>
    match x.heldLine s xs with
    | some l => .stall (.line l)
    | none =>
      if xs.any (fun e => e.2.kind == 1) && s.strongBusy x.c then .stall .strong
      else
        let vs := xs.map fun e => (e.1, s.loadBytes x.c e.2.key e.2.pa n)
        let s := x.missAll s xs
        .done (x.result (x.watch s (as x) 0) (x.loadWrites x.a.size (laneBytes vs)) false)

/-- LDB: lane L reads the L-th element from the base (R308). -/
def Ctx.blockAccs (x : Ctx) : List Acc :=
  x.active.map fun l => ⟨l, (x.dword x.a.in0 true 0 + x.a.imm.signExtend 64 + BitVec.ofNat 64 (l * sizeBytes x.a.size)).toNat⟩

/-- A line of the core's constant cache, as a launch reads it: it was filled by a load of the same launch, so it is no older than the
launch's admission (R309). -/
def Core.constLine (c : Core) (launch vline : Nat) : Option ConstLine := c.ccache.find? fun e => e.launch == launch && e.vline == vline

/-- Brings the lines of an LDC that the constant cache lacks; the oldest of 512 makes way (R11). -/
def State.fillConst (s : State) (core launch : Nat) : List (Acc × Xl) → State
  | [] => s
  | (a, x) :: t =>
    let v := a.va / 128
    let s := if ((s.core core).constLine launch v).isSome then s
      else
        let line : ConstLine := { launch := launch, vline := v, bytes := s.readBytes x.key (x.pa / 128 * 128) 128 }
        s.modCore core fun c => { c with ccache := (line :: c.ccache).take constLines }
    s.fillConst core launch t

/-- LDC through the constant cache (R309). -/
def bodyLdc (x : Ctx) (s : State) : Res :=
  let n := sizeBytes x.a.size
  let as := x.loadAccs
  x.access s n false true as fun xs s =>
    let p := x.c.launch
    let missing := xs.filter fun e => ((s.core x.core).constLine p (e.1.va / 128)).isNone
    match x.heldLine s missing with
    | some l => .stall (.line l)
    | none =>
      let s' := s.fillConst x.core p xs
      let vs := xs.map fun e => (e.1, match ((s.core x.core).constLine p (e.1.va / 128)).or ((s'.core x.core).constLine p (e.1.va / 128)) with
        | some line => (line.bytes.drop (e.1.va % 128)).take n
        | none => [])
      .done (x.result (x.watch s' as 0) (x.loadWrites x.a.size (laneBytes vs)) true)

/-! ## Stores (R302, R308) -/

/-- Pieces of a store in ascending lane order. A release on a UN page counts as RC (R300). -/
def Ctx.storePieces (x : Ctx) (rel : Bool) (id : Nat) (xs : List (Acc × Xl)) : List StoreEntry :=
  xs.map fun e =>
    let bs := x.sourceBytes x.a.in1 x.a.size e.1.src
    { line := e.2.pa / 128, key := e.2.key, kind := if rel && e.2.kind == 2 then 0 else e.2.kind, scope := x.a.scope.toNat, rel := rel
      bytes := (bs.zipIdx).map fun b => (e.2.pa % 128 + b.2, b.1), ids := [id], old := false }

/-- ST and ST.REL (R302, R308): the pieces enter the buffer in order as entries free. -/
def storeBody (rel : Bool) (x : Ctx) (s : State) : Res :=
  let as := x.accs (isVector 0xA1 x.a)
  if storeEntries ≤ x.c.sbuf.length then .stall .storeRoom
  else x.access s (sizeBytes x.a.size) true false as fun xs s =>
    let s := x.watch s as 1
    let s := s.modCrew x.k fun c =>
      let id := c.nextId
      let c := { c.raiseToken x.tok? with nextId := id + 1 }
      let c := match x.tok? with
        | some t => { c with storeToks := c.storeToks.put id ⟨t, x.a.scope.toNat⟩ }
        | none => c
      enterPieces c (x.storePieces rel id xs)
    .done (s.settleTokens x.c.launch x.c.name)

/-! ## Capsule mode (R355 to R357) -/

/-- The whole access lies in lines of the lease set (R355). -/
def Ctx.inLeases (x : Ctx) (va : Nat) : Bool := x.c.leases.any fun l => l.vline == va / 128

/-- LD of capsule mode: the step write buffer's bytes before the line's (R356); a displaced holder reads zero (R357). Its causes stand in
the order of R366. -/
def capsuleLoad (x : Ctx) (s : State) : Res :=
  let n := sizeBytes x.a.size
  let a : Acc := ⟨0x7F, x.addr 0⟩
  match addrTrap n 2 (x.loadAccs) with
  | some t => .trap s t
  | none =>
    if x.capsuleFault 0xA0 then .trap s x.capsuleTrap
    else if x.c.cap.role = .displaced then .done (x.result s (x.loadWrites x.a.size fun _ => leBytes n 0) false)
    else if !x.inLeases a.va then .trap s x.capsuleTrap
    else match s.xlateAll x.core (x.part s) 2 false true [a] with
        | .error r => r
        | .ok (xs, s) =>
          match x.heldLine s xs with
          | some l => .stall (.line l)
          | none =>
            let bs := xs.flatMap fun e => (List.range n).map fun i =>
              (x.c.cap.wbuf.get? (e.2.pa + i)).getD ((s.loadBytes x.c e.2.key (e.2.pa + i) 1).headD 0)
            .done (x.result (x.watch s [a] 0) (x.loadWrites x.a.size fun _ => bs) false)

/-- ST of capsule mode writes the step write buffer (R356); a displaced holder's is discarded (R357). -/
def capsuleStore (x : Ctx) (s : State) : Res :=
  let a : Acc := ⟨0x7F, x.addr 0⟩
  match addrTrap (sizeBytes x.a.size) 2 (x.accs (isVector 0xA1 x.a)) with
  | some t => .trap s t
  | none =>
    if x.capsuleFault 0xA1 then .trap s x.capsuleTrap
    else if x.c.cap.role = .displaced then .done s
    else if !x.inLeases a.va then .trap s x.capsuleTrap
    else match s.xlateAll x.core (x.part s) 2 true false [a] with
        | .error r => r
        | .ok (xs, s) =>
          let s := x.watch s [a] 1
          x.crewDone s fun c => xs.foldl (fun c e =>
            let bs := x.sourceBytes x.a.in1 x.a.size 0
            let cap := { c.cap with
              wbuf := bs.zipIdx.foldl (fun t b => Table.put t (e.2.pa + b.2) b.1) c.cap.wbuf
              wlines := c.cap.wlines.put (e.2.pa / 128) e.2.key }
            { c with cap := cap }) c

def bodyLd (x : Ctx) (s : State) : Res := if x.c.cap.mode then capsuleLoad x s else loadAs Ctx.loadAccs x s
def bodySt (x : Ctx) (s : State) : Res := if x.c.cap.mode then capsuleStore x s else storeBody false x s

/-! ## Atomics (R311, R312, R345) -/

/-- The value of an operand as one w-bit word of the atomic (R311): a pair for 8 B. -/
def Ctx.atomWord (x : Ctx) (o : Opnd) (wide : Bool) (l : Nat) : Nat :=
  if wide then leNat (x.sourceBytes o 5 l) else (x.word o l).toNat

/-- Lines that an instruction needs owned, each with its key slot, in ascending order. -/
def linesOf (xs : List (Acc × Xl)) : Table Nat := xs.foldl (fun t e => Table.put t (e.2.pa / 128) e.2.key) []

/-- The L1 of the crew's core is to hold lines in E or M (R345, R353, R363): the first that it does not own is requested, and the instruction
is executed again once it has it; an own line that another agent holds is waited for. -/
def Ctx.obtain (x : Ctx) (s : State) (ls : Table Nat) (go : State → Res) : Res :=
  match ls.find? fun e => !s.owns x.core e.1 with
  | some e => .again (s.askBank x.core x.c.launch e.1 e.2 true) (.owner e.1 (ls.map (·.1)))
  | none => match ls.find? fun e => s.lineHeld e.1 (some x.k) with
    | some e => .stall (.line e.1)
    | none => go s

/-- One lane's read-modify-write, performed at every scope at once (R311, R345). -/
def State.rmw (s : State) (core n : Nat) (x : Xl) (f : Nat → Nat × BitVec 7) : Nat × BitVec 7 × State :=
  let old := leNat (s.readBytes x.key x.pa n)
  let (new, fl) := f old
  let s := s.ownLine core (x.pa / 128) x.key
  (old, fl, s.perform x.key x.pa (leBytes n new))

/-- All lanes in ascending order; olds by access, and the flags. -/
def State.rmwAll (s : State) (core n : Nat) (f : Nat → Nat → Nat × BitVec 7) :
    List (Acc × Xl) → List (Acc × List Byte) × BitVec 7 × State
  | [] => ([], 0, s)
  | (a, x) :: t =>
    let (old, fl, s) := s.rmw core n x (f a.src)
    let (rest, fl', s) := s.rmwAll core n f t
    ((a, leBytes n old) :: rest, fl ||| fl', s)

/-- A memory atomic (R311, R312): `f lane old` gives the new value and flags. -/
def atomBody (op n : Nat) (rel : Bool) (f : Ctx → Nat → Nat → Nat × BitVec 7) (x : Ctx) (s : State) : Res :=
  let vec := isVector op x.a
  let as := x.accs vec
  x.access s n true true as fun xs s =>
    match ((xs.find? fun e => s.lineBusy x.c (e.2.pa / 128)).map fun e => e.2.pa / 128).or (s.oldLine x.c) with
    | some l => .stall (.drain l)
    | none =>
      if xs.any (fun e => e.2.kind == 1) && s.strongBusy x.c then .stall .strong
      else if rel && !s.released x.k x.c x.a.scope.toNat false false false then .stall (.release x.a.scope.toNat false false false)
      else x.obtain s (linesOf xs) fun s =>
        let (olds, fl, s) := s.rmwAll x.core n (f x) xs
        let s := (x.watch s as 1).modCrew x.k fun c => c.mergeFlags fl
        if x.a.dst.isReg then .done (x.result s (x.loadWrites (if n = 8 then 5 else 4) (laneBytes olds)) false) else .done s

/-- Bytes of an integer atomic's word. -/
def Ctx.atomBytes (x : Ctx) : Nat := if x.a.ctl.getLsbD 4 then 8 else 4

def intAtom (x : Ctx) (l old : Nat) : Nat × BitVec 7 :=
  let wide := x.a.ctl.getLsbD 4
  (atomOp (x.a.ctl.toNat % 16) (if wide then 64 else 32) old (x.atomWord x.a.in1 wide l), 0)

/-- ATOM.F and MRED.F read a small immediate as the FP32 value of its integer (R53). -/
def floatAtom (x : Ctx) (l old : Nat) : Nat × BitVec 7 := atomFloat (x.a.ctl.toNat % 4) old (x.fword x.a.in1 l)

def casAtom (x : Ctx) (l old : Nat) : Nat × BitVec 7 :=
  let wide := x.a.ctl.getLsbD 4
  (if old = x.atomWord x.a.in2 wide l then x.atomWord x.a.in1 wide l else old, 0)

def bodyAtom (op : Nat) (x : Ctx) (s : State) : Res := atomBody op x.atomBytes (x.a.ctl.getLsbD 5) intAtom x s
def bodyAtomF (op : Nat) (x : Ctx) (s : State) : Res := atomBody op 4 (x.a.ctl.getLsbD 5) floatAtom x s
def bodyAtomCas (x : Ctx) (s : State) : Res := atomBody 0xAD x.atomBytes (x.a.ctl.getLsbD 5) casAtom x s

/-! ## Fences and WAITADDR (R313 to R316) -/

/-- FENCE and FENCE.ALL (R313): an acquire kind waits only for loads of memory, and for every earlier scratchpad access of its own core at
block scope, of every core from cluster scope on (R181). The wait is no marker: a fence leaves the last-result files (R61). -/
def fenceBody (un : Bool) (x : Ctx) (s : State) : Res :=
  let scope := x.a.scope.toNat
  if x.piecesWait then .stall .storeRoom
  else if !x.scopeOk s then .trap s x.scopeTrap
  else if x.a.ctl.toNat % 4 = 2 then
    let peers := decide (2 ≤ scope)
    if scope = 0 then .done s
    else if s.scratchBusy x.k true peers then .stall (.scratch true peers)
    else if s.scratchBusy x.k false peers then .stall (.scratch false peers)
    else .done s
  else if s.released x.k x.c scope un true true then .done s
  else .stall (.release scope un true true)

/-- Watches of a core (R316). -/
def watchCount : Nat := 64

/-- WAITADDR (R315, R316). -/
def bodyWaitaddr (x : Ctx) (s : State) : Res :=
  let a : Acc := ⟨0x7F, x.addr 0⟩
  let ev := x.a.ctl.getLsbD 1
  let e := x.a.aux.toNat
  let target := (x.scalar x.a.in1).toNat % 65536
  let value (v : Word) (s : State) : Res :=
    if x.a.dst.isS then .done (x.result s [⟨x.a.dst, 0, [v]⟩] false) else .done s
  if x.piecesWait then .stall .storeRoom
  else if !x.scopeOk s then .trap s x.scopeTrap
  else match addrTrap 4 2 [a] with
    | some t => .trap s t
    | none =>
      let counter : Except Trap (Option Counter) :=
        if ev then (s.ownCounter x.core (x.bslot s) e 5).map some else .ok none
      match counter with
      | .error t => .trap s t
      | .ok c => match s.xlateAll x.core (x.part s) 2 false true [a] with
        | .error r => r
        | .ok (xs, s) => match x.heldLine s xs with
          | some l => .stall (.line l)
          | none =>
            if xs.any (fun e => e.2.kind == 1) && s.strongBusy x.c then .stall .strong
            else
              let v := wordOf (leNat (xs.flatMap fun e => s.loadBytes x.c e.2.key e.2.pa 4))
              let hit := match c with | some c => reached c.epoch target | none => false
              if hit || ((v == x.scalar x.a.in2) == x.a.ctl.getLsbD 0) then value v s
              else
                let line := xs.foldl (fun _ e => e.2.pa / 128) 0
                if (s.core x.core).watches < watchCount then
                  .suspend (s.modCore x.core fun c => { c with watches := c.watches + 1 }) x.pc
                    (.watch line (if ev then some (e, target) else none))
                else .suspend s x.pc (.poll s.ck)

/-! ## Cache operations (R309, R310) -/

/-- Translated accesses of a cache operation; one that would fault is skipped (R307). -/
def Ctx.quietLines (x : Ctx) (s : State) (vec : Bool) : List Xl × State :=
  (x.accs vec).foldl (fun (acc : List Xl × State) a =>
    if 2 ^ 56 ≤ a.va then acc
    else match acc.2.translate x.core (x.part s) a.va false false false with
      | .ok (t, s) => (acc.1 ++ [t], s)
      | .error _ => acc) ([], s)

/-- PREF (R310): L1, L2, or L1 with ownership, which a line held in E or M has already (R329). -/
def bodyPref (x : Ctx) (s : State) : Res :=
  if x.piecesWait then .stall .storeRoom
  else if !x.scopeOk s then .trap s x.scopeTrap
  else
    let (ls, s) := x.quietLines s (isVector 0xA5 x.a)
    .done (ls.foldl (fun s t =>
      let n := t.pa / 128
      match x.a.ctl.toNat % 4 with
      | 0 => s.missLine x.core x.c.launch n t.key
      | 1 => s.fillL2 n t.key
      | _ => if s.owns x.core n then s else s.askBank x.core x.c.launch n t.key true) s)

/-- CFLUSH (R310): the L1 copy becomes clean; with deep the memory device gets the bytes too, from whichever L1 has them modified, which keeps
the line clean. They are where any load finds them already (log 5). -/
def bodyCflush (x : Ctx) (s : State) : Res :=
  if x.piecesWait then .stall .storeRoom
  else
    let deep := x.a.ctl.getLsbD 0
    let (ls, s) := x.quietLines s (isVector 0xB6 x.a)
    let lines := ls.map fun t => t.pa / 128
    match if deep then lines.find? fun n => s.lineHeld n (some x.k) else none with
    | some n => .stall (.line n)
    | none =>
      let clean (c : Core) : Core := { c with l1 := c.l1.map fun e => (e.1, if lines.contains e.1 && e.2 == .modified then .exclusive else e.2) }
      if deep then .done { s with
        cores := s.cores.map fun (e : Nat × Core) => (e.1, clean e.2)
        dirty := s.dirty.filter fun e => !lines.contains e.1 }
      else .done (s.modCore x.core clean)

/-- CINV (R309). -/
def bodyCinv (x : Ctx) (s : State) : Res :=
  if x.piecesWait then .stall .storeRoom
  else if x.c.out.any (·.ldc) then .stall .constLoads
  else
    let lines := (x.accs (isVector 0xB7 x.a)).map fun a => a.va / 128
    let part := x.part s
    let mine (e : ConstLine) : Bool := match s.launches.get? e.launch with | some l => l.part == part | none => false
    .done (s.modCore x.core fun c => { c with
      ccache :=
        if x.a.ctl.getLsbD 0 then [] else c.ccache.filter fun e => !(mine e && lines.contains e.vline) })

/-! ## The instructions -/

def execLd (a : Args) (s : State) : Out := issue 0xA0 a bodyLd s
def execSt (a : Args) (s : State) : Out := issue 0xA1 a bodySt s
def execLdAcq (a : Args) (s : State) : Out := issue 0xA2 a (loadAs Ctx.loadAccs) s
def execStRel (a : Args) (s : State) : Out := issue 0xA3 a (storeBody true) s
def execLdc (a : Args) (s : State) : Out := issue 0xA4 a bodyLdc s
def execPref (a : Args) (s : State) : Out := issue 0xA5 a bodyPref s
def execAtom (a : Args) (s : State) : Out := issue 0xAC a (bodyAtom 0xAC) s
def execAtomCas (a : Args) (s : State) : Out := issue 0xAD a bodyAtomCas s
def execAtomF (a : Args) (s : State) : Out := issue 0xAE a (bodyAtomF 0xAE) s
def execMred (a : Args) (s : State) : Out := issue 0xAF a (bodyAtom 0xAF) s
def execMredF (a : Args) (s : State) : Out := issue 0xB0 a (bodyAtomF 0xB0) s
def execFence (a : Args) (s : State) : Out := issue 0xB1 a (fenceBody false) s
def execFenceAll (a : Args) (s : State) : Out := issue 0xB2 a (fenceBody true) s
def execWaitaddr (a : Args) (s : State) : Out := issue 0xB3 a bodyWaitaddr s
def execCflush (a : Args) (s : State) : Out := issue 0xB6 a bodyCflush s
def execCinv (a : Args) (s : State) : Out := issue 0xB7 a bodyCinv s
def execLdb (a : Args) (s : State) : Out := issue 0xB8 a (loadAs Ctx.blockAccs) s

end Sys2Proof.Machine
end

