-- ==== Sys2Proof/Machine/Scratch.lean ====
section
/-! DEFINITION. The scratchpad and tile instructions, opcodes 0xA6 to 0xAB and 0xB9 to 0xBF (R170 to R195). -/

namespace Sys2Proof.Machine

/-! ## Offsets and checks (R187) -/

/-- o := (base_low + imm) mod 2^32; a none base reads 0. -/
def Ctx.offset (x : Ctx) (l : Nat) : Nat := ((x.word x.a.in0 l) + x.a.imm).toNat

/-- Accesses of a scratchpad instruction by lane, their address an offset. -/
def Ctx.offsets (x : Ctx) (vec : Bool) : List Acc :=
  if vec then x.active.map fun l => ⟨l, x.offset l⟩ else [⟨0x7F, x.offset 0⟩]

def offsetTrap (cause : Cause) (a : Acc) : Trap := { cause := cause, addr := a.va, lane := a.lane, slot := 2 }

/-- Alignment over all lanes, then the region: from `base`, `len` bytes (R187, R195). -/
def regionTrap (n len : Nat) (as : List Acc) : Option Trap :=
  match as.find? fun a => a.va % n != 0 with
  | some a => some (offsetTrap .misalignedAddress a)
  | none => (as.find? fun a => decide (len < a.va + n)).map (offsetTrap .scratchRange)

/-- The resident block of the launch at a window address (R178). -/
def State.peerBlock (s : State) (core launch va : Nat) : Option Block :=
  let p := windowPlace core va
  match s.blocks.get? (blockKey p.core p.bslot) with
  | some b => if b.launch = launch then some b else none
  | none => none

/-- The checks of a peer form, in the order of R195: alignment, range and fields, presence. -/
def State.peerTrap (s : State) (core launch n : Nat) (as : List Acc) : Option Trap :=
  match as.find? fun a => a.va % n != 0 with
  | some a => some (offsetTrap .misalignedAddress a)
  | none =>
    match as.find? fun a => !windowFieldsOk a.va || (match s.peerBlock core launch a.va with
        | some b => decide (b.size < field a.va 19 0 + n)
        | none => false) with
    | some a => some (offsetTrap .scratchRange a)
    | none => (as.find? fun a => (s.peerBlock core launch a.va).isNone).map fun a =>
        let p := windowPlace core a.va
        { cause := .peerAbsent, addr := a.va, lane := a.lane, slot := 2, ixkind := 6, index := p.bslot, core := some p.core }

/-- Size of the own block's allocation in bytes. -/
def Ctx.allocation (x : Ctx) (s : State) : Nat := match x.block? s with | some b => b.size | none => 0

/-- A word that an access reads holds an uncorrectable error (R444). -/
def State.softScratch (s : State) (n : Nat) (ls : List (Acc × Place)) : Option Trap :=
  if s.softErrors.isEmpty then none
  else (ls.find? fun e => (List.range ((n + 3) / 4)).any fun i => s.soft 3 (blockKey e.2.core e.2.bslot) (e.2.offset / 4 + i)).map fun e =>
    { cause := .softError, detail := 3, slot := 2, lane := e.1.lane, addr := e.1.va }

/-! ## Sending an access to the ports (R174, R180) -/

/-- Queues the parts of an instruction, one a target core. DESIGN CHOICE (log 68): a part of a peer form that names the own core waits with
the issuer and has the local latency. -/
def Ctx.send (x : Ctx) (s : State) (op : SpOp) (size : Nat) (ls : List (Acc × Place)) : Res :=
  let cores := (ls.map fun e => e.2.core).eraseDups
  let wide := decide (4 < sizeBytes size)
  let lanes (core : Nat) : List SpLane := (ls.filter fun e => e.2.core == core).map fun e =>
    { lane := e.1.lane, bslot := e.2.bslot, offset := e.2.offset
      data := if op = .load then [] else x.sourceBytes x.a.in1 size e.1.src
      cmp := if op = .cas then (x.word x.a.in2 e.1.src).toNat else 0 }
  let serial := x.c.nextId
  let result := x.a.dst.isReg
  let s := s.modCrew x.k fun c =>
    let c := if cores.isEmpty && !result then c else c.raiseToken x.tok?
    if result then
      c.addResult { id := 0, due := s.ck + 1, unit := x.u, writes := x.loadWrites size (fun _ => leBytes (if wide then sizeBytes size else 4) 0)
                    flags := 0, parts := cores.length, ldc := false, tok := x.tok? }
    else { c with nextId := c.nextId + 1 }
  .done (cores.foldl (fun s core =>
    let src := if core = x.core then issuerOf x.k else 4
    let a : SpAccess := { crew := x.k, unit := x.u, peer := core != x.core, op := op, size := size
                          result := if result then some serial else none, tok := x.tok?, serial := serial, since := s.ck, lanes := lanes core }
    s.modCore core fun c => { c with port := c.port.put src (c.port.getD src [] ++ [a]) }) s)

/-- A local or peer access with its checks (R187, R189). -/
def spBody (op : SpOp) (opc size : Nat) (peer : Bool) (x : Ctx) (s : State) : Res :=
  let n := sizeBytes size
  let as := x.offsets (isVector opc x.a)
  if x.piecesWait then .stall .storeRoom
  else
    let b := x.bslot s
    let trap := if peer then s.peerTrap x.core x.c.launch n as else regionTrap n (x.allocation s) as
    match trap with
    | some t => .trap s t
    | none =>
      let ls := as.map fun a => (a, if peer then windowPlace x.core a.va else (⟨x.core, b, a.va⟩ : Place))
      match (if op = .store then none else s.softScratch n ls) with
      | some t => .trap s t
      | none => x.send s op size ls

def bodySpatom (x : Ctx) (s : State) : Res := spBody (.atom (x.a.ctl.toNat % 16)) 0xAA 4 (x.a.ctl.getLsbD 4) x s
def bodySpatomCas (x : Ctx) (s : State) : Res := spBody .cas 0xAB 4 (x.a.ctl.getLsbD 4) x s
def bodySpld (x : Ctx) (s : State) : Res := spBody .load 0xA6 x.a.size false x s
def bodySpst (x : Ctx) (s : State) : Res := spBody .store 0xA7 x.a.size false x s
def bodySpldp (x : Ctx) (s : State) : Res := spBody .load 0xA8 x.a.size true x s
def bodySpstp (x : Ctx) (s : State) : Res := spBody .store 0xA9 x.a.size true x s

/-! ## Tile entries (R182 to R186, R188, R192, R193) -/

/-- Operand slot that names the entry: in2 with ind, else aux (R188). -/
def Ctx.nameSlot (x : Ctx) : Nat := if x.a.ctl.getLsbD 8 then 4 else 5

/-- The entry an instruction names, or tile-index (R188). -/
def Ctx.entry (x : Ctx) : Except Trap Nat :=
  let n := if x.a.ctl.getLsbD 8 then (x.scalar x.a.in2).toNat else x.a.aux.toNat
  if 511 < n then .error { cause := .tileIndex, slot := x.nameSlot, ixkind := 1, index := n % 2048 } else .ok n

def tileTrap (x : Ctx) (cause : Cause) (e : Nat) : Trap :=
  { cause := cause, slot := x.nameSlot, ixkind := 1, index := e }

/-- A defined entry of the own block that is no chute slot (R186). -/
def Ctx.ownTile (x : Ctx) (s : State) : Except Trap (Nat × TileEntry) :=
  match x.entry with
  | .error t => .error t
  | .ok e => match s.tile? x.core e with
    | none => .error (tileTrap x .tileUndefined e)
    | some t =>
      if t.chute || t.owner != x.bslot s then .error (tileTrap x .tileOwner e)
      else if s.soft 6 x.core e then .error { cause := .softError, detail := 6, slot := x.nameSlot, ixkind := 1, index := e }
      else .ok (e, t)

def TileEntry.bytes (t : TileEntry) : Nat := 1024 * (t.size + 1)

/-- TLD and TST (R192). -/
def tileBody (op : SpOp) (opc : Nat) (states : List Nat) (x : Ctx) (s : State) : Res :=
  let n := sizeBytes x.a.size
  let as := x.offsets (isVector opc x.a)
  if x.piecesWait then .stall .storeRoom
  else match x.ownTile s with
    | .error t => .trap s t
    | .ok (e, t) => match regionTrap n t.bytes as with
      | some t => .trap s { t with ixkind := 1, index := e }
      | none =>
        if !states.contains t.state then .stall (.entry e states false x.nameSlot)
        else
          let ls := as.map fun a => (a, (⟨x.core, t.owner, 1024 * t.base + a.va⟩ : Place))
          match (if op = .store then none else s.softScratch n ls) with
          | some t => .trap s t
          | none => x.send s op x.a.size ls

def bodyTld (x : Ctx) (s : State) : Res := tileBody .load 0xB9 [2, 3] x s
def bodyTst (x : Ctx) (s : State) : Res := tileBody .store 0xBA [1] x s

/-- An entry changes state (R183); what was written holds no error. -/
def State.setTile (s : State) (core e : Nat) (t : TileEntry) : State :=
  (s.putTile core e t).mend 6 core e

/-- A transition of an entry of which the required state holds; an entry takes one a ck (R185). -/
def Ctx.moveTile (x : Ctx) (s : State) (e : Nat) (t : TileEntry) : Res :=
  if s.moved.contains (x.core, e) then .stall (.turn x.core e) else .done (s.setTile x.core e t)

/-- TCLAIM (R193). -/
def bodyTclaim (x : Ctx) (s : State) : Res :=
  if x.piecesWait then .stall .storeRoom
  else match x.ownTile s with
    | .error t => .trap s t
    | .ok (e, t) =>
      let n := (x.scalar x.a.in0).toNat
      if t.bytes < n then .trap s { tileTrap x .scratchRange e with slot := 2 }
      else if t.state != 0 then .stall (.entry e [0] false x.nameSlot)
      else x.moveTile s e { t with state := 1, expect := if n = 0 then t.bytes else n, landed := 0, late := false }

/-- TREADY (R193). -/
def bodyTready (x : Ctx) (s : State) : Res :=
  if x.piecesWait then .stall .storeRoom
  else match x.ownTile s with
    | .error t => .trap s t
    | .ok (e, t) =>
      if t.state != 1 then .stall (.entry e [1] false x.nameSlot)
      else if s.scratchBusy x.k false false then .stall (.scratch false false)
      else x.moveTile s e { t with state := 2 }

/-- An engine operation of the own core that has not completed names the entry (R183). -/
def QItem.namesEntry (i : QItem) (e : Nat) : Bool :=
  match i with
  | .hoist h => h.tgt == 2 && h.tindex == e
  | .task t => t.entry == some e

/-- A hoist of the cluster lands in the slot entry of a core position (R226, R259). -/
def QItem.landsIn (i : QItem) (pos e : Nat) : Bool :=
  match i with
  | .hoist h => h.landings.contains (pos, e)
  | .task _ => false

/-- A task that has not completed names the entry (R279). -/
def State.taskNames (s : State) (core e : Nat) : Bool :=
  (s.items core).any fun i => match i with | .task t => t.entry == some e | .hoist _ => false

def State.entryBusy (s : State) (core e : Nat) : Bool :=
  (s.items core).any (fun i => i.namesEntry e) ||
  (List.range 4).any fun j => (s.items (4 * clusterOf core + j)).any fun i => i.landsIn (core % 4) e

/-- TDRAIN (R183, R193). -/
def bodyTdrain (x : Ctx) (s : State) : Res :=
  if x.piecesWait then .stall .storeRoom
  else match x.ownTile s with
    | .error t => .trap s t
    | .ok (e, t) =>
      if t.state != 2 || s.entryBusy x.core e then .stall (.entry e [2] true x.nameSlot)
      else x.moveTile s e { t with state := 3 }

/-- TFREE (R183, R193). -/
def bodyTfree (x : Ctx) (s : State) : Res :=
  if x.piecesWait then .stall .storeRoom
  else match x.ownTile s with
    | .error t => .trap s t
    | .ok (e, t) =>
      if t.state != 3 || s.entryBusy x.core e then .stall (.entry e [3] true x.nameSlot)
      else if s.scratchBusy x.k true false then .stall (.scratch true false)
      else x.moveTile s e { t with state := 0 }

/-- TDEF (R186, R193). -/
def bodyTdef (x : Ctx) (s : State) : Res :=
  let base := (x.scalar x.a.in0).toNat
  let size := (x.scalar x.a.in1).toNat
  let own := x.bslot s
  if x.piecesWait then .stall .storeRoom
  else match x.entry with
    | .error t => .trap s t
    | .ok e =>
      let old := s.tile? x.core e
      let foreign := match old with | some t => t.chute || t.owner != own | none => false
      if foreign then .trap s (tileTrap x .tileOwner e)
      else if base % 1024 != 0 || size % 1024 != 0 || size < 1024 || 65536 < size || x.allocation s < base + size then
        .trap s { tileTrap x .scratchRange e with slot := if base % 1024 != 0 then 2 else 3 }
      else if (match old with | some t => t.state != 0 | none => false) then .stall (.entry e [0] false x.nameSlot)
      else x.moveTile s e { chute := false, late := false, owner := own, state := 0, size := size / 1024 - 1
                            base := base / 1024, expect := size, landed := 0 }

/-! ## The instructions -/

def execSpld (a : Args) (s : State) : Out := issue 0xA6 a bodySpld s
def execSpst (a : Args) (s : State) : Out := issue 0xA7 a bodySpst s
def execSpldp (a : Args) (s : State) : Out := issue 0xA8 a bodySpldp s
def execSpstp (a : Args) (s : State) : Out := issue 0xA9 a bodySpstp s
def execSpatom (a : Args) (s : State) : Out := issue 0xAA a bodySpatom s
def execSpatomCas (a : Args) (s : State) : Out := issue 0xAB a bodySpatomCas s
def execTld (a : Args) (s : State) : Out := issue 0xB9 a bodyTld s
def execTst (a : Args) (s : State) : Out := issue 0xBA a bodyTst s
def execTclaim (a : Args) (s : State) : Out := issue 0xBB a bodyTclaim s
def execTready (a : Args) (s : State) : Out := issue 0xBC a bodyTready s
def execTdrain (a : Args) (s : State) : Out := issue 0xBD a bodyTdrain s
def execTfree (a : Args) (s : State) : Out := issue 0xBE a bodyTfree s
def execTdef (a : Args) (s : State) : Out := issue 0xBF a bodyTdef s

/-! ## The lane port (R174) -/

/-- LANE_PORT_PERFORM: the source whose turn it is has its first access performed once the port is free; any other source is not served
(log 12). -/
def execLanePortPerform (core src : Nat) (s : State) : Out :=
  .next (if (s.core core).portNext = some src ∧ (s.core core).portReady src s.ck then s.servePort core src else s)

end Sys2Proof.Machine
end

