-- ==== Sys2Proof/Machine/Chutes.lean ====
section
/-! DEFINITION. The chute instructions, opcodes 0xD1 to 0xD4, 0xDE and 0xDF, with their waiting (R216 to R234). -/

namespace Sys2Proof.Machine

def chuteTrap (cause : Cause) (n slot : Nat) : Trap := { cause := cause, ixkind := 2, index := n % 2048, slot := slot }

/-! ## Handles (R221) -/

/-- Cluster-window address of slot i. -/
def Chute.slotAddr (d : Chute) (home i : Nat) : Nat :=
  2 ^ 26 * (home % 4) + 2 ^ 22 * d.cbslot + 1024 * (d.base + i * (d.ssize + 1))

def slotTag (item : Nat) (mark : Bool) (n e : Nat) : Nat := 2 ^ 16 * item + (if mark then 2 ^ 15 else 0) + 2 ^ 9 * n + e

/-- Writes a handle. -/
def Ctx.handle (x : Ctx) (s : State) (addr tag : Nat) : State :=
  s.modCrew x.k fun c => (c.writeReg x.u ⟨x.a.dst, 0, [wordOf addr]⟩).writeReg x.u ⟨Opnd.next x.a.dst 1, 0, [wordOf tag]⟩

/-! ## Checks (R229, R230) -/

/-- The chute that an instruction names by index. -/
def Ctx.chuteIndex (x : Ctx) : Nat := if x.a.ctl.getLsbD 8 then (x.scalar x.a.in2).toNat else x.a.aux.toNat % 64

def Ctx.chuteSlot (x : Ctx) : Nat := if x.a.in2.isS then 4 else 5

/-- The chute is bound to the crew's bench in the direction (R230). -/
def Launch.bound (l : Launch) (bench n : Nat) (out : Bool) : Bool :=
  match l.benches[bench]? with
  | some b => (if out then b.outmask else b.inmask).getLsbD n
  | none => true

/-- The common checks: the home core and instance of chute n. -/
def Ctx.chute (x : Ctx) (s : State) (n : Nat) (out : Bool) : Except Trap (Nat × Chute) :=
  if x.divided then .error (chuteTrap .chuteDivergence n x.chuteSlot)
  else if 63 < n then .error (chuteTrap .chuteIndex n x.chuteSlot)
  else match s.inst? x.core n with
    | none => .error (chuteTrap .chuteUndefined n x.chuteSlot)
    | some (home, d) =>
      if (match x.launch? s with | some l => l.bound x.c.bench n out | none => true) then .ok (home, d)
      else .error (chuteTrap .chuteRole n x.chuteSlot)

/-! ## Retirement for a move (R242) -/

/-- The core is moving and the crew's retirement point is an instruction of this direction. -/
def Ctx.moves (x : Ctx) (s : State) (acquire : Bool) : Bool :=
  match x.launch? s with
  | none => false
  | some l => (l.moving.get? x.core).isSome && x.c.slots == 0 &&
      (!acquire || (match l.benches[x.c.bench]? with | some b => b.inmask == 0 | none => false))

/-- The crew leaves the lists of every instance (R224). -/
def State.unlistCrew (s : State) (launch : Nat) (n : CrewName) : State := s.unlist launch fun w => w.1 == n

/-- A crew retires for a move: it becomes RETIRING as at EXIT. -/
def State.retireMove (s : State) (k : Nat) : State :=
  match s.crews.get? k with
  | none => s
  | some c =>
    let s := s.unlistCrew c.launch c.name
    let s := s.modCrew k fun c =>
      { c.endLeases.modUnit 0 fun h => { h with st := .retiring true } with last := noLast }
    s.tryRetire k

def Ctx.retire (x : Ctx) (s : State) : Res :=
  if x.c.waiting x.u then .stall .results else .placed (s.retireMove x.k)

/-! ## CH.ACQ and CH.TRYACQ (R231). A slot's entry takes one transition a ck (R185). -/

def chuteAcquire (try_ : Bool) (x : Ctx) (s : State) : Res :=
  let n := x.chuteIndex
  match x.chute s n true with
  | .error t => .trap s t
  | .ok (home, d) =>
    if x.moves s true then x.retire s
    else if d.mc then .trap s (chuteTrap .chuteRole n x.chuteSlot)
    else
      let c := x.core % 4
      let i := d.tail
      let e := d.first + i
      if s.canAcquire home d c && s.moved.contains (home, e) then .stall (.turn home e)
      else if s.canAcquire home d c then
        let s := s.modTile home e fun t => { t with state := 1, expect := 1024 * (d.ssize + 1), landed := 0, late := false }
        let s := s.setSlotRec home e { item := 0, mark := false, eng := false, acqcore := c, holder := x.c.index }
        let s := s.modChute home n fun d =>
          { d with tail := d.after i, held := setAt d.held c (· + 1), nempty := d.nempty - 1
                   acqList := d.acqList.filter fun w => w.1 != x.c.name }
        let s := s.modCrew x.k fun c => { c with slots := c.slots + 1 }
        .parked ((x.handle s (d.slotAddr home i) (slotTag 0 false n e)).wakeChute home n)
      else if try_ then .parked (x.handle s 0 0xFFFFFFFF)
      else .stall (.chute n true)

/-! ## CH.TAKE and CH.TRYTAKE (R232) -/

def chuteTake (try_ : Bool) (x : Ctx) (s : State) : Res :=
  let n := x.chuteIndex
  match x.chute s n false with
  | .error t => .trap s t
  | .ok (home, d) =>
    if x.moves s false then x.retire s
    else
      let i := d.head
      let e := d.first + i
      if s.canTake home d && s.moved.contains (home, e) then .stall (.turn home e)
      else if s.canTake home d then
        let r := s.slotRec home e
        let s := s.modTile home e fun t => { t with state := 3 }
        let s := s.setSlotRec home e { r with eng := false, holder := x.c.index }
        let s := s.modChute home n fun d =>
          { d with head := d.after i, nready := d.nready - 1, takeList := d.takeList.filter fun w => w.1 != x.c.name }
        let s := s.modCrew x.k fun c => { c with slots := c.slots + 1 }
        .parked ((x.handle s (d.slotAddr home i) (slotTag r.item r.mark n e)).wakeChute home n)
      else if try_ then .parked (x.handle s 0 0xFFFFFFFF)
      else .stall (.chute n false)

/-! ## CH.PUT and CH.FREE (R233) -/

/-- The crew holds the slot in a state (R233). -/
def State.holds (s : State) (home : Nat) (d : Chute) (e index state : Nat) : Bool :=
  let r := s.slotRec home e
  d.entries.contains e && !r.eng && r.holder == index &&
    (match s.tile? home e with | some t => t.state == state | none => false)

/-- CH.PUT: releases at cluster scope or wider (R225, R229), then tests, waits for tasks on the slot (R279) and puts. -/
def bodyChPut (x : Ctx) (s : State) : Res :=
  let tag := (x.scalar x.a.in2).toNat
  let n := field tag 14 9
  let e := field tag 8 0
  let scope := max 2 x.a.scope.toNat
  if !x.scopeOk s then .trap s x.scopeTrap
  else match x.chute s n true with
    | .error t => .trap s t
    | .ok (home, d) =>
      if !s.released x.k x.c scope false true false then .stall (.release scope false true false)
      else if !s.holds home d e x.c.index 1 then .trap s (chuteTrap .chuteHolder n 4)
      else if s.taskNames home e then .stall (.taskWork home e)
      else if s.moved.contains (home, e) then .stall (.turn home e)
      else
        let s := s.setSlotRec home e { s.slotRec home e with item := (x.scalar x.a.in0).toNat % 2 ^ 16, mark := x.a.ctl.getLsbD 0 }
        let s := s.modCrew x.k fun c => { c with slots := c.slots - 1 }
        .parked (s.slotReady home n e)

/-- CH.FREE waits for the crew's loads and for engine operations on the entry (R225, R226). -/
def bodyChFree (x : Ctx) (s : State) : Res :=
  let tag := (x.scalar x.a.in2).toNat
  let n := field tag 14 9
  let e := field tag 8 0
  match x.chute s n false with
  | .error t => .trap s t
  | .ok (home, d) =>
    if !s.holds home d e x.c.index 3 then .trap s (chuteTrap .chuteHolder n 4)
    else if s.scratchBusy x.k true true then .stall (.scratch true true)
    else if s.entryBusy home e then .stall (.entryWork home e)
    else if s.moved.contains (home, e) then .stall (.turn home e)
    else
      let s := s.modCrew x.k fun c => { c with slots := c.slots - 1 }
      .parked (s.slotEmpty home n e)

/-! ## The instructions -/

/-- A unit held at a fault waits on no list: the next waiter is first (R224). -/
def State.dropWaiter (s : State) (k u : Nat) : State :=
  match s.crews.get? k with
  | none => s
  | some c => match c.units.get? u with
    | none => s
    | some h => match h.st with
      | .held _ | .faulting _ _ | .entering _ _ => s.unlist c.launch fun w => w == (c.name, u)
      | _ => s

/-- The unit that was chosen leaves the lists where its instruction has trapped. -/
def dropTrapped (f : Option (Nat × Nat)) : Out → Out
  | .next t => .next (match f with | some (k, u) => t.dropWaiter k u | none => t)
  | o => o

def execChAcq (a : Args) (s : State) : Out := dropTrapped s.focus (issue 0xD1 a (chuteAcquire false) s)
def execChPut (a : Args) (s : State) : Out := issue 0xD2 a bodyChPut s
def execChTake (a : Args) (s : State) : Out := dropTrapped s.focus (issue 0xD3 a (chuteTake false) s)
def execChFree (a : Args) (s : State) : Out := issue 0xD4 a bodyChFree s
def execChTryacq (a : Args) (s : State) : Out := issue 0xDE a (chuteAcquire true) s
def execChTrytake (a : Args) (s : State) : Out := issue 0xDF a (chuteTake true) s

/-! ## Waiting and credits (R224, R227) -/

/-- CHUTE_WAIT_SUSPEND: a unit that has been STALLED for 64 ck at an instance suspends on its list. -/
def execChuteWaitSuspend (crew unit : Nat) (s : State) : Out :=
  match s.crews.get? crew with
  | none => .next s
  | some c => match c.units.get? unit with
    | none => .next s
    | some h => match h.st with
      | .stalled (.chute n acq) =>
        if s.ck < h.since + 64 then .next s
        else
          let join (xs : List (CrewName × Nat)) : List (CrewName × Nat) := if xs.contains (c.name, unit) then xs else xs ++ [(c.name, unit)]
          let s := s.suspendUnit crew unit h.pc (.chute n acq) false (coreOf crew) c.launch
          match s.inst? (coreOf crew) n with
          | none => .next s
          | some (home, _) =>
            let s := s.modChute home n fun d => if acq then { d with acqList := join d.acqList } else { d with takeList := join d.takeList }
            .next (s.wakeChute home n)
      | _ => .next s

/-- CREDIT_NOTIFICATION: the receiver's credit rises, up to its slot count. -/
def execCreditNotification (id : Nat) (s : State) : Out :=
  match s.credits.get? id with
  | none => .next s
  | some c =>
    .next (({ s with credits := s.credits.del id }).modChute c.target c.chute fun d =>
      { d with credit := setAt d.credit c.from_ fun n => min (n + 1) (d.nslots + 1) })

end Sys2Proof.Machine
end

