-- ==== Sys2Proof/Machine/Events.lean ====
section
/-! DEFINITION. Event counters and group barriers, opcodes 0xD5 to 0xD9 (R196 to R215). -/

namespace Sys2Proof.Machine

/-! ## Naming and ownership (R197, R210) -/

def handleSlot (x : Ctx) : Nat := if x.a.ctl.getLsbD 8 then 4 else 5

/-- The counter an instruction names, or event-index. -/
def Ctx.counterIndex (x : Ctx) : Except Trap Nat :=
  let n := if x.a.ctl.getLsbD 8 then (x.scalar x.a.in2).toNat else x.a.aux.toNat
  if 2047 < n then .error (evTrap .eventIndex (n % 2048) 4) else .ok n

/-- The core whose counter is meant: the own one, or with p a core of the cluster. -/
def Ctx.counterCore (x : Ctx) : Nat :=
  if x.a.ctl.getLsbD 4 then 4 * clusterOf x.core + x.a.ctl.toNat % 4 else x.core

/-- The counter word is in error (R444). -/
def softEvent (x : Ctx) (e : Nat) : Trap := { cause := .softError, detail := 6, slot := handleSlot x, ixkind := 3, index := e }

/-- A counter that a block of the crew's launch owns on the core (R197). -/
def State.launchCounter (s : State) (x : Ctx) (core e : Nat) : Except Trap Counter :=
  match (s.core core).counters.get? e with
  | none => .error (evTrap .eventUndefined e (handleSlot x))
  | some c =>
    if s.soft 6 core (512 + e) then .error (softEvent x e)
    else match s.blocks.get? (blockKey core c.owner) with
      | some b => if b.launch = x.c.launch then .ok c else .error (evTrap .eventOwner e (handleSlot x))
      | none => .error (evTrap .eventOwner e (handleSlot x))

/-! ## EV.ADD, EV.SET, EV.RD (R211 to R213) -/

/-- EV.ADD (R211): releases, then adds. -/
def bodyEvAdd (x : Ctx) (s : State) : Res :=
  let scope := x.a.scope.toNat
  if !x.scopeOk s then .trap s x.scopeTrap
  else match x.counterIndex with
    | .error t => .trap s t
    | .ok e =>
      if !s.released x.k x.c scope false true false then .stall (.release scope false true false)
      else
        let core := x.counterCore
        match s.launchCounter x core e with
        | .error t => .trap s t
        | .ok c =>
          let n := (x.scalar x.a.in0).toNat
          let s := s.addCounter core e n
          .parked (s.modCrew x.k fun y => y.writeReg x.u ⟨x.a.dst, 0, [wordOf (c.add n).epoch]⟩)

/-- Engine work in flight targets a counter of the core (R199). -/
def QItem.targetsCounter (i : QItem) (e : Nat) : Bool :=
  match i with
  | .hoist h => h.tgt == 1 && h.tindex == e
  | .task _ => false

def State.counterBusy (s : State) (core e : Nat) : Bool := (s.items core).any fun i => i.targetsCounter e

/-- EV.SET (R212). DEDUCED (log 69): with free = 0 a target of none reads 0, as a count of none does; R210 admits it. -/
def bodyEvSet (x : Ctx) (s : State) : Res :=
  match x.counterIndex with
  | .error t => .trap s t
  | .ok e =>
    let own := x.bslot s
    let old := (s.core x.core).counters.get? e
    if (match old with | some c => c.owner != own | none => false) then .trap s (evTrap .eventOwner e (handleSlot x))
    else if x.a.ctl.getLsbD 2 then
      match old with
      | none => .parked s
      | some _ =>
        if s.counterBusy x.core e then .stall (.counterWork e)
        else
          let s := s.modCore x.core fun c => { c with counters := c.counters.del e }
          .parked (s.wakeCounter x.core e 0 true)
    else
      let z := x.a.ctl.getLsbD 1
      let epoch := match old with | some c => if z then 0 else c.epoch | none => 0
      let c : Counter :=
        { bytes := x.a.ctl.getLsbD 0, owner := own, epoch := epoch, target := (x.scalar x.a.in0).toNat, count := (x.scalar x.a.in1).toNat }
      let c := if c.target != 0 && decide (c.target ≤ c.count) then c.add 0 else c
      let s := (s.modCore x.core fun y => { y with counters := y.counters.put e c }).mend 6 x.core (512 + e)
      .parked (s.wakeCounter x.core e c.epoch false)

/-- The field that EV.RD selects (R213). -/
def Counter.read (c : Counter) (sel : Nat) : Word :=
  match sel with
  | 0 => wordOf c.count
  | 1 => wordOf c.target
  | 2 => wordOf c.epoch
  | _ => wordOf (2 ^ 31 + (if c.bytes then 2 ^ 30 else 0) + 2 ^ 16 * c.owner)

/-- EV.RD (R197, R213). -/
def bodyEvRd (x : Ctx) (s : State) : Res :=
  let sel := bits x.a.ctl.toNat 2 2
  let peer := x.a.ctl.getLsbD 4
  let core := x.counterCore
  let write (v : Word) : Res := .parked (s.modCrew x.k fun c => c.writeReg x.u ⟨x.a.dst, 0, [v]⟩)
  match x.counterIndex with
  | .error t => .trap s t
  | .ok e => match (s.core core).counters.get? e with
    | none => if sel = 3 then write 0 else .trap s (evTrap .eventUndefined e (handleSlot x))
    | some c =>
      if s.soft 6 core (512 + e) then .trap s (softEvent x e)
      else if peer then
        match s.launchCounter x core e with
        | .error t => .trap s t
        | .ok c => write (c.read sel)
      else if sel != 3 && c.owner != x.bslot s then .trap s (evTrap .eventOwner e (handleSlot x))
      else write (c.read sel)

/-! ## BAR and BAR.ARV (R214) -/

def groupTrap (cause : Cause) (g : Nat) : Trap := { cause := cause, ixkind := 4, index := g, slot := 5 }

/-- Makes the crew's arrival (R206, R207, R214). -/
def State.arrive (s : State) (k launch g epoch : Nat) : State :=
  let s := s.modCrew k fun c => { c with arrivals := c.arrivals.put g ((epoch + 1) % 65536) }
  let s := s.modLaunch launch fun l => match l.barriers.get? g with
    | some b => { l with barriers := l.barriers.put g { b with arrived := b.arrived + 1 } }
    | none => l
  s.completeBarrier launch g

def State.barrierEpoch (s : State) (launch g : Nat) : Nat :=
  match s.launches.get? launch with
  | some l => match l.barriers.get? g with | some b => b.epoch | none => 0
  | none => 0

/-- The epoch that a BAR executed again on waking has recorded (R214). -/
def Ctx.barRecord (x : Ctx) : Option Nat := if x.h.barPc = x.pc then x.h.barEpoch else none

/-- The wait for an epoch of a group, at its first test or a later one. -/
def Ctx.awaitBarrier (x : Ctx) (s : State) (g wt : Nat) : Res :=
  if reached (s.barrierEpoch x.c.launch g) wt then .parked (s.modUnit x.k x.u fun h => { h with barEpoch := none })
  else .suspend (s.modUnit x.k x.u fun h => { h with barEpoch := some wt, barPc := x.pc }) x.pc (.barrier g wt)

/-- BAR and BAR.ARV (R214). -/
def barBody (arv : Bool) (x : Ctx) (s : State) : Res :=
  let g := x.a.aux.toNat
  let scope := x.a.scope.toNat
  let w := !arv && x.a.ctl.getLsbD 0
  if !x.scopeOk s then .trap s x.scopeTrap
  else
    let member := match x.launch? s with | some l => l.groupUsed g && l.groupHas g x.c.index | none => false
    if !member then .trap s (groupTrap .groupMember g)
    else if x.divided then .trap s (groupTrap .barrierDivergence g)
    else match (if arv then none else x.barRecord) with
      | some wt => x.awaitBarrier s g wt
      | none =>
        let epoch := s.barrierEpoch x.c.launch g
        let pend := x.c.pendingAt g epoch
        if arv && pend then .trap s (groupTrap .barrierRearrival g)
        else if arv || (!w && !pend) then
          if !s.released x.k x.c scope false true false then .stall (.release scope false true false)
          else
            let s := s.arrive x.k x.c.launch g epoch
            let t := (epoch + 1) % 65536
            if arv then .parked (s.modCrew x.k fun c => c.writeReg x.u ⟨x.a.dst, 0, [wordOf t]⟩)
            else x.awaitBarrier s g t
        else
          let wt := if w then (x.scalar x.a.in0).toNat % 65536 else x.c.arrivals.getD g 0
          x.awaitBarrier s g wt

/-! ## The instructions -/

def execEvAdd (a : Args) (s : State) : Out := issue 0xD5 a bodyEvAdd s
def execEvSet (a : Args) (s : State) : Out := issue 0xD6 a bodyEvSet s
def execEvRd (a : Args) (s : State) : Out := issue 0xD7 a bodyEvRd s
def execBar (a : Args) (s : State) : Out := issue 0xD8 a (barBody false) s
def execBarArv (a : Args) (s : State) : Out := issue 0xD9 a (barBody true) s

end Sys2Proof.Machine
end

