-- ==== Sys2Proof/Machine/Hoist.lean ====
section
/-! DEFINITION. Hoist engines, opcodes 0xC0 to 0xC4: checks and entry at issue, landing, completion, faults (R246 to R266). -/

namespace Sys2Proof.Machine

/-! ## What an entry moves (R255 to R259) -/

/-- The next bytes that an entry moves: cursor, memory address, window address (slot offset for HOIST.MC), length, cursor after. -/
structure Piece where
  cur : Nat
  va : Nat
  win : Nat
  len : Nat
  next : Nat
  deriving DecidableEq, Repr

/-- a mod 2^64 of a signed sum. -/
def wrap64 (x : Int) : Nat := wrap 64 x

/-- The piece at the cursor; none once every byte is written. Tensor pieces end with their row and their memory line. -/
def Hoist.piece? (h : Hoist) : Option Piece :=
  match h.kind with
  | .lane | .storeLane =>
    (h.lanes.find? fun l => decide (h.cursor ≤ l.1)).map fun l =>
      { cur := l.1, va := l.2.1, win := l.2.2, len := 4 * 2 ^ h.size, next := l.1 + 1 }
  | .qfence => none
  | _ =>
    if h.total ≤ h.cursor then none
    else
      let b := h.cursor % h.width
      let y := h.cursor / h.width % h.rows
      let z := h.cursor / h.width / h.rows
      let va := wrap64 (h.src + z * h.mplane + y * h.mrow + b)
      let n := min (h.width - b) (128 - va % 128)
      some { cur := h.cursor, va := va, win := h.win + z * h.splane + y * h.srow + b, len := n, next := h.cursor + n }

def Hoist.stores (h : Hoist) : Bool := h.kind == .storeLane || h.kind == .storeTensor

def Hoist.isLane (h : Hoist) : Bool := h.kind == .lane || h.kind == .storeLane

/-! ## Checks at issue (R249, R251, R254, R266) -/

/-- What the completion target is at issue: index, region in which destination bytes must lie (place of its first byte and length). -/
structure HTarget where
  tindex : Nat
  region : Option (Place × Nat)
  chute : Nat
  landings : List (Nat × Nat)
  deriving DecidableEq, Repr

def noTarget : HTarget := { tindex := 0, region := none, chute := 0, landings := [] }

/-- The region of a slot's entry at its home. -/
def slotRegion (home : Nat) (t : TileEntry) : Place × Nat := (⟨home, t.owner, 1024 * t.base⟩, t.bytes)

/-- The completion target, named and checked (R251). -/
def Ctx.hoistTarget (x : Ctx) (s : State) : Except Trap HTarget :=
  let tgt := bits x.a.ctl.toNat 6 2
  let ind := x.a.ctl.getLsbD 8
  let slot := if ind then 1 else 5
  let n := if ind then (x.scalar x.a.dst).toNat else x.a.aux.toNat
  match tgt with
  | 0 => .ok noTarget
  | 1 =>
    if 2047 < n then .error (evTrap .eventIndex (n % 2048) slot)
    else match s.ownCounter x.core (x.bslot s) n slot with
      | .error t => .error t
      | .ok _ =>
        if s.soft 6 x.core (512 + n) then .error { cause := .softError, detail := 6, slot := slot, ixkind := 3, index := n }
        else .ok { noTarget with tindex := n }
  | 2 =>
    let tt (cause : Cause) : Trap := { cause := cause, slot := slot, ixkind := 1, index := n % 2048 }
    if 511 < n then .error (tt .tileIndex)
    else match s.tile? x.core n with
      | none => .error (tt .tileUndefined)
      | some t =>
        if t.chute || t.owner != x.bslot s then .error (tt .tileOwner)
        else if s.soft 6 x.core n then .error { cause := .softError, detail := 6, slot := slot, ixkind := 1, index := n }
        else .ok { noTarget with tindex := n, region := some (⟨x.core, t.owner, 1024 * t.base⟩, t.bytes) }
  | _ =>
    let c := field n 14 9
    let e := field n 8 0
    match s.inst? x.core c with
    | none => .error (chuteTrap .chuteHolder c slot)
    | some (home, d) => match s.tile? home e with
      | none => .error (chuteTrap .chuteHolder c slot)
      | some t =>
        if d.mc || !s.holds home d e x.c.index 1 then .error (chuteTrap .chuteHolder c slot)
        else .ok { tindex := e, region := some (slotRegion home t), chute := c, landings := [(home % 4, e)] }

/-- Bytes from a place lie in a region. -/
def Place.within (p : Place) (n : Nat) (r : Place × Nat) : Bool :=
  p.core == r.1.core && p.bslot == r.1.bslot && decide (r.1.offset ≤ p.offset) && decide (p.offset + n ≤ r.1.offset + r.2)

/-- The bytes from a window address lie within the block that it names, where there is one, and within the target's region. -/
def State.windowOk (s : State) (core launch w n : Nat) (region : Option (Place × Nat)) : Bool :=
  windowFieldsOk w &&
  (match s.peerBlock core launch w with | some b => decide (field w 19 0 + n ≤ b.size) | none => true) &&
  (match region with | some r => (windowPlace core w).within n r | none => true)

def peerAbsentTrap (core w lane : Nat) : Trap :=
  let p := windowPlace core w
  { cause := .peerAbsent, addr := w, lane := lane, slot := 3, ixkind := 6, index := p.bslot, core := some p.core }

/-- Alignment, memory range, scratchpad range and presence of a lane form, over all active lanes (R254, R266). -/
def State.hoistLaneTrap (s : State) (core launch n : Nat) (region : Option (Place × Nat)) (ls : List (Nat × Nat × Nat)) : Option Trap :=
  match ls.find? fun l => l.2.1 % n != 0 || l.2.2 % n != 0 with
  | some l =>
    let m := l.2.1 % n != 0
    some { cause := .misalignedAddress, addr := if m then l.2.1 else l.2.2, lane := l.1, slot := if m then 2 else 3 }
  | none => match ls.find? fun l => decide (2 ^ 56 ≤ l.2.1) with
    | some l => some { cause := .addressRange, addr := l.2.1, lane := l.1, slot := 2 }
    | none => match ls.find? fun l => !s.windowOk core launch l.2.2 n region with
      | some l => some { cause := .scratchRange, addr := l.2.2, lane := l.1, slot := 3 }
      | none => (ls.find? fun l => (s.peerBlock core launch l.2.2).isNone).map fun l => peerAbsentTrap core l.2.2 l.1

/-- Registers d0 to d5 of a tensor descriptor (R256). -/
structure Desc where
  width : Nat
  planes : Nat
  rows : Nat
  mrow : Int
  mplane : Int
  srow : Nat
  splane : Nat
  deriving DecidableEq, Repr

def Desc.total (d : Desc) : Nat := d.width * d.rows * d.planes

/-- Scratchpad bytes from the first to the last of a tensor. -/
def Desc.span (d : Desc) : Nat := (d.planes - 1) * d.splane + (d.rows - 1) * d.srow + d.width

/-- The six registers of a descriptor. -/
def Ctx.descWords (x : Ctx) : List Word := (List.range 6).map fun i => x.scalar (Opnd.next x.a.in2 i)

/-- The descriptor, or none where a reserved bit is set. -/
def Ctx.desc (x : Ctx) : Option Desc :=
  let d (i : Nat) : Word := x.descWords.getD i 0
  if (d 0).toNat / 2 ^ 17 != 0 || (d 4).toNat / 2 ^ 20 != 0 || (d 5).toNat / 2 ^ 20 != 0 then none
  else some { width := (d 0).toNat, planes := (d 1).toNat / 2 ^ 16 + 1, rows := (d 1).toNat % 2 ^ 16 + 1, mrow := (d 2).toInt
              mplane := (d 3).toInt, srow := (d 4).toNat, splane := (d 5).toNat }

/-- The extreme memory addresses of a tensor: its corners (R319). -/
def Desc.corners (d : Desc) (src : Nat) : List Int :=
  ([0, d.planes - 1] : List Nat).flatMap fun (z : Nat) => ([0, d.rows - 1] : List Nat).map fun (y : Nat) => (src : Int) + (z : Int) * d.mplane + (y : Int) * d.mrow

/-- The checks of a tensor form. `win` is the window address and `room` the bytes of the slot for HOIST.MC, where there is no window. -/
def State.hoistTensorTrap (s : State) (core launch src win : Nat) (room : Option Nat) (region : Option (Place × Nat)) (d : Desc) :
    Option Trap :=
  if src % 4 != 0 then some { cause := .misalignedAddress, addr := src, slot := 2 }
  else if win % 4 != 0 then some { cause := .misalignedAddress, addr := win, slot := 3 }
  else if d.width % 4 != 0 || d.mrow % 4 != 0 || d.mplane % 4 != 0 || d.srow % 4 != 0 || d.splane % 4 != 0 then
    some { cause := .misalignedAddress, addr := src, slot := 4 }
  else match (d.corners src).find? fun (a : Int) => decide (a < 0) || decide ((2 ^ 56 : Nat) < a + d.width) with
    | some a => some { cause := .addressRange, addr := wrap64 a, slot := 2 }
    | none =>
      if d.width < 4 || 65536 < d.width || 786432 < d.total then some { cause := .scratchRange, addr := win, slot := 4 }
      else match room with
        | some n => if n < win + d.span then some { cause := .scratchRange, addr := win, slot := 3 } else none
        | none =>
          if !s.windowOk core launch win d.span region then some { cause := .scratchRange, addr := win, slot := 3 }
          else if (s.peerBlock core launch win).isNone then some (peerAbsentTrap core win 0x7F)
          else none

/-! ## Entering a queue (R246) -/

/-- A queue has room for another entry of the crew: 64 and 16 for a hoist queue, 32 and 16 for a task queue (R246, R272). -/
def State.queueRoom (s : State) (core q launch : Nat) (n : CrewName) : Bool :=
  let xs := s.queue core q
  decide (xs.length < (if q < 4 then 64 else 32)) && decide ((xs.filter fun i => i.ofCrew launch n).length < 16)

/-- An entry with what every kind shares. -/
def Ctx.newHoist (x : Ctx) (s : State) (kind : HoistKind) (t : HTarget) : Hoist :=
  { id := s.nextItem, crew := x.k, launch := x.c.launch, index := x.c.index, block := x.c.block, bslot := x.bslot s, spall := x.u
    pc := x.pc, kind := kind, src := 0, win := 0, width := 0, rows := 0, planes := 0, mrow := 0, mplane := 0, srow := 0, splane := 0
    own := 0, read := [], desc := [], qmask := 0, lanes := [], size := 0, tgt := bits x.a.ctl.toNat 6 2, tindex := t.tindex, tok := x.tok?, scope := x.a.scope.toNat
    chute := t.chute, landings := t.landings, after := [], cursor := 0, total := 0, started := false, held := false, check := false, wait := none }

/-- Places an entry; a token rises; a slot target takes the total (R252). -/
def Ctx.enqueue (x : Ctx) (s : State) (q : Nat) (h : Hoist) : Res :=
  let s := s.setQueue x.core q (s.queue x.core q ++ [.hoist h])
  let s := { s with nextItem := s.nextItem + 1, accepted := (x.core, 0) :: s.accepted }
  let s := h.landings.foldl (fun s (l : Nat × Nat) =>
    s.modTile (4 * clusterOf x.core + l.1) l.2 fun t => { t with expect := h.total, landed := 0 }) s
  x.crewDone s fun c => c.raiseToken h.tok

/-- The hoist engine accepts one entry a ck, into a queue with room (R246, R250). -/
def Ctx.withHoist (x : Ctx) (s : State) (q : Nat) (go : Res) : Res :=
  if s.accepted.contains (x.core, 0) then .stall (.acceptance 0)
  else if !s.queueRoom x.core q x.c.launch x.c.name then .stall (.queueRoom q)
  else go

/-- A window address names the issuer's own block (R264). -/
def Ctx.ownWindow (x : Ctx) (s : State) (w : Nat) : Bool :=
  let p := windowPlace x.core w
  p.core == x.core && p.bslot == x.bslot s

/-- The lanes of a lane form: number, memory address, window address. -/
def Ctx.hoistLanes (x : Ctx) : List (Nat × Nat × Nat) := x.active.map fun l => (l, x.addr l, (x.word x.a.in1 l).toNat)

/-- HOIST, and HOIST.ST with lane = 1 (R255, R258). -/
def hoistLaneBody (kind : HoistKind) (x : Ctx) (s : State) : Res :=
  let q := x.a.ctl.toNat % 4
  let size := bits x.a.ctl.toNat 2 2
  x.withHoist s q <|
  if !x.scopeOk s then .trap s x.scopeTrap
  else match x.hoistTarget s with
    | .error t => .trap s t
    | .ok t => match s.hoistLaneTrap x.core x.c.launch (4 * 2 ^ size) t.region x.hoistLanes with
      | some t => .trap s t
      | none =>
        let n := 4 * 2 ^ size * x.hoistLanes.length
        let own : Mask := BitVec.ofFnLE fun l : Fin 96 => x.hoistLanes.any fun e => e.1 == l.val && x.ownWindow s e.2.2
        x.enqueue s q { x.newHoist s kind t with lanes := x.hoistLanes, size := size, total := n, own := own }

/-- HOIST.T, and HOIST.ST with lane = 0 (R257, R258). -/
def hoistTensorBody (kind : HoistKind) (x : Ctx) (s : State) : Res :=
  let q := x.a.ctl.toNat % 4
  let src := x.addr 0
  let win := (x.scalar x.a.in1).toNat
  x.withHoist s q <|
  match x.desc with
    | none => .trap s { cause := .illegalField, slot := 4 }
    | some d =>
      if !x.scopeOk s then .trap s x.scopeTrap
      else match x.hoistTarget s with
        | .error t => .trap s t
        | .ok t => match s.hoistTensorTrap x.core x.c.launch src win none t.region d with
          | some t => .trap s t
          | none => x.enqueue s q { x.newHoist s kind t with
              src := src, win := win, width := d.width, rows := d.rows, planes := d.planes, mrow := d.mrow, mplane := d.mplane
              srow := d.srow, splane := d.splane, total := d.total, desc := x.descWords, own := if x.ownWindow s win then 1 else 0 }

def bodyHoistSt (x : Ctx) (s : State) : Res :=
  if x.a.ctl.getLsbD 4 then hoistLaneBody .storeLane x s else hoistTensorBody .storeTensor x s

/-! ## HOIST.MC (R227, R259) -/

/-- Cores of the mask, by position in the cluster. -/
def maskCores (m : Nat) : List Nat := (List.range 4).filter fun c => m.testBit c

/-- Acquires the tail slot of each masked core's instance; answers the landings. -/
def State.acquireMc (s : State) (core q n : Nat) : List Nat → List (Nat × Nat) × State
  | [] => ([], s)
  | c :: cs =>
    let home := 4 * clusterOf core + c
    match (s.core home).chutes.get? n with
    | none => s.acquireMc core q n cs
    | some d =>
      let e := d.first + d.tail
      let s := s.modTile home e fun t => { t with state := 1, landed := 0 }
      let s := s.setSlotRec home e
        { item := 0, mark := false, eng := true, acqcore := core % 4, holder := 2 ^ 31 + 8 * core + q }
      let s := s.modChute home n fun d =>
        { d with tail := d.after d.tail, held := setAt d.held (core % 4) (· + 1), nempty := d.nempty - 1 }
      let s := s.modChute core n fun d => { d with credit := setAt d.credit c (· - 1) }
      let (ls, s) := s.acquireMc core q n cs
      ((c, e) :: ls, s)

def bodyHoistMc (x : Ctx) (s : State) : Res :=
  let q := x.a.ctl.toNat % 4
  let mask := bits x.a.ctl.toNat 2 4
  let n := x.a.aux.toNat % 64
  let src := x.addr 0
  let off := (x.scalar x.a.in1).toNat
  x.withHoist s q <|
  match x.desc with
    | none => .trap s { cause := .illegalField, slot := 4 }
    | some d =>
      if !x.scopeOk s then .trap s x.scopeTrap
      else match (s.core x.core).chutes.get? n with
        | none => .trap s (chuteTrap .chuteUndefined n 5)
        | some i =>
          if i.cluster || !i.mc then .trap s (chuteTrap .chuteRole n 5)
          else match s.hoistTensorTrap x.core x.c.launch src off (some (1024 * (i.ssize + 1))) none d with
            | some t => .trap s t
            | none =>
              if (maskCores mask).any fun c => i.credit.getD c 0 == 0 || s.tailMoved (4 * clusterOf x.core + c) n then .stall (.credits n mask)
              else
                let (ls, s) := s.acquireMc x.core q n (maskCores mask)
                x.enqueue s q { x.newHoist s .multicast { noTarget with chute := n, landings := ls } with
                  src := src, win := off, width := d.width, rows := d.rows, planes := d.planes, mrow := d.mrow, mplane := d.mplane
                  srow := d.srow, splane := d.splane, total := d.total, desc := x.descWords, tgt := 3 }

/-! ## QFENCE (R260) -/

/-- Identifier and owner of a queue item. -/
def QItem.id : QItem → Nat
  | .hoist h => h.id
  | .task t => t.id

def bodyQfence (x : Ctx) (s : State) : Res :=
  let q := x.a.ctl.toNat % 8
  x.withHoist s q <|
  match x.hoistTarget s with
    | .error t => .trap s t
    | .ok t =>
      let after := (List.range 6).flatMap fun j =>
        if j = q || x.a.imm.getLsbD j then
          ((s.queue x.core j).filter fun i => i.ofCrew x.c.launch x.c.name).map fun i => (j, i.id)
        else []
      x.enqueue s q { x.newHoist s .qfence t with after := after, qmask := x.a.imm.toNat % 64 }

/-! ## The instructions -/

def execHoist (a : Args) (s : State) : Out := issue 0xC0 a (hoistLaneBody .lane) s
def execHoistT (a : Args) (s : State) : Out := issue 0xC1 a (hoistTensorBody .tensor) s
def execHoistMc (a : Args) (s : State) : Out := issue 0xC2 a bodyHoistMc s
def execHoistSt (a : Args) (s : State) : Out := issue 0xC3 a bodyHoistSt s
def execQfence (a : Args) (s : State) : Out := issue 0xC4 a bodyQfence s

end Sys2Proof.Machine
end

