-- ==== Sys2Proof/Machine/Engine.lean ====
section
/-! DEFINITION. What the hoist engines do on their own: landings, completions, faults (R247 to R252, R262, R263). -/

namespace Sys2Proof.Machine

/-! ## Entries in their queues -/

/-- An item of a queue, by id. -/
def State.item? (s : State) (core q id : Nat) : Option QItem := (s.queue core q).find? fun i => i.id == id

def State.hoist? (s : State) (core q id : Nat) : Option Hoist :=
  match s.item? core q id with | some (.hoist h) => some h | _ => none

/-- Replaces an item. -/
def State.putItem (s : State) (core q : Nat) (x : QItem) : State :=
  s.setQueue core q ((s.queue core q).map fun i => if i.id = x.id then x else i)

def State.dropItem (s : State) (core q id : Nat) : State :=
  s.setQueue core q ((s.queue core q).filter fun i => i.id != id)

/-- Earlier items of a crew in a queue. -/
def State.earlier (s : State) (core q launch : Nat) (n : CrewName) (id : Nat) : List QItem :=
  ((s.queue core q).takeWhile fun i => i.id != id).filter fun i => i.ofCrew launch n

/-- Every earlier hoist of the crew in the queue has written all its bytes, and no earlier QFENCE stands there (R247, R260). -/
def State.hoistTurn (s : State) (core q : Nat) (h : Hoist) : Bool :=
  (s.earlier core q h.launch h.name h.id).all fun i => match i with
    | .hoist e => e.kind != .qfence && e.piece?.isNone
    | .task _ => true

/-- The release before the first source byte (R249, R277). -/
def State.engineRelease (s : State) (launch : Nat) (n : CrewName) (scope : Nat) : Bool :=
  scope == 0 || (match s.findCrew launch n with
    | some k => match s.crews.get? k with
      | some c => s.released k c scope false true false
      | none => true
    | none => true)

/-! ## Landing (R183, R252) -/

/-- Bytes of a block as an engine reads them; an uncorrectable word has no stated value (R444, log 14). -/
def State.tileBytes (s : State) (key off n : Nat) : List Byte :=
  let m := match s.blocks.get? key with | some b => b.mem | none => []
  (List.range n).map fun i =>
    if s.softErrors.isEmpty || !s.soft 3 key ((off + i) / 4) then m.byte (off + i)
    else ((Config.freeWord (s.fresh + (off + i) / 4)) >>> (8 * ((off + i) % 4))).setWidth 8

/-- Free values that a read of the scratchpad may have drawn are not drawn again. -/
def State.drawn (s : State) : State := if s.softErrors.isEmpty then s else { s with fresh := s.fresh + 2 ^ 18 }

/-- Bytes written through the tile port. -/
def State.landBytes (s : State) (key off : Nat) (bs : List Byte) : State :=
  let s := s.modBlock key fun b => { b with mem := b.mem.storeBytes off bs }
  if s.softErrors.isEmpty then s else (List.range (bs.length / 4 + 1)).foldl (fun s i => s.mend 3 key (off / 4 + i)) s

/-- Counts landed bytes against an entry or a slot (R252). `owner` is the crew that holds the slot, if a crew does. -/
def State.countLanding (s : State) (core e n chute : Nat) (owner : Option (Nat × CrewName)) : State :=
  match s.tile? core e with
  | none => s
  | some t =>
    if t.state != 1 then s.modTile core e fun t => { t with late := true }
    else
      let s := s.modTile core e fun t => { t with landed := t.landed + n }
      if t.landed + n < t.expect then s
      else if !t.chute then s.modTile core e fun t => { t with state := 2 }
      else
        let s := s.setSlotRec core e { s.slotRec core e with item := 0, mark := false }
        let s := match owner with
          | some (l, i) => s.reachCrew l i fun c => { c with slots := c.slots - 1 }
          | none => s
        s.slotReady core chute e

/-- What stands before a piece: a line held by another agent, or a fault (R249, R262, R264, R347). -/
inductive PieceStop where
  | waits (line : Nat)
  | fault (t : Trap)
  deriving DecidableEq, Repr

/-- The record of a fault at a piece names its cursor: in the lane forms the lowest active lane not yet written (R262). -/
def Hoist.trap (h : Hoist) (p : Piece) (t : Trap) : Trap :=
  { t with cursor := p.cur, lane := if h.isLane then p.cur else 0x7F }

/-- The window addresses of an entry: those of its lanes, or that of its tensor. HOIST.MC and QFENCE have none. -/
def Hoist.windowList (h : Hoist) : List Nat :=
  match h.kind with
  | .lane | .storeLane => h.lanes.map fun l => l.2.2
  | .tensor | .storeTensor => [h.win]
  | _ => []

/-- A restored entry checks every window again when it resumes (R264): the first that names no block of its launch. -/
def State.windowGone (s : State) (core : Nat) (h : Hoist) : Option Nat :=
  if h.check then h.windowList.find? fun w => (s.peerBlock core h.launch w).isNone else none

/-- A lane's source bytes in a line that the entry has read (R255). -/
def Hoist.readBytes? (h : Hoist) (p : Piece) : Option (List Byte) :=
  if h.kind = .lane then (h.read.get? (p.va / 128)).map fun bs => (bs.drop (p.va % 128)).take p.len else none

/-- The whole source line of a lane form's piece, which the entry reads once for all of its lanes (R255). -/
def State.sourceLine (s : State) (core : Nat) (h : Hoist) (p : Piece) (line : List Byte) : State :=
  { s with cores := (s.modCore core fun c => { c with queues := c.queues.map fun (e : Nat × List QItem) => (e.1, e.2.map fun i =>
      match i with
      | .hoist x => if x.id = h.id then .hoist { x with read := x.read.put (p.va / 128) line } else i
      | .task _ => i) }).cores }

/-- Lands bytes of a piece in the scratchpad, and counts them (R183, R252). -/
def State.landIn (s : State) (core : Nat) (h : Hoist) (p : Piece) (bs : List Byte) : State :=
  let w := windowPlace core p.win
  let s := s.landBytes (blockKey w.core w.bslot) w.offset bs
  if h.tgt = 2 then s.countLanding core h.tindex p.len 0 none
  else h.landings.foldl (fun s (l : Nat × Nat) =>
    s.countLanding (4 * clusterOf core + l.1) l.2 p.len h.chute (some (h.launch, h.name))) s

/-- Lands bytes of a multicast piece on every masked core (R259). -/
def State.landAll (s : State) (core : Nat) (h : Hoist) (p : Piece) (bs : List Byte) : State :=
  h.landings.foldl (fun s (l : Nat × Nat) =>
    let c := 4 * clusterOf core + l.1
    match s.tile? c l.2 with
    | none => s
    | some t => (s.landBytes (blockKey c t.owner) (1024 * t.base + p.win) bs).countLanding c l.2 p.len h.chute none) s

/-- Others have asked for a line before the entry's next piece did, or in the ck before it does (R334, R347). -/
def State.hoistQueued (s : State) (n : Nat) (h : Hoist) : Bool :=
  let since := match h.wait with | some (l, t) => if l = n then t else s.ck + 1 | none => s.ck + 1
  s.unitAhead n since none || s.queuedAhead n since || s.hoistAhead n since (some h.id)

/-- Moves one piece. -/
def State.landPiece (s : State) (core : Nat) (h : Hoist) (p : Piece) : Except PieceStop State :=
  match s.windowGone core h with
  | some w => .error (.fault (h.trap p (peerAbsentTrap core w p.cur)))
  | none =>
  let part := match s.launches.get? h.launch with | some l => l.part | none => 0
  let absent := h.kind != .multicast && (s.peerBlock core h.launch p.win).isNone
  match h.readBytes? p with
  | some bs => if absent then .error (.fault (h.trap p (peerAbsentTrap core p.win p.cur))) else .ok (s.landIn core h p bs)
  | none => match s.translate core part p.va h.stores false (!h.stores) with
    | .error f => .error (match f.waits? with | some n => .waits n | none => .fault (h.trap p (f.trap p.va p.cur 2 h.stores)))
    | .ok (x, s) =>
      if s.lineHeld (x.pa / 128) none || s.hoistQueued (x.pa / 128) h || !s.homeTakes core (x.pa / 128) then .error (.waits (x.pa / 128))
      else if absent then .error (.fault (h.trap p (peerAbsentTrap core p.win p.cur)))
      else
      let s := s.homeTook core (x.pa / 128)
      if h.stores then
        let s := s.touch x.pa
        let w := windowPlace core p.win
        .ok ((s.atHome (x.pa / 128) true).perform x.key x.pa (s.tileBytes (blockKey w.core w.bslot) w.offset p.len)).drawn
      else
        let bs := s.readBytes x.key x.pa p.len
        let s := s.atHome (x.pa / 128) false
        match h.kind with
        | .multicast => .ok (s.landAll core h p bs)
        | .lane => .ok ((s.sourceLine core h p (s.readBytes x.key (x.pa / 128 * 128) 128)).landIn core h p bs)
        | _ => .ok (s.landIn core h p bs)

/-- Moves at most n pieces, until one waits or faults; the entry keeps its cursor, and its place among those that wait for a held line. -/
def State.landPieces (s : State) (core q id : Nat) : Nat → State
  | 0 => s
  | n + 1 => match s.hoist? core q id with
    | none => s
    | some h => match h.piece? with
      | none => s
      | some p => match s.landPiece core h p with
        | .error (.fault _) => s
        | .error (.waits l) =>
          let since := match h.wait with | some (m, t) => if m = l then t else s.ck | none => s.ck
          if s.lineHeld l none then s.putItem core q (.hoist { h with wait := some (l, since) }) else s
        | .ok s =>
          let s := s.perf core h.launch 11 p.len
          let h := { (s.hoist? core q id).getD h with cursor := p.next, started := true, check := false, wait := none }
          (s.putItem core q (.hoist h)).landPieces core q id n

/-- An entry at which the hoist lands has made its transition of this ck (R185). -/
def State.landingMoved (s : State) (core : Nat) (h : Hoist) : Bool :=
  (h.tgt == 2 && s.moved.contains (core, h.tindex)) || h.landings.any fun l => s.moved.contains (4 * clusterOf core + l.1, l.2)

/-- The entry may read its next source byte (R185, R247, R249). -/
def State.hoistMayRun (s : State) (core q : Nat) (h : Hoist) : Bool :=
  !h.held && !s.landingMoved core h && s.hoistTurn core q h && (h.started || s.engineRelease h.launch h.name h.scope)

/-! ## The steps -/

/-- HOIST_LANDING: at most n pieces of an entry, from its cursor. A piece is a lane's bytes, or the bytes of a row in one line. -/
def execHoistLanding (core q id n : Nat) (s : State) : Out :=
  .next (match s.hoist? core q id with
    | none => s
    | some h => if s.hoistMayRun core q h && s.ungated core then s.landPieces core q id n else s)

/-- Who is at fault, of an entry or a task. -/
def State.engineAgent (s : State) (core launch index block spall crew bslot : Nat) (pc : Dword) : Agent :=
  let l := s.launches.get? launch
  { launch := launch, index := index, block := block, spall := spall, core := core, issuer := issuerOf crew, slot := slotOf crew,
    bslot := bslot, part := (match l with | some x => x.part | none => 0), tenant := (match l with | some x => x.tenant | none => 0)
    pc := pc }

def State.hoistAgent (s : State) (core : Nat) (h : Hoist) : Agent :=
  s.engineAgent core h.launch h.index h.block h.spall h.crew h.bslot h.pc

/-- HOIST_FAULT: the entry stops at its cursor and its record is reported (R262). -/
def execHoistFault (core q id : Nat) (s : State) : Out :=
  .next (match s.hoist? core q id with
    | none => s
    | some h =>
      if !s.hoistMayRun core q h then s
      else match h.piece? with
        | none => s
        | some p => match s.landPiece core h p with
          | .error (.fault t) =>
            let part := match s.launches.get? h.launch with | some l => l.part | none => 0
            let s := (s.forget core part p.va).putItem core q (.hoist { h with held := true, started := true, cursor := p.cur, wait := none })
            s.report (s.hoistAgent core h) t true (.hoist h.launch h.name id)
          | _ => s)

/-- A hoist waits for a line (R349). -/
def State.hoistWants (s : State) (line : Nat) : Bool :=
  s.cores.any fun e => e.2.queues.any fun q => q.2.any fun i => match i with
    | .hoist h => s.hoistMayRun e.1 q.1 h && (match h.piece? with
      | some p => (match s.landPiece e.1 h p with | .error (.waits n) => n == line | _ => false)
      | none => false)
    | .task _ => false

/-- The counter of a block, resident or saved. -/
def State.blockCounter? (s : State) (launch block e : Nat) : Option Counter :=
  match s.blocks.find? (fun b => b.2.launch == launch && b.2.number == block && !b.2.chute) with
  | some (key, _) => (s.core (key / 16)).counters.get? e
  | none => match s.launches.get? launch with
    | none => none
    | some l => (l.saved.get? block).bind fun b => b.counters.get? e

/-- A completion acts on its target (R251). -/
def State.signalHoist (s : State) (core : Nat) (h : Hoist) : State :=
  match h.tgt with
  | 0 => s.reachCrew h.launch h.name fun c => c.fallToken h.tok
  | 1 => match s.blockCounter? h.launch h.block h.tindex with
    | some c => s.addBlockCounter h.launch h.block h.tindex (if c.bytes then h.total else 1)
    | none => s
  | 3 =>
    if h.total = 0 && h.kind != .multicast then
      h.landings.foldl (fun s (l : Nat × Nat) =>
        let c := 4 * clusterOf core + l.1
        match s.tile? c l.2 with
        | some t => if t.state = 1 then s.countLanding c l.2 (t.expect - t.landed) h.chute (some (h.launch, h.name)) else s
        | none => s) s
    else s
  | _ => s

/-- What follows when an item of a crew leaves its queue: a RETIRING crew (R94), blocks that waited for landings (R179). -/
def State.engineLeft (s : State) (core launch : Nat) (n : CrewName) : State :=
  let s := s.releaseIdle core
  match s.findCrew launch n with
  | some k => s.tryRetire k
  | none => s

/-- Everything has been moved, and everything that it follows has completed (R247, R260). -/
def State.hoistDone (s : State) (core q : Nat) (h : Hoist) : Bool :=
  !h.held && !s.landingMoved core h && h.piece?.isNone && (s.earlier core q h.launch h.name h.id).isEmpty &&
  h.after.all fun a => (s.item? core a.1 a.2).isNone

/-- HOIST_COMPLETE. -/
def execHoistComplete (core q id : Nat) (s : State) : Out :=
  .next (match s.hoist? core q id with
    | none => s
    | some h =>
      if !s.hoistDone core q h then s
      else
        let s := s.dropItem core q id
        (s.signalHoist core h).engineLeft core h.launch h.name)

end Sys2Proof.Machine
end

