-- ==== Sys2Proof/Machine/Capsule.lean ====
section
/-! DEFINITION. Leases and capsules, opcodes 0xB4, 0xB5 and 0xDA to 0xDD (R347 to R366), with the notices between crews. -/

namespace Sys2Proof.Machine

/-! ## Leases (R347 to R349, R363, R364) -/

/-- A lease in force: not ended, before its deadline. -/
def Lease.inForce (l : Lease) (ck : Nat) : Bool := !l.ended && decide (ck < l.deadline)

/-- Virtual lines of the lease set, each counting once: inside a step those whose lease has ended stay (R356), outside they are gone. -/
def Crew.leaseLines (c : Crew) (ck : Nat) : List Nat :=
  ((c.leases.filter fun l => c.cap.mode || l.inForce ck).map (·.vline)).eraseDups

/-- Another agent waits for a line (R334, R349): a unit, a request at its bank or on its way there, a sent store, a hoist. -/
def State.lineWanted (s : State) (k u line : Nat) : Bool :=
  s.crews.any (fun e => e.2.units.any fun h => (e.1 != k || h.1 != u) && (match h.2.st with
    | .stalled (.line n) => n == line
    | .stalled (.owner _ ls) => ls.contains line
    | _ => false)) ||
  s.banks.any (fun b => (b.2.inputs ++ b.2.conflict).any fun r => r.line == line) ||
  s.flights.any (fun f => !f.2.performed && f.2.entry.line == line && s.findCrew f.2.launch f.2.name != some k) ||
  s.hoistWants line

/-- Ends the leases of one line (R348): inside a step the entries stay, marked (R356). -/
def Crew.endLine (c : Crew) (vline : Nat) : Crew :=
  { c with leases :=
      if c.cap.mode then c.leases.map fun l => if l.vline = vline then { l with ended := true } else l
      else c.leases.filter fun l => l.vline != vline }

/-- The lease on a line that is in force gets a new deadline (R349). -/
def Crew.rearm (c : Crew) (vline ck deadline : Nat) : Crew :=
  { c with leases := c.leases.map fun l => if l.vline = vline ∧ l.inForce ck then { l with deadline := deadline } else l }

/-- LEASE (R363), its causes in the order of R366. A line that is in the set is re-armed (R349); a crew that has lost one that others wait
for asks again behind them. An L1 that owns the line serves it only behind the requests that wait for it (R363). -/
def bodyLease (x : Ctx) (s : State) : Res :=
  let va := x.addr 0
  let vline := va / 128
  let bound := x.a.aux.toNat % 4096 + 1
  if x.piecesWait then .stall .storeRoom
  else if 2 ^ 56 ≤ va then .trap s { cause := .addressRange, addr := va, slot := 2 }
  else if x.capsuleFault 0xB4 then .trap s x.capsuleTrap
  else if x.c.cap.mode && x.c.cap.role == .displaced then .parked s
  else match s.translate x.core (x.part s) va true false false with
    | .error f => f.res (s.forget x.core (x.part s) va) va 0x7F 2 true
    | .ok (t, s) =>
      let line := t.pa / 128
      if x.c.leases.any fun l => l.vline == vline && l.inForce s.ck then
        if s.lineWanted x.k x.u line then .again (s.modCrew x.k fun c => c.endLine vline) (.line line)
        else .parked (s.modCrew x.k fun c => c.rearm vline s.ck (s.ck + bound))
      else if !(x.c.leaseLines s.ck).contains vline && decide (4 ≤ (x.c.leaseLines s.ck).length) then
        .trap s { cause := .leaseOverflow, addr := va, slot := 2 }
      else if s.owns x.core line && s.lineStop x.k x.u line false x.h then .stall (.line line)
      else x.obtain s [(line, t.key)] fun s =>
        let s := s.ownLine x.core line t.key
        .parked (s.modCrew x.k fun c => { c with
          leases := (if c.cap.mode then c.leases else c.leases.filter fun l => l.inForce s.ck) ++ [⟨vline, line, s.ck + bound, false, x.u⟩] })

/-- LREL (R364). -/
def bodyLrel (x : Ctx) (s : State) : Res :=
  if x.piecesWait then .stall .storeRoom
  else if x.a.ctl.getLsbD 0 then .parked (s.modCrew x.k fun c => { c with leases := [] })
  else .parked (s.modCrew x.k fun c => c.endLine (x.addr 0 / 128))

/-! ## The record (R350) -/

/-- Bits that a record keeps zero. -/
def recordReserved (r : BitVec 2048) : Bool :=
  recordField r 1280 768 != 0 || recordField r 384 640 != 0 || recordField r 268 4 != 0 || recordField r 60 1 != 0

def recordState (r : BitVec 2048) : Nat := recordField r 62 2

/-- A record that raises capsule-record at the CAP.ENTER that reads it (R350). -/
def recordBad (r : BitVec 2048) : Bool :=
  let st := recordState r
  st == 3 || recordReserved r || ((st == 1 || st == 2) && (decide (7 < recordField r 56 4) || recordField r 288 32 % 512 != 0))

/-- The record's step slot does not lie within an image, that of the crew that would adopt (R350). -/
def stepBeyond (r : BitVec 2048) (codesz : Nat) : Bool :=
  let st := recordState r
  (st == 1 || st == 2) && decide (codesz < recordField r 288 32 + 0x200 * recordField r 56 4 + 0x200)

/-- The fields of a record, as an action writes them (R350). -/
structure CapRecord where
  ckpt : List Word
  result : Dword
  base : Nat
  part : Nat
  thr : Nat
  nv : Bool
  ecnt : Nat
  deadline : Nat
  holder : Nat
  image : Nat
  rlaunch : Nat
  hlaunch : Nat
  state : Nat
  run : Bool
  step : Nat
  gen : Nat
  runner : Nat
  deriving DecidableEq, Repr

def CapRecord.read (r : BitVec 2048) : CapRecord :=
  { ckpt := (List.range 8).map fun i => wordOf (recordField r (1024 + 32 * i) 32)
    result := BitVec.ofNat 64 (recordField r 320 64), base := recordField r 288 32, part := recordField r 284 4
    thr := recordField r 272 12, nv := r.getLsbD 267, ecnt := recordField r 256 11, deadline := recordField r 192 64
    holder := recordField r 160 32, image := recordField r 128 32, rlaunch := recordField r 96 32, hlaunch := recordField r 64 32
    state := recordField r 62 2, run := r.getLsbD 61, step := recordField r 56 4, gen := recordField r 32 24
    runner := recordField r 0 32 }

/-- The record's 256 bytes. -/
def CapRecord.bytes (r : CapRecord) : List Byte :=
  leBytes 4 r.runner ++ leBytes 4 (r.gen % 2 ^ 24 + 2 ^ 24 * (r.step % 16) + (if r.run then 2 ^ 29 else 0) + 2 ^ 30 * (r.state % 4)) ++
  leBytes 4 r.hlaunch ++ leBytes 4 r.rlaunch ++ leBytes 4 r.image ++ leBytes 4 r.holder ++ leBytes 8 r.deadline ++
  leBytes 4 (r.ecnt % 2 ^ 11 + (if r.nv then 2 ^ 11 else 0) + 2 ^ 16 * (r.thr % 2 ^ 12) + 2 ^ 28 * (r.part % 16)) ++
  leBytes 4 r.base ++ leBytes 8 r.result.toNat ++ List.replicate 80 0 ++
  (List.range 8).flatMap (fun i => leBytes 4 (r.ckpt.getD i 0).toNat) ++ List.replicate 96 0

/-- One indivisible write of a record, at every scope at once (R353, R358): both lines. -/
def State.writeRecord (s : State) (core : Nat) (x : Xl) (r : CapRecord) : State :=
  let s := (s.ownLine core (x.pa / 128) x.key).ownLine core (x.pa / 128 + 1) x.key
  (s.perform x.key x.pa (r.bytes.take 128)).perform x.key (x.pa + 128) (r.bytes.drop 128)

/-- The record's two lines, obtained owned with write permission (R353, R358), behind the requests that wait for the first of them (R354). -/
def Ctx.record (x : Ctx) (s : State) (va : Nat) (go : Xl → State → Res) : Res :=
  match s.translate x.core (x.part s) va true false true with
  | .error f => f.res (s.forget x.core (x.part s) va) va 0x7F 2 true
  | .ok (t, s) =>
    let line := t.pa / 128
    if s.owns x.core line && s.lineStop x.k x.u line false x.h then .stall (.line line)
    else x.obtain s [(line, t.key), (line + 1, t.key)] fun s =>
      if s.poisoned t.key (t.pa + 128) then
        .trap s { cause := .memoryError, addr := va + 128, slot := 2, wr := true, detail := s.errorCode (t.pa + 128) }
      else go t s

/-- The record leases of a bound (R353). -/
def recordLeases (va pa deadline : Nat) : List Lease :=
  [⟨va / 128, pa / 128, deadline, false, 0⟩, ⟨va / 128 + 1, pa / 128 + 1, deadline, false, 0⟩]

/-! ## Crew-side state (R351) -/

def Crew.s8 (c : Crew) : List Word := (List.range 8).map fun i => c.sregs.getD i 0

def Crew.setS8 (c : Crew) (xs : List Word) : Crew :=
  (List.range 8).foldl (fun c i => { c with sregs := c.sregs.put i (xs.getD i 0) }) c

def Crew.modCap (c : Crew) (f : Capsule → Capsule) : Crew := { c with cap := f c.cap }

/-- A transfer of the capsule instructions: the unit parks, and the capsule's state is set after the instruction has counted. -/
def Ctx.capGo (x : Ctx) (s : State) (pc : Dword) (f : Crew → Crew) : Res :=
  if badTarget pc then .goto s pc true else .placed ((s.transfer x pc true).modCrew x.k fun c => (f c).modCap fun p => { p with stepPc := pc })

def Ctx.stepPc (x : Ctx) (s : State) (base step : Nat) : Dword :=
  (match x.launch? s with | some l => l.code | none => 0) + BitVec.ofNat 64 (base + 0x200 * step)

def writeDst (u : Nat) (o : Opnd) (v : Word) (c : Crew) : Crew := if o.isS then c.writeReg u ⟨o, 0, [v]⟩ else c

/-! ## CAP.ENTER (R353) -/

/-- A contender of the record's image and partition, which alone may adopt (R354). -/
def CapRecord.adoptedBy (r : CapRecord) (l : Launch) : Bool := l.imagetag.toNat == r.image && l.part == r.part

/-- A contender may adopt now (R353). -/
def CapRecord.displaceable (r : CapRecord) (l : Launch) (ck : Nat) : Bool := r.adoptedBy l && (!r.run || decide (r.deadline < ck))

/-- An event trap of CAP.ENTER records the record address (R366). -/
def Trap.atRecord (t : Trap) (va : Nat) : Trap := { t with addr := va }

/-- The checks of CAP.ENTER that need no record, in their order. -/
def Ctx.enterTrap (x : Ctx) (s : State) (l : Launch) (va : Nat) (b : Int) : Option Trap :=
  let e := (x.scalar x.a.in1).toNat
  let counter : Option Trap :=
    if x.a.in1 = .none then none
    else if 2047 < e then some ((evTrap .eventIndex (e % 2048) 3).atRecord va)
    else match s.ownCounter x.core (x.bslot s) e 3 with
      | .error t => some (t.atRecord va)
      | .ok _ => none
  if x.divided then some { cause := .capsuleDivergence, addr := va }
  else if x.c.cap.role != .none || x.c.cap.rv then some { cause := .capsuleState, addr := va }
  else if va % 256 != 0 then some { cause := .misalignedAddress, addr := va, slot := 2 }
  else if 2 ^ 56 ≤ va then some { cause := .addressRange, addr := va, slot := 2 }
  else match counter with
    | some t => some t
    | none =>
      if x.capsuleFault 0xDA then some x.capsuleTrap
      else if b % 512 != 0 || b < 0 || (l.codesz : Int) < b + 512 then some { cause := .capsuleFault, addr := va, slot := 2 } else none

/-- FREE: acquires (R353). -/
def Ctx.acquire (x : Ctx) (s : State) (l : Launch) (va base t : Nat) (w : Xl) (r : CapRecord) : Res :=
  let pc := x.stepPc s base 0
  if badTarget pc then .goto s pc true
  else
    let s8 := x.c.s8
    let gen := (r.gen + 1) % 2 ^ 24
    let r : CapRecord :=
      { r with state := 1, run := true, step := 0, gen := gen, runner := x.c.index, holder := x.c.index, rlaunch := x.c.launch
               hlaunch := x.c.launch, image := l.imagetag.toNat, part := l.part, base := base, thr := t - 1
               nv := x.a.in1 != .none, ecnt := if x.a.in1 = .none then 0 else (x.scalar x.a.in1).toNat
               ckpt := s8, deadline := s.ck + t }
    let s := s.writeRecord x.core w r
    x.capGo s pc fun c => (writeDst x.u x.a.dst (wordOf gen) c).modCap fun p =>
      { p with role := .holder, mode := true, record := BitVec.ofNat 64 va, gen := gen, step := 0, ckc := s8, count := 0
               wbuf := [], wlines := [], descheduled := false, recLeases := recordLeases va w.pa (s.ck + t) }

/-- Adopts from a runner off its issuer (R353, R357). -/
def Ctx.adopt (x : Ctx) (s : State) (va t : Nat) (w : Xl) (r : CapRecord) : Res :=
  let pc := x.stepPc s r.base r.step
  if badTarget pc then .goto s pc true
  else
    let s8 := x.c.s8
    let gen := (r.gen + 1) % 2 ^ 24
    let s := s.writeRecord x.core w
      { r with gen := gen, state := 2, run := true, runner := x.c.index, rlaunch := x.c.launch, deadline := s.ck + r.thr + 1 }
    let s := { s with notices := s.notices.put s.nextNotice (.adoption r.rlaunch r.runner), nextNotice := s.nextNotice + 1 }
    x.capGo s pc fun c => (c.setS8 r.ckpt).modCap fun p =>
      { p with role := .adopter, mode := true, record := BitVec.ofNat 64 va, gen := gen, step := r.step, ckc := r.ckpt, count := 0
               wbuf := [], wlines := [], stash := s8, stashPc := x.pc, descheduled := false
               recLeases := recordLeases va w.pa (s.ck + t) }

/-- CAP.ENTER. -/
def bodyCapEnter (x : Ctx) (s : State) : Res :=
  match x.launch? s with
  | none => .done s
  | some l =>
    let va := (x.dword x.a.in0 true 0).toNat
    let b : Int := (x.pc.toNat : Int) + x.a.imm.toInt - (l.code.toNat : Int)
    let t := x.a.aux.toNat % 4096 + 1
    match x.enterTrap s l va b with
    | some t => .trap s t
    | none =>
      if !s.released x.k x.c 5 true true true then .stall (.release 5 true true true)
      else x.record s va fun w s =>
          let bits := s.readRecord w.key w.pa
          let r := CapRecord.read bits
          if recordBad bits || (r.adoptedBy l && stepBeyond bits l.codesz) then .trap s { cause := .capsuleRecord, addr := va, slot := 2 }
          else if r.state = 0 then x.acquire s l va b.toNat t w r
          else if r.displaceable l s.ck then x.adopt s va t w r
          else .suspend s x.pc (.record (w.pa / 128) r.deadline)

/-! ## CAP.STEP and CAP.END (R358, R359) -/

/-- The displaced path. -/
def Ctx.displaced (x : Ctx) (s : State) : Res :=
  if x.c.cap.role = .adopter then
    x.capGo s x.c.cap.stashPc fun c => (c.setS8 c.cap.stash).endLeases.modCap (fun p =>
      { p with role := .none, mode := false, adopted := false, wbuf := [], wlines := [], count := 0, descheduled := false }) |>
      fun c => { c with leases := [] }
  else .parked (s.modCrew x.k fun c => { (writeDst x.u x.a.dst 1 c.endLeases).modCap (fun p =>
    { p with role := .displaced, mode := false, wbuf := [], wlines := [], count := 0, descheduled := false }) with leases := [] })

/-- The record still names this runner and step. -/
def CapRecord.mine (r : CapRecord) (c : Crew) : Bool :=
  r.gen == c.cap.gen && r.runner == c.index && r.rlaunch == c.launch && r.step == c.cap.step && (r.state == 1 || r.state == 2)

/-- A commit's stores: the step write buffer into its lines, performed with the record (R358). -/
def State.commitLines (s : State) (core : Nat) (p : Capsule) : State :=
  p.wlines.foldl (fun s (e : Nat × Nat) =>
    let bs := (p.wbuf.filter fun b => b.1 / 128 == e.1).map fun b => (b.1 % 128, b.2)
    (((s.ownLine core e.1 e.2).writeLine e.2 e.1 bs).touch (e.1 * 128)).wakeLine e.1) s

/-- A committed step leaves its data leases and its buffer behind. -/
def Crew.committed (c : Crew) : Crew :=
  { c.modCap (fun p => { p with wbuf := [], wlines := [], ckc := c.s8, count := 0, descheduled := false }) with leases := [] }

/-- What follows a commit (R359, R360). -/
def Ctx.commit (x : Ctx) (s : State) (fin : Bool) (va : Nat) (w : Xl) (r : CapRecord) : Res :=
  let p := x.c.cap
  let s8 := x.c.s8
  let result : Dword := if fin && x.a.in1.isS then x.dword x.a.in1 true 0 else 0
  let deadline := s.ck + r.thr + 1
  let r' : CapRecord := { r with ckpt := s8, run := !fin, deadline := deadline, step := if fin then 0 else p.step + 1
                                 state := if fin then 0 else r.state, result := if fin then result else r.result }
  let write (s : State) : State := (s.commitLines x.core p).writeRecord x.core w r'
  if !fin then
    let pc := x.stepPc s r.base (p.step + 1)
    if badTarget pc then .goto s pc true
    else x.capGo (write s) pc fun c => (writeDst x.u x.a.dst 0 c.committed).modCap fun q =>
      { q with step := p.step + 1, recLeases := recordLeases va w.pa deadline }
  else if p.role = .adopter then
    if badTarget p.stashPc then .goto s p.stashPc true
    else
      let s := write s
      let n : Notice := .delivery r.hlaunch r.holder result (if r.nv then some r.ecnt else none)
      let s := { s with notices := s.notices.put s.nextNotice n, nextNotice := s.nextNotice + 1 }
      x.capGo s p.stashPc fun c => (c.committed.setS8 p.stash).modCap fun q =>
        { q with role := .none, mode := false, adopted := false, recLeases := [] }
  else .parked ((write s).modCrew x.k fun c => (writeDst x.u x.a.dst 0 c.committed).modCap fun q =>
    { q with role := .none, mode := false, adopted := false, recLeases := [] })

/-- CAP.STEP (`fin` false) and CAP.END. -/
def capCommit (fin : Bool) (x : Ctx) (s : State) : Res :=
  let p := x.c.cap
  let va := p.record.toNat
  if p.role = .none then .trap s { cause := .capsuleState, addr := va }
  else if x.capsuleFault (if fin then 0xDC else 0xDB) then .trap s x.capsuleTrap
  else if !fin && p.mode && p.step == 7 then .trap s { cause := .capsuleFault, addr := va }
  else if p.adopted || p.role == .displaced then x.displaced s
  else x.record s va fun w s =>
      let r := CapRecord.read (s.readRecord w.key w.pa)
      if !r.mine x.c then x.displaced s
      else if x.c.leases.any fun l => !l.inForce s.ck then
        x.capGo s (x.stepPc s r.base p.step) fun c =>
          { (c.setS8 p.ckc).modCap (fun q => { q with wbuf := [], wlines := [], count := 0, descheduled := false
                                                      recLeases := recordLeases va w.pa (s.ck + r.thr + 1) }) with leases := [] }
      else x.commit s fin va w r

/-- CAP.RESULT (R365). In capsule mode it is none of the instructions that R355 allows, and with nothing to await capsule-state stands
first (R366). -/
def bodyCapResult (x : Ctx) (s : State) : Res :=
  if x.c.cap.mode && (x.c.cap.rv || x.c.cap.role == .displaced) then .trap s x.capsuleTrap
  else if x.c.cap.rv then .parked (s.modCrew x.k fun c => (c.writePair x.u x.a.dst.index c.cap.res).modCap fun p =>
    { p with rv := false, role := .none, adopted := false })
  else if x.c.cap.role = .displaced then .suspend s x.pc .result
  else .trap s { cause := .capsuleState, addr := x.c.cap.record.toNat }

/-! ## The instructions -/

def execLease (a : Args) (s : State) : Out := issue 0xB4 a bodyLease s
def execLrel (a : Args) (s : State) : Out := issue 0xB5 a bodyLrel s
def execCapEnter (a : Args) (s : State) : Out := issue 0xDA a bodyCapEnter s
def execCapStep (a : Args) (s : State) : Out := issue 0xDB a (capCommit false) s
def execCapEnd (a : Args) (s : State) : Out := issue 0xDC a (capCommit true) s
def execCapResult (a : Args) (s : State) : Out := issue 0xDD a bodyCapResult s

/-! ## Steps of the device (R348, R351, R357, R360) -/

/-- LEASE_EXPIRE: a lease on a physical line whose deadline the module counter has reached. -/
def execLeaseExpire (crew line : Nat) (s : State) : Out :=
  .next (s.modCrew crew fun c =>
    let due (l : Lease) : Bool := l.line == line && decide (l.deadline ≤ s.ck)
    { c with
      leases := if c.cap.mode then c.leases.map fun l => if due l then { l with ended := true } else l else c.leases.filter fun l => !due l
      cap := { c.cap with recLeases := c.cap.recLeases.filter fun l => !due l } })

/-- A unit has left issue (R348, R357): it is suspended, dozing, held at a fault or on its way to a hold or a handler, or it is stopped at
a stop point because its block is being saved or flushed. -/
def State.offIssue (s : State) (k : Nat) (h : CrewUnit) : Bool :=
  match h.st with
  | .suspended _ _ | .dozing _ | .held _ | .entering _ _ | .faulting _ _ => true
  | _ => s.halted k h

/-- CAPSULE_DESCHEDULE: a runner that has left issue, or the leases of the units of a crew that are stopped for pre-emption (R348, R357). What
waited for it at a fault goes on. -/
def execCapsuleDeschedule (crew : Nat) (s : State) : Out :=
  .next (match s.crews.get? crew with
    | none => s
    | some c => c.units.foldl (fun s (e : Nat × CrewUnit) =>
        if if c.cap.mode then e.1 == 0 && s.offIssue crew e.2 else s.halted crew e.2 then (s.deschedule crew e.1).settleFault crew e.1 else s) s)

/-- ADOPTION_NOTICE. -/
def execAdoptionNotice (id : Nat) (s : State) : Out :=
  match s.notices.get? id with
  | some (.adoption launch index) =>
    .next ({ s with notices := s.notices.del id }.reachCrew launch (s.crewNamed launch index) fun c => c.modCap fun p => { p with adopted := true })
  | _ => .next s

/-- CAPSULE_DELIVERY: the result, and the notification of the holder's block. A unit that waits in CAP.RESULT is woken. -/
def execCapsuleDelivery (id : Nat) (s : State) : Out :=
  match s.notices.get? id with
  | some (.delivery launch index res counter) =>
    let s := { s with notices := s.notices.del id }
    let n := s.crewNamed launch index
    let s := s.reachCrew launch n fun c =>
      (c.modCap fun p => { p with res := res, rv := true }).mapUnits fun _ h => h.wakeIf fun w => w == .result
    let s := s.modLaunch launch fun l => l.mapSaved fun _ b =>
      { b with runnable := b.runnable || (b.crews.any (·.name == n) && b.anyUnit fun h => h.waitsFor fun w => w == .result) }
    .next (match counter with | some e => s.addBlockCounter launch n.1 e 1 | none => s)
  | _ => .next s

end Sys2Proof.Machine
end

