-- ==== Sys2Proof/Machine/Matrix.lean ====
section
/-! DEFINITION. The matrix instructions, opcodes 0xC5 to 0xD0, as the task scheduler accepts them (R269 to R273, R276, R278 to R287,
R291). What a task does when it runs stands in Tasks.lean. -/

namespace Sys2Proof.Machine

/-! ## Units and queues (R272, R273) -/

inductive MUnit where
  | array
  | load
  | scale
  deriving DecidableEq, Repr

def unitOf (op : Nat) : MUnit := if op = 0xC5 then .load else if op < 0xCB then .array else .scale

def isMma (op : Nat) : Bool := decide (0xC6 ≤ op) && decide (op ≤ 0xCA)

/-- Tasks in a task queue; a QFENCE that stands there is none. -/
def State.taskCount (s : State) (core q : Nat) : Nat :=
  ((s.queue core (4 + q)).filter fun i => match i with | .task _ => true | .hoist _ => false).length

/-- The engine, 0 or 1, whose queue takes the instruction (R273). -/
def Ctx.mqueue (x : Ctx) (s : State) (op : Nat) : Nat :=
  match x.a.ctl.toNat % 4 with
  | 0 => 0
  | 1 => 1
  | _ => if isMma op then (if s.taskCount x.core 1 < s.taskCount x.core 0 then 1 else 0) else x.c.steer

def Ctx.steered (x : Ctx) : Bool := x.a.ctl.toNat % 4 == 2

/-! ## Regions (R279) -/

structure TRegion where
  kind : Nat
  bslot : Nat
  base : Nat
  len : Nat
  entry : Option Nat
  chute : Nat
  deriving DecidableEq, Repr

def noRegion : TRegion := { kind := 0, bslot := 0, base := 0, len := 0, entry := none, chute := 0 }

/-- The region that WLOAD, an MMA (`out` false) or ACC.ST (`out` true) names. `ix` is the index field of aux. -/
def Ctx.taskRegion (x : Ctx) (s : State) (out : Bool) (ix : Nat) : Except Res TRegion :=
  let ind := x.a.ctl.getLsbD 8
  let slot := if ind then 4 else 5
  let v := (x.scalar x.a.in2).toNat
  let n := if ind then v else ix
  match bits x.a.ctl.toNat 6 2 with
  | 0 =>
    let tt (cause : Cause) : Trap := { cause := cause, slot := slot, ixkind := 1, index := n % 2048 }
    let states := if out then [1] else [2, 3]
    if 511 < n then .error (.trap s (tt .tileIndex))
    else match s.tile? x.core n with
      | none => .error (.trap s (tt .tileUndefined))
      | some t =>
        if t.chute || t.owner != x.bslot s then .error (.trap s (tt .tileOwner))
        else if s.soft 6 x.core n then .error (.trap s { cause := .softError, detail := 6, slot := slot, ixkind := 1, index := n })
        else if !states.contains t.state then .error (.stall (.entry n states false slot))
        else .ok { kind := 0, bslot := t.owner, base := 1024 * t.base, len := t.bytes, entry := some n, chute := 0 }
  | 1 =>
    let c := field v 14 9
    let e := field v 8 0
    match s.inst? x.core c with
    | none => .error (.trap s (chuteTrap .chuteUndefined c slot))
    | some (home, d) =>
      if home != x.core then .error (.trap s (chuteTrap .chuteRole c slot))
      else match s.tile? home e with
        | none => .error (.trap s (chuteTrap .chuteHolder c slot))
        | some t =>
          if s.holds home d e x.c.index 1 || (!out && s.holds home d e x.c.index 3) then
            .ok { kind := 1, bslot := t.owner, base := 1024 * t.base, len := t.bytes, entry := some e, chute := c }
          else .error (.trap s (chuteTrap .chuteHolder c slot))
  | _ =>
    if 63 < n then .error (.trap s (chuteTrap .chuteIndex n slot))
    else match s.inst? x.core n with
      | none => .error (.trap s (chuteTrap .chuteUndefined n slot))
      | some (home, d) =>
        if home != x.core || !(match x.launch? s with | some l => l.bound x.c.bench n out | none => true) then
          .error (.trap s (chuteTrap .chuteRole n slot))
        else .ok { kind := 2, bslot := d.cbslot, base := 0, len := 1024 * (d.ssize + 1), entry := none, chute := n }

/-- Source bytes lie in the region, at a multiple of 128 (R268, R279). -/
def sourceTrap (off n len : Nat) : Option Trap :=
  if off % 128 != 0 then some { cause := .misalignedAddress, addr := off }
  else if len < off + n then some { cause := .scratchRange, addr := off }
  else none

/-! ## Accumulator tiles (R120, R271, R278) -/

/-- The crew has no tile aJ. -/
def Ctx.tileTrap? (x : Ctx) (s : State) (j : Nat) : Option Trap :=
  if (x.c.budget - x.c.bound) / 128 ≤ j then some { cause := .registerRange }
  else if s.softErrors.isEmpty then none
  else ((List.range laneCount).find? fun l => (List.range 128).any fun i => s.soft 1 x.k (128 * (x.c.bound + 128 * j + i) + l)).map fun l =>
    { cause := .softError, detail := 1, lane := l }

def Crew.tileMode (c : Crew) (j : Nat) : Nat := c.tileModes.getD j 0

/-! ## Placing a task (R272, R277) -/

def Ctx.newTask (x : Ctx) (s : State) (op : Nat) (r : TRegion) : Task :=
  { id := s.nextItem, crew := x.k, launch := x.c.launch, index := x.c.index, block := x.c.block, bslot := x.bslot s, spall := x.u
    pc := x.pc, op := op, ctl := x.a.ctl, aux := x.a.aux, dst := if x.a.dst == .none then 0x3FF else x.a.dst.index, arg := x.scalar x.a.in0, kind := r.kind
    regionBslot := r.bslot, regionBase := r.base, regionLen := r.len, entry := r.entry, chute := r.chute, offset := x.a.imm.toNat
    scope := x.a.scope.toNat, tok := x.tok?, steered := x.steered, pseq := 0, sa := [], merge := [], lanes := 0, result := none
    tile := none, wbase := 0, wsize := 0, wmask := 0, mode := 0, started := false, since := s.ck, handle := x.scalar x.a.in2 }

/-- Accepts a task; `f` is what acceptance changes in the crew. -/
def Ctx.accept (x : Ctx) (s : State) (q : Nat) (t : Task) (f : Crew → Crew) : Res :=
  let s := s.setQueue x.core (4 + q) (s.queue x.core (4 + q) ++ [.task t])
  let s := { s with nextItem := s.nextItem + 1, accepted := (x.core, 1) :: s.accepted }
  x.crewDone s fun c => f (c.raiseToken t.tok)

/-- Accepts a task that will write registers of the crew: they are pending until it completes (R277). -/
def Ctx.acceptRead (x : Ctx) (s : State) (q : Nat) (t : Task) (n : Nat) : Res :=
  let ws := (List.range n).map fun i => (⟨Opnd.next x.a.dst i, x.h.mask, []⟩ : RegWrite)
  x.accept s q { t with result := some x.c.nextId, lanes := x.h.mask } fun c =>
    c.addResult { id := 0, due := s.ck + 1, unit := x.u, writes := ws, flags := 0, parts := 1, ldc := false, tok := none }

/-- Scope codes 0 to 2 alone are well formed, so no grant is tested (R278). One acceptance a ck and room in the queue (R272), then the
rest. -/
def Ctx.withQueue (x : Ctx) (s : State) (op : Nat) (go : Nat → Res) : Res :=
  let q := x.mqueue s op
  if s.accepted.contains (x.core, 1) then .stall (.acceptance 1)
  else if !s.queueRoom x.core (4 + q) x.c.launch x.c.name then .stall (.queueRoom (4 + q)) else go q

/-! ## WLOAD (R269, R270, R280) -/

/-- Lines of a loaded form. -/
def formLines (form : Nat) : Nat := if form = 0 then 128 else if form = 1 then 256 else 26

def linesOverlap (a n b m : Nat) : Bool := decide (a < b + m) && decide (b < a + n)

/-- The block's table of an engine after a WLOAD's acceptance. -/
def setWeight (tab : Table (Nat × Nat)) (e w form base : Nat) : Table (Nat × Nat) :=
  let keep := tab.filter fun (x : Nat × Nat × Nat) =>
    x.1 / 128 != e || !linesOverlap x.2.2 (formLines x.2.1) base (formLines form)
  Table.put keep (128 * e + w) (form, base)

def weightTrap (cause : Cause) (w : Nat) : Trap := { cause := cause, slot := 5, ixkind := 5, index := w }

def bodyWload (x : Ctx) (s : State) : Res :=
  let form := bits x.a.ctl.toNat 4 2
  let mask := bits x.a.ctl.toNat 2 2
  let w := x.a.aux.toNat % 128
  let base := (x.scalar x.a.in0).toNat
  let n := formLines form
  x.withQueue s 0xC5 fun q =>
    match x.taskRegion s false (bits x.a.aux.toNat 7 9) with
    | .error r => r
    | .ok r => match sourceTrap x.a.imm.toNat (128 * n) r.len with
      | some t => .trap s t
      | none =>
        let wlines := match x.block? s with | some b => b.wlines | none => 0
        if wlines < base + n then .trap s { weightTrap .weightRange w with slot := 2 }
        else
          let s := s.modBlock (blockKey x.core (x.bslot s)) fun b =>
            { b with wtab := ((List.range 2).filter mask.testBit).foldl (fun t e => setWeight t e w form base) b.wtab }
          x.accept s q { x.newTask s 0xC5 r with wbase := base, wsize := n, wmask := mask } id

/-! ## The MMA family (R276, R281, R282) -/

/-- Form of the weight entry, bytes of A, and whether the partial is FP32, by opcode and type bit. -/
def mmaKind (op : Nat) (ty : Bool) : Nat × Nat × Bool :=
  match op with
  | 0xC6 => (0, 12288, true)
  | 0xC7 => (0, 12288, false)
  | 0xC8 => (1, 24576, true)
  | 0xC9 => (2, 12288, false)
  | _ => (0, 12288, !ty)

/-- Partials that the crew has produced in a queue and not yet taken. -/
def Crew.untaken (c : Crew) (q : Nat) : Nat := (c.produce.getD q 0 + 256 - c.take.getD q 0) % 256

/-- Mode of a tile fits an FP32 or an INT32 partial. -/
def modeFits (fp : Bool) (mode : Nat) : Bool := if fp then mode == 0 else mode == 1 || mode == 2

def accTrap (cause : Cause) : Trap := { cause := cause }

def mmaBody (op : Nat) (x : Ctx) (s : State) : Res :=
  let (form, bytes, fp) := mmaKind op (x.a.ctl.getLsbD 2)
  let dest := bits x.a.ctl.toNat 3 3
  let tile : Option Nat := if dest = 0 then none else some (dest - 4)
  let w := x.a.aux.toNat % 128
  x.withQueue s op fun q =>
    match tile.bind (x.tileTrap? s) with
    | some t => .trap s t
    | none => match x.taskRegion s false (bits x.a.aux.toNat 7 9) with
      | .error r => r
      | .ok r => match sourceTrap x.a.imm.toNat bytes r.len with
        | some t => .trap s t
        | none =>
          let tab := match x.block? s with | some b => b.wtab | none => []
          let engines := if x.steered then [0, 1] else [q]
          let entries := engines.map fun e => tab.get? (128 * e + w)
          if entries.contains none then .trap s (weightTrap .weightUndefined w)
          else if entries.any fun e => e.map (·.1) != some form then .trap s (weightTrap .weightForm w)
          else
            let mode := match tile with | some j => x.c.tileMode j | none => 0
            let base := match tab.get? (128 * q + w) with | some e => e.2 | none => 0
            let t := { x.newTask s op r with wbase := base, wsize := formLines form, wmask := 2 ^ q, tile := tile, mode := mode }
            let steer (c : Crew) : Crew := if x.steered then { c with steer := q } else c
            if tile.isSome then
              if !modeFits fp mode then .trap s (accTrap .accMode) else x.accept s q t steer
            else if 4 ≤ x.c.untaken q then .trap s (accTrap .partialOverflow)
            else if 4 ≤ (s.core x.core).creditsUsed.getD q 0 then .stall (.partialCredit q)
            else
              let seq := x.c.produce.getD q 0
              let s := s.modCore x.core fun c => { c with creditsUsed := c.creditsUsed.put q (c.creditsUsed.getD q 0 + 1) }
              x.accept s q { t with pseq := seq } fun c => { steer c with produce := c.produce.put q ((seq + 1) % 256) }

/-! ## TSACC and TSACC.I (R276, R283) -/

/-- Whether the partial of a sequence number is FP32: as it lies in the buffer, or as its MMA will leave it. -/
def State.partialKind (s : State) (core q launch : Nat) (n : CrewName) (seq : Nat) : Bool :=
  match (s.core core).partials.find? fun p => p.queue == q && p.launch == launch && p.name == n && p.seq == seq with
  | some p => p.fp
  | none => (s.queue core (4 + q)).any fun i => match i with
    | .task t => isMma t.op && t.tile.isNone && t.launch == launch && t.name == n && t.pseq == seq &&
        (mmaKind t.op (t.ctl.getLsbD 2)).2.2
    | .hoist _ => false

def tsaccBody (op : Nat) (x : Ctx) (s : State) : Res :=
  let fp := op == 0xCB
  let j := bits x.a.ctl.toNat 3 2
  x.withQueue s op fun q =>
    match x.tileTrap? s j with
    | some t => .trap s t
    | none =>
      let seq := x.c.take.getD q 0
      let some_ := x.c.untaken q != 0
      let mode := x.c.tileMode j
      if !modeFits fp mode || (some_ && s.partialKind x.core q x.c.launch x.c.name seq != fp) then .trap s (accTrap .accMode)
      else if !some_ then .trap s (accTrap .partialNone)
      else
        let sa := if fp then lanesOf fun l => x.word x.a.in1 l else []
        let arg := if fp then wordOf (x.fword x.a.in0 0) else 0
        x.accept s q { x.newTask s op noRegion with pseq := seq, sa := sa, arg := arg, tile := some j, mode := mode } fun c =>
          { c with take := c.take.put q ((seq + 1) % 256) }

/-! ## TOPK, ACC.RD, ACC.ST, ACC.CLR (R284 to R287) -/

def bodyTopk (x : Ctx) (s : State) : Res :=
  let j := bits x.a.ctl.toNat 3 2
  let k := x.a.aux.toNat % 16 + 1
  x.withQueue s 0xCD fun q =>
    match x.tileTrap? s j with
    | some t => .trap s t
    | none =>
      let merge := if x.a.ctl.getLsbD 6 then (List.range (2 * k)).map fun i => x.c.readVec (Opnd.next x.a.dst i) else []
      x.acceptRead s q { x.newTask s 0xCD noRegion with tile := some j, mode := x.c.tileMode j, merge := merge } (2 * k)

def bodyAccRd (x : Ctx) (s : State) : Res :=
  let j := bits x.a.ctl.toNat 3 2
  let n := x.a.aux.toNat % 16 + 1
  x.withQueue s 0xCE fun q =>
    match x.tileTrap? s j with
    | some t => .trap s t
    | none =>
      if 128 < (x.scalar x.a.in0).toNat + n then .trap s { accTrap .accRange with slot := 2 }
      else x.acceptRead s q { x.newTask s 0xCE noRegion with tile := some j, mode := x.c.tileMode j } n

/-- Element size of a conversion code. -/
def cvtBytes (cvt : Nat) : Nat := if cvt = 0 then 4 else if cvt = 1 then 2 else 1

/-- Row pitch in bytes: 0 stands for 128 elements. -/
def accPitch (cvt : Nat) (p : Int) : Int := if p = 0 then 128 * cvtBytes cvt else p

/-- ACC.ST's own checks of offset, pitch and extent (R286). -/
def accStoreTrap (off cvt len : Nat) (p : Int) : Option Trap :=
  let e := cvtBytes cvt
  let lo : Int := off + (if p < 0 then 95 * p else 0)
  let hi : Int := off + (if 0 < p then 95 * p else 0) + 128 * e
  if off % e != 0 then some { cause := .misalignedAddress, addr := off }
  else if p % e != 0 then some { cause := .misalignedAddress, addr := off, slot := 2 }
  else if lo < 0 || (len : Int) < hi then some { cause := .scratchRange, addr := off }
  else none

def bodyAccSt (x : Ctx) (s : State) : Res :=
  let j := bits x.a.ctl.toNat 2 2
  let cvt := bits x.a.ctl.toNat 4 2
  x.withQueue s 0xCF fun q =>
    match x.tileTrap? s j with
    | some t => .trap s t
    | none => match x.taskRegion s true (if bits x.a.ctl.toNat 6 2 = 2 then x.a.aux.toNat % 64 else x.a.aux.toNat % 512) with
      | .error r => r
      | .ok r => match accStoreTrap x.a.imm.toNat cvt r.len (accPitch cvt (x.scalar x.a.in0).toInt) with
        | some t => .trap s t
        | none =>
          let mode := x.c.tileMode j
          if cvt = 1 ∧ mode ≠ 0 then .trap s (accTrap .accMode)
          else x.accept s q { x.newTask s 0xCF r with tile := some j, mode := mode } id

def bodyAccClr (x : Ctx) (s : State) : Res :=
  let j := bits x.a.ctl.toNat 3 2
  let mode := bits x.a.ctl.toNat 5 2
  x.withQueue s 0xD0 fun q =>
    if (x.c.budget - x.c.bound) / 128 ≤ j then .trap s { cause := .registerRange }
    else x.accept s q { x.newTask s 0xD0 noRegion with tile := some j, mode := mode } fun c =>
      { c with tileModes := c.tileModes.put j mode }

/-! ## The instructions -/

def execWload (a : Args) (s : State) : Out := issue 0xC5 a bodyWload s
def execMmaE4m3 (a : Args) (s : State) : Out := issue 0xC6 a (mmaBody 0xC6) s
def execMmaI8 (a : Args) (s : State) : Out := issue 0xC7 a (mmaBody 0xC7) s
def execMmaBf16 (a : Args) (s : State) : Out := issue 0xC8 a (mmaBody 0xC8) s
def execMmaTi8 (a : Args) (s : State) : Out := issue 0xC9 a (mmaBody 0xC9) s
def execMmaDist (a : Args) (s : State) : Out := issue 0xCA a (mmaBody 0xCA) s
def execTsacc (a : Args) (s : State) : Out := issue 0xCB a (tsaccBody 0xCB) s
def execTsaccI (a : Args) (s : State) : Out := issue 0xCC a (tsaccBody 0xCC) s
def execTopk (a : Args) (s : State) : Out := issue 0xCD a bodyTopk s
def execAccRd (a : Args) (s : State) : Out := issue 0xCE a bodyAccRd s
def execAccSt (a : Args) (s : State) : Out := issue 0xCF a bodyAccSt s
def execAccClr (a : Args) (s : State) : Out := issue 0xD0 a bodyAccClr s

end Sys2Proof.Machine
end

