-- ==== Sys2Proof/Machine/Tasks.lean ====
section
/-! DEFINITION. What tile tasks do: when they start, what they compute, what completes with them (R36 to R41, R226, R268, R274 to R277,
R280 to R287, R444). A task's reads and writes are made at its completion (log 11). -/

namespace Sys2Proof.Machine

/-! ## Starting (R226, R274) -/

def State.task? (s : State) (core q id : Nat) : Option Task :=
  match s.item? core q id with | some (.task t) => some t | _ => none

/-- Tasks accepted before one: those that stand before it in its queue, and those of its block in the other queue with a lower number.
No condition of R274 binds tasks of different blocks across the queues. -/
def State.tasksBefore (s : State) (core q : Nat) (t : Task) : List (Nat × Task) :=
  let here := ((s.queue core q).takeWhile fun i => i.id != t.id).filterMap fun i => match i with | .task e => some (q, e) | .hoist _ => none
  let other := 9 - q
  here ++ (s.queue core other).filterMap fun i => match i with
    | .task e => if e.id < t.id && e.launch == t.launch && e.block == t.block then some (other, e) else none
    | .hoist _ => none

/-- A task reads or writes weight lines that overlap another's, in an engine of both, of one block (R274, condition 3). -/
def Task.linesMeet (a b : Task) : Bool :=
  a.launch == b.launch && a.block == b.block && (a.wmask &&& b.wmask) != 0 && linesOverlap a.wbase a.wsize b.wbase b.wsize

def Task.isLoad (t : Task) : Bool := t.op == 0xC5

/-- An earlier task binds a later one (R274, R226): its unit, its tile, its lines, or a chute that it waits for. -/
def bindsTask (q : Nat) (t : Task) (qe : Nat) (e : Task) : Bool :=
  (q == qe && unitOf e.op == unitOf t.op) ||
  (q == qe && e.kind == 2 && !e.started) ||
  (e.launch == t.launch && e.name == t.name && e.tile.isSome && e.tile == t.tile) ||
  ((e.isLoad || t.isLoad) && e.wsize != 0 && t.wsize != 0 && e.linesMeet t)

/-- An earlier QFENCE of the crew stands in the queue (R260). -/
def State.fenced (s : State) (core q : Nat) (t : Task) : Bool :=
  (s.earlier core q t.launch t.name t.id).any fun i => match i with | .hoist _ => true | .task _ => false

/-- The partial that TSACC takes lies in the buffer (R274, condition 4). -/
def State.partialOf (s : State) (core q : Nat) (t : Task) : Option Partial :=
  (s.core core).partials.find? fun p => p.queue == q - 4 && p.launch == t.launch && p.name == t.name && p.seq == t.pseq

def Task.takesPartial (t : Task) : Bool := t.op == 0xCB || t.op == 0xCC

/-- A chute instance can fire for the task (R226): its slot's entry has made no other transition in this ck (R185). -/
def State.chuteFires (s : State) (core : Nat) (t : Task) : Bool :=
  t.kind != 2 || (match (s.core core).chutes.get? t.chute with
    | some d =>
      if t.op = 0xCF then s.canAcquire core d (core % 4) && !s.moved.contains (core, d.first + d.tail)
      else s.canTake core d && !s.moved.contains (core, d.first + d.head)
    | none => false)

/-- A task may start from 2 ck after its acceptance on (R274). -/
def State.taskMayStart (s : State) (core q : Nat) (t : Task) : Bool :=
  !t.started && decide (t.since + 2 ≤ s.ck) && !s.fenced core q t && !((s.tasksBefore core q t).any fun e => bindsTask q t e.1 e.2) &&
  (!t.takesPartial || (s.partialOf core q t).isSome) && s.chuteFires core t && s.engineRelease t.launch t.name t.scope

/-- Firing takes the head slot of an input, or acquires the tail slot of an output (R226). -/
def State.fireChute (s : State) (core q : Nat) (t : Task) : Task × State :=
  if t.kind != 2 then (t, s)
  else match (s.core core).chutes.get? t.chute with
    | none => (t, s)
    | some d =>
      let out := t.op == 0xCF
      let e := d.first + (if out then d.tail else d.head)
      let base := match s.tile? core e with | some x => 1024 * x.base | none => 0
      let r := s.slotRec core e
      let ref := 2 ^ 31 + 8 * core + q
      let t := { t with entry := some e, regionBslot := d.cbslot, regionBase := base }
      if out then
        let s := s.modTile core e fun x => { x with state := 1, expect := 1024 * (d.ssize + 1), landed := 0, late := false }
        let s := s.setSlotRec core e { item := 0, mark := false, eng := true, acqcore := core % 4, holder := ref }
        let s := s.modChute core t.chute fun d =>
          { d with tail := d.after d.tail, held := setAt d.held (core % 4) (· + 1), nempty := d.nempty - 1 }
        (t, s.wakeChute core t.chute)
      else
        let s := s.modTile core e fun x => { x with state := 3 }
        let s := s.setSlotRec core e { r with eng := true, holder := ref }
        let s := s.modChute core t.chute fun d => { d with head := d.after d.head, nready := d.nready - 1 }
        (t, s.wakeChute core t.chute)

/-- TASK_START. -/
def execTaskStart (core q id : Nat) (s : State) : Out :=
  .next (match s.task? core q id with
    | none => s
    | some t =>
      if !s.taskMayStart core q t || !s.ungated core then s
      else
        let (t, s) := s.fireChute core q t
        s.putItem core q (.task { t with started := true, since := s.ck }))

/-! ## Operands (R28, R29, R268) -/

/-- The bytes of the task's region from its offset, by position. -/
def State.regionByte (s : State) (core : Nat) (t : Task) (i : Nat) : Byte :=
  (s.tileBytes (blockKey core t.regionBslot) (t.regionBase + t.offset + i) 1).headD 0

/-- Byte i of weight lines from a base, in an engine of the issuer's block. -/
def State.weightByte (s : State) (core : Nat) (t : Task) (e i : Nat) : Byte :=
  match s.blocks.get? (blockKey core t.bslot) with
  | some b => (if e = 0 then b.w0 else b.w1).byte (128 * t.wbase + i)
  | none => 0

/-- Trit j of the packed group n, and whether its byte holds a reserved code (R28, R29). -/
def State.weightTrit (s : State) (core : Nat) (t : Task) (e n j : Nat) : Int × Bool :=
  let b := (s.weightByte core t e (26 * n + j / 5)).toNat
  if 242 < b then (0, true) else (trit b (j % 5), false)

/-- A 16-bit element at element position i of a byte function. -/
def halfAt (f : Nat → Byte) (i : Nat) : Nat := (f (2 * i)).toNat + 256 * (f (2 * i + 1)).toNat

/-! ## One cell of the array (R36 to R39, R282) -/

/-- What the products decide before any sum (R39): NaN with IV for a NaN operand, an infinity times zero, or infinities of both signs; else
the infinity that one of them is. No rounding takes place then (log 81). -/
def specialPartial (ps : List (Fp × Fp)) : Option FRes :=
  let products := ps.map fun p => p.1.mul p.2
  let infinite := (products.filterMap id).filter fun p => p == .inf false || p == .inf true
  if anyNan (ps.flatMap fun p => [p.1, p.2]) || products.contains none || opposed infinite then some fp32.invalid
  else infinite.head?.map fun p => (fp32.infinity p.neg?, 0)

/-- A sum within a partial that is exactly zero is +0 (R33); only such a zero has no flag. -/
def plusZero (r : FRes) : FRes := if r.1 % 2 ^ 31 = 0 && r.2 == 0 then (0, 0) else r

/-- Finite products added exactly and rounded once (R36). -/
def sumPartial (ps : List (Fp × Fp)) : FRes := plusZero (dotSum 0 ps [])

def partialOfSum (ps : List (Fp × Fp)) : FRes := (specialPartial ps).getD (sumPartial ps)

/-- The four groups of a BF16 block, added in order (R37). -/
def bf16Partial (ps : List (Fp × Fp)) : FRes :=
  let g (i : Nat) : FRes := sumPartial ((ps.drop (32 * i)).take 32)
  let add (a b : FRes) : FRes := let r := plusZero (fAdd 0 (fp32.decode a.1) (fp32.decode b.1)); (r.1, a.2 ||| b.2 ||| r.2)
  (specialPartial ps).getD (add (add (add (g 0) (g 1)) (g 2)) (g 3))

/-- The squared distance of two E4M3 rows (R282), rounded once. -/
def distPartial (ps : List (Fp × Fp)) : FRes :=
  if anyNan (ps.flatMap fun p => [p.1, p.2]) then fp32.invalid
  else
    let q := (leastExp (ps.flatMap fun p => [p.1, p.2])).getD 0
    let t := (ps.map fun p => let d := sumAt q [p.1] - sumAt q [p.2]; d * d).sum
    if t = 0 then (0, 0) else fp32.roundNum 0 false t.natAbs (2 * q)

def intSum (ps : List (Int × Int)) : Int := (ps.map fun p => p.1 * p.2).sum
def intDist (ps : List (Int × Int)) : Int := (ps.map fun p => (p.1 - p.2) * (p.1 - p.2)).sum

/-- The partial of cell [m][n]: its word and flags. -/
def State.cell (s : State) (core e : Nat) (t : Task) (m n : Nat) : Word × BitVec 7 :=
  let ks := List.range 128
  let a8 (k : Nat) : Nat := (s.regionByte core t (128 * m + k)).toNat
  let b8 (k : Nat) : Nat := (s.weightByte core t e (128 * n + k)).toNat
  let f8 : List (Fp × Fp) := ks.map fun k => (e4m3.decode (a8 k), e4m3.decode (b8 k))
  let i8 : List (Int × Int) := ks.map fun k => (signed 8 (a8 k), signed 8 (b8 k))
  let ofR (r : FRes) : Word × BitVec 7 := (wordOf r.1, r.2)
  let ofI (x : Int) : Word × BitVec 7 := (BitVec.ofInt 32 x, 0)
  match t.op with
  | 0xC6 => ofR (partialOfSum f8)
  | 0xC7 => ofI (intSum i8)
  | 0xC8 => ofR (bf16Partial (ks.map fun k =>
      (bf16.decode (halfAt (s.regionByte core t) (128 * m + k)), bf16.decode (halfAt (s.weightByte core t e) (128 * n + k)))))
  | 0xC9 =>
    let ts := ks.map fun k => s.weightTrit core t e n k
    (BitVec.ofInt 32 (intSum ((ks.zip ts).map fun p => (signed 8 (a8 p.1), p.2.1))), flagIf (ts.any (·.2)) flagTC)
  | _ => if t.ctl.getLsbD 2 then ofI (intDist i8) else ofR (distPartial f8)

/-! ## Soft errors in the engine's buffers (R444) -/

/-- Bytes of one weight column in the loaded form, from its first byte. -/
def columnBytes (op : Nat) : Nat := if op = 0xC8 then 256 else if op = 0xC9 then 26 else 128

/-- The weight word of a soft error, as its byte offset from the entry's first byte, where it lies in the entry: structure code 4, owner
the block key, index 2^16 times the engine plus the word's number in the reservation. -/
def State.weightErrors (s : State) (core e : Nat) (t : Task) : List Nat :=
  s.softErrors.filterMap fun (code, owner, index) =>
    let byte := 4 * (index % 2 ^ 16)
    if code = 4 ∧ owner = blockKey core t.bslot ∧ index / 2 ^ 16 = e ∧ 128 * t.wbase ≤ byte + 3 ∧ byte < 128 * (t.wbase + t.wsize) then
      some (byte - 128 * t.wbase) else none

/-- Column n reads a word in error: its results are open (log 14). -/
def columnOpen (op : Nat) (errs : List Nat) (n : Nat) : Bool :=
  errs.any fun b => decide (b < columnBytes op * (n + 1)) && decide (columnBytes op * n < b + 4)

/-- The 128 columns of 96 words of a task's result, and their flags. -/
def State.mmaColumns (s : State) (core e : Nat) (t : Task) : List (List Word) × BitVec 7 :=
  let errs := s.weightErrors core e t
  let col (n : Nat) : List (Word × BitVec 7) := (List.range 96).map fun m =>
    let c := s.cell core e t m n
    if columnOpen t.op errs n then (Config.freeWord (s.fresh + 128 * m + n), c.2) else c
  let cols := (List.range 128).map col
  ((cols.map fun (c : List (Word × BitVec 7)) => c.map (·.1)), cols.foldl (fun f c => c.foldl (fun f x => f ||| x.2) f) 0)

/-! ## Accumulator tiles (R121, R281, R283, R287) -/

/-- Adds one element (R40, R41, R281). -/
def accAdd (mode : Nat) (a b : Word) : Word × BitVec 7 :=
  if mode = 0 then let r := fAdd 0 (fp32.decode a.toNat) (fp32.decode b.toNat); (wordOf r.1, r.2)
  else let r := narrow 32 (mode == 2) false (a.toInt + b.toInt); (wordOf r.1, r.2)

/-- One element of TSACC: acc + partial × s (R40). -/
def accScale (a p : Word) (sc : Nat) : Word × BitVec 7 :=
  let r := fFma 0 (fp32.decode p.toNat) (fp32.decode sc) (fp32.decode a.toNat)
  (wordOf r.1, r.2)

/-- Column c of a crew's tile. -/
def Crew.column (c : Crew) (j i : Nat) : List Word := c.pool? (c.bound + 128 * j + i)

/-- Combines a tile with 128 columns, element by element. -/
def Crew.foldTile (c : Crew) (j : Nat) (cols : List (List Word)) (f : Nat → Word → Word → Word × BitVec 7) : Crew :=
  (List.range 128).foldl (fun c i =>
    let old := c.column j i
    let rs : List (Word × BitVec 7) := (List.range 96).map fun m => f m (lane old m) (lane (cols.getD i []) m)
    let c : Crew := { c with pool := c.pool.put (c.bound + 128 * j + i) (rs.map fun x => x.1) }
    c.mergeFlags (rs.foldl (fun f x => f ||| x.2) 0)) c

/-! ## TOPK (R284) -/

/-- A candidate: its value, its index, whether it is a merge candidate. -/
structure Cand where
  value : Word
  index : Word
  merge : Bool
  deriving DecidableEq, Repr

def Cand.isNan (x : Cand) (mode : Nat) : Bool := mode == 0 && (fp32.decode x.value.toNat).isNan

/-- Order of values: FP32 with −0 below +0, or int32. -/
def Cand.key (x : Cand) (mode : Nat) : Int :=
  if mode = 0 then (if x.value.getLsbD 31 then -((x.value.toNat % 2 ^ 31 : Nat) : Int) - 1 else x.value.toNat) else x.value.toInt

/-- x ranks before y. -/
def Cand.before (mode : Nat) (largest : Bool) (x y : Cand) : Bool :=
  let nx := x.isNan mode
  let ny := y.isNan mode
  if nx != ny then ny
  else
    let kx := if nx then 0 else if largest then -x.key mode else x.key mode
    let ky := if ny then 0 else if largest then -y.key mode else y.key mode
    if kx != ky then decide (kx < ky)
    else if x.index != y.index then decide (x.index.toInt < y.index.toInt)
    else x.merge && !y.merge

def insertCand (lt : Cand → Cand → Bool) (x : Cand) : List Cand → List Cand
  | [] => [x]
  | y :: t => if lt x y then x :: y :: t else y :: insertCand lt x t

/-- The first k candidates of a row in rank order. -/
def Crew.topk (c : Crew) (t : Task) (j m : Nat) : List Cand :=
  let k := t.aux.toNat % 16 + 1
  let new := (List.range 128).map fun i => (⟨lane (c.column j i) m, t.arg + wordOf i, false⟩ : Cand)
  let old := if t.merge.isEmpty then [] else (List.range k).map fun i =>
    (⟨lane (t.merge.getD i []) m, lane (t.merge.getD (k + i) []) m, true⟩ : Cand)
  ((old ++ new).foldl (fun acc x => insertCand (Cand.before t.mode (t.ctl.getLsbD 5)) x acc) []).take k

/-! ## Results in registers -/

/-- Writes the vector registers of ACC.RD and TOPK from vd on, in the lanes active at acceptance, and drops their pending bits. -/
def Crew.taskRegs (c : Crew) (t : Task) (vals : List (List Word)) : Crew :=
  let c := ({ c with out := c.out.filter fun r => some r.id != t.result }).resultsDone t.spall
  vals.zipIdx.foldl (fun c (v : List Word × Nat) =>
    { c with pool := c.pool.put (t.dst + v.2) (mergeLanes (c.pool? (t.dst + v.2)) v.1 t.lanes) }) c

/-! ## ACC.ST (R286) -/

/-- An element converted for storing: value and flags. -/
def storeElement (cvt mode : Nat) (w : Word) : Nat × BitVec 7 :=
  if cvt = 0 then (w.toNat, 0)
  else if cvt = 1 then bf16.ofF32 0 w.toNat
  else if mode = 0 then e4m3.ofF32 0 w.toNat
  else narrow 8 true false w.toInt

/-- Writes every element of the tile into the region, rows in order; a later one over an earlier one. -/
def State.storeTile (s : State) (core : Nat) (t : Task) (c : Crew) (j : Nat) : State × BitVec 7 :=
  let cvt := bits t.ctl.toNat 4 2
  let e := cvtBytes cvt
  let pitch := accPitch cvt t.arg.toInt
  let key := blockKey core t.regionBslot
  (List.range 96).foldl (fun acc m => (List.range 128).foldl (fun (acc : State × BitVec 7) i =>
    let r := storeElement cvt t.mode (lane (c.column j i) m)
    let at_ := ((t.regionBase + t.offset : Nat) : Int) + m * pitch + i * e
    (acc.1.landBytes key at_.toNat (leBytes e r.1), acc.2 ||| r.2)) acc) (s, 0)

/-! ## Performing (R277) -/

/-- Engine writes to the registers of a RETIRING crew are discarded (R94). -/
def Crew.engineWrite (f : Crew → Crew) (c : Crew) : Crew :=
  match c.units.get? 0 with
  | some h => match h.st with
    | .retiring _ => { f c with pool := c.pool }
    | _ => f c
  | none => f c

/-- Reports a soft error of a buffer against the crew that enqueued the task (R433, R444). -/
def State.softTask (s : State) (core : Nat) (t : Task) (code : Nat) : State :=
  let a := s.engineAgent core t.launch t.index t.block t.spall t.crew t.bslot t.pc
  s.report a { cause := .softError, detail := code } false (.launch t.launch)

/-- WLOAD: the region's bytes into the lines of each engine of the mask; what is written holds no error. -/
def State.runLoad (s : State) (core : Nat) (t : Task) : State :=
  let bs := s.tileBytes (blockKey core t.regionBslot) (t.regionBase + t.offset) (128 * t.wsize)
  let key := blockKey core t.bslot
  let s := s.modBlock key fun b => { b with
    w0 := if t.wmask.testBit 0 then b.w0.storeBytes (128 * t.wbase) bs else b.w0
    w1 := if t.wmask.testBit 1 then b.w1.storeBytes (128 * t.wbase) bs else b.w1 }
  { s with softErrors := s.softErrors.filter fun (code, owner, index) =>
      !(code == 4 && owner == key && t.wmask.testBit (index / 2 ^ 16) && decide (32 * t.wbase ≤ index % 2 ^ 16) &&
        decide (index % 2 ^ 16 < 32 * (t.wbase + t.wsize))) }.drawn

/-- An MMA: into the partial buffer, or into a tile. -/
def State.runMma (s : State) (core q : Nat) (t : Task) : State :=
  let e := q - 4
  let (cols, fl) := s.mmaColumns core e t
  let bad := !(s.weightErrors core e t).isEmpty
  let s := if bad then { s with fresh := s.fresh + 2 ^ 14 }.softTask core t 4 else s
  let s := s.reachCrew t.launch t.name fun c => c.mergeFlags fl
  match t.tile with
  | some j => s.reachCrew t.launch t.name (Crew.engineWrite fun c => c.foldTile j cols fun _ a b => accAdd t.mode a b)
  | none =>
    let p : Partial :=
      { queue := e, launch := t.launch, name := t.name, seq := t.pseq, fp := (mmaKind t.op (t.ctl.getLsbD 2)).2.2, cols := cols }
    s.modCore core fun c => { c with partials := c.partials ++ [p] }

/-- TSACC and TSACC.I: the crew's partial into its tile; the credit returns. A word in error is open (structure code 5). -/
def State.runTsacc (s : State) (core q : Nat) (t : Task) : State :=
  match s.partialOf core q t, t.tile with
  | some p, some j =>
    let cols := if p.bad.isEmpty then p.cols else p.cols.mapIdx fun n col => col.mapIdx fun m w =>
      if p.bad.contains (128 * m + n) then Config.freeWord (s.fresh + 128 * m + n) else w
    let s := if p.bad.isEmpty then s else { s with fresh := s.fresh + 2 ^ 14 }.softTask core t 5
    let s := s.reachCrew t.launch t.name <| Crew.engineWrite fun c =>
      if t.op = 0xCB then
        let scale (m : Nat) : FRes := fMul 0 (fp32.decode (lane t.sa m).toNat) (fp32.decode t.arg.toNat)
        let scales := (List.range 96).map scale
        let c := c.mergeFlags (scales.foldl (fun f x => f ||| x.2) 0)
        c.foldTile j cols fun m a b => accScale a b (scales.getD m (0, 0)).1
      else c.foldTile j cols fun _ a b => accAdd t.mode a b
    s.modCore core fun c => { c with
      partials := c.partials.filter fun x => !(x.queue == p.queue && x.launch == p.launch && x.name == p.name && x.seq == p.seq)
      creditsUsed := c.creditsUsed.put (q - 4) (c.creditsUsed.getD (q - 4) 0 - 1) }
  | _, _ => s

/-- The crew of a task, resident or saved. -/
def State.taskCrew (s : State) (t : Task) : Option Crew := (s.findCrew t.launch t.name).bind s.crews.get?

/-- ACC.CLR writes every register of the tile: none holds an error (R444). -/
def State.mendTile (s : State) (t : Task) : State :=
  match s.findCrew t.launch t.name, s.taskCrew t, t.tile with
  | some k, some c, some j =>
    let base := c.bound + 128 * j
    { s with softErrors := s.softErrors.filter fun (code, owner, index) =>
        !(code == 1 && owner == k && decide (base ≤ index / 128) && decide (index / 128 < base + 128)) }
  | _, _, _ => s

/-- TOPK and ACC.RD write n registers in the lanes of their mask: the words written hold no error (R444). -/
def State.mendRegs (s : State) (t : Task) (n : Nat) : State :=
  match s.findCrew t.launch t.name with
  | some k => { s with softErrors := s.softErrors.filter fun (code, owner, index) =>
      !(code == 1 && owner == k && t.lanes.getLsbD (index % 128) && decide (t.dst ≤ index / 128) && decide (index / 128 < t.dst + n)) }
  | none => s

/-- Everything that a task writes. -/
def State.runTask (s : State) (core q : Nat) (t : Task) : State :=
  match t.op with
  | 0xC5 => s.runLoad core t
  | 0xCB | 0xCC => s.runTsacc core q t
  | 0xCD => (s.mendRegs t (2 * (t.aux.toNat % 16 + 1))).reachCrew t.launch t.name <| Crew.engineWrite fun c =>
    let k := t.aux.toNat % 16 + 1
    let rows := (List.range 96).map fun m => c.topk t (t.tile.getD 0) m
    let col (f : Cand → Word) (i : Nat) : List Word := rows.map fun r => ((r[i]?).map f).getD 0
    c.taskRegs t ((List.range k).map (col Cand.value) ++ (List.range k).map (col Cand.index))
  | 0xCE => (s.mendRegs t (t.aux.toNat % 16 + 1)).reachCrew t.launch t.name <| Crew.engineWrite fun c =>
    c.taskRegs t ((List.range (t.aux.toNat % 16 + 1)).map fun i => c.column (t.tile.getD 0) (t.arg.toNat + i))
  | 0xCF => match s.taskCrew t with
    | none => s
    | some c =>
      let (s, fl) := s.storeTile core t c (t.tile.getD 0)
      s.reachCrew t.launch t.name fun c => c.mergeFlags fl
  | 0xD0 => (s.mendTile t).reachCrew t.launch t.name <| Crew.engineWrite fun c => c.foldTile (t.tile.getD 0) [] fun _ _ _ => (0, 0)
  | _ => s.runMma core q t

/-- The task's slots and entries after it has run (R226, R279). -/
def State.taskRegion (s : State) (core : Nat) (t : Task) : State :=
  match t.entry with
  | none => s
  | some e =>
    if t.op = 0xCF then
      if t.kind = 2 then
        (s.setSlotRec core e { s.slotRec core e with item := 0, mark := false }).slotReady core t.chute e
      else s.countLanding core e (12288 * cvtBytes (bits t.ctl.toNat 4 2)) t.chute (some (t.launch, t.name))
    else if t.kind = 2 then s.slotEmpty core t.chute e
    else s

/-- The entry that the task names has made its transition of this ck (R185). -/
def Task.entryMoved (t : Task) (core : Nat) (s : State) : Bool :=
  match t.entry with
  | some e => s.moved.contains (core, e)
  | none => false

/-- TASK_COMPLETE. -/
def execTaskComplete (core q id : Nat) (s : State) : Out :=
  .next (match s.task? core q id with
    | none => s
    | some t =>
      if !t.started || decide (s.ck ≤ t.since) || t.entryMoved core s then s
      else
        let s := ((s.runTask core q t).dropItem core q id).taskRegion core t
        let s := s.reachCrew t.launch t.name fun c => c.fallToken t.tok
        let s := match s.findCrew t.launch t.name with | some k => s.settleFault k t.spall | none => s
        let s := s.perf core t.launch 12 1
        s.engineLeft core t.launch t.name)

end Sys2Proof.Machine
end

