-- ==== Sys2Proof/Machine/Units.lean ====
section
/-! DEFINITION. Units between their instructions: when a stall has cleared, which candidate issues, results that return, markers, dozes,
wakes, handler entry, and the tile-stall limit (R62, R63, R81 to R84, R91, R109, R184, R316, R436). -/

namespace Sys2Proof.Machine

/-! ## Stalls (R81) -/

/-- The hazard of a stalled unit has cleared. -/
def State.clear (s : State) (k u : Nat) (c : Crew) (h : CrewUnit) : Hazard → Bool
  | .tokens mask => (List.range 8).all fun n => !mask.getLsbD n || c.tokens.getD n 0 == 0
  | .tokenRoom n => c.tokens.getD n 0 != 63
  | .results => !c.waiting u
  | .crewResults => c.out.isEmpty
  | .entry e states idle _ => match s.tile? (coreOf k) e with
    | none => true
    | some t => states.contains t.state && (!idle || !s.entryBusy (coreOf k) e)
  | .scratch loads peers => !s.scratchBusy k loads peers
  | .release scope un scr loads => s.released k c scope un scr loads
  | .strong => !s.strongBusy c
  | .drain line => !s.lineBusy c line
  | .storeRoom => c.pieces.isEmpty && decide (c.sbuf.length < storeEntries)
  | .chute n acq =>
    let moving := match s.launches.get? c.launch with | some l => (l.moving.get? (coreOf k)).isSome | none => false
    moving || (match s.inst? (coreOf k) n with
      | none => true
      | some (home, d) => if acq then s.canAcquire home d (coreOf k % 4) else s.canTake home d)
  | .queueRoom q => s.queueRoom (coreOf k) q c.launch c.name
  | .credits n mask => match (s.core (coreOf k)).chutes.get? n with
    | none => true
    | some d => (maskCores mask).all fun j => d.credit.getD j 0 != 0 && !s.tailMoved (4 * clusterOf (coreOf k) + j) n
  | .partialCredit q => decide ((s.core (coreOf k)).creditsUsed.getD q 0 < 4)
  | .counterWork e => !s.counterBusy (coreOf k) e
  | .entryWork core e => !s.entryBusy core e
  | .line line => !s.lineHeld line (some k) && !s.unitAhead line h.since (some (k, u)) && !s.queuedAhead line h.since && !s.hoistAhead line h.since none
  | .owner line _ => if s.owns (coreOf k) line then !s.lineHeld line (some k) else !s.asked (coreOf k) line true
  | .constLoads => !c.out.any (·.ldc)
  | .turn core e => !s.moved.contains (core, e)
  | .acceptance engine => !s.accepted.contains (coreOf k, engine)
  | .taskWork core e => !s.taskNames core e

/-- The unit may be chosen: READY, or STALLED on a hazard that has cleared; a block that is being saved or flushed runs no unit that is
at a stop point, and a flush ends its crews at once (R82, R389, R391). -/
def State.mayIssue (s : State) (k u : Nat) (c : Crew) (h : CrewUnit) : Bool :=
  !s.halted k h && h.tried != some s.ck && (match h.st with
    | .ready => true
    | .stalled hz => s.clear k u c h hz
    | _ => false)

/-! ## Choosing what issues (R83) -/

/-- Units of a crew that may issue. -/
def State.issuable (s : State) (k : Nat) : List Nat :=
  match s.crews.get? k with
  | none => []
  | some c => (c.units.filter fun e => s.mayIssue k e.1 c e.2).map (·.1)

/-- The next in round-robin order after a unit. -/
def nextAfter (us : List Nat) (u : Nat) : Option Nat :=
  match us.find? fun x => decide (u < x) with | some x => some x | none => us.head?

/-- What a slot presents: its unit and age. -/
def State.candidate (s : State) (k : Nat) : Option (Nat × Nat) :=
  let us := s.issuable k
  match (s.core (coreOf k)).cand.get? (k % 32) with
  | some (u, age) => if us.contains u then some (u, age) else (nextAfter us u).map fun x => (x, 0)
  | none => us.head?.map fun x => (x, 0)

/-- Candidates of an issuer by crew slot, with class and age. -/
def State.candidates (s : State) (core iss : Nat) : List (Nat × Nat × Nat) :=
  (List.range 8).filterMap fun i =>
    let k := 32 * core + 8 * iss + i
    (s.candidate k).map fun (u, age) => (k, u, age)

/-- Class of a candidate (R83). -/
def State.classOf (s : State) (k age : Nat) : Nat :=
  if 56 ≤ age then 4 else match s.crews.get? k with | some c => c.prio.toNat | none => 0

/-- The chosen one: highest class, then greatest age, then lowest slot. -/
def State.chosen (s : State) (core iss : Nat) : Option (Nat × Nat × Nat) :=
  (s.candidates core iss).foldl (fun best x => match best with
    | none => some x
    | some b =>
      let cx := s.classOf x.1 x.2.2
      let cb := s.classOf b.1 b.2.2
      if cb < cx ∨ (cb = cx ∧ b.2.2 < x.2.2) then some x else best) none

/-- An issuer, as 4 * core + issuer, has issued in this ck. -/
def State.hasIssued (s : State) (t : Nat) : Bool := s.spent.any fun e => e.1 / 8 == t

/-- ISSUE_CYCLE: the chosen candidate of an issuer that has not issued in this ck runs next. -/
def execIssueCycle (core iss : Nat) (s : State) : Out :=
  .next (if !s.ungated core || s.hasIssued (4 * core + iss) then s else match s.chosen core iss with
    | none => s
    | some (k, u, _) => { s with focus := some (k, u) })

/-- The candidates after a ck: a slot that issued presents its next READY unit with age zero, and the one after the unit that issued while none
is; a slot without a READY unit has no age; the others of its issuer age (R83). -/
def State.ageCandidates (s : State) : State :=
  s.crews.foldl (fun t (e : Nat × Crew) =>
    let k := e.1
    let next : Option (Nat × Nat) := match s.spent.find? fun x => x.1 == k with
      | some (_, u) => some ((nextAfter (s.issuable k) u).getD (u + 1), 0)
      | none => match s.candidate k with
        | some (v, age) => some (v, if s.hasIssued (k / 8) then age + 1 else age)
        | none => ((s.core (coreOf k)).cand.get? (k % 32)).map fun e => (e.1, 0)
    match next with
    | some x => t.modCore (coreOf k) fun c => { c with cand := c.cand.put (k % 32) x }
    | none => t) s

/-! ## Results and markers (R62, R63, R85) -/

/-- RESULT_RETURN: a result none of whose parts is still to be performed, from the ck on in which it is due (R62, R174). -/
def execResultReturn (crew id : Nat) (s : State) : Out :=
  .next (match s.crews.get? crew with
    | none => s
    | some c => match c.out.find? fun r => r.id == id with
      | none => s
      | some r =>
        if r.parts != 0 || decide (s.ck < r.due) then s
        else ((s.clearSoft crew r.writes).modCrew crew fun c =>
          let c := { c with out := c.out.filter fun x => x.id != id }
          let c := ((r.writes.foldl (fun c w => c.writeReg r.unit w) c).mergeFlags r.flags).fallToken r.tok
          c.resultsDone r.unit).settleFault crew r.unit)

/-- RUN_LIMIT: the transfer past 1,024 instructions behaves as if it carried S. -/
def execRunLimit (crew unit : Nat) (s : State) : Out :=
  .next (s.modCrew crew fun c => match c.units.get? unit with
    | some h => if h.st = .limited then c.park unit else c
    | none => c)

/-! ## Traps, dozes, wakes -/

/-- TRAP_ENTRY: the first unit in order that waits for the handler enters it (R436). -/
def execTrapEntry (crew unit : Nat) (s : State) : Out :=
  .next (match s.crews.get? crew with
    | none => s
    | some c =>
      if c.nextEntry != some unit then s
      else match c.units.get? unit, s.launches.get? c.launch with
        | some h, some l => match h.st with
          | .entering record resume => s.setCrew crew (c.enterHandler unit l.handler resume record)
          | _ => s
        | _, _ => s)

/-- DOZE_END (R109): its ck are over and the unit's results have returned. -/
def execDozeEnd (crew unit : Nat) (s : State) : Out :=
  .next (s.modCrew crew fun c => if c.waiting unit then c else c.modUnit unit fun h => match h.st with
    | .dozing t => if t ≤ s.ck then { h with st := .ready } else h
    | _ => h)

/-- A suspended unit that the device may wake without a cause: WAITADDR's, and CAP.ENTER's with it (R316, R353). -/
def wakeFree : UnitState → Bool
  | .suspended (.watch _ _) _ | .suspended (.poll _) _ | .suspended (.record _ _) _ => true
  | _ => false

/-- A suspended unit whose wake is due (R91, R316, R353). -/
def wakeDue (ck : Nat) : UnitState → Bool
  | .suspended w woken => woken || (match w with
    | .poll since => decide (since + 4096 ≤ ck)
    | .record _ deadline => decide (deadline < ck)
    | _ => false)
  | _ => false

/-- A watch of the core is free again. -/
def State.dropWatch (s : State) (core : Nat) : UnitState → State
  | .suspended (.watch _ _) _ => s.modCore core fun c => { c with watches := c.watches - 1 }
  | _ => s

/-- UNIT_WAKE: the wake of a unit is due, or is one that needs no cause; the default scheduler makes only the former (log 1). -/
def execUnitWake (crew unit : Nat) (s : State) : Out :=
  .next (match s.crews.get? crew with
    | none => s
    | some c => match c.units.get? unit with
      | none => s
      | some h =>
        if !(wakeDue s.ck h.st || wakeFree h.st) then s
        else ((s.dropWatch (coreOf crew) h.st).modUnit crew unit fun h => { h with st := .ready, stop := true }).modCrew crew fun c =>
          { c with last := noLast })

/-- TILE_STALL: 1,048,576 ck on an entry's state, on credits or on partial credits. -/
def execTileStall (crew unit : Nat) (s : State) : Out :=
  .next (match s.crews.get? crew with
    | none => s
    | some c => match c.units.get? unit with
      | none => s
      | some h => match h.st with
        | .stalled hz => match hz.limited with
          | some (slot, kind, n) =>
            if h.since + 1048576 ≤ s.ck && !s.clear crew unit c h hz then s.takeTrap crew unit 16 { cause := .tileStall, slot := slot, ixkind := kind, index := n } else s
          | none => s
        | _ => s)

end Sys2Proof.Machine
end

