-- ==== Sys2Proof/Machine/MemSystem.lean ====
section
/-! DEFINITION. The memory system's own steps: sending and acknowledging stores, walks, probes, banks, ownership, the memory controllers,
key sweeps and deep retention (R302 to R305, R325, R329 to R344). -/

namespace Sys2Proof.Machine

/-! ## Stores (R297 to R303) -/

/-- Counters at or below a scope leave room for one more (R303). -/
def Crew.mayCount (c : Crew) (scope : Nat) : Bool := (countedScopes scope).all fun x => decide (c.unack.getD x 0 < 1023)

/-- The entry at a position of the buffer may be sent now (R296, R298, R299, R303); a new one once those of before a restore have been
sent and performed (R304). -/
def State.maySend (s : State) (c : Crew) (i : Nat) (e : StoreEntry) : Bool :=
  let before := c.sbuf.take i
  (e.old || (!before.any (·.old) &&
    !s.flights.any fun f => f.2.launch == c.launch && f.2.name == c.name && !f.2.performed && f.2.entry.old)) &&
  !before.any (fun b => b.line == e.line) &&
  (e.kind != 1 || (!before.any (fun b => b.kind == 1) &&
    !s.flights.any fun f => f.2.launch == c.launch && f.2.name == c.name && !f.2.performed && f.2.entry.kind == 1)) &&
  (!e.rel || (!before.any (fun b => b.kind != 2) && !s.unperformed c false &&
    (List.range 7).all fun x => decide (x < e.scope) || c.unack.getD x 0 == 0)) &&
  c.mayCount e.scope

/-- STORE_SEND: the entry at a position of the crew's store buffer (R302). -/
def execStoreSend (crew id : Nat) (s : State) : Out :=
  .next (match s.crews.get? crew with
    | none => s
    | some c => match c.sbuf[id]? with
      | none => s
      | some e =>
        if s.maySend c id e then
          let s := s.sendEntry crew c e true
          (s.modCrew crew fun c => ({ c with sbuf := c.sbuf.eraseIdx id }).refill).settleTokens c.launch c.name
        else s)

/-- An earlier sent store of the same crew that a sent store must follow: one to its line (R296), an SO one before an SO one (R298), and
before a release any that it covers, until it is performed at the release's scope (R299); one of before a save (R304). What a crew leaves at its end keeps this order. -/
def Flight.follows (f g : Flight) : Bool :=
  g.launch == f.launch && g.name == f.name &&
  ((!g.performed && (g.entry.line == f.entry.line || (f.entry.kind == 1 && g.entry.kind == 1) || (g.entry.old && !f.entry.old))) ||
    (f.entry.rel && g.entry.kind != 2 && (!g.performed || g.acks.any fun x => decide (f.entry.scope ≤ x))))

/-- Firmware sent it from a saved record, so that it is written at its home (R327). -/
def Flight.home (f : Flight) : Bool := decide (4096 ≤ f.crew)

/-- A sent store may be performed: the L1 of the core that sent it owns the line (R329), no other agent holds it, and no earlier store of
its crew that it must follow is on its way (R296 to R299, R334, R347). -/
def State.mayPerform (s : State) (id : Nat) (f : Flight) : Bool :=
  (f.home || s.owns (coreOf f.crew) f.entry.line) && !s.lineHeld f.entry.line (s.findCrew f.launch f.name) &&
  !s.flights.any fun g => decide (g.1 < id) && f.follows g.2

/-- The write of a sent store into the line that its L1 owns, at every scope at once (R329). -/
def State.performFlight (s : State) (f : Flight) : State :=
  let s := ((s.writeLine f.entry.key f.entry.line f.entry.bytes).touch (f.entry.line * 128)).wakeLine f.entry.line
  if f.home then s.homeLine f.entry.line
  else s.ownLine (coreOf f.crew) f.entry.line f.entry.key

/-- A sent store whose L1 does not own the line requests it of the home (R329, R346). -/
def State.seekOwner (s : State) (f : Flight) : State :=
  if f.performed || f.home || s.owns (coreOf f.crew) f.entry.line then s
  else s.askBank (coreOf f.crew) f.launch f.entry.line f.entry.key true

/-- STORE_ACK: the acknowledgement at a scope; those of one store come from the narrowest scope outwards (R303, log 4). Until the line is
owned it only asks for it. -/
def execStoreAck (id scope : Nat) (s : State) : Out :=
  .next (match s.flights.get? id with
    | none => s
    | some f =>
      if f.acks.head? != some scope then s
      else if !(f.performed || s.mayPerform id f) then s.seekOwner f
      else
        let s := if f.performed then s else s.performFlight f
        let f := { f with performed := true, acks := f.acks.tail }
        let s := { s with flights := if f.acks.isEmpty then s.flights.del id else s.flights.put id f }
        let s := s.reachCrew f.launch f.name fun c => { c with unack := c.unack.put scope (c.unack.getD scope 0 - 1) }
        s.settleTokens f.launch f.name)

/-! ## Walkers (R323 to R325) -/

/-- TABLE_WALK: a walker translates an address of the partition that the core's cluster serves and installs what it finds; what it
cannot translate is reported only to the access that needs it. -/
def execTableWalk (core : Nat) (va : BitVec 64) (wr : Bool) (s : State) : Out :=
  .next (match (s.cluster (clusterOf core)).holder with
    | none => s
    | some p => match s.translate core p va.toNat wr false false with
      | .ok (_, s) => s
      | .error _ => s)

/-! ## Probes and banks (R330 to R334) -/

/-- The cluster that supplied a line (R331): the predictor holds 256 entries; which one makes way is log 13's. -/
def State.predict (s : State) (core n target : Nat) : State :=
  if homeDie (n * 128) = dieOf core && target / 8 == dieOf core then
    s.modCore core fun c =>
      let t := if c.predictor.length < 256 || (c.predictor.get? n).isSome then c.predictor else c.predictor.drop 1
      { c with predictor := t.put n target }
  else s

/-- A probe that misses goes to the home bank as an ordinary request (R331). -/
def State.probeMissed (s : State) (p : Probe) : State :=
  if s.asked p.core p.line false then s
  else
    let r : BankReq := { input := portInput p.core, core := p.core, line := p.line, key := p.key, own := false, since := 0, part := p.part }
    s.modBank (firstBank p.core p.line) fun b => { b with inputs := b.inputs ++ [r] }

/-- PEER_PROBE: the probe of a core for a line reaches the predicted cluster (R331). -/
def execPeerProbe (core line : Nat) (s : State) : Out :=
  .next (match s.probes.find? (fun e => e.2.core == core && e.2.line == line && !e.2.supplied) with
    | none => s
    | some (id, p) =>
      if (List.range 4).any fun j => (s.core (4 * p.target + j)).l1.get? line == some .shared then
        { s with probes := s.probes.put id { p with supplied := true } }
      else { s with probes := s.probes.del id }.probeMissed p)

/-- PROBE_RELAY: a supplied line passes the relay lane again (R332). Where the conflict queue is full it waits (R333). -/
def execProbeRelay (id : Nat) (s : State) : Out :=
  .next (match s.probes.get? id with
    | none => s
    | some p =>
      if !p.supplied then s
      else if s.lineHeld p.line none && s.bankFull (bankOf (p.line * 128)) then s
      else
        let s := { s with probes := s.probes.del id }
        if s.lineHeld p.line none then
          let r : BankReq :=
            { input := portInput p.core, core := p.core, line := p.line, key := p.key, own := false, since := s.ck, part := p.part }
          s.modBank (bankOf (p.line * 128)) fun b => { b with conflict := b.conflict ++ [r] }
        else (s.shareLine p.core p.line p.key).predict p.core p.line p.target)

/-- The read that a bank serves: the owner is recalled and keeps the line in S, and the requester's L1 gets it (R330, R331). -/
def State.serveRead (s : State) (r : BankReq) : State :=
  let s := s.fillL2 r.line r.key
  let s : State := match (s.line r.line).owner with
    | none => s
    | some o =>
      let s := s.modCore o fun c => { c with l1 := c.l1.put r.line .shared }
      let s := s.setLine r.line { s.line r.line with owner := none, sharers := 1#32 <<< clusterOf o }
      s.predict r.core r.line (clusterOf o)
  s.shareLine r.core r.line r.key

/-- A bank serves a request (R330, R334): a read of a line that L2 holds at once; one that is filled from memory, or a change of ownership,
locks the line until the transaction ends. -/
def State.serve (s : State) (bank : Nat) (r : BankReq) : State :=
  if r.own || s.l2.get? r.line != some r.key then
    let s := s.countL2 r.core r.line (s.l2.get? r.line == some r.key)
    let d := s.line r.line
    (s.setLine r.line { d with locked := true }).modBank bank fun b => { b with active := b.active ++ [r] }
  else s.serveRead r

/-- A request whose line is homed on another die crosses the link to the home's bank (R15). -/
def State.forward (s : State) (bank : Nat) (r : BankReq) : State :=
  let home := bankOf (r.line * 128)
  s.modBank home fun b => { b with inputs := b.inputs ++ [{ r with input := linkInput (bank / 64) (home / 64) }] }

/-- The request that round-robin chooses (R333). -/
def Bank.pick (b : Bank) : Option BankReq := b.inputOrder.findSome? fun i => b.inputs.find? fun r => r.input == i

/-- A request that waits in a conflict queue may be served: its line is free, nobody asked for it before, and L2 has a way for it (R334,
R347). -/
def State.serveable (s : State) (r : BankReq) : Bool :=
  !s.lineHeld r.line none && !s.unitAhead r.line (r.since + 1) none && !s.hoistAhead r.line (r.since + 1) none && s.l2Room r.line

/-- BANK_ACCEPT: one request a ck, a waiting one whose line is free before a new one (R333, R334). -/
def execBankAccept (bank : Nat) (s : State) : Out :=
  .next (
    let b := s.bank bank
    if s.banked.contains bank then s
    else match b.conflict.find? s.serveable with
    | some r => ({ s with banked := bank :: s.banked }.modBank bank fun b => { b with conflict := b.conflict.erase r }).serve bank r
    | none =>
      if s.bankFull bank then s
      else match b.pick with
        | none => s
        | some r =>
          let s := ({ s with banked := bank :: s.banked }).modBank bank fun b => { b with inputs := b.inputs.erase r, ptr := (r.input + 1) % 12 }
          if bankOf (r.line * 128) ≠ bank then s.forward bank r
          else if s.lineHeld r.line none || s.lineQueued r.line || !s.l2Room r.line then
            s.modBank bank fun b => { b with conflict := b.conflict ++ [{ r with since := s.ck }] }
          else s.serve bank r)

/-- The oldest waiting store of a core to a line that its L1 has just obtained is written: the lock stands until then (R334). -/
def State.writeGranted (s : State) (core line : Nat) : State :=
  match s.flights.find? fun e => !e.2.performed && !e.2.home && coreOf e.2.crew == core && e.2.entry.line == line && s.mayPerform e.1 e.2 with
  | some (id, f) =>
    let s := s.performFlight f
    { s with flights := s.flights.put id { f with performed := true } }
  | none => s

/-- OWNERSHIP_GRANT: the transaction that locked a line ends: ownership is granted and what waited for it written, or the line has been read
from memory (R330, R332, R334). -/
def execOwnershipGrant (line : Nat) (s : State) : Out :=
  .next (
    let bank := bankOf (line * 128)
    match (s.bank bank).active.find? fun r => r.line == line with
    | none => s
    | some r =>
      if !s.l2Room line then s
      else
      let s := (s.setLine line { s.line line with locked := false }).modBank bank fun b => { b with active := b.active.erase r }
      if !r.own then s.serveRead r
      else
        let s := ((s.dropCopies line (some r.core)).fillL2 line r.key).putL1 r.core line .exclusive
        (s.setLine line { owner := some r.core, sharers := 0, locked := false }).writeGranted r.core line)

/-! ## The memory controllers (R340, R341) -/

/-- MEMORY_READ: L2 fills a line under a key slot. -/
def execMemoryRead (line key : Nat) (s : State) : Out :=
  .next (if s.backed (line * 128) && s.l2Room line then (s.touch (line * 128)).fillL2 line key else s)

/-- MEMORY_WRITE: a line is written under a key slot. -/
def execMemoryWrite (line key : Nat) (data : BitVec 1024) (s : State) : Out :=
  .next (if s.backed (line * 128) then
    let s := ((s.touch (line * 128)).writeBytes key (line * 128) (leBytes 128 data.toNat)).wakeLine line
    { s with dirty := s.dirty.del line } else s)

/-- Lines that satisfy `p` leave every L1 and L2 and the directory (R339, R341, R343); what becomes of bytes that were not written back is
the caller's. -/
def State.dropLines (s : State) (p : Nat → Bool) : State :=
  { s with
    cores := s.cores.map fun (e : Nat × Core) => (e.1, { e.2 with l1 := e.2.l1.filter fun x => !p x.1 })
    l2 := s.l2.filter fun x => !p x.1
    dir := s.dir.map fun (e : Nat × Line) => (e.1, if p e.1 then { e.2 with owner := none, sharers := 0 } else e.2) }

/-- A line lies in a frame of the key slot. Frames that are not listed belong to slot 0. -/
def State.lineOfKey (s : State) (slot n : Nat) : Bool := !inMailbox (n * 128) && (s.frame (n * 128)).key == slot

/-- Discards a key slot (R341): from here its frames read zeros. -/
def State.discardKey (s : State) (slot : Nat) : State :=
  if s.keyLive slot then
    let s := s.dropLines fun n => s.lineOfKey slot n || s.l2.get? n == some slot
    -- instruction and constant caches do not know the slot of a line: all of theirs go
    { s with
      keys := s.keys.put slot .discarded
      cores := s.cores.map fun (e : Nat × Core) => (e.1, { e.2 with icache := [], ccache := [] })
      mem := s.mem.keep fun a => !s.lineOfKey slot (a / 128)
      dirty := s.dirty.filter fun e => !s.lineOfKey slot e.1
      poison := s.poison.filter fun n => !s.lineOfKey slot n }
  else s

/-- KEY_SWEEP_DONE: every frame of the slot is cleared, and the slot is FREE (R341). -/
def execKeySweepDone (slot : Nat) (s : State) : Out :=
  .next (if s.keys.get? slot = some .discarded then
    { s with
      frames := s.frames.map fun (e : Nat × Frame) => (e.1, if e.2.key = slot then { e.2 with cleared := true } else e.2)
      keys := s.keys.del slot }
  else s)

/-! ## Deep retention (R342 to R344) -/

/-- Idle window in ck; 0 milliseconds counts as 1 (R342). -/
def Retention.window (r : Retention) : Nat := max r.idle 1 * 1900000

/-- Frames of a layer group (R343). -/
def groupFrames : Nat := 524288

/-- ret of a frame (R339): it stands in its group's reserve. Frames move there, and back, in ascending order. -/
def State.retained (s : State) (pa : Nat) : Bool :=
  inHbm pa && (match s.retention.get? (groupOf pa) with | some r => r.state != 0 && decide (groupFrame pa < r.moved) | none => false)

/-- The line lies in a frame of a group. -/
def inFrame (group i n : Nat) : Bool := inHbm (n * 128) && groupOf (n * 128) == group && groupFrame (n * 128) == i

/-- A line of the frame is held: its recall waits (R343, R347). -/
def State.frameHeld (s : State) (group i : Nat) : Bool :=
  s.dir.any (fun e => inFrame group i e.1 && e.2.locked) ||
  s.crews.any fun e => (e.2.leases ++ e.2.cap.recLeases).any (fun l => inFrame group i l.line && s.lineHeld l.line none) ||
    e.2.units.any fun u => match u.2.st with
      | .stalled (.owner _ ls) => ls.any fun n => inFrame group i n && s.lineHeld n none
      | _ => false

/-- One frame of a group leaves every cache, its bytes written back, to be copied under its lock (R343). -/
def State.recallFrame (s : State) (group i : Nat) : State :=
  let s := s.dropLines (inFrame group i)
  { s with dirty := s.dirty.filter fun e => !inFrame group i e.1 }

/-- RETENTION_ENTRY (R343): an idle group begins to enter; then one frame after another moves, and with the last the group is off. -/
def execRetentionEntry (group : Nat) (s : State) : Out :=
  .next (match s.retention.get? group with
    | none => s
    | some r =>
      if r.state = 0 then
        if r.en && decide (r.lastAccess + r.window ≤ s.ck) then
          { s with retention := s.retention.put group { r with state := 1, moved := 0, recent := [] } }
        else s
      else if r.state = 1 then
        if s.frameHeld group r.moved then s else
        let s := s.recallFrame group r.moved
        if r.moved + 1 < groupFrames then { s with retention := s.retention.put group { r with moved := r.moved + 1 } }
        else { s with
          retention := s.retention.put group { r with state := 2, moved := groupFrames }
          hotEvents := s.hotEvents ++ [(group, true)] }
      else s)

/-- A retained group is to leave: en is clear, or `wake` line accesses reached its frames within one idle window (R344). -/
def Retention.wakes (r : Retention) (ck : Nat) : Bool :=
  !r.en || (decide (r.wake ≤ r.recent.length) && r.recent.all fun t => decide (ck < t + r.window))

/-- RETENTION_EXIT (R344): the group begins to leave; then one frame after another is copied back, and with the last it is powered. -/
def execRetentionExit (group : Nat) (s : State) : Out :=
  .next (match s.retention.get? group with
    | none => s
    | some r =>
      if r.state = 2 then (if r.wakes s.ck then { s with retention := s.retention.put group { r with state := 3 } } else s)
      else if r.state = 3 then
        if s.frameHeld group (r.moved - 1) then s else
        let s := s.recallFrame group (r.moved - 1)
        if 1 < r.moved then { s with retention := s.retention.put group { r with moved := r.moved - 1 } }
        else { s with
          retention := s.retention.put group { r with state := 0, moved := 0, recent := [], lastAccess := s.ck }
          hotEvents := s.hotEvents ++ [(group, false)] }
      else s)

end Sys2Proof.Machine
end

