-- ==== Sys2Proof/Machine/Placement.lean ====
section
/-! DEFINITION. What a core has free, and placing a block and starting its crews on it (R78, R79, R120, R170, R171, R235 to R239, R269).
Where the manual leaves the choice of issuer, slot or position to the dispatcher, the lowest that fits is taken (log 20). -/

namespace Sys2Proof.Machine

/-! ## What is free (R78, R269, R408) -/

/-- Blocks of a core by block slot. -/
def State.blocksOn (s : State) (core : Nat) : List (Nat × Block) := (s.blocks.filter fun e => e.1 / 16 == core).map fun e => (e.1 % 16, e.2)

def State.freeBslots (s : State) (core : Nat) : List Nat := (List.range 16).filter fun b => (s.blocks.get? (blockKey core b)).isNone

/-- Free crew slots of an issuer. -/
def State.freeSlots (s : State) (core iss : Nat) : List Nat :=
  ((List.range 8).map fun i => 32 * core + 8 * iss + i).filter fun k => (s.crews.get? k).isNone

def State.freeCrewSlots (s : State) (core : Nat) : Nat := ((List.range 4).map fun i => (s.freeSlots core i).length).sum

/-- Budget registers of an issuer that no crew holds: 768 in all. -/
def State.freeRegs (s : State) (core iss : Nat) : Nat :=
  768 - ((s.crews.filter fun e => coreOf e.1 == core && issuerOf e.1 == iss).map fun e => e.2.budget).sum

/-- The lowest position at which `size` fits among used ranges. -/
def firstFit (total size : Nat) (used : List (Nat × Nat)) : Option Nat :=
  if size = 0 then some 0
  else ((0 :: used.map fun u => u.1 + u.2).filter fun b =>
    decide (b + size ≤ total) && used.all fun u => decide (b + size ≤ u.1) || decide (u.1 + u.2 ≤ b)).min?

def scratchTotal : Nat := 786432
def weightTotal : Nat := 3072

/-- Position of an allocation in a core's scratchpad, and of a weight-line reservation. -/
def State.scratchAt (s : State) (core size : Nat) : Option Nat :=
  firstFit scratchTotal size ((s.blocksOn core).map fun e => (e.2.base, e.2.size))
def State.weightAt (s : State) (core lines : Nat) : Option Nat :=
  firstFit weightTotal lines ((s.blocksOn core).map fun e => (e.2.wbase, e.2.wlines))

/-- KiB of a core's scratchpad that no block holds (R408). -/
def State.freeScratch (s : State) (core : Nat) : Nat := (scratchTotal - ((s.blocksOn core).map fun e => e.2.size).sum) / 1024

/-- Crew slots for n crews of r registers each. -/
def State.slotsFor (s : State) (core n r : Nat) : Option (List Nat) :=
  let ks := (List.range 4).flatMap fun i => (s.freeSlots core i).take (if r = 0 then 8 else s.freeRegs core i / r)
  if ks.length < n then none else some (ks.take n)

/-- Everything that a block needs, free at once. -/
structure Fit where
  bslot : Nat
  slots : List Nat
  base : Nat
  wbase : Nat
  deriving DecidableEq, Repr

def State.fit (s : State) (core : Nat) (sh : Shape) : Option Fit :=
  match s.freeBslots core, s.slotsFor core sh.crews sh.regs, s.scratchAt core (1024 * sh.scratch), s.weightAt core sh.wlines with
  | b :: _, some ks, some base, some wbase => some ⟨b, ks, base, wbase⟩
  | _, _, _, _ => none

/-! ## Clusters of a partition (R20, R405) -/

/-- The cluster is the partition's; a shared one is that of every partition of its holder set (R405). -/
def State.clusterOfPart (s : State) (n p : Nat) : Bool :=
  if (s.cluster n).holders.isEmpty then (match s.parts.get? p with | some x => x.clusters.getLsbD n | none => false)
  else (s.cluster n).holders.contains p

/-- Only the holder's blocks are placed, and none while the holder changes (R405, R406). -/
def State.mayPlace (s : State) (n p : Nat) : Bool := (s.cluster n).holder == some p && (s.cluster n).change.isNone

def State.clustersOf (s : State) (p : Nat) : List Nat := (List.range 32).filter fun n => s.clusterOfPart n p
def State.coresOf (s : State) (p : Nat) : List Nat := (s.clustersOf p).flatMap fun n => [4 * n, 4 * n + 1, 4 * n + 2, 4 * n + 3]

/-- The partition's tenant is exhausted (R403). -/
def State.exhausted (s : State) (p : Nat) : Bool :=
  match s.parts.get? p with | some x => (s.tenant x.tenant).exh | none => true

def State.freeInCluster (s : State) (n : Nat) : Nat := ((List.range 4).map fun j => s.freeCrewSlots (4 * n + j)).sum

/-- The cluster with the most free crew slots, the lowest on ties (R384, R423). -/
def State.roomiest (s : State) (ns : List Nat) : Option Nat :=
  ns.foldl (fun best n => match best with
    | none => some n
    | some b => if s.freeInCluster b < s.freeInCluster n then some n else some b) none

/-! ## Placing and starting -/

/-- A capsule state without a record. -/
def Capsule.none : Capsule :=
  { role := .none, mode := false, record := 0, gen := 0, step := 0, ckc := [], count := 0, wbuf := [], wlines := [], stash := [],
    stashPc := 0, stepPc := 0, adopted := false, res := 0, rv := false, descheduled := false, recLeases := [] }

/-- A crew that holds its slot and has not started. -/
def Crew.seated (launch block index bench : Nat) (sh : Shape) (ck : Nat) : Crew :=
  { launch := launch, block := block, index := index, bench := bench, placed := ck, ranBefore := 0, budget := sh.regs, bound := sh.bound,
    pool := [], oregs := [], sregs := [], last := noLast, fflags := 0, fenable := 0, prio := 0, tokens := [], units := [],
    deferred := [], out := [], nextId := 0, hpc := 0, hmask := 0, hcause := 0, hstate := 0, hrec := 0,
    dbg := { ctl := 0, bp := [], wlo := 0, whi := 0, wctl := 0, stat := 0 }, arrivals := [], cap := Capsule.none, leases := [],
    sbuf := [], pieces := [], unack := [], storeToks := [], slots := 0, tileModes := [], steer := 0, produce := [], take := [] }

/-- The main unit at the start (R79). -/
def CrewUnit.start (pc : Dword) (ck : Nat) : CrewUnit :=
  { pc := pc, mask := (BitVec.allOnes 96), dom := (BitVec.allOnes 96), st := .ready, joinId := 0, owner := 0, opens := 0, run := 0, stop := true, tried := none, since := ck,
    origin := pc, barEpoch := none, barPc := 0, debugStops := [], debugSkip := false, stopAt := ck }

/-- Places a block on a core: its slots, allocation and reservation are taken, and nothing of it runs yet. -/
def State.placeBlock (s : State) (launch number bench core prio : Nat) (sh : Shape) (f : Fit) : State :=
  let b : Block :=
    { launch := launch, number := number, bench := bench, chute := false, base := f.base, size := 1024 * sh.scratch, mem := [],
      wbase := f.wbase, wlines := sh.wlines, wtab := [], w0 := [], w1 := [], placed := s.ck, crews := f.slots, idleSince := none,
      strategy := 0, limit := 0, prio := prio }
  let s := { s with blocks := s.blocks.put (blockKey core f.bslot) b }
  f.slots.zipIdx.foldl (fun s (k, i) => s.setCrew k (Crew.seated launch number (number * sh.crews + i) bench sh s.ck)) s

/-- The registers of a starting crew: the parameter pair, and in a bench the newest persist record (R79, R239). -/
def Crew.startRegs (c : Crew) (l : Launch) : Crew :=
  let c := if l.parlen = 0 then c
    else { c with sregs := (c.sregs.put 0 (l.paramAddr.setWidth 32)).put 1 ((l.paramAddr >>> 32).setWidth 32) }
  match l.benches[c.bench]? with
  | none => c
  | some b => match b.stack with
    | [] => c
    | r :: _ => { c with sregs := b.persist.zipIdx.foldl (fun t (reg, i) => Table.put t reg (r.getD i 0)) c.sregs }

/-- Starts one crew. -/
def State.startCrew (s : State) (k : Nat) : State :=
  match s.crews.get? k with
  | none => s
  | some c => match s.launches.get? c.launch with
    | none => s
    | some l =>
      let pc := l.code + BitVec.ofNat 64 (l.shapeOf c.bench).entry
      let s := s.setCrew k { c.startRegs l with units := [(0, CrewUnit.start pc s.ck)] }
      s.modLaunch c.launch fun l => l.modBench c.bench fun b => { b with stack := b.stack.tail }

/-- CREW_START: a placed block's crews start, its allocation cleared (R79, R171). -/
def execCrewStart (core bslot : Nat) (s : State) : Out :=
  .next (match s.blocks.get? (blockKey core bslot) with
    | none => s
    | some b =>
      if b.chute || !b.crews.all (fun k => match s.crews.get? k with | some c => c.units.isEmpty | none => false) then s
      else b.crews.foldl (fun s k => s.startCrew k) (s.modBlock (blockKey core bslot) fun b => { b with mem := [] }))

/-! ## Bench pipelines (R236 to R238, R242) -/

/-- The bench of which blocks are placed on a core now. -/
def Launch.benchOn (l : Launch) (core : Nat) : Option Nat :=
  match l.assign.get? core with
  | none => none
  | some b => if (l.moving.get? core).isSome || (match l.benches[b]? with | some x => x.closing | none => true) then none else some b

/-- A saved block is restored before any new one is placed (R384). -/
def Launch.mustRestore (l : Launch) : Bool := l.saved.any fun e => e.2.runnable || e.2.queued

/-- A grant for a block on a core. -/
def State.grant? (s : State) (core launch block : Nat) (saved : Bool) : Bool :=
  (s.cluster (clusterOf core)).granted.any fun g => g.core == core && g.launch == launch && g.block == block && g.saved == saved

/-- The priority that a granted block was given at its enqueue. -/
def State.grantPrio (s : State) (core launch block : Nat) : Nat :=
  match (s.cluster (clusterOf core)).granted.find? fun g => g.core == core && g.launch == launch && g.block == block with
  | some g => g.prio
  | none => 0

def State.dropGrant (s : State) (core launch block : Nat) : State :=
  s.modCluster (clusterOf core) fun c =>
    { c with granted := c.granted.filter fun g => !(g.core == core && g.launch == launch && g.block == block) }

/-- BLOCK_PLACE: a block that a pick has given to the core, or the next block of the core's bench (R78, R236, R237, R384). -/
def execBlockPlace (launch block core : Nat) (s : State) : Out :=
  .next (match s.launches.get? launch with
    | none => s
    | some l =>
      if l.st != .running || s.exhausted l.part || !s.mayPlace (clusterOf core) l.part then s
      else if l.benches.isEmpty then
        if !s.grant? core launch block false then s
        else match s.fit core l.shape with
          | none => s
          | some f => (s.dropGrant core launch block).placeBlock launch block 0 core (s.grantPrio core launch block) l.shape f
      else if block != l.nextBlock || l.mustRestore then s
      else match l.benchOn core with
        | none => s
        | some b => match s.fit core (l.shapeOf b) with
          | none => s
          | some f =>
            (s.modLaunch launch fun l => { l with nextBlock := l.nextBlock + 1 }).placeBlock launch block b core 0 (l.shapeOf b) f)

end Sys2Proof.Machine
end

