-- ==== Sys2Proof/Machine/Reissue.lean ====
section
/-! DEFINITION. The checks of a hoist entry or a tile task that a context image holds otherwise than it was saved (R265, R289, R390): the
instruction that its record stands for is issued again, on a trial copy of the machine, where the block was saved. What issue refuses is
refused, and what it enters is the entry, with what the record adds. What no record holds stays as it was saved: the issuing unit, its PC,
the slots taken (log 16). -/

namespace Sys2Proof.Machine

/-! ## The trial -/

/-- The machine with the saved block where it was, its own items alone in its queues, and no acceptance or transition of this ck. -/
def State.trial (s : State) (v : Saved) (k : Nat) (c : Crew) : State :=
  { s with moved := [], accepted := [], blocks := s.blocks.put (blockKey v.core v.bslot) v.block }.setCrew k c |>.modCore v.core fun x =>
    { x with
      tiles := v.tiles.foldl (fun t (e : Nat × TileEntry) => Table.put t e.1 e.2) x.tiles
      counters := v.counters.foldl (fun t (e : Nat × Counter) => Table.put t e.1 e.2) x.counters
      partials := v.partials, queues := [], creditsUsed := [] }

/-- A block of the launch at every window address that names none: presence is tested when the entry resumes (R264). -/
def State.ghosts (s : State) (core launch : Nat) (b : Block) (ws : List Nat) : State :=
  ws.foldl (fun s w => if (s.peerBlock core launch w).isSome then s else
    let p := windowPlace core w
    { s with blocks := s.blocks.put (blockKey p.core p.bslot) { b with launch := launch, size := 2 ^ 20 } }) s

/-- A crew whose registers hold a record's values: scalars from s0 on, vector registers from v0 on, under a mask. -/
def Crew.staged (c : Crew) (u : Nat) (h : CrewUnit) (svals : List Word) (vvals : List (List Word)) : Crew :=
  { c with
    units := c.units.put u h
    sregs := svals.zipIdx.foldl (fun t e => Table.put t e.2 e.1) c.sregs
    pool := vvals.zipIdx.foldl (fun t e => Table.put t e.2 e.1) c.pool }

/-- Fields of a 128-bit instruction whose operands are read from staged registers. -/
def recordArgs (dst in0 in1 in2 : Opnd) (imm aux ctl scope : Nat) (tok : Option Nat) : Args :=
  { form := .f128, sw := false, wait := 0, mod := 0, dst := dst, in0 := in0, in1 := in1, in2 := in2, imm := wordOf imm
    aux := BitVec.ofNat 16 aux, ctl := BitVec.ofNat 9 ctl, tv := tok.isSome, tok := BitVec.ofNat 3 (tok.getD 0), scope := BitVec.ofNat 3 scope }

/-- The item that the instruction enters into queue q; none where issue refuses it. -/
def Ctx.enters (x : Ctx) (op : Nat) (body : Ctx → State → Res) (s : State) (q : Nat) : Option QItem :=
  if !x.a.ok op then none
  else match body x s with
    | .done t => (t.queue x.core q).getLast?
    | _ => none

/-! ## Hoist entries (R265) -/

/-- Records of lanes 0 to 95 of a lane form: window and memory address. -/
def laneRecord (bs : List Byte) (l : Nat) : Nat := leNat ((bs.drop (64 + 16 * l)).take 16)

/-- The opcode and the meaning of a kind. -/
def kindBody (kind : Nat) : Nat × (Ctx → State → Res) :=
  match kind with
  | 0 => (0xC0, hoistLaneBody .lane)
  | 1 => (0xC1, hoistTensorBody .tensor)
  | 2 => (0xC2, bodyHoistMc)
  | 3 | 4 => (0xC3, bodyHoistSt)
  | _ => (0xC4, bodyQfence)

/-- Bytes of a hoist record. -/
def hoistRecordBytes (bs : List Byte) : Nat := if bits (leNat (bs.take 64)) 49 3 = 0 ∨ bits (leNat (bs.take 64)) 49 3 = 3 then 1600 else 64

/-- An entry as its record gives it, with its queue; none where a field is reserved, or is one that issue refuses. -/
def State.reissueHoist (s : State) (v : Saved) (was : Hoist) (c : Crew) (h : CrewUnit) (bs : List Byte) : Option (Nat × Hoist) :=
  let n := leNat (bs.take 64)
  let kind := bits n 49 3
  let lanes := kind == 0 || kind == 3
  let queue := bits n 70 3
  let tgt := bits n 79 2
  let tindex := bits n 81 15
  let chute := bits n 58 6
  let recs := (List.range 96).map (laneRecord bs)
  let mask := BitVec.ofNat 96 (bits n 96 96)
  let ctl := (if kind = 5 then queue else queue % 4) +
    (if kind = 2 then 4 * bits n 64 4 else (if lanes then 4 * bits n 68 2 else 0) + 64 * tgt) +
    (if kind = 3 then 16 else 0) + (if tgt = 3 ∧ kind ≠ 2 then 256 else 0)
  let tok := if tgt = 0 ∧ kind ≠ 2 ∧ (kind ≠ 5 ∨ was.tok.isSome) then some (bits n 76 3) else none
  let dst : Opnd := if tgt = 3 ∧ kind ≠ 2 then .s 20 else .none
  let aux := if kind = 2 then chute else if tgt = 1 ∨ tgt = 2 then tindex else 0
  let in0 : Opnd := if kind = 5 then .none else if lanes then .v 0 else .s 0
  let in1 : Opnd := if kind = 5 then .none else if lanes then .v 2 else .s 2
  let in2 : Opnd := if lanes ∨ kind = 5 then .none else .s 4
  let desc := (List.range 6).map fun i => wordOf (bits n (288 + 32 * i) 32)
  let src := bits n 192 64
  let win := bits n 256 32
  let svals := [wordOf src, wordOf (src / 2 ^ 32), wordOf win, 0] ++ desc ++ List.replicate 10 0 ++ [wordOf tindex]
  let col (f : Nat → Nat) : List Word := recs.map fun r => wordOf (f r)
  let vvals := [col fun r => bits r 0 32, col fun r => bits r 32 32, col fun r => bits r 64 32]
  let a := recordArgs dst in0 in1 in2 (if kind = 5 then bits n 52 6 else 0) aux ctl (bits n 73 3) tok
  let h := { h with mask := mask }
  let c := c.staged was.spall h svals (if lanes then vvals else [])
  let windows := if lanes then (recs.zipIdx.filter fun r => mask.getLsbD r.2).map fun r => bits r.1 64 32
    else if kind = 1 ∨ kind = 4 then [win] else []
  let t := (s.trial v was.crew c).ghosts v.core was.launch v.block windows
  let t := if kind = 2 then t.modChute v.core chute fun d => { d with credit := [1, 1, 1, 1] } else t
  let t := if kind = 5 then t.modCore v.core fun x => { x with queues := v.queues.map fun (e : Nat × List QItem) =>
      (e.1, e.2.filter fun i => decide (i.id < was.id)) } else t
  let x : Ctx := { k := was.crew, u := was.spall, c := c, h := h, a := a, len := 16, pipe := 0 }
  let sameSlots := was.kind == .multicast && chute == was.chute && bits n 64 4 == (was.landings.map fun l => 2 ^ l.1).sum
  if bits n 0 48 != 0 || (!lanes && bits n 68 2 != 0) || decide (5 < kind) || decide (5 < queue) || (kind != 5 && decide (3 < queue)) || (kind != 2 && bits n 64 4 + chute != 0) ||
      (kind == 2) != (was.kind == .multicast) || (kind == 2 && !sameSlots) || (lanes && recs.any fun r => bits r 96 32 != 0) then none
  else match x.enters (kindBody kind).1 (kindBody kind).2 t queue with
    | some (.hoist g) =>
      if (if lanes then 96 else g.total) < bits n 480 32 then none
      else some (queue, { g with
        id := was.id, pc := was.pc, cursor := bits n 480 32, held := n.testBit 48, started := was.started, read := was.read
        landings := if kind = 2 then was.landings else g.landings })
    | _ => none

/-! ## Tile tasks (R289) -/

/-- Bytes of a task record. -/
def taskRecordBytes (bs : List Byte) : Nat :=
  let n := leNat (bs.take 32)
  32 + (if !n.testBit 107 then 0 else if bits n 152 8 = 0xCB then 384 else 768 * (bits n 127 16 % 16 + 1))

/-- Words of a register in an extension. -/
def extWords (bs : List Byte) (i : Nat) : List Word := lanesOf fun l => wordOf (leNat ((bs.drop (32 + 384 * i + 4 * l)).take 4))

/-- The meaning of an opcode. -/
def taskBody (op : Nat) : Ctx → State → Res :=
  match op with
  | 0xC5 => bodyWload
  | 0xC6 | 0xC7 | 0xC8 | 0xC9 | 0xCA => mmaBody op
  | 0xCB | 0xCC => tsaccBody op
  | 0xCD => bodyTopk
  | 0xCE => bodyAccRd
  | 0xCF => bodyAccSt
  | _ => bodyAccClr

/-- A task as its record gives it, with its queue (4 or 5); none where a field is reserved, or is one that issue refuses. What acceptance
fixed and no record holds, the tile's mode and a weight entry's lines, stands where the record names the same. -/
def State.reissueTask (s : State) (v : Saved) (was : Task) (c : Crew) (h : CrewUnit) (bs : List Byte) : Option (Nat × Task) :=
  let n := leNat (bs.take 32)
  let op := bits n 152 8
  let ctl := bits n 143 9
  let aux := bits n 127 16
  let dst := bits n 117 10
  let q := bits n 109 1
  let steered := n.testBit 108
  let pseq := bits n 96 8
  let reads := op == 0xCD || op == 0xCE
  let ext := op == 0xCB || (op == 0xCD && ctl.testBit 6)
  let tok := if n.testBit 113 then some (bits n 110 3) else none
  let region := (0xC5 ≤ op && op ≤ 0xCA) || op == 0xCF
  let in0 : Opnd := if op = 0xC5 ∨ op = 0xCB ∨ op = 0xCD ∨ op = 0xCE ∨ op = 0xCF then .s 0 else .none
  let a (j : Nat) : Args := recordArgs (if reads then .v (BitVec.ofNat 8 dst).toFin else .none) in0 (if op = 0xCB then .v 0 else .none)
    (if ctl.testBit 8 && region then .s 8 else .none) (if region then bits n 224 32 else 0) aux (ctl / 4 * 4 + j) (bits n 114 3) tok
  let svals := [wordOf (bits n 192 32), 0, 0, 0, 0, 0, 0, 0, wordOf (bits n 160 32)]
  let h := { h with mask := if reads then BitVec.ofNat 96 n else 0 }
  let c := c.staged was.spall h svals (if op = 0xCB then [extWords bs 0] else [])
  let c := { c with
    produce := c.produce.put q (if isMma op then pseq else (pseq + 1) % 256), take := c.take.put q pseq
    tileModes := match was.tile with | some j => c.tileModes.put j was.mode | none => c.tileModes }
  let t := s.trial v was.crew c
  let t := if bits ctl 6 2 = 0 ∧ region then t.modTile v.core (if ctl.testBit 8 then bits n 160 32 else if op = 0xCF then aux % 512 else aux / 128)
    fun e => { e with state := if op = 0xCF then 1 else 2 } else t
  let same := op == was.op && aux == was.aux.toNat && was.wmask.testBit q
  let t := if same ∧ isMma op then t.modBlock (blockKey v.core v.bslot) fun b =>
    { b with wtab := b.wtab.put (128 * q + aux % 128) ((mmaKind op (ctl.testBit 2)).1, was.wbase) } else t
  -- a partial that its MMA has still to leave is of the kind that the saved task takes
  let have_ := v.partials.any fun p => p.queue == q && p.launch == was.launch && p.name == was.name && p.seq == pseq
  let t := if (op = 0xCB ∨ op = 0xCC) ∧ !have_ then t.modCore v.core fun y => { y with partials := y.partials ++
    [{ queue := q, launch := was.launch, name := was.name, seq := pseq, fp := was.op == 0xCB, cols := [] }] } else t
  let run (j : Nat) : Option QItem :=
    let x : Ctx := { k := was.crew, u := was.spall, c := c, h := h, a := a j, len := 16, pipe := 0 }
    if reads && (rangeTrap op (a j) c).isSome then none else x.enters op (taskBody op) t (4 + j)
  if op < 0xC5 ∨ 0xD0 < op ∨ bits n 104 3 ≠ 0 ∨ n.testBit 107 ≠ ext ∨ ctl % 4 ≠ q ∨ (!reads && bits n 0 96 != 0) ∨
      (if reads then 255 < dst else dst ≠ 0x3FF) ∨ (steered ∧ op = 0xC5) ∨ (reads ≠ was.result.isSome) ∨
      (steered ∧ isMma op ∧ (run (1 - q)).isNone) then none
  else match run q with
    | some (.task g) => some (4 + q, { g with
        id := was.id, pc := was.pc, since := was.since, result := was.result, dst := dst, offset := bits n 224 32, pseq := pseq
        steered := steered, lanes := if reads then BitVec.ofNat 96 n else 0
        merge := if op = 0xCD ∧ ext then (List.range (2 * (aux % 16 + 1))).map (extWords bs) else []
        wbase := if same then was.wbase else g.wbase })
    | _ => none

/-! ## Sections 6 and 7 -/

/-- Records of a section's items, one after another: the n-th is that of the n-th saved item. The section must hold as many as were saved. -/
def takeRecords {α : Type} (bytes : List Byte → Nat) (take : α → List Byte → Option (Nat × QItem)) :
    List α → List Byte → Option (List (Nat × QItem))
  | [], bs => if bs.isEmpty then some [] else none
  | x :: xs, bs =>
    let n := bytes bs
    if bs.length < n then none
    else match take x (bs.take n), takeRecords bytes take xs (bs.drop n) with
      | some i, some is => some (i :: is)
      | _, _ => none

/-- The crew of an item as its image holds it, with the issuing unit's record, or another where that one has been freed. -/
def Saved.issuer (v : Saved) (n : CrewName) (u : Nat) : Option (Crew × CrewUnit) :=
  (v.crews.find? fun c => c.name == n).bind fun c =>
    ((c.units.get? u).or (c.units.head?.map (·.2))).map fun h => (c, h)

/-- The queues with other items of one sort, in the order of their records. -/
def Saved.withItems (v : Saved) (hoists : Bool) (is : List (Nat × QItem)) : Saved :=
  let sort (i : QItem) : Bool := match i with | .hoist _ => hoists | .task _ => !hoists
  { v with queues := (List.range 6).map fun q =>
      let old := v.queues.getD q []
      let new := (is.filter fun e => e.1 == q).map (·.2)
      -- a QFENCE that stands in a task queue keeps its place before the tasks accepted after it
      (q, if old.all sort then new else byId ((old.filter fun i => !sort i) ++ new)) }
where
  /-- Items in the order of their acceptance. -/
  byId (xs : List QItem) : List QItem := xs.foldl (fun ys x => ys.takeWhile (fun y => decide (y.id < x.id)) ++ x :: ys.dropWhile fun y => decide (y.id < x.id)) []

/-- Section 6, changed: the block with the hoist entries that it gives. -/
def State.takeHoists (s : State) (v : Saved) (bs : List Byte) : Option Saved :=
  let olds := (List.range 6).flatMap fun q => (v.queues.getD q []).filterMap fun i => match i with | .hoist h => some h | .task _ => none
  (takeRecords hoistRecordBytes (fun h r => (v.issuer h.name h.spall).bind fun c => (s.reissueHoist v h c.1 c.2 r).map fun e => (e.1, .hoist e.2)) olds
    bs).map (v.withItems true)

/-- Section 7, changed: the block with the tasks that it gives. The layout of its partials is open, so that their bytes stand (log 16). -/
def State.takeTasks (s : State) (v : Saved) (was bs : List Byte) : Option Saved :=
  let olds := (List.range 6).flatMap fun q => (v.queues.getD q []).filterMap fun i => match i with | .task t => some t | .hoist _ => none
  let rest := 49152 * v.partials.length
  if bs.drop (bs.length - rest) ≠ was.drop (was.length - rest) then none
  else (takeRecords taskRecordBytes (fun t r => (v.issuer t.name t.spall).bind fun c => (s.reissueTask v t c.1 c.2 r).map fun e => (e.1, .task e.2)) olds
    (bs.take (bs.length - rest))).map (v.withItems false)

end Sys2Proof.Machine
end

