-- ==== Sys2Proof/Machine/Image.lean ====
section
/-! DEFINITION. The context image of a block in its launch's save area (R390): its sections as they are packed (R182, R196, R265, R289,
R304), where it stands, how it is written and read back, and the checks of what is read. Bytes whose layout the manual does not give are
free values (log 16). -/

namespace Sys2Proof.Machine

/-! ## Items of a block -/

/-- Items of a launch's block. -/
def QItem.ofBlock (i : QItem) (launch block : Nat) : Bool :=
  match i with
  | .hoist h => h.launch == launch && h.block == block
  | .task t => t.launch == launch && t.block == block

/-- Items of a block's crews in the queues of its core. -/
def State.blockItems (s : State) (key : Nat) : List QItem :=
  match s.blocks.get? key with
  | none => []
  | some b => (s.items (key / 16)).filter fun i => i.ofBlock b.launch b.number

/-- Partials of a block's crews. -/
def State.blockPartials (s : State) (key : Nat) : List Partial :=
  match s.blocks.get? key with
  | none => []
  | some b => (s.core (key / 16)).partials.filter fun p => p.launch == b.launch && b.crews.any fun k =>
      match s.crews.get? k with | some c => c.name == p.name | none => false

/-! ## Records (R182, R196, R265, R289, R304) -/

/-- A tile entry (R182). -/
def TileEntry.word (t : TileEntry) : Nat :=
  placeField 1 63 + placeField t.chute.toNat 62 + placeField t.late.toNat 61 + placeField t.owner 56 + placeField t.state 54 +
  placeField t.size 48 + placeField t.base 38 + placeField t.expect 21 + placeField t.landed 4

def TileEntry.ofWord (n : Nat) : TileEntry :=
  { chute := n.testBit 62, late := n.testBit 61, owner := field n 59 56, state := field n 55 54, size := field n 53 48
    base := field n 47 38, expect := field n 37 21, landed := field n 20 4 }

/-- An event counter (R196). -/
def Counter.word (c : Counter) : Nat :=
  placeField 1 95 + placeField c.bytes.toNat 94 + placeField c.owner 90 + placeField c.epoch 64 + placeField c.target 32 + c.count

def Counter.ofWord (n : Nat) : Counter :=
  { bytes := n.testBit 94, owner := field n 93 90, epoch := field n 79 64, target := field n 63 32, count := field n 31 0 }

/-- Numbers whose bits are set, as a mask. -/
def bitSet (xs : List Nat) : Nat := (xs.eraseDups.map fun i => 2 ^ i).sum

def HoistKind.code : HoistKind → Nat
  | .lane => 0
  | .tensor => 1
  | .multicast => 2
  | .storeLane => 3
  | .storeTensor => 4
  | .qfence => 5

/-- A hoist entry of a queue: its 64 B header, and for a lane form the records of lanes 0 to 95 (R265). -/
def Hoist.record (h : Hoist) (queue : Nat) : List Byte :=
  let slot := h.tgt == 3 && h.kind != .multicast
  let head := placeField h.cursor 480 + placeField (h.desc.zipIdx.map fun d => placeField d.1.toNat (32 * d.2)).sum 288 +
    placeField h.win 256 + placeField h.src 192 + placeField (bitSet (h.lanes.map (·.1))) 96 +
    placeField ((if slot then placeField h.chute 9 else 0) + h.tindex) 81 +
    placeField (if h.kind = .multicast then 0 else h.tgt) 79 + placeField (h.tok.getD 0) 76 + placeField h.scope 73 +
    placeField queue 70 + placeField h.size 68 +
    (if h.kind = .multicast then placeField (bitSet (h.landings.map (·.1))) 64 + placeField h.chute 58 else 0) +
    placeField h.qmask 52 + placeField h.kind.code 49 + placeField h.held.toNat 48
  let lanes := if h.kind = .lane ∨ h.kind = .storeLane then (List.range 96).flatMap fun l =>
      match h.lanes.find? fun e => e.1 == l with
      | some e => leBytes 16 (placeField e.2.2 64 + e.2.1)
      | none => leBytes 16 0
    else []
  leBytes 64 head ++ lanes

/-- Words of a register, lane 0 first. -/
def regBytes (ws : List Word) : List Byte := (List.range laneCount).flatMap fun l => leBytes 4 (lane ws l).toNat

/-- A task of queue q (0 or 1): its 32 B record, and its extension (R289). -/
def Task.record (t : Task) (q : Nat) : List Byte :=
  let ext := t.op == 0xCB || !t.merge.isEmpty
  let ctl := t.ctl.toNat / 4 * 4 + q
  leBytes 32 (placeField t.offset 224 + placeField t.arg.toNat 192 + placeField t.handle.toNat 160 + placeField t.op 152 +
    placeField ctl 143 + placeField t.aux.toNat 127 + placeField t.dst 117 + placeField t.scope 114 +
    placeField t.tok.isSome.toNat 113 + placeField (t.tok.getD 0) 110 + placeField q 109 + placeField t.steered.toNat 108 +
    placeField ext.toNat 107 + placeField t.pseq 96 + t.lanes.toNat) ++
  (if t.op = 0xCB then regBytes t.sa else []) ++ t.merge.flatMap regBytes

/-- A store-buffer entry of an age: 32 B and the line's bytes (R304). -/
def StoreEntry.record (e : StoreEntry) (age : Nat) : List Byte :=
  leBytes 32 (placeField (bitSet (e.bytes.map (·.1))) 128 + placeField e.line 87 + placeField e.kind 85 + placeField e.scope 82 +
    placeField 1 81 + placeField e.rel.toNat 80 + placeField age 76) ++
  (List.range 128).map fun i => e.bytes.getD i 0

/-- A crew's buffer and counters (R304). -/
def Crew.storeRecord (c : Crew) : List Byte :=
  ((List.range 16).flatMap fun i => match c.sbuf[i]? with | some e => e.record i | none => leBytes 160 0) ++
  (List.range 8).flatMap fun i => leBytes 2 (if i < 6 then c.unack.getD (i + 1) 0 else 0)

/-! ## The image (R390) -/

/-- Bytes of one crew in section 1, of the weight tables in section 9: the manual gives no length (log 16). -/
def crewBytes : Nat := 8192
def tableBytes : Nat := 1024

/-- n bytes of an open layout. -/
def openBytes (draw n : Nat) : List Byte := (List.range n).map fun i => (Config.freeWord (draw + i)).setWidth 8

/-- What a section holds; `draw` numbers its free values. -/
def Saved.section_ (v : Saved) (draw kind : Nat) : List Byte :=
  let items := (List.range 6).flatMap fun q => (v.queues.getD q []).map fun i => (q, i)
  match kind with
  | 1 => openBytes draw (crewBytes * v.crews.length)
  | 2 => v.crews.flatMap fun c => (List.range c.budget).flatMap fun r => regBytes (c.pool? r)
  | 3 => v.block.mem.bytes 0 v.block.size
  | 4 => (List.range 512).flatMap fun e => leBytes 8 (match v.tiles.get? e with | some t => t.word | none => 0)
  | 5 => (List.range 2048).flatMap fun e => leBytes 12 (match v.counters.get? e with | some c => c.word | none => 0)
  | 6 => items.flatMap fun i => match i.2 with | .hoist h => h.record i.1 | .task _ => []
  | 7 => (items.flatMap fun i => match i.2 with | .task t => t.record (i.1 - 4) | .hoist _ => []) ++
      openBytes draw (49152 * v.partials.length)
  | 8 => v.crews.flatMap Crew.storeRecord
  | _ => openBytes draw (tableBytes + 256 * v.block.wlines)

/-- The header (kind 0) and the sections with theirs, in order. -/
def Saved.sections (v : Saved) (draw : Nat) : List (Nat × List Byte) :=
  (0, openBytes draw 64) :: (List.range 9).map fun i =>
    (i + 1, openBytes (draw + 2 ^ 20 * (2 * i + 1)) 16 ++ v.section_ (draw + 2 ^ 20 * (2 * i + 2)) (i + 1))

/-- Free values that an image may draw. -/
def imageDraws : Nat := 2 ^ 25

/-- Bytes of an item's record. -/
def QItem.bytes (i : QItem) : Nat :=
  match i with
  | .hoist h => if h.kind = .lane ∨ h.kind = .storeLane then 1600 else 64
  | .task t => 32 + (if t.op = 0xCB then 384 else 0) + 384 * t.merge.length

/-- Bytes of a block's context image (R387, R390). -/
def State.contextBytes (s : State) (key : Nat) : Nat :=
  match s.blocks.get? key with
  | none => 0
  | some b =>
    let crew (k : Nat) : Nat := match s.crews.get? k with | some c => 384 * c.budget + crewBytes + 2576 | none => 0
    64 + 9 * 16 + (b.crews.map crew).sum + b.size + 8 * 512 + 12 * 2048 + ((s.blockItems key).map QItem.bytes).sum
      + 49152 * (s.blockPartials key).length + tableBytes + 256 * b.wlines

/-! ## Where it stands (log 16) -/

/-- Ranges in ascending order. -/
def byOffset : List (Nat × Nat) → List (Nat × Nat)
  | [] => []
  | x :: xs => insert x (byOffset xs)
where
  insert (x : Nat × Nat) : List (Nat × Nat) → List (Nat × Nat)
    | [] => [x]
    | y :: ys => if x.1 ≤ y.1 then x :: y :: ys else y :: insert x ys

/-- The free ranges of an area of n bytes, given its used ones in ascending order. -/
def gaps (n : Nat) (from_ : Nat) : List (Nat × Nat) → List (Nat × Nat)
  | [] => if from_ < n then [(from_, n - from_)] else []
  | u :: us => (if from_ < u.1 then [(from_, u.1 - from_)] else []) ++ gaps n (max from_ (u.1 + u.2)) us

/-- The first n bytes of free ranges. -/
def takeBytes (n : Nat) : List (Nat × Nat) → List (Nat × Nat)
  | [] => []
  | g :: gs => if n = 0 then [] else (g.1, min n g.2) :: takeBytes (n - min n g.2) gs

/-- The ranges of the save area in use, and their bytes (R394). -/
def Launch.savedRanges (l : Launch) : List (Nat × Nat) := byOffset ((l.saved.flatMap fun (e : Nat × Saved) => e.2.extents) ++ l.chuteExtents)
def Launch.saveUsed (l : Launch) : Nat := (l.savedRanges.map (·.2)).sum

/-- The lowest free bytes of the save area. -/
def Launch.saveRoom (l : Launch) (n : Nat) : List (Nat × Nat) := takeBytes n (gaps l.saveLen 0 l.savedRanges)

/-- Offset in the save area of a byte of an image. -/
def imageOffset : List (Nat × Nat) → Nat → Nat
  | [], i => i
  | e :: es, i => if i < e.2 then e.1 + i else imageOffset es (i - e.2)

/-- Writes bytes into ranges of a launch's save area, as an agent of its partition; it waits where a line is held. What cannot be written is
missing from the image (log 16). -/
def State.writeRanges (s : State) (part base : Nat) : List (Nat × Nat) → List Byte → Except Nat State
  | [], _ => .ok s
  | e :: es, bs => match s.vwrite part (base + e.1) (bs.take e.2) with
    | .ok s => s.writeRanges part base es (bs.drop e.2)
    | .error (.waits n) => .error n
    | .error (.fault _ _) => s.writeRanges part base es (bs.drop e.2)

/-- Reads ranges of a save area. -/
def State.readRanges (s : State) (part base : Nat) : List (Nat × Nat) → Except DevStop (List Byte × State)
  | [] => .ok ([], s)
  | e :: es => match s.vread part (base + e.1) e.2 with
    | .error d => .error d
    | .ok (bs, s) => match s.readRanges part base es with
      | .error d => .error d
      | .ok (rest, s) => .ok (bs ++ rest, s)

/-! ## The checks of a restore (R265, R289, R304, R390) -/

/-- Pieces of n bytes. -/
def chunk (bs : List Byte) (n i : Nat) : Nat := leNat ((bs.drop (n * i)).take n)

/-- A tile entry as TDEF and TCLAIM would have left it (R182, R186). -/
def Saved.tileOk (v : Saved) (n : Nat) : Bool :=
  let t := TileEntry.ofWord n
  bits n 60 1 == 0 && bits n 0 4 == 0 &&
  (!n.testBit 63 || (!t.chute && t.owner == v.bslot && decide (1024 * (t.base + t.size + 1) ≤ v.block.size) && decide (1 ≤ t.expect)
    && decide (t.expect ≤ 1024 * (t.size + 1))))

/-- A counter as EV.SET and additions would have left it (R196). -/
def Saved.counterOk (v : Saved) (n : Nat) : Bool :=
  bits n 80 10 == 0 && (!n.testBit 95 || (Counter.ofWord n).owner == v.bslot)

/-- The listed entries of a table of n-byte records whose valid bit is given. -/
def listed {β : Type} (bs : List Byte) (n count valid : Nat) (f : Nat → β) : Table β :=
  (List.range count).filterMap fun i => let x := chunk bs n i; if x.testBit valid then some (i, f x) else none

/-- Entry headers of a crew's store record, by age; none where one is refused (R304). -/
def storeOk (bs : List Byte) : Bool :=
  (List.range 16).all (fun i =>
    let h := leNat ((bs.drop (160 * i)).take 32)
    bits h 0 76 == 0 && (!h.testBit 81 || (bits h 85 2 != 3 && bits h 82 3 != 7))) &&
  (List.range 6).all (fun i => decide (leNat ((bs.drop (2560 + 2 * i)).take 2) ≤ 1023)) &&
  leNat ((bs.drop 2572).take 4) == 0

/-- A crew with the store record that its image holds, `was` being the bytes of the save: a counter whose bytes are as they were written
stands where acknowledgements have left it since (R304). Key slots are not in the record: an entry of the saved buffer to the line gives them,
else the frame (log 16). -/
def State.withStores (s : State) (c : Crew) (was bs : List Byte) : Crew :=
  let at_ (i : Nat) : Nat := leNat ((bs.drop (160 * i)).take 32)
  let entry (i : Nat) : StoreEntry :=
    let h := at_ i
    let line := bits h 87 41
    let was := c.sbuf.find? fun e => e.line == line
    { line := line, key := match was with | some e => e.key | none => s.ownKey (line * 128), kind := bits h 85 2, scope := bits h 82 3
      rel := h.testBit 80, ids := match was with | some e => e.ids | none => [], old := true
      bytes := (List.range 128).filterMap fun b => if h.testBit (128 + b) then some (b, bs.getD (160 * i + 32 + b) 0) else none }
  let order := (List.range 16).flatMap fun age => (List.range 16).filter fun i => (at_ i).testBit 81 && bits (at_ i) 76 4 == age
  { c with
    sbuf := order.map entry
    unack := (List.range 6).map fun i =>
      let n (b : List Byte) : Nat := leNat ((b.drop (2560 + 2 * i)).take 2)
      (i + 1, if n bs = n was then c.unack.getD (i + 1) 0 else n bs) }

/-- A crew with the budget registers that its image holds. -/
def Crew.withPool (c : Crew) (bs : List Byte) : Crew :=
  { c with pool := (List.range c.budget).map fun r => (r, lanesOf fun l => BitVec.ofNat 32 (chunk (bs.drop (384 * r)) 4 l)) }

/-- The saved block with one section as it was read back, or none where the section is refused. An unchanged one stands; a changed one is
taken where its layout is given and each field is one that issue could have left, and refused elsewhere (log 16). -/
def State.takeSection (s : State) (v : Saved) (kind : Nat) (was now : List Byte) : Option Saved :=
  if now = was then some v
  else if now.take 16 ≠ was.take 16 then none
  else
    let bs := now.drop 16
    match kind with
    | 2 =>
      let skip (i : Nat) : Nat := ((v.crews.take i).map fun c => 384 * c.budget).sum
      some { v with crews := v.crews.mapIdx fun i c => c.withPool (bs.drop (skip i)) }
    | 3 => some { v with block := { v.block with mem := Memory.storeBytes [] 0 bs } }
    | 4 => if (List.range 512).all fun i => v.tileOk (chunk bs 8 i) then some { v with tiles := listed bs 8 512 63 TileEntry.ofWord } else none
    | 5 => if (List.range 2048).all fun i => v.counterOk (chunk bs 12 i) then some { v with counters := listed bs 12 2048 95 Counter.ofWord }
      else none
    | 6 => s.takeHoists v bs
    | 7 => s.takeTasks v (was.drop 16) bs
    | 8 => if (List.range v.crews.length).all fun i => storeOk (bs.drop (2576 * i)) then
        some { v with crews := v.crews.mapIdx fun i c => s.withStores c ((was.drop 16).drop (2576 * i)) (bs.drop (2576 * i)) } else none
    | _ => none

/-- Takes the sections of an image one after another; a refused one answers its position in the image. -/
def State.takeSections (s : State) (v : Saved) (pos : Nat) : List (Nat × List Byte) → List Byte → Except Nat Saved
  | [], _ => .ok v
  | (kind, was) :: xs, bs => match s.takeSection v kind was (bs.take was.length) with
    | none => .error pos
    | some v => s.takeSections v (pos + was.length) xs (bs.drop was.length)

/-- Position of the section that holds a byte of an image. -/
def sectionAt (pos i : Nat) : List (Nat × List Byte) → Nat
  | [] => pos
  | x :: xs => if i < pos + x.2.length ∨ xs = [] then pos else sectionAt (pos + x.2.length) i xs

/-- Why a saved block does not come back: a line of its image is held, or a section of it is refused, whose offset in the save area is
given (R376). -/
inductive ImageStop where
  | waits (line : Nat)
  | refused (offset : Nat)
  deriving DecidableEq, Repr

/-- Reads a block's image back and checks it (R390). -/
def State.readImage (s : State) (l : Launch) (v : Saved) : Except ImageStop (Saved × State) :=
  let base := l.saveAddr.toNat
  match s.readRanges l.part base v.extents with
  | .error (.waits n) => .error (.waits n)
  | .error (.fault _ va) =>
    let i := ((List.range v.bytes).find? fun i => decide (va ≤ base + imageOffset v.extents i)).getD 0
    .error (.refused (imageOffset v.extents (sectionAt 0 i v.image)))
  | .ok (bs, s) => match s.takeSections v 0 v.image bs with
    | .error i => .error (.refused (imageOffset v.extents i))
    | .ok v => .ok (v, s)

end Sys2Proof.Machine
end

