-- ==== Sys2Proof/Machine/Preempt.lean ====
section
/-! DEFINITION. Taking blocks away and bringing them back: strategies, saving, flushing, restoring, wake registrations
(R82, R179, R186, R197, R264, R290, R304, R357, R386 to R393). -/

namespace Sys2Proof.Machine

/-! ## Estimates and strategies (R387, R388) -/

def Launch.meanLife (l : Launch) : Nat := l.lifetimes.sum / max l.lifetimes.length 1

/-- T_run: 40,000 ck until a stop point has been measured. -/
def Launch.meanRun (l : Launch) : Nat := if l.runCount = 0 then 40000 else l.runSum / l.runCount

/-- Eligible strategies with their estimates, in the order drain, save, flush (R387). -/
def State.strategies (s : State) (key : Nat) : List (Nat × Nat) :=
  match s.blocks.get? key with
  | none => []
  | some b => match s.launches.get? b.launch with
    | none => []
    | some l =>
      let pipeline := !l.benches.isEmpty
      let bytes := s.contextBytes key
      (if l.lifetimes.isEmpty || pipeline then [] else [(1, l.meanLife - (s.ck - b.placed))]) ++
      (if l.saveLen < l.saveUsed + bytes then [] else [(2, l.meanRun + (bytes + 127) / 128 + 2048)]) ++
      (if !l.restart || pipeline then [] else [(3, 512 + 64 * (s.blockItems key).length)])

/-- The smallest estimate, the first on ties. -/
def cheapest (xs : List (Nat × Nat)) : Option (Nat × Nat) :=
  xs.foldl (fun best x => match best with | none => some x | some b => if x.2 < b.2 then some x else best) none

/-- The strategy for a bound (R388). -/
def chooseStrategy (xs : List (Nat × Nat)) (bound : Nat) : Nat :=
  match xs.find? fun x => decide (x.2 ≤ bound) with
  | some x => x.1
  | none => match cheapest xs with | some x => x.1 | none => 1

/-- Every crew of the block is RETIRING (R95, R392). -/
def State.blockRetiring (s : State) (b : Block) : Bool :=
  b.crews.all fun k => match s.crews.get? k with
    | some c => match c.units.get? 0 with | some h => (match h.st with | .retiring _ => true | _ => false) | none => false
    | none => true

/-- A request for a resident block (R386); one that is already being taken away keeps its strategy. -/
def State.preempt (s : State) (bound key : Nat) : State :=
  match s.blocks.get? key with
  | none => s
  | some b =>
    if b.chute then s
    else if b.strategy != 0 then s.modBlock key fun b => { b with byChange := false }
    else
      let st := if s.blockRetiring b then 1 else chooseStrategy (s.strategies key) bound
      s.modBlock key fun b => { b with strategy := st, limit := s.ck + bound }

/-- A request for a block with a strategy that is given (R244, R407). -/
def State.preemptAs (s : State) (strategy bound key : Nat) : State :=
  s.modBlock key fun b => if b.chute || (b.strategy != 0 && b.strategy != 1) then { b with byChange := false } else { b with strategy := strategy, limit := s.ck + bound, byChange := false }

/-- DRAIN_TO_SAVE: the time left to the bound has fallen below the save estimate (R388). -/
def execDrainToSave (core bslot : Nat) (s : State) : Out :=
  .next (
    let key := blockKey core bslot
    match s.blocks.get? key with
    | none => s
    | some b =>
      let others := (s.strategies key).filter fun x => x.1 != 1
      let due := match others.find? fun x => x.1 == 2 with | some x => decide (b.limit - s.ck < x.2) | none => decide (b.limit ≤ s.ck)
      if b.strategy != 1 || s.blockRetiring b || !due then s
      else match cheapest others with
        | some x => s.modBlock key fun b => { b with strategy := x.1 }
        | none => s)

/-! ## Stop points (R82) -/

/-- The unit may be stopped where it stands. -/
def CrewUnit.stopped (h : CrewUnit) : Bool :=
  match h.st with
  | .ready | .stalled _ | .splitting _ => h.stop
  | .joined _ | .dozing _ | .suspended _ _ | .held _ | .entering _ _ => true
  | .marked | .joining | .faulting _ _ | .limited | .retiring _ => false

/-- Every unit of the crew is stopped, its results have returned but for those of the tasks `waiting` to start, and its pieces are all in the
buffer (R82, R290, R304). -/
def Crew.stopped (c : Crew) (waiting : List Nat) : Bool :=
  c.units.all (fun e => e.2.stopped) && c.out.all (fun r => waiting.contains r.id) && c.pieces.isEmpty

/-- Results that tasks of a crew will write which have not started (R290). -/
def State.waitingResults (s : State) (k : Nat) (c : Crew) : List Nat :=
  (s.items (coreOf k)).filterMap fun i => match i with
    | .task t => if t.launch = c.launch ∧ t.name = c.name ∧ !t.started then t.result else none
    | .hoist _ => none

/-- The item can be saved: a held hoist, one that waits behind it, or a task that has not started (R264, R290). -/
def QItem.savable (before : List QItem) (i : QItem) : Bool :=
  match i with
  | .hoist h => h.held || before.any fun j => match j with | .hoist g => g.held && g.name == h.name && g.launch == h.launch | .task _ => false
  | .task t => !t.started

def State.itemsSavable (s : State) (core launch block : Nat) : Bool :=
  (List.range 6).all fun q =>
    let xs := s.queue core q
    xs.zipIdx.all fun (i, n) => match i with
      | .hoist h => !(h.launch == launch && h.block == block) || i.savable (xs.take n)
      | .task t => !(t.launch == launch && t.block == block) || i.savable []

/-- A hoist of another block, an access of any crew, or an access of one of its own crews to another block, is still to be performed (R179). -/
def State.foreignWindow (s : State) (key : Nat) (b : Block) : Bool :=
  s.portNames key || s.portOf (key / 16) b.crews ||
  (List.range 4).any fun j =>
    let core := 4 * clusterOf (key / 16) + j
    (s.items core).any fun i => match i with
      | .hoist h => !(h.launch == b.launch && h.block == b.number) && (h.windows core).contains key
      | .task _ => false

/-! ## Saving (R390) -/

/-- A unit as it is saved: dozes end, stalls are forgotten (R109, R81). -/
def CrewUnit.toSave (h : CrewUnit) : CrewUnit :=
  match h.st with
  | .dozing _ | .stalled _ | .splitting _ => { h with st := .ready, stop := true }
  | _ => h

/-- Credits that a queue's untaken partials and unstarted producers hold (R276). -/
def creditsIn (q : Nat) (ps : List Partial) (items : List QItem) : Nat :=
  (ps.filter fun p => p.queue == q).length +
  (items.filter fun i => match i with | .task t => isMma t.op && t.tile.isNone | .hoist _ => false).length

/-- Changes the credits taken of both queues. -/
def Core.modCredits (c : Core) (f : Nat → Nat → Nat) : Core :=
  { c with creditsUsed := (c.creditsUsed.put 0 (f 0 (c.creditsUsed.getD 0 0))).put 1 (f 1 (c.creditsUsed.getD 1 0)) }

/-- The block could continue at once: it held a unit that was not SUSPENDED (R393). -/
def Saved.startsRunnable (crews : List Crew) : Bool :=
  crews.any fun c => c.units.any fun e => match e.2.st with | .suspended _ woken => woken | _ => true

/-- Soft errors of a block in terms of its own parts (R444): a crew's position, or 0. -/
def State.softOf (s : State) (key : Nat) (b : Block) : List (Nat × Nat × Nat) :=
  let core := key / 16
  s.softErrors.filterMap fun (code, owner, index) =>
    if code = 1 ∨ code = 2 then (if b.crews.contains owner then some (code, b.crews.findIdx (· == owner), index) else none)
    else if code = 3 ∨ code = 4 then (if owner = key then some (code, 0, index) else none)
    else if code = 6 ∧ owner = core then
      (let own := if index < 512 then (s.core core).tiles.get? index |>.map (·.owner) else (s.core core).counters.get? (index - 512) |>.map (·.owner)
       if own = some (key % 16) then some (code, 0, index) else none)
    else none

/-- Places of a soft error after the block has been restored. -/
def softBack (key : Nat) (slots : List Nat) (e : Nat × Nat × Nat) : Nat × Nat × Nat :=
  if e.1 = 1 ∨ e.1 = 2 then (e.1, slots.getD e.2.1 0, e.2.2) else if e.1 = 6 then (6, key / 16, e.2.2) else (e.1, key, e.2.2)

/-- Line watches of a block's units. -/
def lineWatches (crews : List Crew) : Nat :=
  (crews.map fun c => (c.units.filter fun u => match u.2.st with
    | .suspended (.watch _ _) _ | .suspended (.record _ _) _ => true
    | _ => false).length).sum

/-- The home die of a partition: that of its lowest-numbered cluster (R368). -/
def State.homeOf (s : State) (p : Nat) : Nat := match (s.clustersOf p).head? with | some n => n / 8 | none => 0

/-- Saved line watches that a die's home complex keeps (R393). -/
def State.savedWatches (s : State) (die : Nat) : Nat :=
  ((s.launches.filter fun (e : Nat × Launch) => s.homeOf e.2.part == die).map fun (e : Nat × Launch) =>
    (e.2.saved.map fun (b : Nat × Saved) => lineWatches b.2.crews).sum).sum

/-- The block as it is saved (R390): its engine entries, its partials, its crews with what their units wait for. -/
def State.savedOf (s : State) (key : Nat) (b : Block) (l : Launch) : Saved :=
  let core := key / 16
  let crews := (b.crews.filterMap fun k => s.crews.get? k).map fun c =>
    { c.mapUnits (fun _ h => h.toSave) with
      ranBefore := c.ranBefore + (s.ck - c.placed), last := noLast, sbuf := c.sbuf.map StoreEntry.keep }
  let x := s.core core
  let runnable := Saved.startsRunnable crews
  let watches := lineWatches crews
  let full := watches != 0 && decide (4096 < s.savedWatches (s.homeOf l.part) + watches)
  { block := { b with strategy := 0, byChange := false }, core := core, bslot := key % 16, crews := crews
    tiles := x.tiles.filter fun e => e.2.owner == key % 16
    counters := x.counters.filter fun e => e.2.owner == key % 16
    queues := (List.range 6).map fun q => (q, (s.queue core q).filter fun i => i.ofBlock b.launch b.number)
    partials := s.blockPartials key, bytes := s.contextBytes key, extents := [], image := [], soft := s.softOf key b
    runnable := runnable || full, fromSave := runnable, queued := l.st == .halting, since := s.ck }

/-- Takes the block and everything of it off its core. -/
def State.liftBlock (s : State) (key : Nat) (b : Block) (v : Saved) : State :=
  let core := key / 16
  let s := s.modCore core fun c =>
    ({ c with
      partials := c.partials.filter fun p => !v.partials.contains p
      queues := c.queues.map fun (e : Nat × List QItem) => (e.1, e.2.filter fun i => !i.ofBlock b.launch b.number)
      cand := c.cand.filter fun e => !(b.crews.contains (32 * core + e.1)) } : Core).modCredits fun q n =>
        n - creditsIn q v.partials ((v.queues.getD (4 + q) []))
  let mine (f : Flight) : Bool := f.launch == b.launch && v.crews.any fun c => c.name == f.name
  let s := { s with
    crews := s.crews.filter fun e => !b.crews.contains e.1
    flights := s.flights.map fun (e : Nat × Flight) => (e.1, if mine e.2 then { e.2 with entry := e.2.entry.keep } else e.2)
    softErrors := s.softErrors.filter fun e => !((e.1 == 1 || e.1 == 2) && b.crews.contains e.2.1) }
  s.releaseBlock key

/-- Every unit of the crews leaves issue, and whether every runner has its record's line (R357). -/
def State.descheduleAll (s : State) (ks : List Nat) : State × Bool :=
  let s := ks.foldl (fun s k => match s.crews.get? k with
    | some c => c.units.foldl (fun s u => s.deschedule k u.1) s
    | none => s) s
  (s, ks.all fun k => match s.crews.get? k with | some c => !c.onIssue | none => true)

/-- Saves a block: its image is written to free parts of the launch's save area, then it leaves its core. It waits where a line of the area
is held. -/
def State.saveBlock (s : State) (key : Nat) (b : Block) (l : Launch) : State :=
  let s0 := s
  let core := key / 16
  let (s, off) := s.descheduleAll b.crews
  if !off then s else
  let s := b.crews.foldl (fun s k => match s.crews.get? k with
    | some c => c.units.foldl (fun s u => s.dropWatch core u.2.st) s
    | none => s) s
  let b := (s.blocks.get? key).getD b
  let v := s.savedOf key b l
  let v : Saved := { v with extents := l.saveRoom v.bytes, image := v.sections s.fresh }
  match { s with fresh := s.fresh + imageDraws }.writeRanges l.part l.saveAddr.toNat v.extents (v.image.flatMap fun (e : Nat × List Byte) => e.2) with
  | .error _ => s0
  | .ok s => (s.liftBlock key b v).modLaunch b.launch fun l => { l with saved := l.saved.put b.number v }

/-- Crews of a block that is not taken away after all resume where they stopped (R357). -/
def State.resumeCrews (s : State) (ks : List Nat) : State := ks.foldl (fun s k => s.modCrew k Crew.resumeCapsule) s

/-- BLOCK_SAVE: every unit is at a stop point, and engine work has completed or is held (R82, R264, R290, R390). A block whose context no
longer fits the save area takes another strategy (R387, R394). -/
def execBlockSave (core bslot : Nat) (s : State) : Out :=
  .next (
    let key := blockKey core bslot
    match s.blocks.get? key with
    | none => s
    | some b => match s.launches.get? b.launch with
      | none => s
      | some l =>
        let ready := b.crews.all fun k => match s.crews.get? k with
          | some c => c.stopped (s.waitingResults k c) && !c.onIssue && !c.units.isEmpty
          | none => false
        if b.chute || b.strategy != 2 || !ready || !s.itemsSavable core b.launch b.number || s.foreignWindow key b then s
        else if l.saveLen < l.saveUsed + s.contextBytes key then
          -- a runner that has been descheduled resumes at its stop point (R357)
          (s.modBlock key fun b => { b with strategy := chooseStrategy (s.strategies key) (b.limit - s.ck) }).resumeCrews b.crews
        else s.saveBlock key b l)

/-! ## Flushing (R391) -/

/-- Ends a crew without a flag test: buffered stores are sent, and nobody waits for its results. -/
def State.endCrew (s : State) (k : Nat) : State :=
  match s.crews.get? k with
  | none => s
  | some c =>
    let s := c.units.foldl (fun s u => s.dropWatch (coreOf k) u.2.st) s
    let s := (c.sbuf ++ c.pieces).foldl (fun s e => s.sendEntry k c e false) s
    let s := s.modCore (coreOf k) fun x =>
      let mine := x.partials.filter fun p => p.launch == c.launch && p.name == c.name
      { x with
        partials := x.partials.filter fun p => !(p.launch == c.launch && p.name == c.name)
        creditsUsed := mine.foldl (fun t p => Table.put t p.queue (t.getD p.queue 0 - 1)) x.creditsUsed
        cand := x.cand.del (k % 32) }
    let s := s.orphanScratch k
    { s with
      crews := s.crews.del k
      softErrors := s.softErrors.filter fun e => !((e.1 == 1 || e.1 == 2) && e.2.1 == k) }

/-- The block's hoists that a fault holds, which an ended launch discards (R263). -/
def State.dropHeld (s : State) (core launch block : Nat) : State :=
  s.modCore core fun c => { c with queues := c.queues.map fun (e : Nat × List QItem) => (e.1, e.2.filter fun i => match i with
    | .hoist h => !(h.held && h.launch == launch && h.block == block)
    | .task _ => true) }

/-- BLOCK_FLUSH: the block's engine work has completed; its crews end, and it is queued again unless its launch has ended (R391, R395). -/
def execBlockFlush (core bslot : Nat) (s : State) : Out :=
  .next (
    let key := blockKey core bslot
    match s.blocks.get? key with
    | none => s
    | some b => match s.launches.get? b.launch with
      | none => s
      | some l =>
        if b.chute || b.strategy != 3 then s
        else
          let s := if l.st = .aborted then s.dropHeld core b.launch b.number else s
          if !(s.blockItems key).isEmpty || s.foreignWindow key b then s
          else
            let (s, off) := s.descheduleAll b.crews
            if !off then s else
            let s := (b.crews.foldl (fun s k => s.endCrew k) s).releaseBlock key
            let s := if l.st = .aborted then s
              else s.modLaunch b.launch fun l => { l with requeue := l.requeue ++ [(b.number, clusterOf core)] }
            (s.coreFreed b.launch core).checkLaunch b.launch)

/-! ## Restoring (R186, R197, R265, R289, R290, R390) -/

/-- The tile entries, counters, partials, credits and queues of a core have room for a saved block. -/
def State.roomFor (s : State) (core : Nat) (v : Saved) : Bool :=
  let c := s.core core
  v.tiles.all (fun e => (c.tiles.get? e.1).isNone) && v.counters.all (fun e => (c.counters.get? e.1).isNone) &&
  (List.range 2).all (fun q => decide (c.creditsUsed.getD q 0 + creditsIn q v.partials (v.queues.getD (4 + q) []) ≤ 4)) &&
  (List.range 6).all fun q => (v.queues.getD q []).isEmpty ||
    decide ((s.queue core q).length + (v.queues.getD q []).length ≤ if q < 4 then 64 else 32)

/-- Where a saved block fits on a core; `at_` fixes its block slot (R245). -/
def State.fitSaved (s : State) (core : Nat) (v : Saved) (at_ : Option Nat) : Option Fit :=
  let r := match v.crews.head? with | some c => c.budget | none => 0
  let slot := match at_ with
    | some b => if (s.freeBslots core).contains b then some b else none
    | none => (s.freeBslots core).head?
  -- crews of one block may have been freed before the save; budgets are those of its launch (R78)
  if !s.roomFor core v then none
  else match slot, s.slotsFor core v.crews.length r, s.scratchAt core v.block.size, s.weightAt core v.block.wlines with
    | some b, some ks, some base, some wbase => some ⟨b, ks, base, wbase⟩
    | _, _, _, _ => none

/-- A window address that named the block's own position at issue, for its new one (R264). -/
def moveWindow (core bslot w : Nat) : Nat :=
  w - placeField (field w 27 26) 26 - placeField (field w 25 22) 22 + placeField (core % 4) 26 + placeField bslot 22

/-- An engine item at the block's new position. -/
def QItem.moved (v : Saved) (core : Nat) (f : Fit) (i : QItem) : QItem :=
  let slot (k : Nat) : Nat := f.slots.getD (v.block.crews.findIdx (· == k)) 0
  match i with
  | .hoist h =>
    let mv (l w : Nat) : Nat := if h.own.getLsbD l then moveWindow core f.bslot w else w
    .hoist { h with
      crew := slot h.crew, bslot := f.bslot, win := if h.kind = .tensor ∨ h.kind = .storeTensor then mv 0 h.win else h.win
      lanes := h.lanes.map fun l => (l.1, l.2.1, mv l.1 l.2.2)
      check := true, wait := none
      landings := if h.kind = .multicast then h.landings
        else h.landings.map fun l => (if l.1 = v.core % 4 then core % 4 else l.1, l.2) }
  | .task t => .task { t with
      crew := slot t.crew, bslot := f.bslot
      regionBslot := if t.kind = 0 && t.regionBslot == v.bslot then f.bslot else t.regionBslot }

/-- A unit on restore: what its registration waits for may have come (R91, R393). -/
def State.restoreUnit (s : State) (c : Crew) (counters : Table Counter) (h : CrewUnit) : CrewUnit :=
  match h.st with
  | .suspended w woken =>
    let now := match w with
      | .counter e t => (match counters.get? e with | some x => reached x.epoch t | none => true)
      | .barrier g t => reached (match s.launches.get? c.launch with
          | some l => (match l.barriers.get? g with | some b => b.epoch | none => 0) | none => 0) t
      | .result => c.cap.rv
      | .chute _ _ => false
      | .watch _ _ | .record _ _ | .poll _ => true
    -- an address watch was given up at the save; the unit looks again (R316)
    let w := match w with | .watch _ _ => Wake.poll s.ck | w => w
    { h with st := .suspended w (woken || now) }
  | _ => h

/-- Puts a saved block on a core. -/
def State.restoreBlock (s : State) (launch number core : Nat) (v : Saved) (f : Fit) : State :=
  let key := blockKey core f.bslot
  let b := { v.block with base := f.base, wbase := f.wbase, placed := s.ck, crews := f.slots, idleSince := none, strategy := 0, limit := 0 }
  let s := { s with
    blocks := s.blocks.put key b
    softErrors := s.softErrors ++ v.soft.map (softBack key f.slots) }
  let s := (f.slots.zip v.crews).foldl (fun s (k, c) =>
    let c := { c.mapUnits (fun _ h => s.restoreUnit c v.counters { h with stopAt := s.ck }) with placed := s.ck }
    s.setCrew k c.resumeCapsule) s
  let s := s.modCore core fun c =>
    ({ c with
      tiles := v.tiles.foldl (fun t e => Table.put t e.1 { e.2 with owner := f.bslot }) c.tiles
      counters := v.counters.foldl (fun t e => Table.put t e.1 { e.2 with owner := f.bslot }) c.counters
      partials := c.partials ++ v.partials
      queues := v.queues.foldl (fun t (e : Nat × List QItem) =>
        if e.2.isEmpty then t else Table.put t e.1 (e.2.map (fun i => i.moved v core f) ++ t.getD e.1 [])) c.queues } : Core).modCredits
      fun q n => n + creditsIn q v.partials (v.queues.getD (4 + q) [])
  let s := (s.modLaunch launch fun l => { l with saved := l.saved.del number }).coreFreed launch v.core
  -- instances on whose lists it stands wake their first waiters (R224, R393)
  v.crews.foldl (fun s c => c.units.foldl (fun s (u : Nat × CrewUnit) => match u.2.st with
    | .suspended (.chute n _) _ => (match s.inst? core n with | some (home, _) => s.wakeChute home n | none => s)
    | _ => s) s) s

/-- The block may come back on this core: a block that holds a chute slot returns to its own core, where its handles name it, unless it has
moved to another die; a pipeline's block to a core of its bench (R221, R237, R245, R422; log 21). -/
def State.mayReturn (l : Launch) (core : Nat) (v : Saved) : Bool :=
  (!(v.crews.any fun c => c.slots != 0) || core == v.core || dieOf core != dieOf v.core || l.st == .halted) &&
  (l.benches.isEmpty || l.st == .halted || l.assign.get? core == some v.block.bench)

/-! ## Wake registrations (R393) -/

/-- A unit of a saved block could continue now. -/
def State.couldGoOn (s : State) (launch : Nat) (v : Saved) : Bool :=
  v.crews.any fun c => c.units.any fun e => match e.2.st with
    | .suspended w woken => woken || (match w with
      | .counter n t => (match v.counters.get? n with | some x => reached x.epoch t | none => true)
      | .watch _ (some (n, t)) => (match v.counters.get? n with | some x => reached x.epoch t | none => true)
      | .barrier g t => reached (match s.launches.get? launch with
          | some l => (match l.barriers.get? g with | some b => b.epoch | none => 0) | none => 0) t
      | .record _ deadline => decide (deadline < s.ck)
      | .poll since => decide (since + 4096 ≤ s.ck)
      | .result => c.cap.rv
      | _ => false)
    | _ => true

/-- SAVED_BLOCK_RUNNABLE. -/
def execSavedBlockRunnable (launch block : Nat) (s : State) : Out :=
  .next (match s.launches.get? launch with
    | none => s
    | some l => match l.saved.get? block with
      | none => s
      | some v =>
        if v.runnable || !s.couldGoOn launch v then s
        else s.modLaunch launch fun l => { l with saved := l.saved.put block { v with runnable := true } })

end Sys2Proof.Machine
end

