-- ==== Sys2Proof/Machine/Policy.lean ====
section
/-! DEFINITION. The policy engines' operations (R410 to R412): registers, loops, window accesses. Every operation takes its cycles of
R411 from the start of its routine; the module's other agents go on in the meantime. -/

namespace Sys2Proof.Machine

/-! ## The engine that runs (R410, R419) -/

/-- ck at which the running routine's next operation is performed. -/
def Cluster.due (c : Cluster) : Nat := c.started + c.cycles

/-- The engine whose operation is due first, the lowest cluster on ties. -/
def State.engineOf (s : State) : Option Nat :=
  (s.clusters.foldl (fun best (e : Nat × Cluster) =>
    if e.2.running.isNone || e.2.ended.isSome then best
    else match best with
      | none => some e
      | some b => if e.2.due < b.2.due then some e else some b) (none : Option (Nat × Cluster))).map (·.1)

def Cluster.reg (c : Cluster) (r : Fin 16) : Dword := c.regs.getD r.val 0
def Cluster.setReg (c : Cluster) (r : Fin 16) (v : Dword) : Cluster := { c with regs := c.regs.put r.val v }

/-- Performs an operation on the engine that runs: its cost is counted and the word advances before its effect. -/
def policy (cost : Nat) (f : Nat → Cluster → State → State) (s : State) : Out :=
  match s.engineOf with
  | none => .fault .noEngine
  | some n =>
    let s := s.modCluster n fun c => { c with word := c.word + 1, cycles := c.cycles + cost }
    .next (f n (s.cluster n) s)

/-- An effect on the engine alone. -/
def policyOn (cost : Nat) (f : Cluster → Cluster) (s : State) : Out := policy cost (fun n _ s => s.modCluster n f) s

def policyR3 (cost : Nat) (f : Dword → Dword → Dword) (d a b : Fin 16) (s : State) : Out :=
  policyOn cost (fun c => c.setReg d (f (c.reg a) (c.reg b))) s

def policyR2 (cost : Nat) (f : Dword → Dword) (d a : Fin 16) (s : State) : Out := policyOn cost (fun c => c.setReg d (f (c.reg a))) s

/-- The next word is the current word + imm; the word has already advanced by one. -/
def Cluster.jump (c : Cluster) (imm : BitVec 18) : Cluster := { c with word := ((c.word : Int) - 1 + imm.toInt).toNat }

def policyBranch (p : Dword → Dword → Bool) (d a : Fin 16) (imm : BitVec 18) (s : State) : Out :=
  policyOn 1 (fun c => if p (c.reg d) (c.reg a) then c.jump imm else c) s

/-! ## Registers and branches (R411) -/

def execPolicyAdd (d a b : Fin 16) (s : State) : Out := policyR3 1 (fun x y => x + y) d a b s
def execPolicySub (d a b : Fin 16) (s : State) : Out := policyR3 1 (fun x y => x - y) d a b s
def execPolicyMul (d a b : Fin 16) (s : State) : Out := policyR3 2 (fun x y => x * y) d a b s
def execPolicyDivu (d a b : Fin 16) (s : State) : Out := policyR3 24 (fun x y => if y = 0 then BitVec.allOnes 64 else x / y) d a b s
def execPolicyRemu (d a b : Fin 16) (s : State) : Out := policyR3 24 (fun x y => if y = 0 then x else x % y) d a b s
def execPolicyAnd (d a b : Fin 16) (s : State) : Out := policyR3 1 (fun x y => x &&& y) d a b s
def execPolicyOr (d a b : Fin 16) (s : State) : Out := policyR3 1 (fun x y => x ||| y) d a b s
def execPolicyXor (d a b : Fin 16) (s : State) : Out := policyR3 1 (fun x y => x ^^^ y) d a b s
def execPolicyShl (d a b : Fin 16) (s : State) : Out := policyR3 1 (fun x y => x <<< (y.toNat % 64)) d a b s
def execPolicyShru (d a b : Fin 16) (s : State) : Out := policyR3 1 (fun x y => x >>> (y.toNat % 64)) d a b s
def execPolicyShrs (d a b : Fin 16) (s : State) : Out := policyR3 1 (fun x y => x.sshiftRight (y.toNat % 64)) d a b s
def execPolicyMin (d a b : Fin 16) (s : State) : Out := policyR3 1 (fun x y => if x.toInt ≤ y.toInt then x else y) d a b s
def execPolicyMax (d a b : Fin 16) (s : State) : Out := policyR3 1 (fun x y => if x.toInt ≤ y.toInt then y else x) d a b s
def execPolicyMinu (d a b : Fin 16) (s : State) : Out := policyR3 1 (fun x y => if x.toNat ≤ y.toNat then x else y) d a b s
def execPolicyMaxu (d a b : Fin 16) (s : State) : Out := policyR3 1 (fun x y => if x.toNat ≤ y.toNat then y else x) d a b s
def execPolicySlt (d a b : Fin 16) (s : State) : Out := policyR3 1 (fun x y => if x.toInt < y.toInt then 1 else 0) d a b s
def execPolicySltu (d a b : Fin 16) (s : State) : Out := policyR3 1 (fun x y => if x.toNat < y.toNat then 1 else 0) d a b s
def execPolicySeq (d a b : Fin 16) (s : State) : Out := policyR3 1 (fun x y => if x = y then 1 else 0) d a b s
def execPolicyAddi (d a : Fin 16) (imm : BitVec 18) (s : State) : Out := policyR2 1 (fun x => x + imm.signExtend 64) d a s
def execPolicyAndi (d a : Fin 16) (imm : BitVec 18) (s : State) : Out := policyR2 1 (fun x => x &&& imm.setWidth 64) d a s
def execPolicyOri (d a : Fin 16) (imm : BitVec 18) (s : State) : Out := policyR2 1 (fun x => x ||| imm.setWidth 64) d a s
def execPolicyXori (d a : Fin 16) (imm : BitVec 18) (s : State) : Out := policyR2 1 (fun x => x ^^^ imm.setWidth 64) d a s
def execPolicyShli (d a : Fin 16) (imm : BitVec 6) (s : State) : Out := policyR2 1 (fun x => x <<< imm.toNat) d a s
def execPolicyShrui (d a : Fin 16) (imm : BitVec 6) (s : State) : Out := policyR2 1 (fun x => x >>> imm.toNat) d a s
def execPolicyShrsi (d a : Fin 16) (imm : BitVec 6) (s : State) : Out := policyR2 1 (fun x => x.sshiftRight imm.toNat) d a s
def execPolicyBeq (d a : Fin 16) (imm : BitVec 18) (s : State) : Out := policyBranch (fun x y => decide (x = y)) d a imm s
def execPolicyBne (d a : Fin 16) (imm : BitVec 18) (s : State) : Out := policyBranch (fun x y => decide (x ≠ y)) d a imm s
def execPolicyBlt (d a : Fin 16) (imm : BitVec 18) (s : State) : Out := policyBranch (fun x y => decide (x.toInt < y.toInt)) d a imm s
def execPolicyBltu (d a : Fin 16) (imm : BitVec 18) (s : State) : Out := policyBranch (fun x y => decide (x.toNat < y.toNat)) d a imm s
def execPolicyLi (d : Fin 16) (imm : BitVec 18) (s : State) : Out := policyOn 1 (fun c => c.setReg d (imm.signExtend 64)) s
def execPolicyLcat (d : Fin 16) (imm : BitVec 18) (s : State) : Out :=
  policyOn 1 (fun c => c.setReg d ((c.reg d <<< 18) ||| imm.setWidth 64)) s
def execPolicyJmp (imm : BitVec 18) (s : State) : Out := policyOn 1 (fun c => c.jump imm) s

/-! ## Loops (R411) -/

/-- Words to skip from a loop's first body word to past its ENDL. -/
def loopEnd : List Word → Nat → Nat
  | [], _ => 0
  | w :: ws, depth =>
    let op := (w >>> 26).toNat
    if op = 0x32 then (match depth with | 0 => 1 | d + 1 => 1 + loopEnd ws d)
    else 1 + loopEnd ws (if op = 0x30 ∨ op = 0x31 then depth + 1 else depth)

/-- Enters a loop of n iterations; none skips it. -/
def Cluster.enterLoop (c : Cluster) (n : Nat) : Cluster :=
  if n = 0 then { c with word := c.word + loopEnd (c.code.words.drop c.word) 0 }
  else { c with loops := { start := c.word, remaining := n, iter := 0 } :: c.loops }

def execPolicyLoopi (imm : BitVec 18) (s : State) : Out := policyOn 1 (fun c => c.enterLoop imm.toNat) s
def execPolicyLoopr (a : Fin 16) (s : State) : Out := policyOn 1 (fun c => c.enterLoop (min (c.reg a).toNat 256)) s

/-- ENDL counts one iteration and returns to the first body word while iterations remain. -/
def Cluster.endLoop (c : Cluster) : Cluster :=
  match c.loops with
  | [] => c
  | l :: rest =>
    if 1 < l.remaining then { c with word := l.start, loops := { l with remaining := l.remaining - 1, iter := l.iter + 1 } :: rest }
    else { c with loops := rest }

def execPolicyEndl (s : State) : Out := policyOn 1 (fun c => c.endLoop) s
def execPolicyIter (d : Fin 16) (s : State) : Out :=
  policyOn 1 (fun c => c.setReg d (match c.loops with | l :: _ => BitVec.ofNat 64 l.iter | [] => 0)) s

/-! ## The window (R412) -/

/-- Physical address of an access of n bytes; none outside the window, where no accepted routine reaches (R416, R417; log 23). -/
def Cluster.windowPa (c : Cluster) (a : Fin 16) (imm : BitVec 18) (n : Nat) : Option Nat :=
  let off := ((c.reg a) + imm.setWidth 64).toNat
  if off + n ≤ c.code.wlen then some (c.code.wbase + off) else none

/-- 12 ck in the engine's own die's mailbox, the far latency of R9 elsewhere. -/
def windowCost (n pa : Nat) : Nat := if homeDie pa = n / 8 then 12 else 600

/-- A window access. While another agent holds the line, or its bank takes another request, it waits, a cycle at a time. -/
def policyWindow (a : Fin 16) (imm : BitVec 18) (size : Nat) (f : Nat → Nat → State → State) (s : State) : Out :=
  match s.engineOf with
  | none => .fault .noEngine
  | some n => match (s.cluster n).windowPa a imm size with
    | none => policy 12 (fun _ _ s => s) s
    | some pa =>
      let busy (line : Nat) : Bool := s.lineHeld line none || s.lineQueued line || !s.homeTakes (4 * n) line
      if busy (pa / 128) || busy ((pa + size - 1) / 128) then
        .next (s.modCluster n fun c => { c with cycles := c.cycles + 1 })
      else policy (windowCost n pa) (fun n _ s => f n pa s) (((linePieces pa size).map fun p => (pa + p.1) / 128).foldl (fun s line => s.homeTook (4 * n) line) s)

/-- A load from a poisoned line: memory-error is recorded, the engine holds nothing (R337, R444). -/
def State.policyError (s : State) (n pa : Nat) : State :=
  let part := match (s.cluster n).running with | some i => i.part | none => 0
  let tenant := match s.part? part with | some x => x.tenant | none => 0
  s.report { core := 4 * n, part := part, tenant := tenant } { cause := .memoryError, addr := pa, detail := s.errorCode pa } false .none

/-- A load; bytes of a poisoned line have no stated value, and the error is recorded (R444; log 14). -/
def policyLoad (size : Nat) (d a : Fin 16) (imm : BitVec 18) (s : State) : Out :=
  policyWindow a imm size (fun n pa s =>
    let bad := s.poisoned 0 pa || s.poisoned 0 (pa + size - 1)
    let s := (s.atHome (pa / 128) false).atHome ((pa + size - 1) / 128) false
    if bad then
      ({ s.modCluster n fun c => c.setReg d (Config.freeDword s.fresh) with fresh := s.fresh + 1 }).policyError n
        (if s.poisoned 0 pa then pa else pa + size - 1)
    else s.modCluster n fun c => c.setReg d (BitVec.ofNat 64 (leNat (s.readBytes 0 pa size)))) s

/-- A store, SO at module scope. -/
def policyStore (size : Nat) (d a : Fin 16) (imm : BitVec 18) (s : State) : Out :=
  policyWindow a imm size (fun n pa s =>
    let bs := leBytes size ((s.cluster n).reg d).toNat
    (linePieces pa size).foldl (fun s (p : Nat × Nat) =>
      (s.homeLine ((pa + p.1) / 128)).perform 0 (pa + p.1) ((bs.drop p.1).take p.2)) s) s

def execPolicyLd (d a : Fin 16) (imm : BitVec 18) (s : State) : Out := policyLoad 8 d a imm s
def execPolicyLdw (d a : Fin 16) (imm : BitVec 18) (s : State) : Out := policyLoad 4 d a imm s
def execPolicySt (d a : Fin 16) (imm : BitVec 18) (s : State) : Out := policyStore 8 d a imm s
def execPolicyStw (d a : Fin 16) (imm : BitVec 18) (s : State) : Out := policyStore 4 d a imm s

end Sys2Proof.Machine
end

