-- ==== Sys2Proof/Machine/Benches.lean ====
section
/-! DEFINITION. The assignment of cores to benches: weights, allotment, moves (R237, R240 to R242). -/

namespace Sys2Proof.Machine

/-- The bench that a core has, or is moving to. -/
def Launch.benchOf (l : Launch) (core : Nat) : Option Nat :=
  match l.moving.get? core with | some b => some b | none => l.assign.get? core

def Launch.coresHeld (l : Launch) (b : Nat) : Nat := (l.assign.filter fun e => l.benchOf e.1 == some b).length

/-- Homes of the instances of a launch: every core that holds the whole descriptor. -/
def State.homesOf (s : State) (launch n : Nat) : List (Nat × Chute) :=
  s.cores.filterMap fun e => match e.2.chutes.get? n with
    | some d => if d.launch = launch ∧ d.homeCore e.1 = e.1 then some (e.1, d) else none
    | none => none

/-- Chutes that a mask names. -/
def boundChutes (m : BitVec 64) : List Nat := (List.range 64).filter m.getLsbD

/-- The weight of a bench from its occupancy (R241). -/
def State.benchWeight (s : State) (launch : Nat) (b : Bench) : Nat :=
  let sum (m : BitVec 64) (f : Chute → Nat) : Nat := ((boundChutes m).map fun n => ((s.homesOf launch n).map fun e => f e.2).sum).sum
  let slots (d : Chute) : Nat := d.nslots + 1
  let in_ := if b.inmask = 0 then sum b.outmask slots else sum b.inmask fun d => d.nready
  let out := sum b.outmask fun d => slots d - d.nempty
  (1 + in_) * 65536 / (1 + out)

/-- One bench in an allotment: number, weight, target, limit. -/
structure Share where
  bench : Nat
  weight : Nat
  target : Nat
  most : Nat
  deriving DecidableEq, Repr

/-- Benches in descending remainder, the lower bench first on ties. -/
def byRemainder : List (Nat × Nat) → List (Nat × Nat)
  | [] => []
  | x :: xs => insert x (byRemainder xs)
where
  insert (x : Nat × Nat) : List (Nat × Nat) → List (Nat × Nat)
    | [] => [x]
    | y :: ys => if y.2 < x.2 ∨ (y.2 = x.2 ∧ x.1 < y.1) then x :: y :: ys else y :: insert x ys

/-- One round of allot (R241): `rest` cores over the open benches. -/
def allotRound (rest : Nat) (xs : List Share) : List Share :=
  let opens := xs.filter fun x => decide (x.target < x.most)
  let total := (opens.map (·.weight)).sum
  let xs' := xs.map fun x =>
    if x.target < x.most then { x with target := x.target + min (rest * x.weight / total) (x.most - x.target) } else x
  let given := (xs'.map (·.target)).sum - (xs.map (·.target)).sum
  let order := byRemainder (opens.map fun x => (x.bench, rest * x.weight % total))
  (order.foldl (fun (acc : List Share × Nat) o =>
    if acc.2 = 0 then acc
    else match acc.1.find? fun x => x.bench == o.1 with
      | some x => if x.target < x.most then
          (acc.1.map fun y => if y.bench = o.1 then { y with target := y.target + 1 } else y, acc.2 - 1) else acc
      | none => acc) (xs', rest - given)).1

/-- allot (R241): rounds until no core or no open bench is left. Every round with an open bench gives at least one core. -/
def allot (cores : Nat) : Nat → List Share → List Share
  | 0, xs => xs
  | fuel + 1, xs =>
    let rest := cores - (xs.map (·.target)).sum
    if rest = 0 ∨ xs.all (fun x => decide (x.most ≤ x.target)) then xs else allot cores fuel (allotRound rest xs)

/-- Benches that are not closing, with a weight each. -/
def Launch.shares (l : Launch) (w : Nat → Bench → Nat) : List Share :=
  (l.benches.zipIdx.filter fun b => !b.1.closing).map fun (b, i) => ⟨i, w i b, b.mincores, b.maxcores⟩

/-- Cores that closing benches hold. -/
def Launch.closingCores (l : Launch) : Nat :=
  (l.assign.filter fun e => match l.benches[e.2]? with | some b => b.closing | none => false).length

/-- Targets by bench. -/
def Launch.targets (l : Launch) (cores : Nat) (w : Nat → Bench → Nat) : List Share := allot cores (cores + 1) (l.shares w)

/-- The initial assignment (R237): bench 0 has the lowest-numbered cores. -/
def Launch.firstAssign (l : Launch) (cores : List Nat) : Table Nat :=
  let ts := l.targets cores.length fun _ b => b.share
  ((ts.flatMap fun x => List.replicate x.target x.bench).zip cores).foldl (fun t (b, c) => Table.put t c b) []

/-! ## Moves (R240 to R242) -/

/-- A move that the mechanism does not ignore (R240): one of a core of the partition to a bench of the launch that takes no bench below
mincores or above maxcores, of a core whose bench is not closing and which is not moving. -/
def Launch.moveOk (l : Launch) (cores : List Nat) (core b : Nat) : Bool :=
  let same := l.assign.get? core == some b
  cores.contains core && (l.moving.get? core).isNone &&
  (match l.benches[b]? with | some x => same || decide (l.coresHeld b < x.maxcores) | none => false) &&
  (match l.assign.get? core with
    | none => true
    | some a => match l.benches[a]? with | some x => !x.closing && (same || decide (x.mincores < l.coresHeld a)) | none => false)

/-- A suspended crew that retires at the move: on a list of its retirement point's direction, with no slot (R242). -/
def Launch.retiresAt (l : Launch) (c : Crew) : Bool :=
  c.slots == 0 && c.units.any fun e => match e.2.st with
    | .suspended (.chute _ acq) _ => !acq || (match l.benches[c.bench]? with | some b => b.inmask == 0 | none => false)
    | _ => false

/-- One move, recorded at once (R242). A launch that is being halted moves nothing (R244). -/
def State.moveCore (s : State) (launch core b : Nat) : State :=
  match s.launches.get? launch with
  | none => s
  | some l =>
    if l.st ≠ .running ∨ !l.moveOk (s.coresOf l.part) core b then s
    else if (l.assign.get? core).isNone then (s.modLaunch launch fun l => { l with assign := l.assign.put core b }).coreFreed launch core
    else
      let s := s.modLaunch launch fun l => { l with moving := l.moving.put core b }
      let ks := (s.crews.filter fun e => coreOf e.1 == core && e.2.launch == launch && l.retiresAt e.2).map (·.1)
      (ks.foldl (fun s k => s.retireMove k) s).coreFreed launch core

/-- The next move of the default rule (R241): core and bench. -/
def State.nextMove (s : State) (l : Launch) (ts : List Share) : Option (Nat × Nat) :=
  let cores := s.coresOf l.part
  let short (x : Share) : Nat := x.target - l.coresHeld x.bench
  let spare (x : Share) : Nat := l.coresHeld x.bench - x.target
  let most (f : Share → Nat) : Option Share := ts.foldl (fun best x =>
    if f x = 0 then best else match best with | none => some x | some b => if f b < f x then some x else best) none
  match most short with
  | none => none
  | some x =>
    let idle := (cores.filter fun c => (l.assign.get? c).isNone).max?
    match idle with
    | some c => some (c, x.bench)
    | none => match most spare with
      | none => none
      | some d => ((cores.filter fun c => l.assign.get? c == some d.bench && (l.moving.get? c).isNone).max?).map fun c => (c, x.bench)

/-- The moves of the default rule, one after another, as the moves before them stand. -/
def State.defaultMoves (s : State) (ts : List Share) : Nat → Launch → List (Nat × Nat)
  | 0, _ => []
  | n + 1, l => match s.nextMove l ts with
    | none => []
    | some (c, b) =>
      let l' := if (l.assign.get? c).isNone then { l with assign := l.assign.put c b } else { l with moving := l.moving.put c b }
      (c, b) :: s.defaultMoves ts n l'

/-- The moves of an interval under R241: at most ceil(C / 16). -/
def State.rebalanceMoves (s : State) (launch : Nat) : List (Nat × Nat) :=
  match s.launches.get? launch with
  | none => []
  | some l =>
    let c := (s.coresOf l.part).length - l.closingCores
    let ts := l.targets c fun _ b => s.benchWeight launch b
    s.defaultMoves ts ((c + 15) / 16) l

end Sys2Proof.Machine
end

