-- ==== Sys2Proof/Machine/Decide.lean ====
section
/-! DEFINITION. Run queues, the counters that routines read, decisions and what applying one does (R384, R405 to R409, R415, R420 to R428). -/

namespace Sys2Proof.Machine

/-! ## Run queues (R384, R408, R426) -/

def pointEnqueue : Nat := 0
def pointPick : Nat := 1
def pointTick : Nat := 2
def pointBlock : Nat := 3
def pointWake : Nat := 4
def pointMigrate : Nat := 5
def pointRebalance : Nat := 6

/-- Key of a routine: point, layer (0 T, 1 H) and, for layer T, partition (R407, R415). -/
def routineKey (point layer part : Nat) : Nat := 32 * point + (if layer = 1 then 16 else part % 16)

/-- Descending priority, then position; `front` goes before its equals. -/
def insertEntry (front : Bool) (e : RunEntry) : List RunEntry → List RunEntry
  | [] => [e]
  | x :: xs => if x.prio < e.prio ∨ (front ∧ x.prio = e.prio) then e :: x :: xs else x :: insertEntry front e xs

def State.partOfLaunch (s : State) (launch : Nat) : Option Nat := (s.launches.get? launch).map (·.part)

/-- A partition's entries in a cluster's run queue. -/
def State.queuedFor (s : State) (n p : Nat) : List RunEntry := (s.cluster n).runq.filter fun e => s.partOfLaunch e.launch == some p

/-- A block enters a run queue; a partition's age restarts when work arrives (R426). -/
def State.enterRunq (s : State) (n : Nat) (front : Bool) (e : RunEntry) : State :=
  let p := (s.partOfLaunch e.launch).getD 0
  let fresh := (s.queuedFor n p).isEmpty
  s.modCluster n fun c => { c with
    runq := insertEntry front e c.runq
    servedSince := if fresh then c.servedSince.put p s.ck else c.servedSince }

def State.leaveRunq (s : State) (n launch block : Nat) : State :=
  s.modCluster n fun c => { c with runq := c.runq.filter fun e => !(e.launch == launch && e.block == block) }

/-- A shared cluster. -/
def Cluster.shared (c : Cluster) : Bool := !c.holders.isEmpty

/-- Served age of a partition (R408, R426). -/
def State.servedAge (s : State) (n p : Nat) : Nat :=
  let c := s.cluster n
  if !c.shared || (s.queuedFor n p).isEmpty then 0 else s.ck - c.servedSince.getD p s.ck

/-! ## Which block a core can take (R78, R384, R407) -/

/-- An entry fits on a core. -/
def State.entryFits (s : State) (core : Nat) (e : RunEntry) : Bool :=
  match s.launches.get? e.launch with
  | none => false
  | some l =>
    l.st == .running && !s.exhausted l.part && s.mayPlace (clusterOf core) l.part &&
    (if e.saved then (match l.saved.get? e.block with
        | some v => State.mayReturn l core v && (s.fitSaved core v none).isSome
        | none => false)
      else !l.mustRestore && (s.fit core l.shape).isSome)

/-- The entries of a cluster that one of its cores can take, with the place of each in the queue of its partition. -/
def State.takeable (s : State) (n p : Nat) : List (RunEntry × Nat) :=
  (s.queuedFor n p).zipIdx.filter fun e => (List.range 4).any fun j => s.entryFits (4 * n + j) e.1

/-- Round robin over launches after the one last picked, then the lowest block number, saved ones first (R384, R407). -/
def roundRobin (last : Nat) (xs : List (RunEntry × Nat)) : Option (RunEntry × Nat) :=
  let launches := xs.map fun e => e.1.launch
  match ((launches.filter fun l => decide (last < l)).min?).orElse fun _ => launches.min? with
  | none => none
  | some l => (xs.filter fun e => e.1.launch == l).foldl (fun best e => match best with
    | none => some e
    | some b => if (e.1.saved ∧ !b.1.saved) ∨ (e.1.saved = b.1.saved ∧ e.1.block < b.1.block) then some e else best) none

/-! ## Counters (R408) -/

/-- A crew holds a slot of a cluster chute: counter 0x023, bit 3. -/
def State.holdsClusterSlot (s : State) (launch index : Nat) : Bool :=
  s.cores.any fun e => e.2.chutes.any fun d => d.2.cluster && d.2.launch == launch && d.2.homeCore e.1 == e.1 &&
    d.2.entries.any fun n => match e.2.slotRecs.get? n, e.2.tiles.get? n with
      | some r, some t => r.holder == index && !r.eng && (t.state == 1 || t.state == 3)
      | _, _ => false

/-- Crew indices of a block, resident or saved. -/
def State.blockIndices (s : State) (launch block : Nat) : List Nat :=
  (s.crews.filterMap fun e => if e.2.launch = launch ∧ e.2.block = block then some e.2.index else none) ++
  (match s.launches.get? launch with
    | some l => (match l.saved.get? block with | some v => v.crews.map (·.index) | none => [])
    | none => [])

def State.holdsSlot (s : State) (launch block : Nat) : Bool :=
  (s.blockIndices launch block).any fun i => s.holdsClusterSlot launch i

/-- The pipeline whose benches an invocation reads. -/
def State.pipelineOf (s : State) (i : Invocation) : Option Launch :=
  match s.launches.get? i.launch with
  | some l => if l.benches.isEmpty then none else some l
  | none => (s.launches.find? fun e => e.2.part == i.part && !e.2.benches.isEmpty).map (·.2)

/-- Instances of chute n that a partition's launches have in a cluster. -/
def State.instancesIn (s : State) (n p chute : Nat) : List Chute :=
  (List.range 4).filterMap fun j =>
    let core := 4 * n + j
    match (s.core core).chutes.get? chute with
    | some d => if d.homeCore core = core ∧ s.partOfLaunch d.launch = some p then some d else none
    | none => none

/-- The priority that a block out of the run queue was given at its enqueue. -/
def State.heldPrio (s : State) (launch block : Nat) : Nat :=
  match s.blocks.find? fun b => b.2.launch == launch && b.2.number == block && !b.2.chute with
  | some b => b.2.prio
  | none => match s.launches.get? launch with
    | some l => (match l.saved.get? block with | some v => v.block.prio | none => 0)
    | none => 0

/-- A counter as the routine of an invocation on cluster n reads it. -/
def State.counter (s : State) (n : Nat) (i : Invocation) (num : Nat) : Nat :=
  let c := s.cluster n
  let tenant := match s.parts.get? i.part with | some p => p.tenant | none => 0
  let mineT (t : Nat) (v : Nat) : Nat := if i.layer = 1 ∨ t = tenant then v else 0
  let mineP (p : Nat) (v : Nat) : Nat := if i.layer = 1 ∨ p = i.part then v else 0
  let queue := s.queuedFor n i.part
  let cand (v : Nat) : Nat := if i.candidate then v else 0
  let bit (b : Bool) (k : Nat) : Nat := if b then 2 ^ k else 0
  if num = 0x000 then s.ck
  else if num = 0x001 then i.point
  else if num = 0x002 then n
  else if num = 0x003 then i.part
  else if num = 0x004 then c.holder.getD 0
  else if 0x008 ≤ num ∧ num < 0x00C then s.freeCrewSlots (4 * n + (num - 0x008))
  else if 0x00C ≤ num ∧ num < 0x010 then (s.freeBslots (4 * n + (num - 0x00C))).length
  else if 0x010 ≤ num ∧ num < 0x014 then s.freeScratch (4 * n + (num - 0x010))
  else if num = 0x018 then c.misses
  else if num = 0x019 then c.l2misses
  else if num = 0x020 then cand i.launch
  else if num = 0x021 then cand i.block
  else if num = 0x022 then cand (s.ck - i.since)
  else if num = 0x023 then cand (
    match s.launches.get? i.launch with
    | none => 0
    | some l => bit (l.saved.get? i.block).isSome 0 + bit (!l.benches.isEmpty) 1 + bit l.restart 2 + bit (s.holdsSlot i.launch i.block) 3)
  else if num = 0x024 then cand (match c.runq.find? fun e => e.launch == i.launch && e.block == i.block with
    | some e => e.prio
    | none => s.heldPrio i.launch i.block)
  else if num = 0x030 then queue.length
  else if 0x040 ≤ num ∧ num < 0x080 then (match queue[num - 0x040]? with | some e => e.launch | none => 0)
  else if 0x080 ≤ num ∧ num < 0x0C0 then (match queue[num - 0x080]? with | some e => e.block | none => 0)
  else if 0x0C0 ≤ num ∧ num < 0x100 then
    (match queue[num - 0x0C0]? with | some e => e.prio % 256 + bit e.saved 8 + 65536 * (e.since % 2 ^ 48) | none => 0)
  else if 0x100 ≤ num ∧ num < 0x110 then mineT (num - 0x100) (wrap 64 (s.tenant (num - 0x100)).level)
  else if 0x110 ≤ num ∧ num < 0x120 then mineT (num - 0x110) (s.tenant (num - 0x110)).debt
  else if 0x120 ≤ num ∧ num < 0x130 then mineT (num - 0x120) (s.tenant (num - 0x120)).rate
  else if num = 0x130 then wrap 64 s.pool
  else if 0x140 ≤ num ∧ num < 0x150 then mineP (num - 0x140) (s.servedAge n (num - 0x140))
  else if 0x150 ≤ num ∧ num < 0x160 then mineP (num - 0x150) (s.queuedFor n (num - 0x150)).length
  else if 0x180 ≤ num ∧ num < 0x1C0 then ((s.instancesIn n i.part (num - 0x180)).map (·.nready)).sum
  else if 0x1C0 ≤ num ∧ num < 0x200 then ((s.instancesIn n i.part (num - 0x1C0)).map (·.nempty)).sum
  else if 0x200 ≤ num ∧ num < 0x208 then (match s.pipelineOf i with | some l => l.coresHeld (num - 0x200) | none => 0)
  else if 0x210 ≤ num ∧ num < 0x217 then c.overruns.getD (routineKey (num - 0x210) i.layer i.part) 0
  else 0

/-- RDC and RDCX (R408): 4 ck; a routine that no longer runs reads nothing. -/
def policyRead (num : Cluster → Nat) (d : Fin 16) (s : State) : Out :=
  policy 4 (fun n c s => match c.running with
    | some i => s.modCluster n fun x => x.setReg d (BitVec.ofNat 64 (s.counter n i (num c)))
    | none => s) s

def execPolicyRdc (d : Fin 16) (imm : BitVec 12) (s : State) : Out := policyRead (fun _ => imm.toNat) d s
def execPolicyRdcx (d a : Fin 16) (imm : BitVec 12) (s : State) : Out :=
  policyRead (fun c => (imm.toNat + (c.reg a).toNat) % 2 ^ 64) d s

/-- Launch and number of an entry of the queue that an invocation reads. -/
def State.entryNamed (s : State) (n : Nat) (i : Invocation) (pick : Nat) : Option (Nat × Nat) :=
  ((s.queuedFor n i.part)[pick]?).map fun e => (e.launch, e.block)

/-- SETD (R409). d.pick names the block that stands at its place now (R420; log 24). -/
def execPolicySetd (a : Fin 16) (imm : BitVec 5) (s : State) : Out :=
  policy 1 (fun n c s =>
    let named := if imm = 2 then c.running.bind fun i => s.entryNamed n i (c.reg a).toNat else c.named
    s.modCluster n fun c => { c with decisions := c.decisions.put imm.toNat (c.reg a), named := named }) s

/-! ## Records of the migration rings (R423, R424) -/

/-- Entries of a migration ring. -/
def migrationEntries : Nat := 512

/-- Address of an entry of a die's ring, in its device region. -/
def ringEntry (die slot : Nat) : Nat := 0x0F00003F0000 + 0x400000 * die + 64 * (slot % migrationEntries)

/-- Address of a block's context image; zero for a block never started. -/
def State.imageOf (s : State) (launch block : Nat) : Nat :=
  match s.launches.get? launch with
  | none => 0
  | some l => match l.saved.get? block with
    | none => 0
    | some v => l.saveAddr.toNat + (match v.extents with | e :: _ => e.1 | [] => 0)

/-- A block's record. -/
def State.migrantRecord (s : State) (m : Migrant) : Nat :=
  placeField (s.imageOf m.launch m.block) 448 + placeField (m.launch % 2 ^ 32) 416 + placeField (m.block % 2 ^ 32) 384 +
    placeField (m.since % 2 ^ 64) 320 + placeField (m.part % 16) 316 + placeField (m.from_ % 4) 314 + placeField (m.prio % 256) 306 +
    placeField m.saved.toNat 305 + placeField 1 304

/-- Writes a die's entry. -/
def State.writeEntry (s : State) (die slot v : Nat) : State :=
  { s with mem := s.mem.storeBytes (ringEntry die slot) (leBytes 64 v) }

/-- An entry holds its block no longer: valid is cleared. -/
def State.freeRecord (s : State) (die : Nat) (m : Migrant) : State :=
  let pa := ringEntry die m.slot + 38
  { s with mem := s.mem.storeBytes pa (leBytes 1 ((s.mem.byte pa).toNat / 2 * 2)) }

/-! ## Change of holder (R406, R428) -/

/-- Keys of a partition's resident blocks on a cluster. -/
def State.blocksOfPart (s : State) (n p : Nat) : List Nat :=
  (s.blocks.filter fun e => e.1 / 64 == n && !e.2.chute && s.partOfLaunch e.2.launch == some p).map (·.1)

/-- Takes a launch's blocks out of run queues, rings and grants: new ones are to be queued again on resumption, saved ones too. -/
def State.withdraw (s : State) (launch : Nat) : State :=
  let waiting : List (Nat × Nat) :=
    (s.clusters.flatMap fun c => (c.2.runq.filterMap fun e => if e.launch = launch ∧ !e.saved then some (e.block, c.1) else none) ++
      c.2.granted.filterMap fun g => if g.launch = launch ∧ !g.saved then some (g.block, c.1) else none) ++
    s.migRing.flatMap fun r => r.2.filterMap fun m => if m.launch = launch ∧ !m.saved then some (m.block, 8 * r.1) else none
  let s := s.migRing.foldl (fun s r => r.2.foldl (fun s m => if m.launch = launch then s.freeRecord r.1 m else s) s) s
  let s := { s with
    clusters := s.clusters.map fun (e : Nat × Cluster) => (e.1, { e.2 with
      runq := e.2.runq.filter fun x => x.launch != launch
      granted := e.2.granted.filter fun x => x.launch != launch
      pending := e.2.pending.filter fun i => !((i.candidate || i.point == pointRebalance) && i.launch == launch)
      -- a rebalance under way moves nothing (R244)
      running := e.2.running.map fun (i : Invocation) => if i.point = pointRebalance ∧ i.launch = launch then { i with launch := 0 } else i })
    migRing := s.migRing.map fun (e : Nat × List Migrant) => (e.1, e.2.filter fun m => m.launch != launch) }
  s.modLaunch launch fun l => { (l.mapSaved fun _ v => { v with queued := false, fromSave := v.fromSave || v.queued }) with
    requeue := l.requeue ++ waiting }

/-- Halts a launch: moves are cancelled, every block is to be saved (R244). -/
def State.haltLaunch (s : State) (launch : Nat) : State :=
  match s.launches.get? launch with
  | none => s
  | some l =>
    if l.st != .running then s
    else
      let s := (s.withdraw launch).modLaunch launch fun l => { l with st := .halting, moving := [] }
      (s.blocksOf launch false).foldl (fun s e => s.preemptAs 2 76000 e.1) s

/-- A launch that a change of holder was halting runs on: its blocks stay, or come back through the run queues. -/
def State.unhalt (s : State) (launch : Nat) : State :=
  let s := s.modLaunch launch fun l => { (l.mapSaved fun _ v => { v with queued := false }) with
    st := .running, haltedBy := none, nextRebal := s.ck + 1900 * l.rebal }
  (s.blocksOf launch false).foldl (fun s b =>
    if b.2.strategy = 4 then s else (s.modBlock b.1 fun b => { b with strategy := 0 }).resumeCrews b.2.crews) s

/-- A change of holder is called off (R406): the blocks that it took and that have not gone stay, and a pipeline that it halts runs on. -/
def State.cancelChange (s : State) (n : Nat) : State :=
  let s := (s.blocks.filter fun e => e.1 / 64 == n && e.2.byChange && e.2.strategy != 4).foldl (fun s (e : Nat × Block) =>
    (s.modBlock e.1 fun b => { b with strategy := 0, byChange := false }).resumeCrews e.2.crews) s
  let s := ((s.launches.filter fun e => e.2.st == .halting && e.2.haltedBy == some n).map (·.1)).foldl (fun s l => s.unhalt l) s
  s.modCluster n fun c => { c with change := none }

/-- Starts a change of holder, or redirects the one in progress (R406); none redirects what the floor has forced (R428). -/
def State.changeHolder (s : State) (n q bound : Nat) (floor : Bool) : State :=
  let c := s.cluster n
  match c.change with
  | some (_, forced) =>
    if forced then s
    else if c.holder = some q then s.cancelChange n
    else s.modCluster n fun c => { c with change := some (q, floor) }
  | none =>
    if c.holder = some q then s
    else
      let s := s.modCluster n fun c => { c with change := some (q, floor) }
      match c.holder with
      | none => s
      | some p =>
        let pipelines := (s.launches.filter fun e => e.2.part == p && !e.2.benches.isEmpty && e.2.st == .running &&
          (s.blocksOf e.1 false ++ s.blocksOf e.1 true).any fun b => b.1 / 64 == n).map (·.1)
        let s := pipelines.foldl (fun s l => (s.haltLaunch l).modLaunch l fun l => { l with haltedBy := some n }) s
        (s.blocksOfPart n p).foldl (fun s k => match s.blocks.get? k with
          | some b => if b.strategy = 0 then (s.preempt bound k).modBlock k fun b => { b with byChange := true } else s
          | none => s) s

/-! ## Moving blocks between dies (R422 to R425) -/

/-- A block may move to another die (R422). -/
def State.movable (s : State) (n die : Nat) (e : RunEntry) : Bool :=
  n / 8 != die && !s.holdsSlot e.launch e.block &&
  (match s.launches.get? e.launch with | some l => l.benches.isEmpty | none => false)

/-- A full ring has refused a block: the event, and its record with the target die (R423, R431; log 24). -/
def State.refuseMigration (s : State) (n die p : Nat) : State :=
  let s := { s with policyLog := s.policyLog.put (n / 8) (s.policyLog.getD (n / 8) [] ++ [(pointMigrate, n, p)]) }
  let tenant := match s.parts.get? p with | some x => x.tenant | none => 0
  s.log p { core := 4 * n, part := p, tenant := tenant } { cause := .migration, detail := die }

/-- A block leaves for a die's ring, in one step; a full ring keeps it, and the refusal is logged (R423). -/
def State.migrate (s : State) (n die : Nat) (e : RunEntry) : State :=
  let ring := s.migRing.getD die []
  let slot := s.migNext.getD die 0
  let p := (s.partOfLaunch e.launch).getD 0
  if migrationEntries ≤ ring.length ∨ (ring.any fun m => m.slot == slot) then
    s.refuseMigration n die p
  else
    let m : Migrant := { launch := e.launch, block := e.block, prio := e.prio, saved := e.saved, since := e.since, from_ := n / 8, part := p, slot := slot }
    { (s.leaveRunq n e.launch e.block).writeEntry die slot (s.migrantRecord m) with
      migRing := s.migRing.put die (ring ++ [m]), migNext := s.migNext.put die ((slot + 1) % migrationEntries) }

/-- The oldest movable entries of a partition, at most k. -/
def State.oldest (s : State) (n p die k : Nat) : List RunEntry :=
  let rec sort : List RunEntry → List RunEntry
    | [] => []
    | x :: xs => put x (sort xs)
  ((sort (s.queuedFor n p)).take k).filter fun e => s.movable n die e
where
  put (x : RunEntry) : List RunEntry → List RunEntry
    | [] => [x]
    | y :: ys => if x.here ≤ y.here then x :: y :: ys else y :: put x ys

/-- A die that holds a cluster of the partition. -/
def State.dieOfPart (s : State) (p die : Nat) : Bool := (s.clustersOf p).any fun n => n / 8 == die

/-! ## Decisions: defaults, validity, effect (R407, R409, R420) -/

/-- The next partition of the holder set with runnable work, in list order after the holder. -/
def State.nextHolder (s : State) (n : Nat) : Option Nat :=
  let c := s.cluster n
  match c.holder with
  | none => c.holders.find? fun p => !(s.queuedFor n p).isEmpty
  | some h =>
    let i := c.holders.findIdx (· == h)
    let order := c.holders.drop (i + 1) ++ c.holders.take i
    order.find? fun p => !(s.queuedFor n p).isEmpty

/-- The default of a decision register (R407). -/
def State.defaultOf (s : State) (n : Nat) (i : Invocation) (reg : Nat) : Nat :=
  if reg = 2 then (match roundRobin (s.cluster n).lastPicked (s.takeable n i.part) with | some e => e.2 | none => 0xFF)
  else if reg = 3 then 0xF
  else if reg = 4 then (if i.point = pointTick then (s.nextHolder n).getD 0xFF else 0xFF)
  else if reg = 5 then 76000
  else if reg = 7 then 0xFF
  else if reg = 9 then (if i.point = pointRebalance then min (s.rebalanceMoves i.launch).length 8 else 0)
  else if 10 ≤ reg ∧ reg < 18 ∧ i.point = pointRebalance then
    (match (s.rebalanceMoves i.launch)[reg - 10]? with | some (c, b) => c + 256 * b | none => 0)
  else 0

/-- A value that the mechanism accepts (R409). -/
def State.validDecision (s : State) (n : Nat) (i : Invocation) (reg v : Nat) : Bool :=
  if reg = 0 then true
  else if reg = 1 ∨ reg = 6 then decide (v ≤ 1)
  else if reg = 2 then v == 0xFF || decide (v < (s.queuedFor n i.part).length)
  else if reg = 3 then decide (v ≤ 3) || v == 0xF
  else if reg = 4 then v == 0xFF || (s.cluster n).holders.contains v
  else if reg = 5 then decide (1024 ≤ v) && decide (v ≤ 4194304)
  else if reg = 7 then v == 0xFF || (decide (v < 4) && s.dieOfPart i.part v)
  else if reg = 8 then decide (v ≤ 4)
  else if reg = 9 then decide (v ≤ 8)
  else decide (v < 2048)

/-- Presets of every register for an invocation. -/
def State.presets (s : State) (n : Nat) (i : Invocation) : Table Dword :=
  (List.range 18).map fun r => (r, BitVec.ofNat 64 (s.defaultOf n i r))

/-- The checked value of a register. -/
def State.decision (s : State) (n : Nat) (i : Invocation) (ds : Table Dword) (reg : Nat) : Nat :=
  let v := (ds.getD reg 0).toNat
  if s.validDecision n i reg v then v else s.defaultOf n i reg

/-- An invocation that another makes superfluous: a tick that finds its predecessor pending, a second pick for a core (R419). -/
def Invocation.again (i x : Invocation) : Bool :=
  x.point == i.point && (i.point == pointTick || (i.point == pointPick && x.core == i.core))

/-- Queues an invocation. -/
def State.pend (s : State) (n : Nat) (i : Invocation) : State :=
  let same (x : Invocation) : Bool := x.layer == i.layer && x.part == i.part && i.again x
  if (s.cluster n).pending.any same then s else s.modCluster n fun c => { c with pending := c.pending ++ [i] }

def State.hasRoutine (s : State) (n : Nat) (i : Invocation) : Bool :=
  ((s.cluster n).routines.get? (routineKey i.point i.layer i.part)).isSome

/-- Gives an entry a core: 0xF is the core that asked where the block fits there, else the lowest that fits (log 24). -/
def State.grantEntry (s : State) (n core place : Nat) (e : RunEntry) : State :=
  let cores := if place = 0xF then core :: (List.range 4).map (4 * n + ·) else [4 * n + place]
  match cores.find? fun c => s.entryFits c e with
  | none => s
  | some core =>
    (s.leaveRunq n e.launch e.block).modCluster n fun c => { c with
      lastPicked := e.launch, granted := c.granted ++ [{ core := core, launch := e.launch, block := e.block, saved := e.saved, prio := e.prio }] }

/-- The default pick (R407). -/
def State.defaultPick (s : State) (n : Nat) (i : Invocation) : State :=
  match roundRobin (s.cluster n).lastPicked (s.takeable n i.part) with
  | some e => s.grantEntry n i.core 0xF e.1
  | none => s

/-- A pick of layer T takes effect: the block that d.pick named leaves the run queue for a core (R407, R409, R420). A block that has left, an
entry beyond the queue and one that no core can take are invalid values (log 24). -/
def State.applyPick (s : State) (n : Nat) (i : Invocation) (ds : Table Dword) : State :=
  if (ds.getD 2 0).toNat = 0xFF then s
  else match (s.cluster n).named.bind fun x => (s.queuedFor n i.part).find? fun e => e.launch == x.1 && e.block == x.2 with
    | none => s.defaultPick n i
    | some e =>
      if (List.range 4).any fun j => s.entryFits (4 * n + j) e then s.grantEntry n i.core (s.decision n i ds 3) e else s.defaultPick n i

/-- Evicts a block: saved where its context fits, else as a request chooses (R394, R407). -/
def State.evict (s : State) (bound key : Nat) : State :=
  if (s.strategies key).any fun x => x.1 == 2 then s.preemptAs 2 bound key else s.preempt bound key

/-- A wake decision: the block enters a run queue here or moves (R407, R422). -/
def State.applyWake (s : State) (n : Nat) (i : Invocation) (ds : Table Dword) : State :=
  match s.launches.get? i.launch with
  | none => s
  | some l =>
    if (l.saved.get? i.block).isNone || l.st != .running then s
    else
      let e : RunEntry :=
        { launch := i.launch, block := i.block, prio := s.decision n i ds 0 % 256, saved := true, since := l.queuedAt.getD i.block i.fired, here := s.ck }
      let die := s.decision n i ds 7
      let s := s.enterRunq n false e
      if die < 4 && s.movable n die e then s.migrate n die e else s

/-- Migrations of one layer. -/
def State.applyMigrate (s : State) (n : Nat) (i : Invocation) (ds : Table Dword) : State :=
  let die := s.decision n i ds 7
  if die < 4 then (s.oldest n i.part die (s.decision n i ds 8)).foldl (fun s e => s.migrate n die e) s else s

/-- Moves of a rebalance (R240). -/
def State.applyRebalance (s : State) (n : Nat) (i : Invocation) (ds : Table Dword) : State :=
  (List.range (s.decision n i ds 9)).foldl (fun s k =>
    let v := s.decision n i ds (10 + k)
    s.moveCore i.launch (v % 128) (v / 256 % 8)) s

/-- Applies the decision of a layer T invocation. -/
def State.applyT (s : State) (n : Nat) (i : Invocation) (ds : Table Dword) : State :=
  match i.point with
  | 0 => match (s.cluster n).runq.find? fun e => e.launch == i.launch && e.block == i.block with
    | none => s
    | some e => s.modCluster n fun c => { c with
        runq := insertEntry (s.decision n i ds 1 == 1) { e with prio := s.decision n i ds 0 % 256 }
          (c.runq.filter fun x => !(x.launch == i.launch && x.block == i.block)) }
  | 1 => s.applyPick n i ds
  | 3 => match s.blocks.find? fun b => b.2.launch == i.launch && b.2.number == i.block && !b.2.chute with
    | some (key, _) => if s.decision n i ds 6 = 1 then s.evict (s.decision n i ds 5) key else s
    | none => s
  | 4 => s.applyWake n i ds
  | 5 => s.applyMigrate n i ds
  | 6 => s.applyRebalance n i ds
  | _ => s

/-- Serves a layer T invocation: pending where a routine is loaded, else its default at once. -/
def State.fireT (s : State) (n : Nat) (i : Invocation) : State :=
  if s.hasRoutine n i then s.pend n i
  else if i.point = pointPick then s.defaultPick n i
  else s.applyT n i (s.presets n i)

/-- Partitions with a block that has stood in a cluster's run queue for a whole tick interval (R407). -/
def State.waitingParts (s : State) (n : Nat) : List Nat :=
  (List.range 16).filter fun p => (s.queuedFor n p).any fun e => decide (e.here + 19000 ≤ s.ck)

/-- Applies the decision of a layer H invocation; then the event's layer T follows (R407, R409): at migrate for each partition whose blocks
wait (log 24). -/
def State.applyH (s : State) (n : Nat) (i : Invocation) (ds : Table Dword) : State :=
  let q := s.decision n i ds 4
  let s : State := match i.point with
    | 5 => s.applyMigrate n i ds
    | _ => if q != 0xFF && ((s.cluster n).holder != some q || (s.cluster n).change.isSome) then s.changeHolder n q (s.decision n i ds 5) false else s
  let stop := i.point == pointPick && q != 0xFF && (s.cluster n).holder != some q
  if stop then s
  else if i.point = pointMigrate then (s.waitingParts n).foldl (fun s p => s.fireT n { i with layer := 0, part := p }) s
  else match (s.cluster n).holder with
    | none => s
    | some p => s.fireT n { i with layer := 0, part := p }

/-- A decision point fires for a partition (R407): on a shared cluster layer H of pick, tick and migrate runs first. A superfluous event is
dropped (R419). -/
def State.fire (s : State) (n : Nat) (i : Invocation) : State :=
  let i := { i with fired := s.ck }
  if (s.cluster n).shared && (i.point == pointPick || i.point == pointTick || i.point == pointMigrate) then
    let h := { i with layer := 1 }
    if (s.cluster n).pending.any i.again then s
    else if s.hasRoutine n h then s.pend n h else s.applyH n h (s.presets n h)
  else s.fireT n { i with layer := 0 }

/-- Applies a decision, of either layer. -/
def State.apply (s : State) (n : Nat) (i : Invocation) (ds : Table Dword) : State :=
  if i.layer = 1 then s.applyH n i ds else s.applyT n i ds

/-- The default decision of an invocation, of either layer (R407, R421). -/
def State.applyDefault (s : State) (n : Nat) (i : Invocation) : State :=
  if i.layer = 0 ∧ i.point = pointPick then s.defaultPick n i else s.apply n i (s.presets n i)

def Cluster.idle (c : Cluster) : Cluster :=
  { c with running := none, ended := none, code := Routine.none, word := 0, regs := [], loops := [], decisions := [], cycles := 0 }

/-- END (R420): the routine is over, and its decision is applied in the ck after. A count that END's own ck takes past the allowance is an
overrun (R421). -/
def execPolicyEnd (s : State) : Out :=
  policy 1 (fun n c s =>
    if c.running.isNone || decide (c.code.allowance < c.cycles) then s else s.modCluster n fun c => { c with ended := some s.ck }) s

end Sys2Proof.Machine
end

