-- ==== Sys2Proof/Machine/ChuteBlocks.lean ====
section
/-! DEFINITION. Chute blocks: where instances live, building them, saving them at a halt and bringing them back (R216 to R220, R244, R245). -/

namespace Sys2Proof.Machine

/-! ## Homes (R216, R217) -/

/-- The home core of a cluster instance. -/
def Launch.homeFor (l : Launch) (n : Nat) (d : ChuteDecl) : Nat :=
  let bound (core : Nat) : Bool := match l.assign.get? core with
    | none => false
    | some b => match l.benches[b]? with
      | some x => (if d.producer then x.outmask else x.inmask).getLsbD d.index
      | none => false
  (([4 * n, 4 * n + 1, 4 * n + 2, 4 * n + 3]).find? bound).getD (4 * n)

/-- Declarations with an instance on a core, in ascending index. -/
def Launch.declsOn (l : Launch) (core : Nat) : List ChuteDecl :=
  let mine := l.chutes.filter fun d => !d.cluster || l.homeFor (core / 4) d == core
  (List.range 64).filterMap fun i => mine.find? fun d => d.index == i

/-! ## Building (R218 to R220) -/

/-- The highest position below `top` with n free tile entries. -/
def Core.entriesBelow (c : Core) (top n : Nat) : Option Nat :=
  ((List.range (top + 1 - n)).reverse).find? fun p => (List.range n).all fun i => (c.tiles.get? (p + i)).isNone && decide (p + n ≤ top)

/-- One instance placed in a chute block. -/
structure Spot where
  decl : ChuteDecl
  base : Nat
  first : Nat
  deriving DecidableEq, Repr

/-- Places the instances of a core one after another: from entry 511 down, from the start of the allocation up; the index of the first
that finds no entries. -/
def Core.spots (c : Core) : List ChuteDecl → Nat → Nat → Except Nat (List Spot)
  | [], _, _ => .ok []
  | d :: ds, base, top => match c.entriesBelow top d.slots with
    | none => .error d.index
    | some p => match c.spots ds (base + d.slots * d.kib) p with
      | .error i => .error i
      | .ok xs => .ok (⟨d, base, p⟩ :: xs)

/-- The descriptor of a home (R219). -/
def Spot.desc (x : Spot) (launch home cbslot : Nat) : Chute :=
  { launch := launch, cluster := x.decl.cluster, producer := x.decl.producer, mc := x.decl.mc, home := home % 4, cbslot := cbslot
    base := x.base, ssize := x.decl.kib - 1, nslots := x.decl.slots - 1, first := x.first, head := 0, tail := 0, nready := 0
    nempty := x.decl.slots, allow := x.decl.allow, held := [0, 0, 0, 0]
    credit := if x.decl.mc then List.replicate 4 x.decl.slots else [0, 0, 0, 0], acqList := [], takeList := [] }

/-- The descriptor on the other cores of the cluster: every field but six reads zero. -/
def Chute.remote (d : Chute) : Chute :=
  { d with base := 0, ssize := 0, nslots := 0, first := 0, head := 0, tail := 0, nready := 0, nempty := 0, allow := [], held := [],
           credit := [], acqList := [], takeList := [] }

/-- Writes a descriptor on its home, and on the cluster's other cores where it is a cluster instance. -/
def State.putChute (s : State) (home index : Nat) (d : Chute) : State :=
  let s := s.modCore home fun c => { c with chutes := c.chutes.put index d }
  if d.cluster then
    (List.range 4).foldl (fun s j =>
      let core := 4 * (home / 4) + j
      if core = home then s else s.modCore core fun c => { c with chutes := c.chutes.put index d.remote }) s
  else s

/-- The chute block of a core; the first index that does not fit. -/
def State.buildChutes (s : State) (launch : Nat) (l : Launch) (core : Nat) : Except Nat State :=
  match l.declsOn core with
  | [] => .ok s
  | d :: ds =>
    let kib := ((d :: ds).map fun d => d.slots * d.kib).sum
    match s.freeBslots core, s.scratchAt core (1024 * kib), (s.core core).spots (d :: ds) 0 512 with
    | [], _, _ => .error d.index
    | _, none, _ => .error (((d :: ds)[(List.range ds.length).findIdx fun i =>
        (s.scratchAt core (1024 * (((d :: ds).take (i + 1)).map fun d => d.slots * d.kib).sum)).isNone]?).getD d).index
    | _, _, .error i => .error i
    | b :: _, some base, .ok xs =>
      let block : Block :=
        { launch := launch, number := 0, bench := 0, chute := true, base := base, size := 1024 * kib, mem := [], wbase := 0, wlines := 0,
          wtab := [], w0 := [], w1 := [], placed := s.ck, crews := [], idleSince := none, strategy := 0, limit := 0 }
      let s := { s with blocks := s.blocks.put (blockKey core b) block }
      .ok (xs.foldl (fun s x =>
        let s := s.modCore core fun c => { c with
          tiles := (List.range x.decl.slots).foldl (fun t i => Table.put t (x.first + i)
            { chute := true, late := false, owner := b, state := 0, size := x.decl.kib - 1, base := x.base + i * x.decl.kib
              expect := 0, landed := 0 }) c.tiles
          slotRecs := (List.range x.decl.slots).foldl (fun t i => Table.put t (x.first + i) SlotRec.empty) c.slotRecs }
        s.putChute core x.decl.index (x.desc launch core b)) s)

/-- Chute blocks of a launch on every core that needs one. -/
def State.buildAll (s : State) (launch : Nat) (l : Launch) : List Nat → Except Nat State
  | [] => .ok s
  | c :: cs => match s.buildChutes launch l c with
    | .error i => .error i
    | .ok s => s.buildAll launch l cs

/-- An index that another launch has in use where this launch needs a descriptor (R218). -/
def State.chuteBusy (s : State) (l : Launch) : Option Nat :=
  ((s.coresOf l.part).findSome? fun core =>
    l.chutes.find? fun d => ((s.core core).chutes.get? d.index).isSome).map (·.index)

/-! ## Halting and coming back (R244, R245) -/

/-- Bytes of a launch's chute instances in a save: descriptors, records and slot contents. -/
def State.chuteBytes (s : State) (launch : Nat) : Nat :=
  ((s.blocksOf launch true).map fun e => e.2.size + 4096).sum

/-- The bytes of instances that a save writes: their layout is open (log 16). It waits where a line of the save area is held. -/
def State.writeChutes (s : State) (launch : Nat) (cores : List Nat) : Except Nat State :=
  match s.launches.get? launch with
  | none => .ok s
  | some l =>
    let n := (((s.blocksOf launch true).filter fun e => cores.contains (e.1 / 16)).map fun e => e.2.size + 4096).sum
    let ranges := l.saveRoom n
    ({ s with fresh := s.fresh + n }.modLaunch launch fun l => { l with chuteExtents := l.chuteExtents ++ ranges }).writeRanges
      l.part l.saveAddr.toNat ranges (openBytes s.fresh n)

/-- Moves the instances of some cores into the launch's save area, and releases their chute blocks. -/
def State.liftChutes (s : State) (launch : Nat) (cores : List Nat) : State :=
  let blocks := (s.blocksOf launch true).filter fun e => cores.contains (e.1 / 16)
  let homes : List SavedChute := cores.flatMap fun core => (s.core core).chutes.filterMap fun (n, d) =>
    if d.launch = launch ∧ d.homeCore core = core then
      some { core := core, index := n, desc := d
             tiles := (s.core core).tiles.filter fun e => d.entries.contains e.1
             recs := (s.core core).slotRecs.filter fun e => d.entries.contains e.1 }
    else none
  let s := s.modLaunch launch fun l => { l with
    savedChutes := l.savedChutes ++ homes
    savedChuteBlocks := blocks.foldl (fun t e => Table.put t e.1 e.2) l.savedChuteBlocks }
  let s := homes.foldl (fun s x =>
    let drop (c : Core) : Core := { c with chutes := c.chutes.del x.index }
    let s := if x.desc.cluster then (List.range 4).foldl (fun s j => s.modCore (4 * (x.core / 4) + j) drop) s else s.modCore x.core drop
    s.modCore x.core fun c => { c with slotRecs := c.slotRecs.filter fun e => !x.desc.entries.contains e.1 }) s
  blocks.foldl (fun s e => s.releaseBlock e.1) s

def State.saveChutes (s : State) (launch : Nat) (cores : List Nat) : Except Nat State :=
  match s.writeChutes launch cores with
  | .error n => .error n
  | .ok s => .ok (s.liftChutes launch cores)

/-- A saved chute block can come back to a core: same block slot, entries and indices free, scratchpad for it (R245). -/
def State.chuteFits (s : State) (l : Launch) (old new bslot : Nat) (b : Block) : Bool :=
  (s.freeBslots new).contains bslot && (s.scratchAt new b.size).isSome &&
  (l.savedChutes.filter fun x => x.core == old).all fun x =>
    x.tiles.all (fun e => ((s.core new).tiles.get? e.1).isNone) && ((s.core new).chutes.get? x.index).isNone

/-- Brings the instances of the cores that `to_` maps back. -/
def State.restoreChutes (s : State) (launch : Nat) (to_ : Nat → Option Nat) : State :=
  match s.launches.get? launch with
  | none => s
  | some l =>
    let s := l.savedChuteBlocks.foldl (fun s (e : Nat × Block) => match to_ (e.1 / 16) with
      | none => s
      | some core => match s.scratchAt core e.2.size with
        | none => s
        | some base => { s with blocks := s.blocks.put (blockKey core (e.1 % 16)) { e.2 with base := base, placed := s.ck } }) s
    let s := l.savedChutes.foldl (fun s x => match to_ x.core with
      | none => s
      | some core =>
        let s := s.modCore core fun c => { c with
          tiles := x.tiles.foldl (fun t e => Table.put t e.1 e.2) c.tiles
          slotRecs := x.recs.foldl (fun t e => Table.put t e.1 e.2) c.slotRecs }
        s.putChute core x.index { x.desc with home := core % 4 }) s
    s.modLaunch launch fun l => { l with
      savedChutes := l.savedChutes.filter fun x => (to_ x.core).isNone
      savedChuteBlocks := l.savedChuteBlocks.filter fun e => (to_ (e.1 / 16)).isNone
      chuteExtents := if l.savedChuteBlocks.all fun e => (to_ (e.1 / 16)).isSome then [] else l.chuteExtents }

/-- A halting launch of which no block is resident is halted (R244). -/
def State.settleHalt (s : State) (launch : Nat) : State :=
  match s.launches.get? launch with
  | none => s
  | some l =>
    if l.st != .halting || !(s.blocksOf launch false).isEmpty then s
    else if s.launchEnded launch { l with st := .running } then s.finishLaunch launch 0
    else match s.saveChutes launch ((s.blocksOf launch true).map fun e => e.1 / 16) with
      | .error _ => s
      | .ok s => s.modLaunch launch fun l => { l with st := .halted }

end Sys2Proof.Machine
end

