-- ==== Sys2Proof/Machine/Points.lean ====
section
/-! DEFINITION. The decision points and the engines that serve them (R206, R209, R384, R405 to R407, R419 to R428). -/

namespace Sys2Proof.Machine

/-- An invocation of a point, of layer T until it is fired. -/
def Invocation.of (point part launch block core since : Nat) (candidate : Bool) : Invocation :=
  { point := point, layer := 0, part := part, launch := launch, block := block, candidate := candidate, core := core, since := since }

/-! ## Entering a run queue -/

/-- What an ENQUEUE event may put into a cluster's queue: the saved flag, and the state without its source. -/
def State.enqueueSource (s : State) (n launch block : Nat) (l : Launch) : Option (Bool × State) :=
  if l.requeue.contains (block, n) then
    some (false, s.modLaunch launch fun l => { l with requeue := l.requeue.erase (block, n) })
  else match l.saved.get? block with
    | some v =>
      if v.fromSave && v.runnable && !v.queued && v.core / 4 == n then
        some (true, s.modLaunch launch fun l => { l with saved := l.saved.put block { v with queued := true } })
      else none
    | none =>
      if l.benches.isEmpty && block == l.nextBlock && decide (l.nextBlock < l.nblocks) && s.roomiest (s.clustersOf l.part) == some n then
        some (false, s.modLaunch launch fun l => { l with nextBlock := l.nextBlock + 1 })
      else none

/-- ENQUEUE: a new, flushed or saved block enters a run queue, and the point fires (R384, R391, R393, R407). -/
def execEnqueue (cluster launch block : Nat) (s : State) : Out :=
  .next (match s.launches.get? launch with
    | none => s
    | some l =>
      if l.st != .running then s
      else match s.enqueueSource cluster launch block l with
        | none => s
        | some (saved, s) =>
          let first := l.queuedAt.getD block s.ck
          let s := s.modLaunch launch fun l => { l with queuedAt := l.queuedAt.put block first }
          let s := s.enterRunq cluster false { launch := launch, block := block, prio := 0, saved := saved, since := first, here := s.ck }
          s.fire cluster (Invocation.of pointEnqueue l.part launch block 0 s.ck true))

/-! ## Swap eviction (R209) -/

/-- Each crew of a block is RETIRING or has its only unit SUSPENDED at BAR. -/
def State.atBarrier (s : State) (b : Block) : Bool :=
  b.crews.all fun k => match s.crews.get? k with
    | none => true
    | some c => match c.units with
      | [(_, h)] => (match h.st with | .retiring _ => true | .suspended (.barrier _ _) woken => !woken | _ => false)
      | _ => false

/-- Blocks of swap launches that make room for queued ones of their launch on a cluster. -/
def State.swapVictims (s : State) (n : Nat) : List Nat :=
  (s.blocks.filter fun e => e.1 / 64 == n && !e.2.chute && e.2.strategy == 0 && !e.2.crews.isEmpty && s.atBarrier e.2 &&
    (match s.launches.get? e.2.launch with
      | some l => l.swap && l.st == .running && ((s.cluster n).runq.any fun r => r.launch == e.2.launch)
      | none => false)).map (·.1)

/-- PICK: a core that can take a queued block (R407); where no core can, an eligible block of a swap launch is evicted (R209). -/
def execPick (cluster core : Nat) (s : State) : Out :=
  .next (match (s.cluster cluster).holder with
    | none => s
    | some p =>
      if !s.mayPlace cluster p || core / 4 != cluster then s
      else if (s.queuedFor cluster p).any fun e => s.entryFits core e then
        s.fire cluster (Invocation.of pointPick p 0 0 core s.ck false)
      else if (s.takeable cluster p).isEmpty && (s.cluster cluster).granted.isEmpty then
        match s.swapVictims cluster with
        | [] => s
        | k :: _ => s.evict 76000 k
      else s)

/-! ## The other points -/

/-- TICK: the tick fires, the miss counts of the interval stand, and migrate fires where a block has waited a whole interval (R407,
R408). -/
def execTick (cluster : Nat) (s : State) : Out :=
  .next (
    let c := s.cluster cluster
    if s.ck < c.nextTick then s
    else
      let k := s.ck / 19000
      let s := s.modCluster cluster fun c => { c with
        nextTick := (k + 1) * 19000, misses := c.missNow, l2misses := c.l2Now, missNow := 0, l2Now := 0 }
      match c.holder with
      | none => if c.shared then s.fire cluster (Invocation.of pointTick 0 0 0 0 s.ck false) else s
      | some p =>
        let s := s.fire cluster (Invocation.of pointTick p 0 0 0 s.ck false)
        if (s.waitingParts cluster).isEmpty then s else s.fire cluster (Invocation.of pointMigrate p 0 0 0 s.ck false))

/-- Every unit of the block has been SUSPENDED for 4,096 ck, and the point has not fired since. -/
def State.blockIdle (s : State) (b : Block) : Bool :=
  !b.crews.isEmpty && b.crews.all (fun k => match s.crews.get? k with
    | none => true
    | some c => !c.units.isEmpty && c.units.all fun e => match e.2.st with
      | .suspended _ woken => !woken && decide (e.2.since + 4096 ≤ s.ck)
      | _ => false) &&
  (match b.idleSince with
    | none => true
    | some t => b.crews.any fun k => match s.crews.get? k with
      | none => false
      | some c => c.units.any fun e => decide (t < e.2.since))

/-- ck from which every unit of an idle block has been SUSPENDED (R408). -/
def State.blockedSince (s : State) (b : Block) : Nat :=
  ((b.crews.filterMap fun k => s.crews.get? k).flatMap fun c => c.units.map fun e => e.2.since).foldl max 0

/-- BLOCK. -/
def execBlock (core bslot : Nat) (s : State) : Out :=
  .next (
    let key := blockKey core bslot
    match s.blocks.get? key with
    | none => s
    | some b =>
      if b.chute || b.strategy == 4 || !s.blockIdle b then s
      else match s.launches.get? b.launch with
        | none => s
        | some l =>
          let s := s.modBlock key fun b => { b with idleSince := some s.ck }
          s.fire (clusterOf core) (Invocation.of pointBlock l.part b.launch b.number core (s.blockedSince b) true))

/-- WAKE: a saved block has become runnable after its save; the point fires once (R393, R425). -/
def execWake (cluster launch block : Nat) (s : State) : Out :=
  .next (match s.launches.get? launch with
    | none => s
    | some l => match l.saved.get? block with
      | none => s
      | some v =>
        if l.st != .running || !v.runnable || v.fromSave || v.queued || v.core / 4 != cluster then s
        else
          let s := s.modLaunch launch fun l => { l with saved := l.saved.put block { v with queued := true } }
          s.fire cluster (Invocation.of pointWake l.part launch block 0 v.since true))

/-- REBALANCE: an interval of a pipeline has passed (R240). -/
def execRebalance (launch : Nat) (s : State) : Out :=
  .next (match s.launches.get? launch with
    | none => s
    | some l =>
      if l.benches.isEmpty || l.st != .running || decide (s.ck < l.nextRebal) then s
      else
        let s := s.modLaunch launch fun l => { l with nextRebal := l.nextRebal + 1900 * l.rebal }
        match (s.clustersOf l.part).head? with
        | none => s
        | some n => s.fireT n (Invocation.of pointRebalance l.part launch 0 0 s.ck false))

/-! ## The engines (R419, R421) -/

/-- Points in the order in which pending invocations are served. -/
def serviceOrder : List Nat := [pointPick, pointEnqueue, pointWake, pointBlock, pointMigrate, pointTick, pointRebalance]

/-- The oldest event of a list, the first on ties. -/
def oldestEvent (is : List Invocation) : Option Invocation :=
  is.foldl (fun best i => match best with
    | none => some i
    | some b => if i.fired < b.fired then some i else some b) none

/-- The next invocation: by point, then the oldest event. -/
def Cluster.nextInvocation (c : Cluster) : Option Invocation :=
  serviceOrder.findSome? fun p => oldestEvent (c.pending.filter fun i => i.point == p)

/-- ROUTINE_INVOKE: the decision of a routine that ended in an earlier ck is applied (R420); else an idle engine starts the routine of the
next pending invocation; one whose routine has been unloaded takes its default. -/
def execRoutineInvoke (cluster : Nat) (s : State) : Out :=
  .next (
    let c := s.cluster cluster
    match c.running with
    | some i => match c.ended with
      | some t => if s.ck ≤ t then s else (s.modCluster cluster Cluster.idle).apply cluster i c.decisions
      | none => s
    | none => match c.nextInvocation with
      | none => s
      | some i =>
        let s := s.modCluster cluster fun c => { c with pending := c.pending.erase i }
        match c.routines.get? (routineKey i.point i.layer i.part) with
        | none => s.applyDefault cluster i
        | some r =>
          let ds := s.presets cluster i
          let named := s.entryNamed cluster i (ds.getD 2 0).toNat
          s.modCluster cluster fun c => { c with
            running := some i, started := s.ck, code := r, word := 0, regs := [], loops := [], decisions := ds, cycles := 0, ended := none, named := named })

/-- ROUTINE_OVERRUN: past its allowance the routine is stopped, its default is applied, and the event is counted and logged (R421). -/
def execRoutineOverrun (cluster : Nat) (s : State) : Out :=
  .next (
    let c := s.cluster cluster
    match c.running with
    | none => s
    | some i =>
      if c.ended.isSome || decide (c.cycles ≤ c.code.allowance) then s
      else
        let key := routineKey i.point i.layer i.part
        let s := s.modCluster cluster fun c => { c.idle with overruns := c.overruns.put key (c.overruns.getD key 0 + 1) }
        let die := cluster / 8
        let s := { s with policyLog := s.policyLog.put die (s.policyLog.getD die [] ++ [(i.point, cluster, i.part)]) }
        let tenant := match s.parts.get? i.part with | some p => p.tenant | none => 0
        let a : Agent := { core := 4 * cluster, part := if i.layer = 0 then i.part else 0, tenant := if i.layer = 0 then tenant else 0 }
        (s.log (if i.layer = 0 then i.part else hypervisorRing) a { cause := .overrun, detail := i.point }).applyDefault cluster i)

/-! ## Shared clusters (R406, R428) -/

/-- HOLDER_CHANGE: the last block of the displaced holder has left, with its chute blocks; the new holder takes the cluster. -/
def execHolderChange (cluster : Nat) (s : State) : Out :=
  .next (
    let c := s.cluster cluster
    match c.change with
    | none => s
    | some (q, _) =>
      let old := match c.holder with | some p => s.blocksOfPart cluster p | none => []
      let wiping (p : Nat) : Bool := match s.part? p with | some x => x.resetting | none => false
      if !old.isEmpty || (match c.holder with | some p => wiping p | none => false) then s
      else
        let cores := [4 * cluster, 4 * cluster + 1, 4 * cluster + 2, 4 * cluster + 3]
        let kernels (s : State) (p : Option Nat) : List Nat := (s.launches.filter fun e => some e.2.part == p && e.2.benches.isEmpty).map (·.1)
        let pipelines := (s.launches.filter fun e => some e.2.part == c.holder && !e.2.benches.isEmpty).map (·.1)
        let s := pipelines.foldl (fun s l => s.settleHalt l) s
        if s.blocks.any fun e => e.1 / 64 == cluster && !(match s.launches.get? e.2.launch with | some l => l.benches.isEmpty | none => true) then s
        else
          match (kernels s c.holder).foldl (fun acc l => acc.bind fun s => s.saveChutes l cores) (.ok s : Except Nat State) with
          | .error _ => s
          | .ok s =>
          let s := s.modCluster cluster fun c => { c with
            holder := some q, change := none, servedSince := c.servedSince.put q s.ck }
          (kernels s (some q)).foldl (fun s l => s.restoreChutes l fun core => if core / 4 = cluster then some core else none) s)

/-- A partition is overdue on a shared cluster that it does not hold (R428). -/
def State.overdue (s : State) (n p : Nat) : Bool :=
  (s.cluster n).holder != some p && decide (s.floor ≤ s.servedAge n p) && !(s.queuedFor n p).isEmpty &&
  (match s.parts.get? p with
    | some x => let t := s.tenant x.tenant
                !t.exh && (t.rate != 0 || !t.enf)
    | none => false)

/-- FLOOR_OVERDUE: a change to the overdue partition of the greatest served age, the lower number on ties. -/
def execFloorOverdue (cluster : Nat) (s : State) : Out :=
  .next (
    let c := s.cluster cluster
    if c.change.isSome || !c.shared then s
    else
      let ps := (List.range 16).filter fun p => c.holders.contains p && s.overdue cluster p
      let best := ps.foldl (fun b p => match b with
        | none => some p
        | some q => if s.servedAge cluster q < s.servedAge cluster p then some p else some q) (none : Option Nat)
      match best with
      | none => s
      | some p => s.changeHolder cluster p 76000 true)

/-- MIGRATION_TAKE: the oldest entry of a die's ring enters a run queue there (R423). -/
def execMigrationTake (die : Nat) (s : State) : Out :=
  .next (match s.migRing.getD die [] with
    | [] => s
    | m :: rest => match s.roomiest ((s.clustersOf m.part).filter fun n => n / 8 == die) with
      | none => s
      | some n =>
        let s := { s.freeRecord die m with migRing := s.migRing.put die rest }
        match s.launches.get? m.launch with
        | none => s
        | some l =>
          let s := s.enterRunq n false
            { launch := m.launch, block := m.block, prio := m.prio, saved := m.saved, since := m.since, here := s.ck }
          s.fire n (Invocation.of pointEnqueue l.part m.launch m.block 0 m.since true))

end Sys2Proof.Machine
end

