-- ==== Sys2Proof/Machine/Packets.lean ====
section
/-! DEFINITION. Queues and packets of the command processors: reading, starting, completing, the complex's own writes, the mapping of
queues to slots (R367 to R376, R385, R404, R481, R482). Queue q is served by core q mod 8 of its home complex (log 25). -/

namespace Sys2Proof.Machine

/-! ## Fields (R369, R371) -/

/-- n bytes of a packet from an offset. -/
def pkt (p : BitVec 512) (off n : Nat) : Nat := (p.extractLsb' (8 * off) (8 * n)).toNat

def pktKind (p : BitVec 512) : Nat := pkt p 5 1
def pktSeq (p : BitVec 512) : Nat := pkt p 6 2
def pktFence (p : BitVec 512) : Bool := p.getLsbD 33 || pktKind p == 3 || pktKind p == 4
def pktQuiet (p : BitVec 512) : Bool := p.getLsbD 32

/-- The first byte that is not zero among bytes lo to 63 and is no byte of `used`. -/
def strayByte (p : BitVec 512) (lo : Nat) (used : List (Nat × Nat)) : Option Nat :=
  ((List.range (64 - lo)).map (lo + ·)).find? fun i => pkt p i 1 != 0 && !used.any fun u => decide (u.1 ≤ i) && decide (i < u.1 + u.2)

def Queue.entries (q : Queue) : Nat := 2 ^ (q.lsize + 6)

/-- a - b of free-running 32-bit counts. -/
def since32 (a b : Nat) : Nat := (a + 2 ^ 32 - b % 2 ^ 32) % 2 ^ 32

/-- The window grants a range (R367, R373). -/
def Queue.grants (q : Queue) (addr len : Nat) (rd wr fx : Bool) : Bool :=
  decide (q.wbase.toNat ≤ addr) && decide (addr + len ≤ q.wbase.toNat + q.wlen) && (!rd || q.rd) && (!wr || q.wr) && (!fx || q.fx)

/-! ## Status codes (R376) -/

def stOk : Nat := 0x00
def stCapability : Nat := 0x01
def stFormat : Nat := 0x02
def stLimit : Nat := 0x03
def stGroupFifth : Nat := 0x04
def stGroupResidency : Nat := 0x05
def stChuteFit : Nat := 0x06
def stBenchFit : Nat := 0x07
def stRestore : Nat := 0x08
def stResume : Nat := 0x09
def stAborted : Nat := 0x0A
def stDenied : Nat := 0x0B
def stOverrun : Nat := 0x0C
def stPolicy : Nat := 0x0D

/-! ## The complex's writes (R375, R481) -/

/-- The record of a faulted write: crew 0, lane 0x7F, slot 0, the packet's launch. -/
def State.cpFault (s : State) (qid : Nat) (q : Queue) (w : CpWrite) (f : XlFault) (va : Nat) : State :=
  let a : Agent := { launch := w.launch, part := q.part, tenant := q.tenant }
  s.report a (f.trap va 0x7F 0 true) true (.queue qid)

/-- Makes a queue's writes in order, until one waits or faults; a fault pauses the queue. -/
def State.makeWrites (s : State) (qid : Nat) : List CpWrite → State
  | [] => s.modQueue qid fun q => { q with writes := [] }
  | w :: ws => match s.queues.get? qid with
    | none => s
    | some q => match s.vwrite q.part w.va.toNat w.data with
      | .ok s => s.makeWrites qid ws
      | .error (.waits _) => s.modQueue qid fun q => { q with writes := w :: ws }
      | .error (.fault f va) => (s.modQueue qid fun q => { q with writes := w :: ws, paused := true }).cpFault qid q w f va

/-- Makes what is to be written, unless the queue is paused. -/
def State.flushWrites (s : State) (qid : Nat) : State :=
  match s.queues.get? qid with
  | some q => if q.paused then s else s.makeWrites qid q.writes
  | none => s

/-- Adds writes and makes them. -/
def State.cpWrite (s : State) (qid : Nat) (ws : List CpWrite) : State :=
  (s.modQueue qid fun q => { q with writes := q.writes ++ ws }).flushWrites qid

/-! ## Completion (R375) -/

/-- The completion record. -/
def completionRecord (ck tag detail seq status launch : Nat) : BitVec 256 :=
  BitVec.ofNat 256 (placeField (ck % 2 ^ 64) 192 + placeField tag 160 + placeField (detail % 2 ^ 32) 128 + placeField seq 112 +
    placeField status 104 + placeField (launch % 2 ^ 32) 64)

/-- The writes of one completion: the record, ctail, then the signal word. -/
def Queue.completion (q : Queue) (p : BitVec 512) (status detail launch ck : Nat) : List CpWrite × Queue :=
  let silent := pktQuiet p && status == stOk
  let rec_ := completionRecord ck (pkt p 0 4) detail (pktSeq p) status launch
  let at_ := q.cbase.toNat + 32 * (q.ctail % q.entries)
  let ctail := (q.ctail + 1) % 2 ^ 32
  let record : List CpWrite := if silent then [] else
    [⟨BitVec.ofNat 64 at_, leBytes 32 rec_.toNat, launch⟩, ⟨q.record + 32, leBytes 4 ctail, launch⟩]
  let signal : List CpWrite := if pkt p 8 8 = 0 then [] else [⟨BitVec.ofNat 64 (pkt p 8 8), leBytes 8 (pkt p 16 8), launch⟩]
  (record ++ signal, if silent then q else { q with ctail := ctail })

/-- Completes a packet that stands in no started list. -/
def State.completePacket (s : State) (qid : Nat) (p : BitVec 512) (status detail launch : Nat) (signal : Bool) : State :=
  match s.queues.get? qid with
  | none => s
  | some q =>
    let (ws, q) := q.completion p status detail launch s.ck
    ({ s with queues := s.queues.put qid q }.cpWrite qid) (if signal then ws else ws.take 2)

/-! ## Reading and starting (R367, R370, R374) -/

/-- The tail in memory, where it can be read. -/
def State.readTail (s : State) (q : Queue) : Option (Nat × State) :=
  match s.vread q.part (q.record.toNat + 52) 4 with | .ok (bs, s) => some (leNat bs, s) | .error _ => none

/-- The window reference that a mapped queue's complex holds (R367). -/
def Queue.reference (q : Queue) (slot : Nat) : BitVec 128 :=
  BitVec.ofNat 128 (placeField q.wbase.toNat 64 + placeField (min q.wlen (2 ^ 40 - 1)) 24 + placeField (if q.rd then 1 else 0) 23 +
    placeField (if q.wr then 1 else 0) 22 + placeField (if q.fx then 1 else 0) 21 + placeField 1 20 + placeField slot 12 +
    placeField (q.gen % 4096) 0)

/-- Its reference is not void: its slot's generation is the one under which it was made (R367). -/
def State.refLive (s : State) (q : Queue) : Bool := match q.slot with | some n => s.slotGens.getD n 0 == q.gen | none => false

/-- Enters the window reference of a queue into its complex's table. -/
def State.refer (s : State) (qid : Nat) : State :=
  match s.queues.get? qid with
  | none => s
  | some q => match q.slot with
    | none => s
    | some slot =>
      let q := { q with gen := s.slotGens.getD slot 0 }
      { s with queues := s.queues.put qid q, references := s.references.put (256 * (slot / 64) + slot % 64) (q.reference slot) }

/-- A queue's references are void: the generation of the slot that owns its window reference advances, and those that were derived for its
packets go with it (R367; log 60). -/
def State.voidRefs (s : State) (qid : Nat) : State :=
  match s.queues.get? qid with
  | none => s
  | some q =>
    let s := match q.slot with
      | some n => { s with slotGens := s.slotGens.put n ((s.slotGens.getD n 0 + 1) % 4096) }
      | none => s
    { s with queues := s.queues.put qid { q with life := q.life + 1 } }

/-- The command-processor core that serves a queue, as 8 times its die plus its number (log 25). -/
def State.cpCore (s : State) (qid : Nat) (q : Queue) : Nat := 8 * s.homeOf q.part + qid % 8

/-- The complex serves the queue: the firmware runs, its core is up, the queue holds a slot and is neither stopped nor paused. -/
def State.served (s : State) (qid : Nat) (q : Queue) : Bool :=
  s.boot == .running && !s.cpDown.contains (s.cpCore qid q) && q.slot.isSome && !q.stopped && !q.paused && q.writes.isEmpty

/-- The completion ring has room: chead is read from the record. -/
def State.ringRoom (s : State) (q : Queue) : Bool :=
  match s.vread q.part (q.record.toNat + 36) 4 with
  | .ok (bs, _) => since32 q.ctail (leNat bs) != q.entries
  | .error _ => false

/-- The packet at head may start now. -/
def State.startable (s : State) (qid : Nat) (q : Queue) : Option (BitVec 512) :=
  match q.current with
  | none => none
  | some p =>
    if s.served qid q && q.destroy.isNone && !q.giveUp && !(s.tenant q.tenant).exh && !q.depend && (!pktFence p || q.started.isEmpty) && s.ringRoom q then some p else none

/-- The window covers the signal word, or the packet names none (R373). -/
def Queue.signalOk (q : Queue) (p : BitVec 512) : Bool := pkt p 8 8 == 0 || q.grants (pkt p 8 8) 8 false true false

/-- A packet as the complex keeps it: a signal word that no reference covers is never written (R367, R373). -/
def Queue.kept (q : Queue) (p : BitVec 512) : BitVec 512 :=
  if q.signalOk p then p else p &&& ~~~(BitVec.ofNat 512 (2 ^ 64 - 1) <<< 64)

/-- Moves head past the packet there; it joins the started ones. -/
def State.begin (s : State) (qid : Nat) (p : BitVec 512) : State :=
  match s.queues.get? qid with
  | none => s
  | some q =>
    let head := (q.head + 1) % 2 ^ 32
    let x : Started := { index := q.head, packet := q.kept p, launch := 0, ready := false, status := 0, detail := 0, waits := [], life := q.life }
    let q' := { q with head := head, current := none, scan := true, ahead := q.ahead.del q.head, unlanded := none, started := q.started ++ [x] }
    let s := { s with queues := s.queues.put qid q' }
    s.cpWrite qid [⟨q.record + 48, leBytes 4 head, 0⟩]

/-- Changes a started packet. -/
def State.modStarted (s : State) (qid index : Nat) (f : Started → Started) : State :=
  s.modQueue qid fun q => { q with started := q.started.map fun x => if x.index = index then f x else x }

/-- What a packet's own rules answer. -/
inductive Answer where
  | reject (status detail : Nat)
  /-- done: ready to complete with OK -/
  | ok (s : State)
  /-- started; what it does ends later -/
  | open_ (s : State)
  /-- a line that it reads is held by another agent: it does not start in this step -/
  | later

/-- Starts the packet at the head of a queue where it is one that `mine` takes, with the checks that every packet has: reserved header
bits (LAUNCH checks them in the order of R381), the signal address, bytes outside `used`. -/
def State.runPacket (s : State) (qid : Nat) (mine : BitVec 512 → Bool) (lo : Nat) (used : List (Nat × Nat))
    (body : Queue → BitVec 512 → State → Answer) : State :=
  match s.queues.get? qid with
  | none => s
  | some q => match s.startable qid q with
    | none => s
    | some p =>
      if !mine p then s
      else
        let index := q.head
        let s' := s.begin qid p
        let answer : Answer :=
          if !s.refLive q then .reject stCapability 0
          else if pktKind p != 1 && p.extractLsb' 34 6 != 0 then .reject stFormat 4
          else if !q.signalOk p then .reject stCapability 8
          else match strayByte p lo used with
            | some i => .reject stFormat i
            | none => body q p s'
        match answer with
        | .reject status detail => s'.packetReady qid index status detail
        | .ok s => s.packetReady qid index stOk 0
        | .open_ s => s
        | .later => s

/-- A kind that R372 does not list, or a command or policy operation that does not exist: the detail names its byte. -/
def badPacket (p : BitVec 512) : Option Nat :=
  let k := pktKind p
  if k = 0 ∨ 6 < k then some 5
  else if k = 6 ∧ (pkt p 24 2 = 0 ∨ 0x0F < pkt p 24 2) then some 24
  else if k = 5 ∧ 4 < pkt p 24 1 then some 24
  else none

/-- Reads the packet at head where there is one: it has landed when seq is its index (R370). -/
def State.readPacket (s : State) (qid : Nat) (q : Queue) : State :=
  if q.current.isSome || q.head == q.tail then s
  else match q.ahead.get? q.head with
  | some a => s.modQueue qid fun q => { q with current := some a.packet, unlanded := none, scan := true }
  | none => match s.vread q.part (q.pbase.toNat + 64 * (q.head % q.entries)) 64 with
    | .error _ => s
    | .ok (bs, s) =>
      let p := BitVec.ofNat 512 (leNat bs)
      s.modQueue qid fun q =>
        if pktSeq p = q.head % 65536 then { q with current := some p, unlanded := none, scan := true }
        else { q with unlanded := some ((match q.unlanded with | some u => u.1 | none => s.ck), s.ck) }

/-- A queue that has no packet of a listed kind at head completes it (R372). -/
def State.rejectBad (s : State) (qid : Nat) : State :=
  s.runPacket qid (fun p => (badPacket p).isSome) 64 [] fun _ p _ => .reject stFormat ((badPacket p).getD 5)

/-- The complex reads the tail, and the packet at head (R370). -/
def State.tailRead (s : State) (queue : Nat) : State :=
  let s := s.flushWrites queue
  match s.queues.get? queue with
  | none => s
  | some q =>
    if !s.served queue q then s
    else match s.readTail q with
      | none => s
      | some (t, s') =>
        if q.entries < since32 t q.head then
          (s'.modQueue queue fun q => { q with stopped := true, tail := t }).completePacket queue 0 stOverrun 0 0 false
        else if t = q.tail && (q.current.isSome || q.head == q.tail || q.unlanded.isSome) then s.rejectBad queue
        else ((s'.modQueue queue fun q => { q with tail := t, scan := q.scan || t != q.tail }).readPacket queue { q with tail := t }).rejectBad queue

/-- PACKET_REREAD: a packet that has not landed is read again every 256 ck (R370). -/
def execPacketReread (queue : Nat) (s : State) : Out :=
  .next (match s.queues.get? queue with
    | none => s
    | some q => match q.unlanded with
      | none => s
      | some (_, last) => if s.served queue q && decide (last + 256 ≤ s.ck) then s.readPacket queue q else s)

/-- PACKET_LAND_TIMEOUT: after 1,048,576 ck it completes with FORMAT, and head moves past it (R370). -/
def execPacketLandTimeout (queue : Nat) (s : State) : Out :=
  .next (match s.queues.get? queue with
    | none => s
    | some q => match q.unlanded with
      | none => s
      | some (first, _) =>
        if !(s.served queue q && decide (first + 1048576 ≤ s.ck) && s.ringRoom q) then s
        else
          let (p, s) : BitVec 512 × State := match s.vread q.part (q.pbase.toNat + 64 * (q.head % q.entries)) 64 with
            | .ok (bs, s) => (BitVec.ofNat 512 (leNat bs), s)
            | .error _ => (0, s)
          let head := (q.head + 1) % 2 ^ 32
          let s := s.modQueue queue fun q => { q with head := head, unlanded := none }
          (s.cpWrite queue [⟨q.record + 48, leBytes 4 head, 0⟩]).completePacket queue (q.kept p) stFormat 0 0 true)

/-! ## Slots (R385, R404) -/

/-- Queue slots of a die that are free. -/
def State.freeQueueSlots (s : State) (die : Nat) : List Nat :=
  ((List.range 64).map (64 * die + ·)).filter fun n => !s.queues.any fun q => q.2.slot == some n

/-- The queue holds an unstarted packet, and its tenant is not exhausted (R404). -/
def State.qualifies (s : State) (q : Queue) : Bool :=
  !(s.tenant q.tenant).exh && !q.stopped && q.destroy.isNone &&
  (match s.readTail q with | some (t, _) => t != q.head | none => false)

/-- A queue takes a slot: its window reference is made, and its tail is read at once (R367, R385). -/
def State.mapQueue (s : State) (qid slot : Nat) : State :=
  match s.queues.get? qid with
  | none => s
  | some q =>
    ({ s with queues := s.queues.put qid { q with slot := some slot, mappedAt := s.ck } }.refer qid).tailRead qid

/-- Takes a queue's slot away: its reference is void (R385). -/
def State.unmapQueue (s : State) (qid : Nat) : State :=
  match s.queues.get? qid with
  | none => s
  | some q =>
    { s with
      queues := s.queues.put qid { q with slot := none, unmappedAt := s.ck, giveUp := false }
      references := match q.slot with | some n => s.references.del (256 * (n / 64) + n % 64) | none => s.references }

/-- The qualifying queue of a complex that has gone longest without a slot; ties go to the lower record address (R404). -/
def State.nextQueue (s : State) (die : Nat) : Option (Nat × Queue) :=
  (s.queues.filter fun e => e.2.slot.isNone && s.homeOf e.2.part == die && s.qualifies e.2).foldl (fun best e => match best with
    | none => some e
    | some b => if e.2.unmappedAt < b.2.unmappedAt ∨ (e.2.unmappedAt = b.2.unmappedAt ∧ e.2.record.toNat < b.2.record.toNat) then some e
                else best) none

/-- Between packets: none but LAUNCHes is in progress, and nothing is to be written (R385). -/
def Queue.between (q : Queue) : Bool := !q.depend && q.writes.isEmpty && q.started.all fun x => pktKind x.packet == 1

/-- The queue whose slot has been mapped longest. -/
def State.oldestMapped (s : State) (die : Nat) : Option (Nat × Queue) :=
  (s.queues.filter fun e => match e.2.slot with | some n => n / 64 == die | none => false).foldl (fun best e => match best with
    | none => some e
    | some b => if e.2.mappedAt < b.2.mappedAt then some e else best) none

/-- Maps queues of a complex to slots, as often as one qualifies and a slot is to be had; at most n. A queue in a packet gives its slot up once
it is between packets (R385). -/
def State.mapDie (s : State) (die : Nat) : Nat → State
  | 0 => s
  | n + 1 => match s.nextQueue die with
    | none => s
    | some (qid, q) => match s.freeQueueSlots die with
      | slot :: _ => (s.mapQueue qid slot).mapDie die n
      | [] =>
        if s.ck ≤ q.unmappedAt + s.floor then s
        else match s.oldestMapped die with
          | some (old, o) => if !o.between then s.modQueue old fun x => { x with giveUp := true }
            else match o.slot with
            | some slot => ((s.unmapQueue old).mapQueue qid slot).mapDie die n
            | none => s
          | none => s

/-- QUEUE_MAPPING: every complex, at a period boundary or when a slot falls free (R404). -/
def State.mapQueues (s : State) : State := (List.range 4).foldl (fun s d => s.mapDie d 64) s

/-- A queue that is to give up its slot, or whose tenant is exhausted, is unmapped once it is between packets (R385, R403, R404). -/
def State.leaveSlot (s : State) (qid : Nat) : State :=
  match s.queues.get? qid with
  | none => s
  | some q => if (q.giveUp || (s.tenant q.tenant).exh) && q.slot.isSome && q.between then (s.unmapQueue qid).mapQueues else s

/-! ## DEPEND, SIGNAL, TIMESTAMP (R372) -/

/-- The words of a DEPEND are at least its values; none where one cannot be read. -/
def State.dependHolds (s : State) (part : Nat) (p : BitVec 512) : Option (Bool × State) :=
  let word (s : State) (a v : Nat) : Option (Bool × State) :=
    match s.vread part a 8 with | .ok (bs, s) => some (decide (v ≤ leNat bs), s) | .error _ => none
  match word s (pkt p 24 8) (pkt p 32 8) with
  | none => none
  | some (a, s) =>
    if pkt p 40 8 = 0 then some (a, s)
    else match word s (pkt p 40 8) (pkt p 48 8) with
      | none => none
      | some (b, s) => some (a && b, s)

/-- DEPEND: holds every later packet of its queue. -/
def execDepend (queue : Nat) (s : State) : Out :=
  .next (s.runPacket queue (fun p => pktKind p == 2) 24 [(24, 32)] fun q p s =>
    if !q.grants (pkt p 24 8) 8 true false false then .reject stCapability 24
    else if pkt p 40 8 != 0 && !q.grants (pkt p 40 8) 8 true false false then .reject stCapability 40
    else .open_ (s.modQueue queue fun q => { q with depend := true }))

/-- DEPEND_SATISFIED: both words have their values. -/
def execDependSatisfied (queue : Nat) (s : State) : Out :=
  .next (match s.queues.get? queue with
    | none => s
    | some q =>
      if !q.depend || !s.served queue q then s
      else match q.started.find? fun x => pktKind x.packet == 2 && !x.ready with
        | none => s
        | some x => match s.dependHolds q.part x.packet with
          | some (true, s) => (s.modQueue queue fun q => { q with depend := false }).packetReady queue x.index stOk 0
          | _ => s)

/-- SIGNAL. -/
def execSignal (queue : Nat) (s : State) : Out :=
  .next (s.runPacket queue (fun p => pktKind p == 3) 24 [] fun _ _ s => .ok s)

/-- TIMESTAMP: the module ck is written to the address. -/
def execTimestamp (queue : Nat) (s : State) : Out :=
  .next (s.runPacket queue (fun p => pktKind p == 4) 24 [(24, 8)] fun q p s =>
    if !q.grants (pkt p 24 8) 8 false true false then .reject stCapability 24
    else .ok (s.cpWrite queue [⟨BitVec.ofNat 64 (pkt p 24 8), leBytes 8 s.ck, 0⟩]))

/-! ## PACKET_COMPLETE (R372, R375, R395) -/

/-- Stores of a launch that are not yet performed: at system scope before its LAUNCH completes (R372). -/
def State.launchStores (s : State) (launch : Nat) : Bool := s.flights.any fun f => f.2.launch == launch

/-- A resident block of a launch that a PREEMPT named has not yet been drained, saved or flushed. -/
def State.stillTaken (s : State) (launch : Nat) (blocks : List Nat) : Bool :=
  s.blocks.any fun e => e.2.launch == launch && !e.2.chute && blocks.contains e.2.number && e.2.strategy != 0

/-- Stores that a saved crew holds are sent in age order (R304); `count` raises its counters. -/
def State.sendSaved (s : State) (launch block : Nat) (c : Crew) (count : Bool) : State :=
  let s := (c.sbuf ++ c.pieces).foldl (fun s e => s.sendEntry 4096 c e false) s
  s.modLaunch launch fun l => match l.saved.get? block with
    | none => l
    | some v => { l with saved := l.saved.put block { v with crews := v.crews.map fun x =>
        if x.index != c.index then x
        else { x with
          sbuf := [], pieces := []
          unack := if count then (c.sbuf ++ c.pieces).foldl (fun t e =>
              (countedScopes e.scope).foldl (fun t k => Table.put t k (t.getD k 0 + 1)) t) x.unack else x.unack } } }

/-- Sends what the saved crews of partitions hold in their store buffers (R327). -/
def State.sendSavedOf (s : State) (ps : List Nat) : State :=
  s.launches.foldl (fun s (e : Nat × Launch) =>
    if ps.contains e.2.part then
      e.2.saved.foldl (fun s (v : Nat × Saved) => v.2.crews.foldl (fun s c => s.sendSaved e.1 v.1 c true) s) s
    else s) s

/-- Stores of a partition's crews, resident or saved, that have not been performed: sent or in a store buffer, or in a capsule step's write
buffer, which commits to lines translated before (R327). -/
def State.partStores (s : State) (p : Nat) : Bool :=
  s.flights.any (fun f => !f.2.performed && f.2.part == p) ||
  s.crews.any (fun c => s.partOfLaunch c.2.launch == some p && (!(c.2.sbuf ++ c.2.pieces).isEmpty || !c.2.cap.wbuf.isEmpty)) ||
  s.launches.any fun (e : Nat × Launch) => e.2.part == p && e.2.saved.any fun (v : Nat × Saved) =>
    v.2.crews.any fun c => !(c.sbuf ++ c.pieces).isEmpty

/-- A started command that has not been made ready has reached its end. -/
def State.commandDone (s : State) (qid : Nat) (x : Started) : Bool :=
  let p := x.packet
  if pktKind p != 6 then false
  else match pkt p 24 2 with
    | 0x02 => s.queues.all fun e => e.2.destroy != some (qid, x.index) ||
        e.2.started.all fun y => e.1 == qid && y.index == x.index
    | 0x03 => !s.stillTaken (pkt p 32 4) x.waits
    | 0x04 => (match s.launches.get? (pkt p 32 4) with | some l => l.st != .halting | none => true)
    | 0x05 => (match s.launches.get? (pkt p 32 4) with | some l => l.st != .halted | none => true)
    | 0x06 => (s.launches.get? (pkt p 32 4)).isNone
    | 0x08 => x.waits.all fun p => !s.partStores p
    | 0x0E => (match s.parts.get? (pkt p 32 1) with | some y => !y.resetting | none => true)
    | _ => false

/-- The queue that a DESTROY.QUEUE packet named goes (R367, R395): its slot falls free. -/
def State.destroyed (s : State) (qid : Nat) (x : Started) : State :=
  match s.queues.find? fun e => e.2.destroy == some (qid, x.index) with
  | none => s
  | some (t, _) =>
    let s := (s.voidRefs t).unmapQueue t
    { s with queues := s.queues.del t }.mapQueues

/-- Writes the completion of a started packet. A signal word whose reference has become void is a capability fault (R367, R373). -/
def State.completeStarted (s : State) (queue index : Nat) : State :=
  match s.queues.get? queue with
  | none => s
  | some q => match q.started.find? fun (y : Started) => y.index == index with
    | none => s
    | some x =>
      let s := s.modQueue queue fun q => { q with started := q.started.filter fun y => y.index != index }
      if x.life != q.life && pkt x.packet 8 8 != 0 then s.completePacket queue x.packet stCapability 8 x.launch false
      else s.completePacket queue x.packet x.status x.detail x.launch true

/-- PACKET_COMPLETE: the completion record, then the signal word. -/
def execPacketComplete (queue index : Nat) (s : State) : Out :=
  .next (
    let s := s.flushWrites queue
    let s := match s.queues.get? queue with
      | some q => match q.started.find? fun (y : Started) => y.index == index with
        | some x =>
          if pktKind x.packet != 6 then s
          else if pkt x.packet 24 2 = 0x04 then s.settleHalt (pkt x.packet 32 4)
          else if pkt x.packet 24 2 = 0x08 ∧ !x.ready then s.sendSavedOf x.waits
          else s
        | none => s
      | none => s
    match s.queues.get? queue with
    | none => s
    | some q => match q.started.find? fun (y : Started) => y.index == index with
      | none => s
      | some x =>
        let waits := pktKind x.packet == 1 && s.launchStores x.launch
        if q.paused || !q.writes.isEmpty || s.boot != .running || s.cpDown.contains (s.cpCore queue q) || !(x.ready || s.commandDone queue x) || waits then s
        else
          let s := s.completeStarted queue index
          if pktKind x.packet == 6 && pkt x.packet 24 2 == 0x02 then s.destroyed queue x else s)

end Sys2Proof.Machine
end

