-- ==== Sys2Proof/Machine/Commands.lean ====
section
/-! DEFINITION. The CONTROL commands on queues and launches (R244, R245, R369, R385, R386, R391 to R395, R482). The order of their
checks, and what names nothing, are log 25's. -/

namespace Sys2Proof.Machine

/-- A CONTROL packet of one command: bytes 26 to 31 zero, the priv of R395, then the bytes of R482. -/
def State.control (s : State) (qid : Nat) (mine : BitVec 512 → Bool) (code minPriv : Nat) (used : List (Nat × Nat))
    (body : Queue → BitVec 512 → State → Answer) : State :=
  s.runPacket qid (fun p => pktKind p == 6 && pkt p 24 2 == code && mine p) 26 [(32, 32)] fun q p s =>
    if q.priv < minPriv then .reject stDenied 24
    else match strayByte p 32 used with
      | some i => .reject stFormat i
      | none => body q p s

/-- A launch that a command names in bytes 32 to 35: another tenant's is no supervisor's to name. -/
def State.namedLaunch (s : State) (q : Queue) (p : BitVec 512) (missing : Answer) (body : Nat → Launch → Answer) : Answer :=
  match s.launches.get? (pkt p 32 4) with
  | none => missing
  | some l => if q.priv < 2 ∧ l.tenant ≠ q.tenant then .reject stCapability 32 else body (pkt p 32 4) l

/-! ## Queues (R367, R369, R385) -/

/-- The queue that a record gives, in a partition, under the window of the queue that carried the command. -/
def queueOf (record r tenant part : Nat) (q : Queue) (ck : Nat) : Queue :=
  { record := BitVec.ofNat 64 record, pbase := BitVec.ofNat 64 (bits r 448 64), cbase := BitVec.ofNat 64 (bits r 320 64), lsize := bits r 252 4
    priv := bits r 250 2, tenant := tenant, part := part
    wbase := if 2 ≤ q.priv then 0 else q.wbase, wlen := if 2 ≤ q.priv then 2 ^ 56 else q.wlen
    rd := decide (2 ≤ q.priv) || q.rd, wr := decide (2 ≤ q.priv) || q.wr, fx := decide (2 ≤ q.priv) || q.fx
    gen := 0, slot := none, mappedAt := 0, head := 0, tail := 0, ctail := 0, current := none, ahead := [], unlanded := none, started := [],
    depend := false, stopped := false, destroy := none, writes := [], paused := false, unmappedAt := ck }

/-- The queue of a partition whose record lies at an address. -/
def State.queueAt (s : State) (part record : Nat) : Option (Nat × Queue) :=
  s.queues.find? fun e => e.2.part == part && e.2.record.toNat == record

/-- A queue that has been created: the device writes head and ctail of its record, 0 (R369); its reference is made where it has a slot. -/
def State.created (s : State) (id : Nat) (q : Queue) : State :=
  ({ s with queues := s.queues.put id q }.cpWrite id [⟨q.record + 48, leBytes 4 0, 0⟩, ⟨q.record + 32, leBytes 4 0, 0⟩]).refer id

/-- CREATE.QUEUE. A record that is a queue's already starts that queue afresh (R370). -/
def execCreateQueue (queue : Nat) (s : State) : Out :=
  .next (s.control queue (fun _ => true) 0x01 1 [(32, 10)] fun q p s =>
    let hyp := decide (2 ≤ q.priv)
    let record := pkt p 32 8
    let tenant := if hyp then pkt p 40 1 else q.tenant
    let part := if hyp then pkt p 41 1 else q.part
    if !hyp && pkt p 40 1 != 0 then .reject stFormat 40
    else if !hyp && pkt p 41 1 != 0 then .reject stFormat 41
    else if 15 < tenant then .reject stLimit 40
    else if (s.part? part).isNone then .reject stLimit 41
    else if record % 64 ≠ 0 then .reject stLimit 32
    else if !hyp && !q.grants record 64 true true false then .reject stCapability 32
    else match s.vread part record 64 with
      | .error (.waits _) => .later
      | .error (.fault _ _) => .reject stCapability 32
      | .ok (bs, s) =>
        let r := leNat bs
        let old := s.queueAt part record
        let q' := queueOf record r tenant part q s.ck
        if bits r 0 242 ≠ 0 ∨ q'.priv = 3 then .reject stFormat 32
        else if q.priv < q'.priv then .reject stDenied 24
        else if 10 < q'.lsize ∨ q'.pbase.toNat % 64 ≠ 0 ∨ q'.cbase.toNat % 32 ≠ 0 then .reject stLimit 32
        else if old.isNone && decide (4096 ≤ s.queues.length) then .reject stLimit 32
        else if !q'.grants q'.pbase.toNat (64 * q'.entries) true false false || !q'.grants q'.cbase.toNat (32 * q'.entries) false true false then
          .reject stCapability 32
        else match old with
          | some (id, o) =>
            let q' := { q' with slot := o.slot, mappedAt := o.mappedAt, started := o.started, unmappedAt := o.unmappedAt, life := o.life }
            .ok ((s.created id q').mapQueues)
          | none => match (List.range 4096).find? fun i => (s.queues.get? i).isNone with
            | none => .reject stLimit 32
            | some id => .ok ((s.created id q').mapQueues))

/-- DESTROY.QUEUE: the queue starts nothing more; the command completes when its started packets have. -/
def execDestroyQueue (queue : Nat) (s : State) : Out :=
  .next (s.control queue (fun _ => true) 0x02 1 [(32, 8)] fun q p s =>
    let record := pkt p 32 8
    if !q.grants record 64 true true false then .reject stCapability 32
    else
      let found := (s.queueAt q.part record).orElse fun _ =>
        s.queues.find? fun e => e.2.record.toNat == record && (decide (2 ≤ q.priv) || e.2.tenant == q.tenant)
      match found with
      | none => .reject stCapability 32
      | some (id, o) =>
        if o.destroy.isSome then .reject stCapability 32
        else .open_ (s.modQueue id fun o => { o with destroy := some (queue, q.head) }))

/-! ## Pre-emption (R386, R395) -/

/-- PREEMPT: every resident block of the launch. -/
def execPreempt (queue : Nat) (s : State) : Out :=
  .next (s.control queue (fun _ => true) 0x03 1 [(32, 4), (40, 4)] fun q p s =>
    let bound := pkt p 40 4
    if bound < 1024 ∨ 4194304 < bound then .reject stLimit 40
    else s.namedLaunch q p (.ok s) fun id _ =>
      let blocks := s.blocksOf id false
      let s := blocks.foldl (fun s e => s.preempt bound e.1) s
      .open_ (s.modStarted queue q.head fun x => { x with waits := blocks.map fun e => e.2.number }))

/-- Bytes that a halt would save: contexts of resident blocks, chute instances (R244, R394). -/
def State.haltBytes (s : State) (launch : Nat) : Nat :=
  ((s.blocksOf launch false).map fun e => s.contextBytes e.1).sum + s.chuteBytes launch

/-- HALT (R244, R394). -/
def execHalt (queue : Nat) (s : State) : Out :=
  .next (s.control queue (fun _ => true) 0x04 1 [(32, 4)] fun q p s =>
    s.namedLaunch q p (.reject stLimit 32) fun id l =>
      if l.st = .waiting then .reject stLimit 32
      else if l.st != .running then .open_ (s.modLaunch id fun l => { l with haltedBy := none })
      else if l.saveLen - l.saveUsed < s.haltBytes id then .reject stLimit 48
      else .open_ ((s.haltLaunch id).settleHalt id))

/-! ## RESUME (R245) -/

/-- A core of one cluster at the same position of another. -/
def sameCore (from_ to_ core : Nat) : Option Nat := if core / 4 = from_ then some (4 * to_ + core % 4) else none

/-- Clusters of which a halted launch holds anything. -/
def Launch.imageClusters (l : Launch) : List Nat :=
  ((l.savedChutes.map fun (x : SavedChute) => x.core / 4) ++ (l.savedChuteBlocks.map fun (e : Nat × Block) => e.1 / 64) ++
    (l.saved.filterMap fun (e : Nat × Saved) => if e.2.queued then some (e.2.core / 4) else none) ++ l.assign.map fun (e : Nat × Nat) => e.1 / 4).eraseDups

/-- The images of one saved cluster fit on a cluster, with everything in its own place. -/
def State.imageFits (s : State) (launch : Nat) (l : Launch) (part from_ to_ : Nat) : Bool :=
  s.mayPlace to_ part &&
  (l.savedChuteBlocks.all fun e => match sameCore from_ to_ (e.1 / 16) with
    | some core => s.chuteFits l (e.1 / 16) core (e.1 % 16) e.2
    | none => true) &&
  (l.saved.foldl (fun (acc : Option State) (e : Nat × Saved) => match acc with
    | none => none
    | some s => match sameCore from_ to_ e.2.core with
      | none => some s
      | some core =>
        if !e.2.queued then some s
        else (s.fitSaved core e.2 (some e.2.bslot)).map fun f => s.restoreBlock launch e.1 core e.2 f)
    (some (s.restoreChutes launch (sameCore from_ to_)))).isSome

/-- A cluster for each saved cluster, each used once. -/
def State.matchClusters (s : State) (launch : Nat) (l : Launch) (part : Nat) : List Nat → List Nat → Option (List (Nat × Nat))
  | [], _ => some []
  | c :: cs, free => free.findSome? fun t =>
      if s.imageFits launch l part c t then (s.matchClusters launch l part cs (free.erase t)).map ((c, t) :: ·) else none

/-- Where a core's image goes. -/
def mapCore (m : List (Nat × Nat)) (core : Nat) : Nat :=
  match m.find? fun e => e.1 == core / 4 with | some (_, t) => 4 * t + core % 4 | none => core

/-- A halted launch comes back to a partition: instances at once, blocks by BLOCK_RESTORE, others of it through the run queues. -/
def State.resumeLaunch (s : State) (launch part : Nat) (m : List (Nat × Nat)) : State :=
  let s := s.restoreChutes launch fun core => if m.any fun e => e.1 == core / 4 then some (mapCore m core) else none
  let s := s.modLaunch launch fun l => { (l.mapSaved fun _ v => { v with core := mapCore m v.core }) with
    part := part
    assign := l.assign.foldl (fun t e => Table.put t (mapCore m e.1) e.2) []
    requeue := l.requeue.map fun e => (e.1, mapCore m (4 * e.2) / 4) }
  match s.launches.get? launch with
  | none => s
  | some l =>
    let back := l.saved.filter fun e => e.2.queued
    if back.isEmpty then s.modLaunch launch fun l => { l with st := .running, nextRebal := s.ck + 1900 * l.rebal }
    else back.foldl (fun s (e : Nat × Saved) => s.modCluster (e.2.core / 4) fun c =>
      { c with granted := c.granted ++ [{ core := e.2.core, launch := launch, block := e.1, saved := true, prio := e.2.block.prio }] }) s

/-- RESUME. -/
def execResume (queue : Nat) (s : State) : Out :=
  .next (s.control queue (fun _ => true) 0x05 1 [(32, 4), (40, 1)] fun q p s =>
    let part := pkt p 40 1
    s.namedLaunch q p (.reject stLimit 32) fun id l => match s.part? part with
      | none => .reject stLimit 40
      | some x =>
        if q.priv < 2 ∧ x.tenant ≠ q.tenant then .reject stCapability 40
        else if l.st = .running then .ok s
        else if l.st != .halted then .reject stLimit 32
        else if s.clusters.any fun c => c.2.granted.any fun g => g.launch == id then .open_ s
        else if x.tenant ≠ l.tenant ∨ x.resetting then .reject stResume 0
        else match s.matchClusters id l part l.imageClusters (s.clustersOf part) with
          | none => .reject stResume 0
          | some m => .open_ (s.resumeLaunch id part m))

/-! ## ABORT (R391, R395) -/

/-- Ends a launch: resident blocks are flushed, saved and queued ones are gone. -/
def State.abortLaunch (s : State) (launch : Nat) : State :=
  match s.launches.get? launch with
  | none => s
  | some l =>
    let s := l.saved.foldl (fun s (e : Nat × Saved) => e.2.crews.foldl (fun s c => s.sendSaved launch e.1 c false) s) s
    let s := (s.withdraw launch).modLaunch launch fun l => { l with
      st := .aborted, saved := [], requeue := [], savedChutes := [], savedChuteBlocks := [], chuteExtents := [], moving := [] }
    let s := (s.blocksOf launch false).foldl (fun s e => s.modBlock e.1 fun b => { b with strategy := 3, limit := s.ck, byChange := false }) s
    s.checkLaunch launch

/-- A completion with RESTORE on the launch's queue, then the end of the launch as by ABORT, whose LAUNCH completes with ABORTED (R390). The
packet's signal is written with the latter (log 74). -/
def State.rejectImage (s : State) (launch at_ : Nat) (l : Launch) : State :=
  let s := match (s.queues.get? l.queue).bind fun q => q.started.find? fun y => y.index == l.packet with
    | some y => s.completePacket l.queue y.packet stRestore at_ launch false
    | none => s
  s.abortLaunch launch

/-- BLOCK_RESTORE: a saved block that a pick, or a RESUME, has given to the core. -/
def execBlockRestore (launch block core : Nat) (s : State) : Out :=
  .next (match s.launches.get? launch with
    | none => s
    | some l => match l.saved.get? block with
      | none => s
      | some v =>
        let resuming := l.st == .halted
        if s.exhausted l.part || !s.mayPlace (clusterOf core) l.part || !s.grant? core launch block true || !State.mayReturn l core v
            || (l.st != .running && !resuming) then s
        else match s.readImage l v with
          | .error (.waits _) => s
          | .error (.refused at_) => s.rejectImage launch at_ l
          | .ok (v, s) => match s.fitSaved core v (if resuming then some v.bslot else none) with
          | none => s
          | some f =>
            let v := { v with block := { v.block with prio := s.grantPrio core launch block } }
            let s := (s.dropGrant core launch block).restoreBlock launch block core v f
            s.modLaunch launch fun l =>
              if resuming && !l.saved.any (fun e => e.2.queued) then { l with st := .running, nextRebal := s.ck + 1900 * l.rebal } else l)

/-- ABORT. -/
def execAbort (queue : Nat) (s : State) : Out :=
  .next (s.control queue (fun _ => true) 0x06 1 [(32, 4)] fun q p s =>
    s.namedLaunch q p (.ok s) fun id _ => .open_ (s.abortLaunch id))

end Sys2Proof.Machine
end

