-- ==== Sys2Proof/Machine/Hypervisor.lean ====
section
/-! DEFINITION. The CONTROL commands on translation, grants, keys, frames, retention, partitions and debugging (R20, R115, R116, R293,
R319, R327, R338 to R342, R396 to R398, R459, R482). -/

namespace Sys2Proof.Machine

/-! ## Translation (R319, R327) -/

/-- SET.ROOT: the stage-1 root of a partition or the stage-2 root of a tenant. -/
def execSetRoot (queue : Nat) (s : State) : Out :=
  .next (s.control queue (fun _ => true) 0x07 1 [(32, 2), (40, 8)] fun q p s =>
    let who := pkt p 33 1
    let root := pkt p 40 8
    match pkt p 32 1 with
    | 1 => match s.part? who with
      | none => .reject stLimit 33
      | some x =>
        if q.priv < 2 ∧ x.tenant ≠ q.tenant then .reject stCapability 33
        else if root % 2 ^ 18 ≠ 0 ∨ 2 ^ 48 ≤ root then .reject stLimit 40
        else .ok { s with parts := s.parts.put who { x with root1 := some root } }
    | 2 =>
      if q.priv < 2 then .reject stDenied 24
      else if 15 < who then .reject stLimit 33
      else if root % 2 ^ 10 ≠ 0 ∨ 2 ^ 48 ≤ root then .reject stLimit 40
      else .ok (s.modTenant who fun t => { t with root2 := some root })
    | _ => .reject stLimit 32)

/-- Partitions of a tenant. -/
def State.partsOf (s : State) (tenant : Nat) : List Nat := (s.parts.filter fun e => e.2.tenant == tenant).map (·.1)

/-- Removes translations of partitions of a tenant from TLBs and walk caches: all of them for stage 2, those that meet the range for
stage 1; 0 is the whole space (R327). -/
def State.dropTlb (s : State) (tenant : Nat) (ps : List Nat) (stage first len : Nat) : State :=
  let meets (base n : Nat) : Bool := len == 0 || (decide (first < base + 2 ^ n) && decide (base < first + len))
  { s with
    tlb := s.tlb.filter fun t => !(ps.contains t.part && (stage == 2 || meets t.vbase t.bits))
    walks := s.walks.filter fun w => !(if w.stage1 then ps.contains w.owner && (stage == 2 || meets (w.at_ * 2 ^ w.lo) w.lo)
      else stage == 2 && w.owner == tenant) }

/-- INVALIDATE: completes when every store translated before it has been performed (R327). -/
def execInvalidate (queue : Nat) (s : State) : Out :=
  .next (s.control queue (fun _ => true) 0x08 1 [(32, 4), (40, 16)] fun q p s =>
    let stage := pkt p 32 1
    let reach := pkt p 33 1
    let tenant := pkt p 34 1
    let part := pkt p 35 1
    if stage ≠ 1 ∧ stage ≠ 2 then .reject stLimit 32
    else if stage = 2 ∧ q.priv < 2 then .reject stDenied 24
    else if 1 < reach then .reject stLimit 33
    else if reach = 1 ∧ part ≠ 0 then .reject stFormat 35
    else if 15 < tenant then .reject stLimit 34
    else if q.priv < 2 ∧ tenant ≠ q.tenant then .reject stCapability 34
    else if reach = 0 ∧ q.priv < 2 ∧ (s.part? part).any (fun x => x.tenant != q.tenant) then .reject stCapability 35
    else if reach = 0 ∧ !(s.partsOf tenant).contains part then .reject stLimit 35
    else
      let ps := if reach = 0 then [part] else s.partsOf tenant
      let s := (s.dropTlb tenant ps stage (pkt p 40 8) (pkt p 48 8)).sendSavedOf ps
      .open_ (s.modStarted queue q.head fun x => { x with waits := ps }))

/-- SET.GRANT: reserved bits of the register are ignored (R6, R293). -/
def execSetGrant (queue : Nat) (s : State) : Out :=
  .next (s.control queue (fun _ => true) 0x09 2 [(32, 1), (36, 4)] fun _ p s =>
    if 15 < pkt p 32 1 then .reject stLimit 32
    else .ok (s.modTenant (pkt p 32 1) fun t => { t with grant := BitVec.ofNat 3 (pkt p 36 4) }))

/-! ## Keys, frames, retention (R338 to R344) -/

/-- KEY, live: a FREE slot gets a new key (R338). It takes an action that is neither 0 nor 1 too, to refuse it. -/
def execKeyLive (queue : Nat) (s : State) : Out :=
  .next (s.control queue (fun p => pkt p 33 1 != 1) 0x0A 2 [(32, 2)] fun _ p s =>
    let slot := pkt p 32 1
    if 63 < slot then .reject stLimit 32
    else if pkt p 33 1 ≠ 0 then .reject stLimit 33
    else if (s.keys.get? slot).isSome then .reject stLimit 32
    else .ok { s with keys := s.keys.put slot (.live (Config.newKey s.fresh)), fresh := s.fresh + 1 })

/-- KEY, discard (R341). -/
def execKeyDiscard (queue : Nat) (s : State) : Out :=
  .next (s.control queue (fun p => pkt p 33 1 == 1) 0x0A 2 [(32, 2)] fun _ p s =>
    if 63 < pkt p 32 1 then .reject stLimit 32 else .ok (s.discardKey (pkt p 32 1)))

/-- Frames of the dies: 0 to n - 1 of HBM and those of the capacity tier. -/
def isFrame (f : Nat) : Bool := inHbm (32768 * f) || inCapacity (32768 * f)

/-- Writes one frame's state. Its lines have left the caches without being written back: where the frame keeps its key and is not cleared,
the memory device's bytes stand again (R339). A frame that is made cleared, or gets another key slot, reads zeros (R296, log 29). -/
def State.writeFrame (s : State) (f : Nat) (x : Frame) : State :=
  let old := s.frames.getD f Frame.reset
  let mine (n : Nat) : Bool := n / 256 == f
  let lost := s.dirty.filter fun e => mine e.1
  let s := { s with frames := s.frames.put f x, dirty := s.dirty.filter fun e => !mine e.1 }
  if old.key = x.key ∧ !x.cleared then
    { s with mem := lost.foldl (fun m e => m.storeBytes (128 * e.1) e.2) s.mem }
  else { s with
    mem := s.mem.keep fun a => frameOf a != f
    poison := s.poison.filter fun n => !mine n }.wakeLines mine

/-- FRAME: cleared and key of a range of frames (R339). -/
def execFrame (queue : Nat) (s : State) : Out :=
  .next (s.control queue (fun _ => true) 0x0B 2 [(32, 18)] fun _ p s =>
    let pa := pkt p 32 8
    let n := pkt p 40 8
    if pa % 32768 ≠ 0 ∨ !isFrame (pa / 32768) then .reject stLimit 32
    else if n = 0 ∨ !isFrame (pa / 32768 + n - 1) ∨ inHbm pa != inHbm (pa + 32768 * (n - 1)) then .reject stLimit 40
    else if 63 < pkt p 48 1 then .reject stLimit 48
    else if 1 < pkt p 49 1 then .reject stFormat 49
    else
      let first := pa / 32768
      let s := s.dropLines fun l => decide (256 * first ≤ l) && decide (l < 256 * (first + n))
      .ok ((List.range n).foldl (fun s i => s.writeFrame (first + i) { cleared := pkt p 49 1 == 1, key := pkt p 48 1 }) s))

/-- RETAIN: state and reserved bits are not written; a write that changes reserve while state is not 0 is ignored (R342). -/
def execRetain (queue : Nat) (s : State) : Out :=
  .next (s.control queue (fun _ => true) 0x0C 2 [(32, 1), (40, 8)] fun _ p s =>
    let g := pkt p 32 1
    let v := pkt p 40 8
    let base := bits v 40 24 * 2 ^ 24
    let en := bits v 0 1 == 1
    if 31 < g then .reject stLimit 32
    else if 1000 < bits v 30 10 then .reject stLimit 40
    else if en && (base % 2 ^ 34 != 0 || !inCapacity base || homeDie base != g / 8) then .reject stLimit 40
    else
      let r := s.retention.getD g Retention.reset
      let reserve := BitVec.ofNat 24 (bits v 40 24)
      if r.state ≠ 0 ∧ reserve ≠ r.reserve then .ok s
      else .ok { s with retention := s.retention.put g { r with
              reserve := reserve
              idle := bits v 30 10, wake := bits v 10 20, en := en
              lastAccess := if r.en then r.lastAccess else s.ck } })

/-! ## Partitions (R20, R341, R395, R397, R398, R459) -/

/-- Leaves under a table: input base, low bit, output base, key slot. -/
def leavesOf (s : State) (stage1 : Bool) (reach : Nat → Except XlFault (Nat × Nat × Bool × Nat)) :
    List Level → Nat → Nat → List (Nat × Nat × Nat × Nat)
  | [], _, _ => []
  | l :: rest, table, base => (List.range (2 ^ l.width)).flatMap fun i => match reach (table + 8 * i) with
    | .error _ => []
    | .ok (pa, key, _, _) =>
      let e := leNat (s.readBytes key pa 8)
      let at_ := base + i * 2 ^ l.lo
      let oa := e / 256 * 256 % 2 ^ 48
      if bits e 0 1 = 0 || !entryOk stage1 l rest.head? e then []
      else if bits e 1 1 = 1 then [(at_, l.lo, oa, bits e 54 6)]
      else leavesOf s stage1 reach rest oa at_

/-- Key slots of a partition: those under which the stage-2 leaves of its tenant hold what its stage-1 tables map. -/
def State.keysOfPart (s : State) (p : Nat) : List Nat :=
  match s.part? p with
  | none => []
  | some x => match x.root1, (s.tenant x.tenant).root2 with
    | some r1, some r2 =>
      let first := leavesOf s true (fun ia => (walk2 s noneHeld x.tenant (some r2) ia).map fun l => (l.out, l.key, l.w, l.wLevel)) levels1 r1 0
      let second := leavesOf s false (fun pa => .ok (pa, s.ownKey pa, true, 0)) levels2 r2 0
      ((second.filter fun b => first.any fun a => decide (a.2.2.1 < b.1 + 2 ^ b.2.1) && decide (b.1 < a.2.2.1 + 2 ^ a.2.1)).map
        fun b => b.2.2.2).eraseDups
    | _, _ => []

/-- A record that a reset finds waiting is still written, with held clear (R441). -/
def FaultRec.released (launch : Nat) (r : FaultRec) : FaultRec :=
  if (r.record.extractLsb' 288 32).toNat = launch then { r with record := r.record &&& ~~~((1 : BitVec 512) <<< 188), target := .none } else r

/-- Units of a launch whose records wait for their results: the records go out, with held clear (R441). -/
def State.releaseFaults (s : State) (launch : Nat) : State :=
  (s.crews.filter fun e => e.2.launch == launch).foldl (fun s (e : Nat × Crew) => e.2.units.foldl (fun s (u : Nat × CrewUnit) =>
    match u.2.st with
    | .faulting r _ =>
      let a : Agent := { core := coreOf e.1, issuer := issuerOf e.1, slot := slotOf e.1, spall := u.1 }
      s.deliver (r &&& ~~~((1 : BitVec 512) <<< 188)) .none (a.place (.unit launch e.2.name u.1 0))
    | _ => s) s) s

/-- A fault ring as a reset leaves it: zero, with nothing open (R437). Records that were waiting are still written (R441). -/
def State.zeroRing (s : State) (ring : Nat) : State :=
  let mine (pa : Nat) : Bool := decide (ringBase ring ≤ pa) && decide (pa < ringBase ring + 0x8000)
  { s.modRing ring fun r => { r with open_ := [], counted := 0, head := 0, tail := 0, waited := 0, bad := false } with
    mem := s.mem.keep fun pa => !mine pa, poison := s.poison.filter fun n => !mine (n * 128) }.wakeLines fun n => mine (n * 128)

/-- A launch is gone at once, without saves and without its engine work (R397). -/
def State.discardLaunch (s : State) (launch : Nat) : State :=
  let mine := (s.blocksOf launch false).map (·.1)
  let s := (s.withdraw launch).releaseFaults launch
  let s := { s with
    crews := s.crews.filter fun e => e.2.launch != launch
    flights := s.flights.filter fun e => e.2.launch != launch
    traces := s.traces.filter fun t => t.launch != launch
    rings := s.rings.map fun (e : Nat × Ring) => (e.1, { e.2 with waiting := e.2.waiting.map (FaultRec.released launch) })
    notices := s.notices.filter fun e => match e.2 with | .adoption l _ => l != launch | .delivery l _ _ _ => l != launch
    softErrors := s.softErrors.filter fun e => !((e.1 == 1 || e.1 == 2) && match s.crews.get? e.2.1 with
      | some c => c.launch == launch | none => false)
    cores := s.cores.map fun (e : Nat × Core) => (e.1, { e.2 with
      queues := e.2.queues.map fun (q : Nat × List QItem) => (q.1, q.2.filter fun i => match i with
        | .hoist h => h.launch != launch
        | .task t => t.launch != launch)
      partials := e.2.partials.filter fun p => p.launch != launch
      port := e.2.port.map fun (q : Nat × List SpAccess) => (q.1, q.2.filter fun a =>
        !a.lanes.any fun l => match s.blocks.get? (blockKey e.1 l.bslot) with | some b => b.launch == launch | none => false)
      creditsUsed := if mine.any fun k => k / 16 == e.1 then [] else e.2.creditsUsed
      cand := e.2.cand.filter fun c => match s.crews.get? (32 * e.1 + c.1) with | some x => x.launch != launch | none => false }) }
  (mine.foldl (fun s k => s.releaseBlock k) s).finishLaunch launch stAborted

def State.discardPart (s : State) (p : Nat) : State :=
  ((s.launches.filter fun e => e.2.part == p).map (·.1)).foldl (fun s l => s.discardLaunch l) s

/-- PARTITION: a mask gives clusters that no partition has to a partition that is free; 0 frees it. -/
def execPartition (queue : Nat) (s : State) : Out :=
  .next (s.control queue (fun _ => true) 0x0D 2 [(32, 2), (36, 4)] fun _ p s =>
    let part := pkt p 32 1
    let mask := BitVec.ofNat 32 (pkt p 36 4)
    let clusters := (List.range 32).filter mask.getLsbD
    if 15 < part then .reject stLimit 32
    else if 15 < pkt p 33 1 then .reject stLimit 33
    else if mask != 0 then
      if (s.part? part).isSome then .reject stLimit 32
      else if s.parts.any (fun e => (e.2.clusters &&& mask) != 0) || clusters.any (fun n => (s.cluster n).shared) then .reject stLimit 36
      else
        let x : Part := { tenant := pkt p 33 1, clusters := mask, root1 := none, power := 1, resetting := false }
        let s := { s with parts := s.parts.put part x }
        .ok (clusters.foldl (fun s n => s.modCluster n fun c => { c with holder := some part, holders := [] }) s)
    else match s.part? part with
      | none => .reject stLimit 32
      | some x =>
        -- its clusters are given out again only after the wipe (R459)
        if x.resetting then .later
        else
        let s := (s.keysOfPart part).foldl (fun s k => s.discardKey k) (s.discardPart part)
        let s := ((s.queues.filter fun e => e.2.part == part).map (·.1)).foldl (fun s q =>
          let s := (s.voidRefs q).unmapQueue q
          { s with queues := s.queues.del q }) s
        .ok (State.mapQueues { s with
          parts := s.parts.del part
          tlb := s.tlb.filter fun t => t.part != part
          walks := s.walks.filter fun w => !(w.stage1 && w.owner == part)
          clusters := s.clusters.map fun (e : Nat × Cluster) => (e.1, { e.2 with
            holder := if e.2.holder = some part then none else e.2.holder
            holders := e.2.holders.filter (· != part)
            routines := e.2.routines.filter fun r => r.2.part != part || r.1 / 16 % 2 == 1 }) }))

/-- RESET.PART, with the purge of the routers (R397, R398): queues stop, launches end and their ABORTED completions are written, then key
slots are discarded; the wipe follows. While a line of a completion is held, the command does not start. -/
def execResetPart (queue : Nat) (s : State) : Out :=
  .next (s.control queue (fun _ => true) 0x0E 2 [(32, 1)] fun _ p s =>
    let part := pkt p 32 1
    match s.part? part with
    | none => .reject stLimit 32
    | some x =>
      let stop (q : Queue) : Queue :=
        if q.part = part then { q with stopped := true, current := none, ahead := [], unlanded := none } else q
      let launches := s.launches.filter fun e => e.2.part == part
      let s := ({ s with queues := s.queues.map fun (e : Nat × Queue) => (e.1, stop e.2) }).discardPart part
      let s := launches.foldl (fun s (e : Nat × Launch) => s.completeStarted e.2.queue e.2.packet) s
      if launches.any fun e => (match s.queues.get? e.2.queue with | some q => !q.writes.isEmpty && !q.paused | none => false) then .later
      else
      let s := ((s.queues.filter fun e => e.2.part == part).map (·.1)).foldl (fun s q => s.voidRefs q) s
      let s := (s.keysOfPart part).foldl (fun s k => s.discardKey k) s
      let mine (core : Nat) : Bool := (s.cluster (core / 4)).holder == some part
      let stays (r : BankReq) : Bool := r.part != part
      let freed := (s.banks.flatMap fun (e : Nat × Bank) => e.2.active.filter fun r => r.part == part).map (·.line)
      let s := freed.foldl (fun s n => s.setLine n { s.line n with locked := false }) s
      let s := s.zeroRing part
      .open_ { s with
        parts := s.parts.put part { x with resetting := true }
        probes := s.probes.filter fun e => e.2.part != part
        credits := s.credits.filter fun e => !mine e.2.target
        banks := s.banks.map fun (e : Nat × Bank) =>
          (e.1, { e.2 with inputs := e.2.inputs.filter stays, conflict := e.2.conflict.filter stays, active := e.2.active.filter stays }) })

/-- Wipes a core: everything but its gate value, its performance counters and its predictor (R459). -/
def Core.wiped (c : Core) : Core := { Core.reset with gate := c.gate, gateNew := c.gateNew, gateAt := c.gateAt, perf := c.perf, predictor := c.predictor }

/-- CLUSTER_WIPE: the wipe of a partition's clusters ends, and with it the reset (R459). -/
def execClusterWipe (part : Nat) (s : State) : Out :=
  .next (match s.part? part with
    | none => s
    | some x =>
      if !x.resetting then s
      else
        let mine (n : Nat) : Bool := (s.cluster n).holder == some part
        { s with
          parts := s.parts.put part { x with resetting := false }
          cores := s.cores.map fun (e : Nat × Core) => (e.1, if mine (e.1 / 4) then e.2.wiped else e.2)
          -- the other codes went with the blocks and the partials
          softErrors := s.softErrors.filter fun e => !(e.1 == 6 && mine (e.2.1 / 4))
          dir := s.dir.map fun (e : Nat × Line) => (e.1, match e.2.owner with
            | some n => if mine n then { e.2 with owner := none } else e.2
            | none => e.2)
          clusters := s.clusters.map fun (e : Nat × Cluster) => (e.1, if mine e.1 then { e.2.idle with pending := [] } else e.2) })

/-! ## SET.DEBUG (R396) -/

/-- Settings of SET.DEBUG that `what` selects, all at once. -/
def State.setDebug (s : State) (id : Nat) (p : BitVec 512) : State :=
  let what := pkt p 36 1
  let flags := pkt p 37 1
  let sel (n : Nat) : Bool := bits what n 1 == 1
  let s := s.modLaunch id fun l => { l with
    dbg := if sel 0 then bits flags 0 1 == 1 else l.dbg
    trace := if sel 1 then bits flags 1 1 == 1 else l.trace
    tbase := if sel 2 then BitVec.ofNat 64 (pkt p 40 8) else l.tbase
    tlen := if sel 2 then pkt p 48 4 else l.tlen
    tset := sel 2 || l.tset }
  let s := if sel 2 then (match s.launches.get? id with
    | some l => s.trace { launch := id, tenant := l.tenant, part := l.part, index := 0, block := 0, bslot := 0, crew := 0, unit := 0, pc := 0
                          base := pkt p 40 8, len := pkt p 48 4, ck := s.ck, value := none }
    | none => s) else s
  if sel 3 then
    let part := (s.partOfLaunch id).getD 0
    (s.coresOf part).foldl (fun s core => s.modCore core fun c => { c with perf := (List.range 8).map fun n =>
      (n, { event := bits (pkt p 52 4) (4 * n) 4, launch := id, count := 0 }) }) s
  else s

/-- SET.DEBUG whose lowest selected setting is `lowest`; one that selects nothing counts as 0. -/
def setDebugAt (lowest queue : Nat) (s : State) : Out :=
  let low (p : BitVec 512) : Nat := ((List.range 4).find? fun n => bits (pkt p 36 1) n 1 == 1).getD 0
  .next (s.control queue (fun p => low p == lowest) 0x0F 1 [(32, 6), (40, 16)] fun q p s =>
    let tbase := pkt p 40 8
    let tlen := pkt p 48 4
    s.namedLaunch q p (.reject stLimit 32) fun id _ =>
      if 15 < pkt p 36 1 then .reject stFormat 36
      else if 3 < pkt p 37 1 then .reject stFormat 37
      else if bits (pkt p 36 1) 2 1 = 1 ∧ tbase % 4096 ≠ 0 then .reject stLimit 40
      else if bits (pkt p 36 1) 2 1 = 1 ∧ (tlen % 4096 ≠ 0 ∨ tlen < 4096 ∨ 67108864 < tlen) then .reject stLimit 48
      else if bits (pkt p 36 1) 2 1 = 1 ∧ !q.grants tbase tlen true true false then .reject stCapability 40
      else .ok (s.setDebug id p))

/-- SET.DEBUG, debug access. -/
def execSetDebugAccess (queue : Nat) (s : State) : Out := setDebugAt 0 queue s
/-- SET.DEBUG, tracing. -/
def execSetDebugTracing (queue : Nat) (s : State) : Out := setDebugAt 1 queue s
/-- SET.DEBUG, trace buffer. -/
def execSetDebugTraceBuffer (queue : Nat) (s : State) : Out := setDebugAt 2 queue s
/-- SET.DEBUG, counters. -/
def execSetDebugCounters (queue : Nat) (s : State) : Out := setDebugAt 3 queue s

end Sys2Proof.Machine
end

