-- ==== Sys2Proof/Machine/Launching.lean ====
section
/-! DEFINITION. LAUNCH: the launch block, its checks, admission (R76, R80, R209, R218, R235, R373, R377 to R381, R394). Details name the
byte of a field's lowest bit, in the packet or, from 0x1000 on, in the launch block. -/

namespace Sys2Proof.Machine

/-! ## The launch block as read (R377 to R380) -/

/-- n bytes of the block from an offset. -/
def blockWord (data : List Byte) (off n : Nat) : Nat := leNat ((data.drop off).take n)

/-- The shape fields of a kernel or a bench, and their byte offsets: regs, bound, scratch, wlines, shape. -/
structure RegionAt where
  shape : Shape
  offs : List Nat
  deriving DecidableEq, Repr

def kernelRegion (v : Nat) : RegionAt :=
  { shape := { entry := bits v 128 32, regs := bits v 374 10, bound := bits v 365 9, crews := bits v 362 3 + 1, scratch := bits v 352 10,
               wlines := bits v 340 12, nx := bits v 256 10, ny := bits v 266 10, nz := bits v 276 10 }
    offs := [46, 45, 44, 42, 32] }

def benchRegion (at_ w : Nat) : RegionAt :=
  { shape := { entry := bits w 224 32, regs := bits w 184 10, bound := bits w 175 9, crews := bits w 172 3 + 1, scratch := bits w 162 10,
               wlines := bits w 150 12, nx := bits w 194 10, ny := bits w 204 10, nz := bits w 214 10 }
    offs := [at_ + 23, at_ + 21, at_ + 20, at_ + 18, at_ + 24] }

/-- Offsets of the fields that break the limits of R76 and R381. -/
def RegionAt.limits (r : RegionAt) : List Nat :=
  let d := r.shape
  let dims := [d.nx, d.ny, d.nz]
  let bad : List Bool :=
    [d.regs < 8 || 768 < d.regs || d.regs % 8 != 0,
     256 < d.bound || d.regs < d.bound || (d.regs - d.bound) % 128 != 0 || 512 < d.regs - d.bound,
     768 < d.scratch, 3072 < d.wlines,
     dims.any (fun n => n == 0 || decide (768 < n)) || d.nx * d.ny * d.nz != 96 * d.crews]
  (r.offs.zip bad).filterMap fun e => if e.2 then some e.1 else none

/-- The fields of a block, with the offsets at which a reserved bit or value stands (FORMAT) and those of values outside their limits. -/
structure Parsed where
  fixed : Nat
  groups : List (List GroupItem)
  chutes : List ChuteDecl
  benches : List (Nat × Bench)
  format : List Nat
  limits : List Nat

/-- Offsets where the bits [hi : lo] of a record at `at_` are not zero. -/
def reservedAt (at_ w : Nat) (rs : List (Nat × Nat)) : List Nat :=
  rs.filterMap fun r => if field w r.1 r.2 = 0 then none else some (at_ + r.2 / 8)

def limitAt (ok : Bool) (off : Nat) : List Nat := if ok then [] else [off]

/-- One group item (R378). -/
def parseItem (at_ w : Nat) : Option GroupItem × List Nat :=
  let f := reservedAt at_ w [(31, 2)]
  match bits w 0 2 with
  | 1 => (some { bitmap := false, lo := bits w 32 32, hi := bits w 64 32 }, f ++ reservedAt at_ w [(127, 96)])
  | 2 => (some { bitmap := true, lo := bits w 32 32, hi := bits w 64 64 }, f)
  | 3 => (none, f ++ [at_])
  | _ => (none, f)

/-- One chute declaration (R379). -/
def parseChute (at_ w : Nat) : ChuteDecl × List Nat × List Nat :=
  let d : ChuteDecl :=
    { index := bits w 0 6, cluster := bits w 8 1 == 1, producer := bits w 9 1 == 1, mc := bits w 10 1 == 1
      slots := bits w 20 6 + 1, kib := bits w 26 6 + 1, allow := (List.range 4).map fun c => bits w (100 + 7 * c) 7 }
  (d, reservedAt at_ w [(99, 32), (19, 11), (7, 6)],
    limitAt (!(d.mc && d.cluster) && (!d.producer || d.cluster)) (at_ + 1) ++ limitAt (d.allow.all fun a => decide (a ≤ d.slots)) (at_ + 12))

/-- One bench (R380); `decl` are the declared chutes. -/
def parseBench (at_ w codesz : Nat) (decl : List Nat) : Bench × List Nat × List Nat :=
  let r := benchRegion at_ w
  let n := bits w 283 5
  let b : Bench :=
    { shape := r.shape, inmask := BitVec.ofNat 64 (bits w 448 64), outmask := BitVec.ofNat 64 (bits w 384 64)
      persist := (List.range (min n 16)).map fun i => bits w (288 + 6 * i) 6
      share := bits w 128 8, mincores := bits w 120 8, maxcores := bits w 112 8, closing := false, stack := [] }
  let undeclared (m : BitVec 64) : Bool := (List.range 64).any fun i => m.getLsbD i && !decl.contains i
  (b, reservedAt at_ w [(282, 256), (149, 136), (111, 0)],
    r.limits ++ limitAt (decide (n ≤ 16)) (at_ + 35) ++ limitAt (b.persist.all fun p => decide (2 ≤ p) && decide (p ≤ 59)) (at_ + 36) ++
    limitAt (b.shape.entry % 32 == 0 && decide (b.shape.entry < codesz)) (at_ + 28) ++ limitAt (b.share != 0) (at_ + 16) ++
    limitAt (decide (1 ≤ b.mincores) && decide (b.mincores ≤ 128)) (at_ + 15) ++
    limitAt (decide (b.mincores ≤ b.maxcores) && decide (b.maxcores ≤ 128)) (at_ + 14) ++
    limitAt (!undeclared b.inmask) (at_ + 56) ++ limitAt (!undeclared b.outmask && (b.inmask &&& b.outmask) == 0) (at_ + 48))

/-- Byte offsets grpoff, choff, benchoff, paroff. -/
def arrayOffset (v i : Nat) : Nat := bits v (496 - 16 * i) 16

def groupCount (v : Nat) : Nat := bits v 439 9
def chuteCount (v : Nat) : Nat := bits v 432 7
def benchCount (v : Nat) : Nat := bits v 428 4
def paramBytes (v : Nat) : Nat := bits v 407 12

/-- The first array that does not lie inside the block's length: the byte of its offset field. -/
def arrayOutside (v len : Nat) : Option Nat :=
  let sizes := [128 * groupCount v, 16 * chuteCount v, 64 * benchCount v, paramBytes v]
  ((List.range 4).find? fun i => sizes.getD i 0 != 0 && decide (len < arrayOffset v i + sizes.getD i 0)).map fun i => 62 - 2 * i

/-- Limits of the fixed part. -/
def fixedLimits (v : Nat) : List Nat :=
  let codesz := bits v 160 32
  let trap := bits v 224 32
  limitAt (decide (groupCount v ≤ 256)) 54 ++ limitAt (benchCount v == 0 || groupCount v == 0) 54 ++ limitAt (decide (chuteCount v ≤ 64)) 54 ++
  limitAt (decide (benchCount v ≤ 8)) 53 ++
  limitAt (bits v 419 9 == 0 || (decide (2 ≤ bits v 419 9) && decide (bits v 419 9 ≤ 500))) 52 ++
  limitAt (decide (paramBytes v ≤ 4032)) 50 ++ ((List.range 4).flatMap fun i => limitAt (arrayOffset v i % 16 == 0) (62 - 2 * i)) ++
  limitAt (codesz % 32 == 0 && decide (32 ≤ codesz) && decide (codesz ≤ 16777216)) 20 ++
  limitAt (benchCount v != 0 || (bits v 128 32 % 32 == 0 && decide (bits v 128 32 < codesz))) 16 ++
  limitAt (trap == 0xFFFFFFFF || (trap % 4 == 0 && decide (trap < codesz))) 28 ++
  (if benchCount v = 0 then (kernelRegion v).limits ++ limitAt (bits v 288 32 != 0) 36 else [])

/-- The whole block. Its arrays lie inside it. -/
def parseBlock (data : List Byte) : Parsed :=
  let v := blockWord data 0 64
  let items := (List.range (groupCount v)).map fun g => (List.range 8).map fun j =>
    let at_ := arrayOffset v 0 + 128 * g + 16 * j
    parseItem at_ (blockWord data at_ 16)
  let chutes := (List.range (chuteCount v)).map fun i =>
    let at_ := arrayOffset v 1 + 16 * i
    (at_, parseChute at_ (blockWord data at_ 16))
  let decl := chutes.map fun c => c.2.1.index
  let twice := (chutes.zipIdx.filter fun c => (decl.take c.2).contains c.1.2.1.index).map fun c => c.1.1
  let benches := (List.range (benchCount v)).map fun i =>
    let at_ := arrayOffset v 2 + 64 * i
    (at_, parseBench at_ (blockWord data at_ 64) (bits v 160 32) decl)
  { fixed := v
    groups := items.map fun g => g.filterMap (·.1)
    chutes := chutes.map fun c => c.2.1
    benches := benches.map fun b => (b.1, b.2.1)
    format := reservedAt 0 v ([(402, 384), (339, 320), (287, 286)] ++ if benchCount v = 0 then [] else [(383, 256)]) ++
      (items.flatMap fun g => g.flatMap (·.2)) ++ (chutes.flatMap fun c => c.2.2.1) ++ benches.flatMap fun b => b.2.2.1
    limits := fixedLimits v ++ twice ++ (chutes.flatMap fun c => c.2.2.2) ++ benches.flatMap fun b => b.2.2.2 }

/-! ## Groups (R80, R205, R209) -/

/-- Ranges of crew indices that an entry's items name. -/
def GroupItem.spans (i : GroupItem) : List (Nat × Nat) :=
  if i.bitmap then (List.range 64).filterMap fun j => if i.hi.testBit j then some (i.lo + j, i.lo + j) else none else [(i.lo, i.hi)]

/-- Adds a range to disjoint ascending ranges, joining what it meets. -/
def addSpan (x : Nat × Nat) : List (Nat × Nat) → List (Nat × Nat)
  | [] => [x]
  | y :: ys =>
    if x.2 < y.1 then x :: y :: ys
    else if y.2 < x.1 then y :: addSpan x ys
    else addSpan (min x.1 y.1, max x.2 y.2) ys

/-- The crews of a launch of n crews in an entry, as disjoint ascending ranges. -/
def memberSpans (n : Nat) (g : List GroupItem) : List (Nat × Nat) :=
  ((g.flatMap GroupItem.spans).filter fun x => decide (x.1 ≤ x.2) && decide (x.1 < n)).foldl (fun acc x => addSpan (x.1, min x.2 (n - 1)) acc) []

def spanCount (xs : List (Nat × Nat)) : Nat := (xs.map fun x => x.2 + 1 - x.1).sum

/-- The lowest crew index that five entries hold (R80). -/
def groupFifth (gs : List (List (Nat × Nat))) : Option Nat :=
  ((gs.flatMap fun g => g.map (·.1)).filter fun p => decide (5 ≤ (gs.filter fun g => g.any fun x => decide (x.1 ≤ p) && decide (p ≤ x.2)).length)).min?

/-- Blocks that hold an entry's members. -/
def memberBlocks (crews : Nat) (xs : List (Nat × Nat)) : Nat :=
  spanCount (xs.foldl (fun acc x => addSpan (x.1 / crews, x.2 / crews) acc) [])

/-- Blocks of a shape that one empty core holds (R381, step 5). -/
def perCore (d : Shape) : Nat :=
  let q (a b : Nat) : Nat := if b = 0 then 16 else a / b
  min 16 (min (q 768 d.scratch) (min (q 3072 d.wlines) (q (4 * min 8 (q 768 d.regs)) d.crews)))

/-- The largest context of a block of a shape (R389; log 20). -/
def Shape.context (d : Shape) : Nat := 384 * d.regs * d.crews + 1024 * d.scratch + 256 * d.wlines + 393216

/-! ## Admission (R381) -/

/-- The launch that a block describes. -/
def launchOf (p : Parsed) (q : Queue) (pk : BitVec 512) (packetQueue : Nat) (xmap : List Byte) (gs : List (List (Nat × Nat))) : Launch :=
  let v := p.fixed
  let bench := benchCount v != 0
  { tenant := q.tenant, part := q.part, queue := packetQueue, packet := q.head, st := .waiting
    nblocks := bits v 288 32, nextBlock := 0, shape := (kernelRegion v).shape, trapoff := bits v 224 32
    imagetag := BitVec.ofNat 32 (bits v 192 32), codesz := bits v 160 32, code := BitVec.ofNat 64 (bits v 0 64), xmap := xmap
    paramAddr := BitVec.ofNat 64 (pkt pk 24 8 + arrayOffset v 3), parlen := paramBytes v
    swap := bits v 406 1 == 1, restart := bits v 405 1 == 1, trace := bits v 404 1 == 1, dbg := bits v 403 1 == 1
    tbase := 0, tlen := 0, tset := false
    groups := if bench then [] else (p.groups.zipIdx.filter fun g => !g.1.isEmpty).map fun g => (g.2, g.1)
    barriers := if bench then [] else
      ((p.groups.zip gs).zipIdx.filter fun g => !g.1.1.isEmpty).map fun g =>
        (g.2, { members := spanCount g.1.2, arrived := 0, leaving := 0, epoch := 0 })
    chutes := p.chutes, benches := p.benches.map (·.2), assign := [], moving := []
    rebal := if bits v 419 9 = 0 then 20 else bits v 419 9, nextRebal := 0
    saveAddr := BitVec.ofNat 64 (pkt pk 40 8), saveLen := pkt pk 48 8, saved := [], requeue := [], savedChutes := []
    savedChuteBlocks := [], chuteExtents := [], lifetimes := [], runSum := 0, runCount := 0 }

/-- Step 7: the chute blocks are placed and the launch runs, or it waits for an index (R218), or it is refused. -/
def State.accept (s : State) (launch : Nat) (l : Launch) : Except Nat State :=
  match s.chuteBusy l with
  | some _ => .ok { s with launches := s.launches.put launch l }
  | none =>
    let cores := s.coresOf l.part
    let l := { l with st := .running, assign := if l.benches.isEmpty then [] else l.firstAssign cores, nextRebal := s.ck + 1900 * l.rebal }
    let s := { s with launches := s.launches.put launch l }
    s.buildAll launch l cores

/-- Steps 2 to 6: the status and detail of the first failure. -/
def State.refuses (s : State) (p : Parsed) (q : Queue) (pk : BitVec 512) (gs : List (List (Nat × Nat))) : Option (Nat × Nat) :=
  let cores := (s.coresOf q.part).length
  let d := (kernelRegion p.fixed).shape
  let most := perCore d * cores
  let over_ := (p.benches.filter fun b => decide (cores < b.2.maxcores)).map fun b => b.1 + 14
  let largest := ((gs.map (memberBlocks d.crews)).max?).getD 0
  let shared := (s.clustersOf q.part).any fun n => (s.cluster n).shared
  let swap := bits p.fixed 406 1 == 1
  match p.format.min? with
  | some i => some (stFormat, 0x1000 + i)
  | none => match (p.limits ++ over_).min? with
    | some i => some (stLimit, 0x1000 + i)
    | none =>
      if !p.benches.isEmpty then
        if shared && decide (pkt pk 48 8 < 3276800 * cores) then some (stLimit, 48)
        else if decide (cores < (p.benches.map fun b => b.2.mincores).sum) then some (stBenchFit, 0) else none
      else if swap && decide (pkt pk 48 8 < (largest - most) * d.context) then some (stLimit, 48)
      else match groupFifth gs with
        | some i => some (stGroupFifth, i)
        | none => match if swap then none else gs.findIdx? fun g => decide (most < memberBlocks d.crews g) with
          | some g => some (stGroupResidency, g)
          | none => none

/-- The first reserved header bit or body byte of a LAUNCH that is not zero (R371, R372). -/
def launchStray (p : BitVec 512) : Option Nat :=
  if p.extractLsb' 34 6 != 0 then some 4 else strayByte p 24 [(24, 12), (40, 16)]

/-! ## The launch block, read ahead or at the start (R382) -/

/-- The launch block of a packet, and its map: as read ahead, or read now. Of a block that is too long what its offsets can reach is read, for
its capabilities and its reserved bits. -/
def State.blockBytes (s : State) (q : Queue) (pk : BitVec 512) : Except DevStop (List Byte × State) :=
  let len := pkt pk 32 4
  match q.ahead.get? q.head with
  | some a => if a.data.isEmpty then s.vread q.part (pkt pk 24 8) (min len 131072) else .ok (a.data, s)
  | none => s.vread q.part (pkt pk 24 8) (min len 131072)

/-- The first address field of a block that the window does not cover (R373): the byte that the detail names. -/
def Queue.blockOutside (q : Queue) (v len : Nat) : Option Nat :=
  match arrayOutside v len with
  | some i => some (0x1000 + i)
  | none =>
    if !q.grants (bits v 0 64) (bits v 160 32) false false true then some 0x1000
    else if !q.grants (bits v 64 64) ((bits v 160 32 + 255) / 256) false false true then some 0x1008
    else none

/-- Lines of an agent's read of a partition's memory, by virtual line; one that does not translate is left out. -/
def State.readLines (s : State) (part va n : Nat) (ex : Bool) : Table (List Byte) :=
  (linePieces va n).filterMap fun p =>
    match s.walk part (va + p.1) false ex with
    | .ok (x, _, _, s) =>
      if s.backed x.pa && !s.poisoned x.key x.pa && !s.lineHeld (x.pa / 128) none then
        some ((va + p.1) / 128, s.readBytes x.key (x.pa / 128 * 128) 128) else none
    | .error _ => none

/-- A packet that has been read ahead. A LAUNCH has its block read and checked through step 3 of R381, and then the first 64 KiB of its
image and its parameters. -/
def State.aheadOf (s : State) (q : Queue) (pk : BitVec 512) : Ahead :=
  let bare : Ahead := { packet := pk, data := [], xmap := [], code := [], params := [] }
  let addr := pkt pk 24 8
  let len := pkt pk 32 4
  if pktKind pk ≠ 1 ∨ len < 64 ∨ 65536 < len ∨ !q.grants addr len true false false then bare
  else match s.vread q.part addr len with
    | .error _ => bare
    | .ok (data, s) =>
      let v := blockWord data 0 64
      let read : Ahead := { bare with data := data }
      if (q.blockOutside v len).isSome then read
      else
        let p := parseBlock data
        if (launchStray pk).isSome || !p.format.isEmpty || !p.limits.isEmpty then read
        else match s.vread q.part (bits v 64 64) ((bits v 160 32 + 255) / 256) with
          | .error _ => read
          | .ok (xmap, s) =>
            { read with
              xmap := xmap, code := s.readLines q.part (bits v 0 64) (min (bits v 160 32) 65536) true
              params := s.readLines q.part (addr + arrayOffset v 3) (paramBytes v) false }

/-- Reads ahead from a packet index on, at most n packets. One that has not landed ends it; one whose line is held is tried again. -/
def State.lookAhead (s : State) (qid i : Nat) : Nat → State
  | 0 => s
  | n + 1 => match s.queues.get? qid with
    | none => s
    | some q =>
      if i = q.tail then s
      else if (q.ahead.get? i).isSome then s.lookAhead qid ((i + 1) % 2 ^ 32) n
      else match s.vread q.part (q.pbase.toNat + 64 * (i % q.entries)) 64 with
        | .error (.waits _) => s.modQueue qid fun x => { x with scan := true }
        | .error (.fault _ _) => s
        | .ok (bs, s) =>
          let p := BitVec.ofNat 512 (leNat bs)
          if pktSeq p ≠ i % 65536 then s
          else (s.modQueue qid fun x => { x with ahead := x.ahead.put i (s.aheadOf q p) }).lookAhead qid ((i + 1) % 2 ^ 32) n

/-- QUEUE_TAIL_WRITE: the complex reads the tail and the packet at head (R370), and up to 8 packets ahead whatever has come to stand there
(R382). -/
def execQueueTailWrite (queue : Nat) (s : State) : Out :=
  .next (
    let s := (s.leaveSlot queue).tailRead queue
    match s.queues.get? queue with
    | none => s
    | some q => if !q.scan || !s.served queue q then s else (s.modQueue queue fun x => { x with scan := false }).lookAhead queue q.head 9)

/-- An admitted launch finds what was read ahead in the caches of its partition's cores (R382). -/
def State.prefetched (s : State) (id : Nat) (l : Launch) (a : Ahead) : State :=
  let code := a.code.map fun (e : Nat × List Byte) =>
    ({ launch := id, vline := e.1, bytes := e.2, map := (List.range 4).map fun i => l.executable (e.1 * 128 + 32 * i) } : CodeLine)
  let params := a.params.map fun (e : Nat × List Byte) => ({ launch := id, vline := e.1, bytes := e.2 } : ConstLine)
  (s.coresOf l.part).foldl (fun s core => s.modCore core fun c =>
    { c with icache := (code ++ c.icache).take codeLines, ccache := (params ++ c.ccache).take constLines }) s

/-- LAUNCH (R372, R381): capabilities of the packet and of the block, reserved bits, limits, and the rest. -/
def execLaunch (queue : Nat) (s : State) : Out :=
  .next (s.runPacket queue (fun p => pktKind p == 1) 64 [] fun q pk s =>
    let addr := pkt pk 24 8
    let len := pkt pk 32 4
    if !q.grants addr len true false false then .reject stCapability 24
    else if pkt pk 48 8 != 0 && !q.grants (pkt pk 40 8) (pkt pk 48 8) true true false then .reject stCapability 40
    else match s.blockBytes q pk with
      | .error (.waits _) => .later
      | .error (.fault _ _) => .reject stCapability 24
      | .ok (data, s) =>
        let v := blockWord data 0 64
        match if len < 64 then none else q.blockOutside v len with
        | some i => .reject stCapability i
        | none => match launchStray pk with
          | some i => .reject stFormat i
          | none =>
            let p := parseBlock data
            if len < 64 then .reject stLimit 32
            else if 65536 < len then .reject (if p.format.isEmpty then stLimit else stFormat) (match p.format.min? with | some i => 0x1000 + i | none => 32)
            else
              let gs := p.groups.map (memberSpans (bits v 288 32 * (kernelRegion v).shape.crews))
              let ahead := (q.ahead.get? q.head).filter fun a => !a.xmap.isEmpty
              match s.refuses p q pk gs with
              | some (status, detail) => .reject status detail
              | none => match (match ahead with
                  | some a => .ok (a.xmap, s)
                  | none => s.vread q.part (bits v 64 64) ((bits v 160 32 + 255) / 256) : Except DevStop (List Byte × State)) with
                | .error (.waits _) => .later
                | .error (.fault _ _) => .reject stCapability 0x1008
                | .ok (xmap, s) =>
                  let id := s.nextLaunch
                  let l := launchOf p q pk queue xmap gs
                  match s.accept id l with
                  | .error i => .reject stChuteFit i
                  | .ok s =>
                    let s := match ahead with | some a => s.prefetched id l a | none => s
                    .open_ ({ s with nextLaunch := id + 1 }.modStarted queue q.head fun x => { x with launch := id }))

/-- ADMISSION_RESUME: the index that a launch waited for is free (R218). -/
def execAdmissionResume (launch : Nat) (s : State) : Out :=
  .next (match s.launches.get? launch with
    | none => s
    | some l =>
      if l.st != .waiting then s
      else match s.accept launch l with
        | .ok s => s
        | .error i => { s with launches := s.launches.del launch }.packetReady l.queue l.packet stChuteFit i)

end Sys2Proof.Machine
end

