-- ==== Sys2Proof/Machine/Checker.lean ====
section
/-! DEFINITION. The checker of policy routines (R409, R411, R416 to R418). -/

namespace Sys2Proof.Machine

/-! ## Check 2: words (R408, R409, R411) -/

def opOf (w : Word) : Nat := bits w.toNat 26 6
def dOf (w : Word) : Nat := bits w.toNat 22 4
def aOf (w : Word) : Nat := bits w.toNat 18 4
def bOf (w : Word) : Nat := bits w.toNat 14 4
def immOf (w : Word) : Nat := bits w.toNat 0 18

/-- Counter numbers that R408 lists. -/
def counterListed (n : Nat) : Bool :=
  [(0x000, 0x004), (0x008, 0x013), (0x018, 0x019), (0x020, 0x024), (0x030, 0x030), (0x040, 0x0FF), (0x100, 0x130), (0x140, 0x15F),
    (0x180, 0x207), (0x210, 0x216)].any fun r => decide (r.1 ≤ n) && decide (n ≤ r.2)

/-- Decision registers that a point takes in a layer, 1 for H (R409). -/
def setdOk (point layer n : Nat) : Bool :=
  let at_ : List Nat := match point with
    | 0 => [0, 1]
    | 1 => if layer = 1 then [4, 5] else [2, 3]
    | 2 => if layer = 1 then [4, 5] else []
    | 3 => [5, 6]
    | 4 => [0, 7]
    | 5 => [7, 8]
    | _ => [9, 10, 11, 12, 13, 14, 15, 16, 17]
  at_.contains n

/-- An assigned op, zero unused fields, in-range fields. -/
def wordOk (point layer : Nat) (w : Word) : Bool :=
  let op := opOf w
  let d := dOf w
  let a := aOf w
  let imm := immOf w
  if op = 0x00 ∨ op = 0x32 then d == 0 && a == 0 && imm == 0
  else if 0x01 ≤ op ∧ op ≤ 0x12 then imm % 2 ^ 14 == 0
  else if 0x14 ≤ op ∧ op ≤ 0x17 then true
  else if 0x18 ≤ op ∧ op ≤ 0x1A then decide (imm < 64)
  else if op = 0x1B ∨ op = 0x1C then a == 0
  else if 0x20 ≤ op ∧ op ≤ 0x23 then decide (imm < 2 ^ 16)
  else if op = 0x24 then a == 0 && decide (imm < 2 ^ 12) && counterListed imm
  else if op = 0x25 then decide (imm < 2 ^ 12)
  else if op = 0x26 then d == 0 && decide (imm < 32) && setdOk point layer imm
  else if 0x28 ≤ op ∧ op ≤ 0x2B then true
  else if op = 0x2C then d == 0 && a == 0
  else if op = 0x30 then d == 0 && a == 0 && decide (1 ≤ imm) && decide (imm ≤ 256)
  else if op = 0x31 then d == 0 && imm == 0
  else if op = 0x33 then a == 0 && imm == 0
  else false

/-- The cost of a word (R411). -/
def wordCost (w : Word) : Nat :=
  let op := opOf w
  if op = 0x03 then 2 else if op = 0x04 ∨ op = 0x05 then 24 else if 0x20 ≤ op ∧ op ≤ 0x23 then 12 else if op = 0x24 ∨ op = 0x25 then 4 else 1

def isLoop (w : Word) : Bool := opOf w == 0x30 || opOf w == 0x31
def isBranch (w : Word) : Bool := decide (0x28 ≤ opOf w) && decide (opOf w ≤ 0x2C)

/-- Offset of a branch, signed. -/
def branchOffset (w : Word) : Int := signed 18 (immOf w)

def wordAt (ws : List Word) (i : Nat) : Word := ws.getD i 0

/-! ## Check 3: structure -/

/-- What a pass over the words finds: the open loops, the loop whose body holds each word, the ENDL of each loop, offending words. -/
structure Layout where
  stack : List Nat
  body : List (Option Nat)
  ends : Table Nat
  bad : List Nat

def Layout.word (l : Layout) (i : Nat) (w : Word) : Layout :=
  let l := { l with body := l.body ++ [l.stack.head?] }
  if isLoop w then { l with stack := i :: l.stack, bad := if 2 ≤ l.stack.length then l.bad ++ [i] else l.bad }
  else if opOf w = 0x32 then
    match l.stack with
    | [] => { l with bad := l.bad ++ [i] }
    | x :: xs => { l with stack := xs, ends := l.ends.put x i }
  else l

def layoutOf (ws : List Word) : Layout := ws.zipIdx.foldl (fun l e => l.word e.2 e.1) ⟨[], [], [], []⟩

/-- A branch whose target is no word of the same innermost body. -/
def badBranch (ws : List Word) (l : Layout) (i : Nat) : Bool :=
  let w := wordAt ws i
  isBranch w &&
    (let o := branchOffset w
     let t := ((i : Int) + o).toNat
     decide (o < 1) || decide (ws.length ≤ t) || l.body.getD t none != l.body.getD i none)

def structureError (ws : List Word) (l : Layout) : Option Nat :=
  (l.bad ++ l.stack ++ (List.range ws.length).filter (badBranch ws l)).min?

/-! ## Check 4: reach (R417) -/

/-- The upper bounds of the sixteen registers; none for an unbounded one. -/
abbrev Bounds := List (Option Nat)

/-- The largest bounds of two paths; none for a path that does not exist. -/
def joinBounds : Option Bounds → Option Bounds → Option Bounds
  | none, y => y
  | x, none => x
  | some x, some y => some (List.zipWith (fun a b => match a, b with | some m, some n => some (max m n) | _, _ => none) x y)

/-- The bound that a write gives p[d]. -/
def writeBound (w : Word) (b : Bounds) (iter : Nat) : Option Nat :=
  let op := opOf w
  let imm := immOf w
  let ba := b.getD (aOf w) none
  let bb := b.getD (bOf w) none
  if op = 0x1B then (if imm < 2 ^ 17 then some imm else none)
  else if op = 0x15 then some imm
  else if op = 0x14 then (match ba with | some x => if imm < 2 ^ 17 then some (x + imm) else none | none => none)
  else if op = 0x18 then (match ba with | some x => if x * 2 ^ imm < 2 ^ 64 then some (x * 2 ^ imm) else none | none => none)
  else if op = 0x19 then (match ba with | some x => some (x / 2 ^ imm) | none => some (2 ^ (64 - imm) - 1))
  else if op = 0x0E ∨ op = 0x06 then
    (match ba, bb with | some x, some y => some (min x y) | some x, none => some x | none, y => y)
  else if op = 0x33 then some iter
  else none

/-- Operations that write p[d]. -/
def writesReg (w : Word) : Bool :=
  let op := opOf w
  (decide (0x01 ≤ op) && decide (op ≤ 0x1C)) || op == 0x20 || op == 0x21 || op == 0x24 || op == 0x25 || op == 0x33

def setBound (b : Bounds) (d : Nat) (v : Option Nat) : Bounds := b.set d v

/-- A window access that its bounds do not prove. -/
def unproved (w : Word) (b : Option Bounds) (wlen : Nat) : Bool :=
  let op := opOf w
  (decide (0x20 ≤ op) && decide (op ≤ 0x23)) &&
    (match b with
      | none => true
      | some b => match b.getD (aOf w) none with
        | none => true
        | some x => decide (wlen < x + immOf w + (if op = 0x20 ∨ op = 0x22 then 8 else 4)))

/-- A pass over part of a routine: bounds at the next word, bounds that reach later words by branches, where words are done again, and
the accesses that are not proved. -/
structure Flow where
  here : Option Bounds
  later : Table Bounds
  skip : Nat
  bad : List Nat

/-- What a loop at a word does to the bounds that enter it. -/
abbrev LoopRule := Nat → Option Bounds → Option Bounds × List Nat

/-- One word. -/
def Flow.word (loop : LoopRule) (ends : Table Nat) (iter wlen : Nat) (f : Flow) (i : Nat) (w : Word) : Flow :=
  if i < f.skip then f
  else
    let here := joinBounds f.here (f.later.get? i)
    if isLoop w then
      let r := loop i here
      { f with here := r.1, skip := ends.getD i i + 1, bad := f.bad ++ r.2 }
    else
      let bad := if unproved w here wlen then f.bad ++ [i] else f.bad
      match here with
      | none => { f with here := none, bad := bad }
      | some b =>
        if opOf w = 0x00 then { f with here := none, bad := bad }
        else if isBranch w then
          let t := ((i : Int) + branchOffset w).toNat
          { f with
            later := match joinBounds (f.later.get? t) (some b) with | some x => f.later.put t x | none => f.later
            here := if opOf w = 0x2C then none else some b, bad := bad }
        else if writesReg w then { f with here := some (setBound b (dOf w) (writeBound w b iter)), bad := bad }
        else { f with here := some b, bad := bad }

/-- The words lo to hi - 1 from given bounds: the bounds after them, and the accesses not proved. -/
def flow (loop : LoopRule) (ws : List Word) (ends : Table Nat) (iter wlen lo hi : Nat) (b : Option Bounds) : Option Bounds × List Nat :=
  let f := ((List.range (hi - lo)).map (lo + ·)).foldl (fun f i => Flow.word loop ends iter wlen f i (wordAt ws i)) ⟨b, [], 0, []⟩
  (f.here, f.bad)

/-- Bounds at a loop's first body word: at most `passes` passes over the body; a bound that the last of them has still raised is
unbounded. -/
def settle (body : Option Bounds → Option Bounds) (entry : Option Bounds) : Nat → Option Bounds → Option Bounds
  | 0, b => b
  | p + 1, b =>
    let b' := joinBounds entry (body b)
    if b' = b then b
    else if p = 0 then (match b', b with
      | some x, some y => some (List.zipWith (fun m n => if m = n then m else none) x y)
      | x, _ => x)
    else settle body entry p b'

/-- The rule of a loop whose body's own loops follow `inner`. -/
def loopRule (inner : LoopRule) (ws : List Word) (ends : Table Nat) (wlen : Nat) : LoopRule := fun i entry =>
  let w := wordAt ws i
  let hi := ends.getD i i + 1
  let iter := if opOf w = 0x30 then immOf w - 1 else 255
  match entry with
  | none => flow inner ws ends iter wlen (i + 1) hi none
  | some _ =>
    let first := settle (fun b => (flow inner ws ends iter wlen (i + 1) hi b).1) entry 3 entry
    let out := flow inner ws ends iter wlen (i + 1) hi first
    (if opOf w = 0x30 then out.1 else joinBounds entry out.1, out.2)

/-- Accesses of a routine that are not proved; loops are nested at most two deep. -/
def unprovedIn (ws : List Word) (ends : Table Nat) (wlen : Nat) : List Nat :=
  let deepest : LoopRule := fun _ b => (b, [])
  let nested := loopRule (loopRule deepest ws ends wlen) ws ends wlen
  (flow nested ws ends 0 wlen 0 ws.length (some (List.replicate 16 (some 0)))).2

/-! ## Check 5: cycles (R418) -/

/-- The word at which the running sum passes the allowance. -/
def overCycles (allowance : Nat) : List Word → Nat → List Nat → Nat → Option Nat
  | [], _, _, _ => none
  | w :: ws, i, counts, sum =>
    let sum := sum + wordCost w * counts.prod
    if allowance < sum then some i
    else overCycles allowance ws (i + 1)
      (if opOf w = 0x30 then immOf w :: counts else if opOf w = 0x31 then 256 :: counts else if opOf w = 0x32 then counts.tail else counts) sum

/-- The byte offset that a POLICY completion names, or none where the routine passes (R416). -/
def checkRoutine (ws : List Word) (point layer wlen allowance : Nat) : Option Nat :=
  if ws.length = 0 ∨ 1024 < ws.length then some (4 * ws.length)
  else match (List.range ws.length).find? fun i => !wordOk point layer (wordAt ws i) with
    | some i => some (4 * i)
    | none =>
      let l := layoutOf ws
      match structureError ws l with
      | some i => some (4 * i)
      | none => match (unprovedIn ws l.ends wlen).min? with
        | some i => some (4 * i)
        | none => (overCycles allowance ws 0 [] 0).map (4 * ·)

end Sys2Proof.Machine
end

