-- ==== Sys2Proof/Machine/Tenants.lean ====
section
/-! DEFINITION. POLICY.LOAD: routines, budgets, shared clusters, parameters (R394, R400, R405, R414 to R416, R427), and the charging of
budgets (R399 to R404). -/

namespace Sys2Proof.Machine

/-! ## Budgets (R399 to R404) -/

/-- What a tenant at or below zero may draw from the pool now (R402). -/
def Tenant.mayDraw (t : Tenant) (pool : Int) : Int := min pool (min (max 1 ((t.rate / 8 : Nat) : Int)) ((t.bcap : Int) - (t.debt : Int)))

/-- exh as the record stands (R403): a tenant stops being exhausted only when its level is above zero. -/
def Tenant.exhaustedNow (t : Tenant) (pool : Int) : Bool :=
  t.enf && decide (t.level ≤ 0) && (t.exh || decide (t.mayDraw pool ≤ 0))

/-- Sets exh of every tenant that has a record; queues of exhausted tenants are unmapped, between packets (R385, R403). -/
def State.settleBudgets (s : State) : State :=
  let s := { s with tenants := s.tenants.map fun (e : Nat × Tenant) => (e.1, { e.2 with exh := e.2.exhaustedNow s.pool }) }
  let out := (s.queues.filter fun e => e.2.slot.isSome && e.2.between && (s.tenant e.2.tenant).exh).map (·.1)
  out.foldl (fun s q => s.unmapQueue q) s

/-- A tenant's level after a charge: it clamps and never wraps (R400). -/
def clampLevel (x : Int) : Int := max x (-(2 ^ 47))

/-- Crew slots that the crews of a tenant's partitions hold (R399). -/
def State.crewsHeld (s : State) (t : Nat) : Nat := (s.crews.filter fun e => s.tenantOf e.2 == t).length

/-- One tenant draws (R402). -/
def State.draw (s : State) (n : Nat) : State :=
  let t := s.tenant n
  if !t.enf || decide (0 < t.level) then s
  else
    let q := t.mayDraw s.pool
    if q ≤ 0 then s
    else { s.modTenant n (fun t => { t with level := t.level + q, debt := t.debt + q.toNat }) with pool := s.pool - q }

/-- One crew-cycle in this ck for each crew slot that an enforced tenant's crews hold (R399). -/
def State.useCycles (s : State) : State :=
  { s with tenants := s.tenants.map fun (e : Nat × Tenant) => (e.1, if e.2.enf then { e.2 with used := e.2.used + s.crewsHeld e.1 } else e.2) }

/-- BUDGET_CHARGE, with the draws of R402: the crew-cycles of the last 64 ck in one amount (R399). -/
def execBudgetCharge (s : State) : Out :=
  .next (if s.ck < s.nextCharge then s
    else
      let free := s.queues.filter fun e => e.2.slot.isNone
      let before := s.tenants.any fun e => e.2.exh
      let s := (List.range 16).foldl (fun s n =>
        if (s.tenant n).enf then s.modTenant n fun t => { t with level := clampLevel (t.level - (t.used : Int)) } else s) s
      let s := { s with tenants := s.tenants.map fun (e : Nat × Tenant) => (e.1, { e.2 with used := 0 }) }
      let s := ((List.range 16).foldl State.draw { s with nextCharge := s.nextCharge + 64 }).settleBudgets
      if before || (s.queues.filter fun e => e.2.slot.isNone).length != free.length then s.mapQueues else s)

/-- Repayment and refill of one tenant (R401). -/
def State.refill (s : State) (n : Nat) : State :=
  let t := s.tenant n
  if !t.enf then s
  else
    let pay := min t.debt t.rate
    let level := t.level + ((t.rate - pay : Nat) : Int)
    { s.modTenant n (fun t => { t with debt := t.debt - pay, level := min level t.cap }) with
      pool := s.pool + max 0 (level - t.cap) }

/-- BUDGET_PERIOD, with the mapping of queues (R401, R404). -/
def execBudgetPeriod (s : State) : Out :=
  .next (if s.ck < s.nextPeriod then s
    else ((List.range 16).foldl State.refill { s with pool := 0, nextPeriod := s.nextPeriod + 1900 * s.period }).settleBudgets.mapQueues)

/-! ## Routines (R414 to R416) -/

/-- The window of a routine: its physical address. -/
def State.policyWindow (s : State) (q : Queue) (layer part wva wlen : Nat) : Option (Nat × State) :=
  if layer = 1 then
    if inMailbox wva && inMailbox (wva + wlen - 1) && homeDie wva == homeDie (wva + wlen - 1) && !inDeviceRegion wva &&
        !inDeviceRegion (wva + wlen - 1) then some (wva, s) else none
  else if !q.grants wva wlen true true false then none
  else match s.walk part wva true false with
    | .error _ => none
    | .ok (x, _, _, s) => (linePieces wva wlen).foldl (fun (acc : Option (Nat × State)) p => match acc with
      | none => none
      | some (pa, s) => match s.walk part (wva + p.1) true false with
        | .error _ => none
        | .ok (y, _, _, s) => if y.pa = pa + p.1 && inMailbox y.pa && !inDeviceRegion y.pa then some (pa, s) else none) (some (x.pa, s))

/-- A routine on a cluster's engine, or none; its overruns count from here. -/
def State.setRoutine (s : State) (key : Nat) (r : Option Routine) (n : Nat) : State :=
  s.modCluster n fun c => { c with routines := c.routines.set key r, overruns := c.overruns.del key }

/-- Engines of a layer's routine (R405, R415). -/
def State.enginesOf (s : State) (layer part : Nat) : List Nat := if layer = 1 then List.range 32 else s.clustersOf part

/-- The checks that LOAD and UNLOAD share: layer, priv, partition, point. -/
def State.policyTarget (s : State) (q : Queue) (p : BitVec 512) (body : Nat → Nat → Nat → Answer) : Answer :=
  let point := pkt p 25 1
  let layer := pkt p 26 1
  let part := pkt p 27 1
  if 1 < layer then .reject stLimit 26
  else if q.priv < 1 + layer then .reject stDenied 24
  else if layer = 1 ∧ part ≠ 0 then .reject stFormat 27
  else if 6 < point then .reject stLimit 25
  else if layer = 1 ∧ point ≠ 1 ∧ point ≠ 2 ∧ point ≠ 5 then .reject stLimit 26
  else if layer = 1 then body point layer 0
  else match s.part? part with
    | none => .reject stLimit 27
    | some x => if x.tenant ≠ q.tenant then .reject stCapability 27 else body point layer part

/-- POLICY.LOAD, operation LOAD. -/
def execPolicyLoad (queue : Nat) (s : State) : Out :=
  .next (s.runPacket queue (fun p => pktKind p == 5 && pkt p 24 1 == 0) 24 [(24, 4), (32, 24)] fun q p s =>
    s.policyTarget q p fun point layer part =>
      let n := pkt p 40 2
      let allowance := if pkt p 42 2 = 0 then 2000 else pkt p 42 2
      let wva := pkt p 44 8
      let wlen := pkt p 52 4
      let alim := match s.part? part with | some x => (s.tenant x.tenant).alim | none => 0
      if wva % 64 ≠ 0 then .reject stLimit 44
      else if wlen % 8 ≠ 0 ∨ wlen < 8 ∨ 65536 < wlen then .reject stLimit 52
      else if layer = 0 ∧ alim < allowance then .reject stLimit 42
      else if !q.grants (pkt p 32 8) (4 * n) true false false then .reject stCapability 32
      else match s.policyWindow q layer part wva wlen with
        | none => .reject stCapability 44
        | some (wpa, s) => if n = 0 ∨ 1024 < n then .reject stPolicy (4 * n) else match s.vread q.part (pkt p 32 8) (4 * n) with
          | .error (.waits _) => .later
          | .error (.fault _ _) => .reject stCapability 32
          | .ok (bs, s) =>
            let ws := (List.range n).map fun i => BitVec.ofNat 32 (leNat ((bs.drop (4 * i)).take 4))
            match checkRoutine ws point layer wlen allowance with
            | some d => .reject stPolicy d
            | none =>
              let r : Routine := { words := ws, wbase := wpa, wlen := wlen, allowance := allowance, part := part }
              .ok ((s.enginesOf layer part).foldl (fun s n => s.setRoutine (routineKey point layer part) (some r) n) s))

/-- POLICY.LOAD, operation UNLOAD: the point takes its default decision. -/
def execPolicyUnload (queue : Nat) (s : State) : Out :=
  .next (s.runPacket queue (fun p => pktKind p == 5 && pkt p 24 1 == 1) 24 [(24, 4)] fun q p s =>
    s.policyTarget q p fun point layer part =>
      .ok ((s.enginesOf layer part).foldl (fun s n => s.setRoutine (routineKey point layer part) none n) s))

/-- POLICY.LOAD, operation BUDGET (R400). -/
def execBudget (queue : Nat) (s : State) : Out :=
  .next (s.runPacket queue (fun p => pktKind p == 5 && pkt p 24 1 == 2) 24 [(24, 3), (32, 26)] fun q p s =>
    let big (off : Nat) : Bool := decide (2 ^ 40 ≤ pkt p off 8)
    if q.priv < 2 then .reject stDenied 24
    else if 15 < pkt p 25 1 then .reject stLimit 25
    else if 1 < pkt p 26 1 then .reject stLimit 26
    else if big 32 then .reject stLimit 32
    else if big 40 then .reject stLimit 40
    else if big 48 then .reject stLimit 48
    else if pkt p 56 2 < 64 ∨ 16384 < pkt p 56 2 then .reject stLimit 56
    else
      let s := s.modTenant (pkt p 25 1) fun t => { t with
        enf := pkt p 26 1 == 1, rate := pkt p 32 8, cap := pkt p 40 8, bcap := pkt p 48 8, alim := pkt p 56 2 }
      .ok s.settleBudgets.mapQueues)

/-! ## Shared clusters (R405) -/

/-- The routine that a partition has loaded under a key, on any of its engines. -/
def State.loadedRoutine (s : State) (part key : Nat) : Option Routine :=
  (s.clustersOf part).findSome? fun n => (s.cluster n).routines.get? key

/-- Keys of a partition's layer T routines. -/
def routineKeys (part : Nat) : List Nat := (List.range 7).map fun k => routineKey k 0 part

/-- Makes a list the holder set of a cluster (R405). An empty one leaves the cluster to its holder. A partition whose cluster it no longer is
loses its routines there; a holder that the list leaves out gives way to the first that it names (log 30). -/
def State.setHolders (s : State) (n : Nat) (xs : List Nat) : State :=
  let old := (List.range 16).filter fun p => s.clusterOfPart n p
  let fresh := xs.filter fun p => !old.contains p
  let gains := fresh.flatMap fun p => (routineKeys p).filterMap fun k => (s.loadedRoutine p k).map fun r => (k, r)
  let s := s.modCluster n fun c => { c with
    holders := xs
    servedSince := (xs.filter fun p => !c.holders.contains p).foldl (fun t p => Table.put t p s.ck) c.servedSince }
  let s := if xs.isEmpty then (match (s.cluster n).holder with
      | none => s
      | some h => { s with parts := s.parts.map fun (e : Nat × Part) => (e.1,
          { e.2 with clusters := if e.1 = h then e.2.clusters ||| (1 <<< n) else e.2.clusters &&& ~~~((1 : BitVec 32) <<< n) }) })
    else s
  let lost := (List.range 16).filter fun p => !s.clusterOfPart n p
  let s := lost.foldl (fun s p => (routineKeys p).foldl (fun s k => s.setRoutine k none n) s) s
  let s := gains.foldl (fun s g => s.setRoutine g.1 (some g.2) n) s
  -- a change towards a partition that the list leaves out is called off, or redirected
  let keeps := match (s.cluster n).holder with | some h => xs.isEmpty || xs.contains h | none => xs.isEmpty
  match xs, (s.cluster n).change with
  | _, some (q, _) =>
    if xs.contains q then s
    else if keeps then s.cancelChange n
    else s.modCluster n fun c => { c with change := xs.head?.map fun x => (x, false) }
  | x :: _, none => if keeps then s else s.changeHolder n x 76000 false
  | [], none => s

/-- POLICY.LOAD, operation SHARE. -/
def execShare (queue : Nat) (s : State) : Out :=
  .next (s.runPacket queue (fun p => pktKind p == 5 && pkt p 24 1 == 3) 24 [(24, 2), (32, 4)] fun q p s =>
    let n := pkt p 25 1
    let raw := (List.range 4).map fun i => pkt p (32 + i) 1
    let bad := (List.range 4).find? fun i =>
      let x := raw.getD i 0
      x != 0xFF && ((s.part? x).isNone || (raw.take i).contains x)
    let xs := raw.filter (· != 0xFF)
    if q.priv < 2 then .reject stDenied 24
    else if 31 < n ∨ (s.cluster n).holder.isNone then .reject stLimit 25
    else match bad with
      | some i => .reject stLimit (32 + i)
      | none =>
        let s := s.setHolders n xs
        let small := s.launches.any fun e => xs.contains e.2.part && !e.2.benches.isEmpty &&
          decide (e.2.saveLen < 3276800 * (s.coresOf e.2.part).length)
        if small then .reject stLimit 32 else .ok s)

/-- POLICY.LOAD, operation PARAM (R401, R427). -/
def execParam (queue : Nat) (s : State) : Out :=
  .next (s.runPacket queue (fun p => pktKind p == 5 && pkt p 24 1 == 4) 24 [(24, 1), (32, 12)] fun q p s =>
    let floor := pkt p 32 8
    let period := pkt p 40 4
    if q.priv < 2 then .reject stDenied 24
    else if floor < 100000 ∨ 10000000 < floor then .reject stLimit 32
    else if period < 10 ∨ 10000 < period then .reject stLimit 40
    else .ok { s with floor := floor, period := period })

end Sys2Proof.Machine
end

