-- ==== Sys2Proof/Machine/Rings.lean ====
section
/-! DEFINITION. Fault rings and dispositions (R437 to R441, R481), storage errors (R442 to R446). -/

namespace Sys2Proof.Machine

/-! ## Writing records (R437, R438) -/

def ringRecords : Nat := 511

/-- Physical address of record i. -/
def recordAt (ring i : Nat) : Nat := ringBase ring + 64 + 64 * (i % ringRecords)

/-- The lines of a ring can be written: none is held, and their banks take what the device gives them (R333, R346). -/
def State.ringOpen (s : State) (pas : List Nat) : Bool :=
  pas.all fun pa => !s.lineHeld (pa / 128) none && s.deviceTakes (bankOf pa)

/-- The device writes bytes of one line of mailbox SRAM at system scope. -/
def State.ringWrite (s : State) (pa n v : Nat) : State :=
  let s := (s.deviceTook (bankOf pa)).homeLine (pa / 128)
  { s with mem := s.mem.storeBytes pa (leBytes n v) }.wakeLine (pa / 128)

/-- Counts the records that wait for room. -/
def State.countWaiting (s : State) (ring : Nat) : State :=
  let r := s.ring ring
  let waited := (r.waited + (r.waiting.length - r.counted)) % 2 ^ 32
  (s.modRing ring fun r => { r with waited := waited, counted := r.waiting.length }).ringWrite (ringBase ring + 8) 4 waited

/-- A fault of a unit, detected in the ck of the record and before it in order, whose own record waits for the unit's results (R432, R438). -/
def State.faultAhead (s : State) (ring : Nat) (x : FaultRec) : Bool :=
  s.crews.any fun (e : Nat × Crew) => e.2.units.any fun u => match u.2.st with
    | .faulting r _ =>
      let rings := if (r.extractLsb' 246 2).toNat = 2 then [hypervisorRing]
        else (r.extractLsb' 196 4).toNat :: (if copiedCode (r.extractLsb' 248 8).toNat then [hypervisorRing] else [])
      rings.contains ring && (r.extractLsb' 64 64).toNat == x.time &&
        decide (Agent.place { core := coreOf e.1, issuer := issuerOf e.1, slot := slotOf e.1, spall := u.1 } (.unit 0 e.2.name 0 0) < x.place)
    | _ => false

/-- FAULT_RECORD_WRITE: the first waiting record is written, then the tail that covers it, once the ck of its fault has passed and no other of
that ck comes before it; in a full ring the records wait. -/
def execFaultRecordWrite (ring : Nat) (s : State) : Out :=
  .next (
    let r := s.ring ring
    match r.waiting with
    | [] => s
    | x :: rest =>
      if 16 < ring ∨ s.boot ≠ .running ∨ s.ck ≤ x.time ∨ s.faultAhead ring x then s
      else if since32 r.tail r.head = ringRecords then (if r.counted = r.waiting.length || !s.ringOpen [ringBase ring] then s else s.countWaiting ring)
      else
        let pa := recordAt ring r.tail
        if !s.ringOpen [pa, ringBase ring] then s
        else
          let record := x.record ||| BitVec.ofNat 512 (placeField (r.tail % 65536) 160)
          let tail := (r.tail + 1) % 2 ^ 32
          let s := (s.ringWrite pa 64 record.toNat).ringWrite (ringBase ring + 4) 4 tail
          s.modRing ring fun r => { r with
            waiting := rest, counted := r.counted - 1, open_ := r.open_ ++ [{ x with record := record }], tail := tail })

/-! ## Dispositions (R439 to R441, R481) -/

/-- A held unit goes on, or is skipped past its instruction; none where it is not held. -/
def CrewUnit.answered (h : CrewUnit) (disp : Nat) (restartable : Bool) : CrewUnit :=
  match h.st with
  | .held x =>
    if restartable then { h with st := .ready }
    else if x.dbg ≠ .none then { h with st := .ready, debugSkip := x.dbg == .code }
    else if x.cause = Cause.flag.code then { h with st := .ready }
    else if disp = 2 then { h with st := .ready, pc := skipTail (h.pc + BitVec.ofNat 64 x.length), origin := h.pc }
    else h
  | _ => h

/-- The hold of a unit, wherever its crew is. -/
def State.holdOf (s : State) (launch : Nat) (n : CrewName) (spall : Nat) : Option Hold :=
  let crew : Option Crew := match s.findCrew launch n with
    | some k => s.crews.get? k
    | none => match s.launches.get? launch with
      | some l => l.saved.findSome? fun v => v.2.crews.find? fun c => c.name == n
      | none => none
  match crew with
  | none => none
  | some c => match c.units.get? spall with
    | some h => (match h.st with | .held x => some x | _ => none)
    | none => none

/-- A disposition of a unit's record, which answers the hold it was formed for and no later one (R441). -/
def State.answerUnit (s : State) (launch : Nat) (n : CrewName) (spall serial : Nat) (restartable : Bool) (disp : Nat) : State :=
  match s.holdOf launch n spall with
  | none => s
  | some x =>
    if x.serial ≠ serial then s else
    let end_ := decide (3 ≤ disp) || (!restartable && (decide (disp ≤ 1) || (x.length == 0 && x.dbg == .none)))
    if end_ then s.abortLaunch launch
    else s.reachCrew launch n fun c =>
      let c := if x.cause = Cause.flag.code then { c with fflags := c.fflags &&& ~~~c.fenable } else c
      let c := c.modUnit spall fun h => h.answered disp restartable
      if x.capsule then c.resumeCapsule else c

/-- A held hoist goes on at its cursor. -/
def releaseHoist (launch : Nat) (n : CrewName) (id : Nat) (qs : Table (List QItem)) : Table (List QItem) :=
  qs.map fun (e : Nat × List QItem) => (e.1, e.2.map fun i => match i with
    | .hoist h => if h.launch = launch ∧ h.name = n ∧ h.id = id then .hoist { h with held := false } else .hoist h
    | .task t => .task t)

/-- A disposition of a hoist's record (R263). -/
def State.answerHoist (s : State) (launch : Nat) (n : CrewName) (id : Nat) (restartable : Bool) (disp : Nat) : State :=
  if 3 ≤ disp ∨ !restartable then s.abortLaunch launch
  else
    let s := { s with cores := s.cores.map fun (e : Nat × Core) => (e.1, { e.2 with queues := releaseHoist launch n id e.2.queues }) }
    s.modLaunch launch fun l => l.mapSaved fun _ v => { v with queues := releaseHoist launch n id v.queues }

/-- A disposition of a complex's write (R481): it is repeated, or abandoned. -/
def State.answerQueue (s : State) (q disp : Nat) : State :=
  (s.modQueue q fun x => { x with paused := false, writes := if 3 ≤ disp then x.writes.tail else x.writes }).flushWrites q

/-- One record's disposition. -/
def State.answer (s : State) (r : FaultRec) (disp : Nat) : State :=
  match r.target with
  | .unit launch n spall serial => s.answerUnit launch n spall serial r.restartable disp
  | .hoist launch n id => if (s.launches.get? launch).isNone then s else s.answerHoist launch n id r.restartable disp
  | .queue q => s.answerQueue q disp
  | .port id => match s.portHeld.get? id with
    | some h => { s with portHeld := s.portHeld.put id { h with told := false } }
    | none => s
  | .launch l => if disp = 2 then s else s.abortLaunch l
  | .none => s

/-- The complex's load of a line of a ring finds it poisoned (R337, R444). -/
def State.ringError (s : State) (ring pa : Nat) : State :=
  let part := if ring < 16 then ring else 0
  let tenant := match s.part? part with | some x => x.tenant | none => 0
  let t : Trap := { cause := .memoryError, addr := pa, detail := s.errorCode pa }
  let a : Agent := { part := part, tenant := tenant }
  if ring < 16 then s.report a t false .none else s.log hypervisorRing a t

/-- Applies the dispositions of records that head passes, in ring order; each is the low byte of its record in memory, which a poisoned line
leaves open (log 14). -/
def State.answerAll (s : State) (ring : Nat) : List FaultRec → Nat → State
  | [], _ => s
  | r :: rs, i =>
    let pa := recordAt ring i
    let s := if s.poisoned 0 pa then
        ({ s with fresh := s.fresh + 1 }.ringError ring pa).answer r ((Config.freeDword s.fresh).toNat % 256)
      else s.answer r (s.readByte 0 pa).toNat
    s.answerAll ring rs ((i + 1) % 2 ^ 32)

/-- FAULT_RING_HEAD (R439): a head that moves back, or past tail, is ignored. A poisoned line gives no head, and is reported once (R444). -/
def execFaultRingHead (ring : Nat) (s : State) : Out :=
  .next (
    let r := s.ring ring
    let head := leNat (s.readBytes 0 (ringBase ring) 4)
    let n := since32 head r.head
    if s.poisoned 0 (ringBase ring) then
      if r.bad ∨ 16 < ring ∨ s.boot ≠ .running then s
      else (s.modRing ring fun r => { r with bad := true }).ringError ring (ringBase ring)
    else
    let s := if r.bad then s.modRing ring fun r => { r with bad := false } else s
    if 16 < ring ∨ s.boot ≠ .running ∨ n = 0 ∨ since32 r.tail r.head < n then s
    else (s.modRing ring fun r => { r with head := head, open_ := r.open_.drop n }).answerAll ring (r.open_.take n) r.head)

/-! ## Storage errors (R442 to R446) -/

/-- A correction on a die (R442). -/
def State.corrected (s : State) (die : Nat) : State := { s with eccCount := s.eccCount.put die (s.eccCount.getD die 0 + 1) }

/-- ECC_CORRECTION. -/
def execEccCorrection (die : Nat) (s : State) : Out := .next (if die < 4 then s.corrected die else s)

/-- A line loses its data where the structure code says (R337, R444, R445). -/
def State.poisonLine (s : State) (code line : Nat) : State :=
  { s with
    poison := if s.poison.contains line then s.poison else s.poison ++ [line]
    poisonIn := if code = 7 ∨ code = 8 then s.poisonIn.put line code else s.poisonIn.del line }

/-- The word of a soft error exists: a lane of a crew's register, a scratchpad or weight word of a block, an entry of a core's tables. -/
def State.softWord (s : State) (code owner index : Nat) : Bool :=
  match code with
  | 1 => (s.crews.get? owner).isSome && decide (index < 2 ^ 15) && decide (index % 128 < 96)
  | 2 => (s.crews.get? owner).isSome && (if index < 2 ^ 13 then index % 128 == 0 else decide (index < 2 ^ 14) && decide (index % 128 < 96))
  | 3 | 4 => (s.blocks.get? owner).isSome
  | 6 => decide (owner < 128)
  | _ => false

/-- A partial's word fails: owner twice the core plus the queue, index 2^14 times the place among the queue's partials plus 128 times the row
plus the column. -/
def State.softPartial (s : State) (owner index : Nat) : State :=
  let core := owner / 2
  let mine := (s.core core).partials.filter fun p => p.queue == owner % 2
  match mine[index / 2 ^ 14]? with
  | none => s
  | some p =>
    let n := index % 2 ^ 14
    if 96 ≤ n / 128 ∨ p.bad.contains n then s
    else s.modCore core fun c => { c with partials := c.partials.map fun x => if x = p then { x with bad := x.bad ++ [n] } else x }

/-- The die of a TLB, by its place: a core's, a cluster's, a complex's (R325). -/
def Tlb.die (t : Tlb) : Nat := if t.place < 128 then t.place / 32 else if t.place < 160 then (t.place - 128) / 8 else t.place - 160

/-- A copy that can be fetched again is discarded, which counts as a correction (R443). The step's codes 12 to 15 are the model's (log 78):
a TLB entry, a walk-cache entry, an instruction line and a constant line of a core, each by its place in the list. -/
def State.softCopy (s : State) (code owner index : Nat) : State :=
  match code with
  | 12 => match s.tlb[index]? with
    | some t => { s with tlb := s.tlb.eraseIdx index }.corrected t.die
    | none => s
  | 13 => match s.walks[index]? with
    | some w => { s with walks := s.walks.eraseIdx index }.corrected w.die
    | none => s
  | 14 => if index < (s.core owner).icache.length then
      (s.modCore owner fun c => { c with icache := c.icache.eraseIdx index }).corrected (owner / 32) else s
  | 15 => if index < (s.core owner).ccache.length then
      (s.modCore owner fun c => { c with ccache := c.ccache.eraseIdx index }).corrected (owner / 32) else s
  | _ => s

/-- SOFT_ERROR: an uncorrectable error (R443, R444). In L1 (code 7, owner a core) and in L2 (code 8) index is a line; a clean copy is fetched
again, which counts as a correction of the die where it lay. In memory (codes 9 to 11) index is a line. Elsewhere the error stays until the
word is written or read. -/
def execSoftError (code owner index : Nat) (s : State) : Out :=
  .next (
    let pa := index * 128
    if 12 ≤ code then s.softCopy code owner index
    else if code = 5 then s.softPartial owner index
    else if 7 ≤ code then
      if !(inHbm pa || inCapacity pa || inMailbox pa) then s
      else if code = 7 then
        match (s.core owner).l1.get? index with
        | some .modified => s.poisonLine 7 index
        | some _ => s.corrected (owner / 32)
        | none => s
      else if code = 8 then
        if (s.l2.get? index).isNone then s
        else if (s.dirty.get? index).isSome then s.poisonLine 8 index else s.corrected (homeDie pa)
      else if structureCode pa = code then s.poisonLine code index else s
    else if s.softWord code owner index && !s.softErrors.contains (code, owner, index) then
      { s with softErrors := s.softErrors ++ [(code, owner, index)] }
    else s)

/-- CORRECTED_SUMMARY: every 19,000,000 ck in which a die has counted (R446). -/
def execCorrectedSummary (die : Nat) (s : State) : Out :=
  .next (
    let due := s.nextSummary.getD die 19000000
    if 3 < die ∨ s.ck < due then s
    else
      let n := s.eccCount.getD die 0
      let s := { s with nextSummary := s.nextSummary.put die (due + 19000000 * ((s.ck - due) / 19000000 + 1)), eccCount := s.eccCount.put die 0 }
      if n = 0 then s else s.log hypervisorRing { core := 32 * die } { cause := .corrected, detail := min n 0xFFFFFFFF })

end Sys2Proof.Machine
end

