-- ==== Sys2Proof/Machine/Boot.lean ====
section
/-! DEFINITION. Crash records and firmware restarts, the boot service, resets, the life cycle, power (R447 to R449, R454 to R458, R460 to
R462). -/

namespace Sys2Proof.Machine

/-! ## Resets (R457) -/

/-- Everything as the power-on reset leaves it, save what lies outside the wiped SRAMs: the model's own fields, fuses and counts. -/
def State.wiped (s : State) : State :=
  { State.reset with agenda := s.agenda, fresh := s.fresh, lifeCycle := s.lifeCycle, boots := s.boots, resets := s.resets }

/-- A module reset: the spoil area survives (R448). -/
def State.resetModule (s : State) : State :=
  { s.wiped with spoil := s.spoil, spoilNext := s.spoilNext, spoilWritten := s.spoilWritten, resets := s.resets + 1, portsDown := s.portsDown }

/-- A die reset (R457): every launch of the module ends with ABORTED, every key slot is discarded, the die's SRAMs are wiped. Queues,
partitions, tenants and roots stay, for its firmware restarts from the store. -/
def State.resetDie (s : State) (d : Nat) : State :=
  let s := (s.launches.map (·.1)).foldl (fun s l => s.discardLaunch l) s
  let lost := (s.queues.filter fun e => match e.2.slot with | some n => n / 64 == d | none => false).map (·.1)
  let s := lost.foldl (fun s q => s.unmapQueue q) s
  let kept (pa : Nat) : Bool := inMailbox pa && homeDie pa != d && !inRings pa
  { s with
    mem := s.mem.keep kept, poison := s.poison.filter fun l => kept (l * 128), dirty := [], frames := [], keys := [], retention := []
    tlb := s.tlb.filter fun t => !(if t.place < 128 then t.place / 32 == d else if t.place < 160 then (t.place - 128) / 8 == d
      else t.place - 160 == d)
    walks := s.walks.filter fun w => w.die != d
    dir := [], l2 := [], banks := s.banks.filter fun e => e.1 / 64 != d, probes := [], credits := []
    cores := s.cores.filterMap fun (e : Nat × Core) => if e.1 / 32 = d then none else
      some (e.1, { e.2 with l1 := [], icache := [], ccache := [] })
    references := s.references.filter fun e => e.1 / 256 != d
    clusters := s.clusters.map fun (e : Nat × Cluster) => (e.1, if e.1 / 8 = d then
      { Cluster.reset with holders := e.2.holders, holder := e.2.holder, nextTick := e.2.nextTick } else e.2)
    queues := s.queues.map fun (e : Nat × Queue) => (e.1, { e.2 with paused := false })
    eccCount := s.eccCount.del d, softErrors := [], rings := [], policyLog := s.policyLog.del d, migRing := [], migNext := [], portHeld := []
    cpDown := s.cpDown.filter fun n => n / 8 != d, ckSkew := (s.ckSkew.filter (· != d)) ++ [d], resets := s.resets + 1 }

/-- MODULE_RESET: the watchdog of die 0's complex. -/
def execModuleReset (s : State) : Out := .next s.resetModule

/-- POWER_ON_RESET: the supply has come up; one more power-up. -/
def execPowerOnReset (s : State) : Out :=
  .next { State.reset with agenda := s.agenda, fresh := s.fresh, lifeCycle := s.lifeCycle, boots := s.boots + 1 }

/-- POWER_LOSS: nothing but the fuses keeps its contents (R448, R455). -/
def execPowerLoss (s : State) : Out := .next { s.wiped with power := false, resets := 0 }

/-- CK_RESYNC: the counter of a die that was reset is set from another's (R457). -/
def execCkResync (die : Nat) (s : State) : Out := .next { s with ckSkew := s.ckSkew.filter (· != die) }

/-! ## Crashes (R447, R449) -/

/-- Bytes of the firmware store; an address within it is below (R447, R455). -/
def firmwareBytes : Nat := 16777216

def crashRecord (s : State) (die cpcore : Nat) (x : CrashInfo) (nested : Bool) : BitVec 2048 :=
  let tval := if x.tval.toNat < firmwareBytes then x.tval.toNat else 0
  BitVec.ofNat 2048 (((List.range 16).map fun i => placeField (x.trail.getD i 0).toNat (1024 + 64 * i)).sum + placeField x.epc.toNat 960 +
    placeField tval 896 + placeField x.mcause.toNat 832 + placeField (s.ck % 2 ^ 64) 768 + placeField x.capx.toNat 704 +
    placeField (Config.firmwareVersion s.firmware).toNat 672 + placeField (s.boots % 2 ^ 32) 640 + placeField (s.resets % 2 ^ 32) 608 +
    placeField cpcore 13 + placeField die 11 + placeField (if nested then 1 else 0) 1 + 1)

/-- Writes a spoil record: a ring of 255 (R447). -/
def State.writeSpoil (s : State) (r : BitVec 2048) : State :=
  { s with spoil := s.spoil.put s.spoilNext r, spoilNext := if s.spoilNext = 255 then 1 else s.spoilNext + 1
           spoilWritten := (s.spoilWritten + 1) % 2 ^ 32 }

/-- FIRMWARE_CRASH: a record and a restart, after which the core reads its queues' packets again from head; a crash during the restart resets
the die. -/
def execFirmwareCrash (die cpcore : Nat) (x : CrashInfo) (s : State) : Out :=
  .next (
    let core := 8 * die + cpcore
    if 3 < die ∨ 7 < cpcore ∨ s.boot ≠ .running then s
    else
      let nested := s.cpDown.contains core
      let s := s.writeSpoil (crashRecord s die cpcore x nested)
      let again (e : Nat × Queue) : Queue := if e.2.slot.isSome && s.cpCore e.1 e.2 == core then { e.2 with current := none, ahead := [] } else e.2
      let s := if nested then s.resetDie die else { s with cpDown := s.cpDown ++ [core], queues := s.queues.map fun e => (e.1, again e) }
      s.log hypervisorRing { core := 32 * die } { cause := .firmware, detail := cpcore })

/-- FIRMWARE_RESTART. -/
def execFirmwareRestart (die cpcore : Nat) (s : State) : Out := .next { s with cpDown := s.cpDown.filter (· != 8 * die + cpcore) }

/-! ## The boot service (R454 to R456, R458) -/

def statusDone : Nat := 0
def statusRefused : Nat := 1
def statusVerifying : Nat := 2

/-- Answers a request of the boot service. -/
def State.reply (s : State) (code status : Nat) (value : List Byte) : State :=
  { s with replies := s.replies ++ [{ code := code, status := status, value := value }] }

/-- A request reaches the service through port 0. -/
def State.request (s : State) (f : State → State) : Out := .next (if s.portsDown.contains 0 then s else f s)

def Boot.code : Boot → Nat | .empty => 0 | .loading => 1 | .verifying => 2 | .running => 3 | .refused => 4

/-- The part number OCM-C3A (R1) in 8 bytes: ASCII and a zero, which the manual does not fix (PRESUMED, log 27). -/
def partNumber : List Byte := [0x4F, 0x43, 0x4D, 0x2D, 0x43, 0x33, 0x41, 0x00]

/-- IDENTIFY: part number, serial, life-cycle state, boot-ROM version, boot state. -/
def execIdentify (s : State) : Out :=
  s.request fun s => s.reply 0x01 statusDone (partNumber ++ leBytes 16 Config.serial.toNat ++ leBytes 1 s.lifeCycle ++
    leBytes 4 Config.romVersion.toNat ++ leBytes 1 s.boot.code)

/-- LOAD: a chunk of 1,024 B of the image store, not while Shulon runs or an image is verified. -/
def execBootLoad (offset : Nat) (chunk : List (BitVec 8)) (s : State) : Out :=
  s.request fun s =>
    if s.boot = .running ∨ s.boot = .verifying ∨ chunk.length ≠ 1024 ∨ firmwareBytes < offset + 1024 then s.reply 0x02 statusRefused []
    else { s with
      imageStore := chunk.zipIdx.foldl (fun (t : Table Byte) (e : Byte × Nat) => Table.put t (offset + e.2) e.1) s.imageStore
      boot := .loading }.reply 0x02 statusDone []

/-- The bytes of a requester in the answers to it (R455). -/
def requesterBytes (who : Requester) : List Byte := leBytes 16 who.addr.toNat ++ leBytes 2 who.port

/-- START: verification begins. -/
def execStart (who : Requester) (s : State) : Out :=
  s.request fun s =>
    if s.boot = .running ∨ s.boot = .verifying then s.reply 0x03 statusRefused (requesterBytes who)
    else { s with boot := .verifying }.reply 0x03 statusVerifying (requesterBytes who)

/-- VERIFICATION_END: a second answer to the address and port of the START request (R455), dropped where the link is down (R450). -/
def execVerificationEnd (s : State) : Out :=
  .next (if s.boot ≠ .verifying then s
    else
      let to_ := ((s.replies.filter fun r => r.code == 0x03 && r.status == statusVerifying).getLast?.map (·.value)).getD []
      let tell (s : State) (status : Nat) : State := if s.portsDown.contains 0 then s else s.reply 0x03 status to_
      if Config.imageVerifies s.imageStore then tell { s with boot := .running, firmware := s.imageStore } statusDone
      else tell { s with boot := .refused, imageStore := [] } statusRefused)

/-- The body of an attestation report (R456). -/
def attestBody (s : State) (nonce : BitVec 256) : BitVec 1024 :=
  BitVec.ofNat 1024 (placeField (measurement s.firmware).toNat 512 + placeField nonce.toNat 256 +
    placeField Config.serial.toNat 128 + placeField Config.romVersion.toNat 96 + placeField (Config.firmwareVersion s.firmware).toNat 64 +
    placeField (s.boots % 2 ^ 32) 32 + s.lifeCycle % 16)

/-- ATTEST: refused unless the life-cycle state is DEPLOYED. -/
def execAttest (nonce : BitVec 256) (s : State) : Out :=
  s.request fun s =>
    if s.lifeCycle ≠ 2 then s.reply 0x04 statusRefused []
    else
      let body := attestBody s nonce
      s.reply 0x04 statusDone (leBytes 128 body.toNat ++ leBytes 1280 (Config.attestSignature body).toNat)

/-- A record of the spoil area (R447). -/
def State.spoilRecord (s : State) (i : Nat) : Nat :=
  if i = 0 then placeField s.spoilNext 32 + s.spoilWritten else (s.spoil.getD i 0).toNat

/-- SPOIL.READ. -/
def execSpoilRead (index : Nat) (s : State) : Out :=
  s.request fun s => if 255 < index then s.reply 0x05 statusRefused [] else s.reply 0x05 statusDone (leBytes 256 (s.spoilRecord index))

/-- RESET. -/
def execReset (s : State) : Out := s.request fun s => s.resetModule.reply 0x06 statusDone []

/-- LIFE_CYCLE_CHANGE: signed by Ocund, forward only, not while Shulon runs; every SRAM is wiped, the spoil area too (R448, R458). Its
answer has code 7 (log 27). -/
def execLifeCycleChange (target : Nat) (signature : BitVec 64) (s : State) : Out :=
  s.request fun s =>
    if s.boot = .running ∨ 3 < target ∨ target ≤ s.lifeCycle ∨ !Config.lifeCycleSigned target signature then s.reply 0x07 statusRefused []
    else { s.wiped with lifeCycle := target, ck := s.ck, portsDown := s.portsDown }.reply 0x07 statusDone []

/-! ## Power (R460 to R462) -/

/-- Sets the gate value of cores. -/
def State.setGates (s : State) (cores : List Nat) (g : Nat → Nat) : State :=
  cores.foldl (fun s n => s.modCore n fun c => c.setGate s.ck (g n)) s

/-- A partition's cap in milliwatts, 0 for none, and its weight, 0 treated as 1 (R461). -/
def Part.cap (x : Part) : Nat := 1000 * (x.power.toNat / 2 ^ 20)
def Part.weight (x : Part) : Nat := max 1 (x.power.toNat % 256)

/-- The partition that a cluster's power counts for: its holder. -/
def State.powerPart (s : State) (n : Nat) : Option (Nat × Part) :=
  (s.cluster n).holder.bind fun p => (s.part? p).map fun x => (p, x)

/-- A part of an amount in proportion to weights; nothing where every weight is 0. -/
def portion (amount weight total : Nat) : Nat := if total = 0 then 0 else amount * weight / total

/-- What is left of the 2,400 W for the dies in an interval, and a die's part of it, in milliwatts (R460). -/
def diePower (interval die : Nat) : Nat :=
  portion (2400000 - Config.otherDraw interval) (Config.dieDemand interval die)
    (((List.range 4).map (Config.dieDemand interval)).foldl (· + ·) 0)

/-- A cluster's part of its die's power, by the weights of the partitions that hold the die's clusters (R460). -/
def State.clusterShare (s : State) (interval n : Nat) : Nat :=
  let weight (n : Nat) : Nat := match s.powerPart n with | some (_, x) => x.weight | none => 0
  portion (diePower interval (n / 8)) (weight n) (((List.range 8).map fun i => weight (8 * (n / 8) + i)).foldl (· + ·) 0)

/-- The part that a cluster gets with its partition held under its cap: what is above the cap is taken from the partition's clusters in
proportion (R460, R461; log 10). -/
def State.clusterPower (s : State) (interval n : Nat) : Nat :=
  let share := s.clusterShare interval n
  match s.powerPart n with
  | none => share
  | some (p, x) =>
    let mine := (List.range 32).filter fun m => (s.cluster m).holder == some p
    let total := (mine.map (s.clusterShare interval)).foldl (· + ·) 0
    if x.cap = 0 ∨ total ≤ x.cap then share else portion x.cap share total

/-- The largest gate value whose estimated power fits a share; 1 where none fits (R462; log 10). -/
def gateFor (interval core share : Nat) : Nat :=
  (((List.range 64).map (64 - ·)).find? fun g => decide (Config.corePower interval core g ≤ share)).getD 1

/-- POWER_ARBITER: every 19,000 ck each core gets the largest value that fits its quarter of its cluster's power (R460, R462). -/
def execPowerArbiter (s : State) : Out :=
  .next (if s.ck < s.nextPower then s
    else ({ s with nextPower := s.nextPower + 19000 }.setGates (List.range 128) fun n =>
      gateFor (s.nextPower / 19000) n (s.clusterPower (s.nextPower / 19000) (n / 4) / 4)))

/-- OVERCURRENT: every core of the die is set to 16 until the next interval. -/
def execOvercurrent (die : Nat) (s : State) : Out :=
  .next (if die < 4 then s.setGates ((List.range 32).map (32 * die + ·)) fun _ => 16 else s)

/-- REGISTER_WRITE: a partition's power register (R461); reserved bits are ignored (R6). No command carries the hypervisor's write: it is a
step of its own, with no queue, priv or port (log 47). -/
def execRegisterWrite (part : Nat) (value : BitVec 32) (s : State) : Out :=
  .next (match s.part? part with
    | some x => { s with parts := s.parts.put part { x with power := value &&& 0xFFF000FF } }
    | none => s)

/-! ## Links (R450) -/

/-- LINK_DOWN. -/
def execLinkDown (port : Nat) (s : State) : Out :=
  .next (if 7 < port ∨ s.portsDown.contains port then s else { s with portsDown := s.portsDown ++ [port] })

/-- LINK_UP. -/
def execLinkUp (port : Nat) (s : State) : Out := .next { s with portsDown := s.portsDown.filter (· != port) }

end Sys2Proof.Machine
end

