-- ==== Sys2Proof/Machine/Pair.lean ====
section
/-! DEFINITION. The paired instruction (R59 to R61, R66 to R68). -/

namespace Sys2Proof.Machine

/-- The meaning of the lane instruction of an opcode (R66). -/
def laneSem? (op : Nat) : Option LaneSem :=
  if op < 0x20 then none
  else if op < 0x60 then integerSems[op - 0x20]?
  else if op < 0x8C then floatSems[op - 0x60]?
  else if op < 0xA0 then crossSems[op - 0x8C]?
  else none

/-- Opcodes with a variable-latency result (R66). -/
def isVariable (op : Nat) : Bool :=
  op == 0x26 || op == 0x27 || op == 0x64 || (decide (0x77 ≤ op) && decide (op ≤ 0x7E)) || decide (0x8C ≤ op)

/-- A half carries no imm and no register number of a control instruction (R52). -/
def halfSpecsOk (h : Half) : Bool :=
  [h.dst, h.in0, h.in1, h.in2].all fun o => match o with | .imm => false | .num _ => false | _ => true

/-- The encoding traps of a pair, in the order of R68. -/
def pairFault (p : PairArgs) : Option Cause :=
  if 0xE0 ≤ p.a.opcode.toNat || 0xE0 ≤ p.b.opcode.toNat then some .illegalOpcode
  else if !halfSpecsOk p.a || !halfSpecsOk p.b || (p.a.classOk true && !p.a.familyOk) || (p.b.classOk false && !p.b.familyOk) then
    some .illegalField
  else if !p.ok then some .pairRule
  else none

/-- A half as the instruction that its pipe runs. -/
def Ctx.half (x : Ctx) (p : PairArgs) (h : Half) (pipe : Nat) : Ctx :=
  { x with a := { h.args with sw := p.sw, wait := p.wait }, pipe := pipe }

/-- Enters one half's output: a fixed result at once, a variable one on its way (R61, R62). -/
def applyHalf (op : Nat) (x : Ctx) (o : LaneOut) (s : State) : State :=
  if isVariable op then
    s.modCrew x.k fun c =>
      (c.addResult { id := 0, due := s.ck + 1, unit := x.u, writes := o.writes, flags := o.flags, parts := 0, ldc := false, tok := none }).pushLast x.pipe none
  else (s.modCrew x.k fun c => let c := c.applyLane x.u o; c.pushLast x.pipe (c.lastOf x.a.dst)).clearSoft x.k o.writes

/-- Both halves read before either writes (R60). -/
def pairBody (p : PairArgs) (x : Ctx) (s : State) : Res :=
  let opA := p.a.opcode.toNat
  let opB := p.b.opcode.toNat
  let xa := x.half p p.a 0
  let xb := x.half p p.b 1
  match laneSem? opA, laneSem? opB with
  | some fa, some fb =>
    let oa := fa xa s
    let ob := fb xb s
    .done (applyHalf opB xb ob (applyHalf opA xa oa s))
  | _, _ => .trap s { cause := .pairRule }

/-- The first of two traps. -/
def orTrap (a b : Option Trap) : Option Trap := match a with | some t => some t | none => b

/-- The register traps of a pair: each cause over A, then B (R68). -/
def pairRegTrap (p : PairArgs) (x : Ctx) : Option Trap :=
  let opA := p.a.opcode.toNat
  let opB := p.b.opcode.toNat
  orTrap (orTrap (staleTrap p.a.args 0 x.c) (staleTrap p.b.args 1 x.c))
    (orTrap (orTrap (pendingTrap opA p.a.args x.c x.u) (pendingTrap opB p.b.args x.c x.u))
      (orTrap (rangeTrap opA p.a.args x.c) (rangeTrap opB p.b.args x.c)))

/-- What stands before a pair's effect, and the effect. -/
def runPair (p : PairArgs) (x : Ctx) (s : State) : State :=
  match debugStop s x with
  | some (s, kind, code) => s.takeTrap x.k x.u x.len (breakTrap kind code)
  | none => match pairFault p with
    | some c => s.takeTrap x.k x.u x.len { cause := c }
    | none =>
      if (List.range 8).any (fun n => p.wait.getLsbD n && x.c.tokens.getD n 0 != 0) then s.stallUnit x.k x.u (.tokens p.wait)
      else match pairRegTrap p x with
        | some t => s.takeTrap x.k x.u x.len t
        | none =>
          match orTrap (softRegister s p.a.opcode.toNat (x.half p p.a 0)) (softRegister s p.b.opcode.toNat (x.half p p.b 1)) with
          | some t => s.takeTrap x.k x.u x.len t
          | none =>
            if x.c.cap.mode then s.takeTrap x.k x.u x.len x.capsuleTrap
            else applyRes x s (pairBody p x s)

/-- PAIR_ISSUE (R60). -/
def execPairIssue (p : PairArgs) (s : State) : Out :=
  match s.focus with
  | none => .fault .noUnit
  | some (k, u) => match s.crews.get? k with
    | none => .fault .noUnit
    | some c => match c.units.get? u with
      | none => .fault .noUnit
      | some h =>
        .next (runPair p ⟨k, u, c, h, { p.a.args with sw := p.sw, wait := p.wait }, 16, 0⟩ { s with focus := none })

end Sys2Proof.Machine
end

