-- ==== Sys2Proof/Machine/Ports.lean ====
section
/-! DEFINITION. RDMA at the ports, send queues and completion rings, Grenone (R305, R450 to R453). -/

namespace Sys2Proof.Machine

/-! ## Inbound operations (R305, R451) -/

/-- The die of a port: ports are numbered 2 × die + n (R19). -/
def portDie (port : Nat) : Nat := port / 2

/-- Status of a port's answer: performed, remote-access error, receiver not ready. -/
def portDone : Nat := 0
def portRefused : Nat := 1
def portNotReady : Nat := 3

/-- The agent of a port's fault: its die, no crew (R451). -/
def State.portAgent (s : State) (port part : Nat) : Agent :=
  { core := 32 * portDie port, part := part, tenant := match s.part? part with | some x => x.tenant | none => 0 }

/-- What a completion record says (R452): inbound or outbound, queue pair, operation, status, length, immediate, tag. Statuses: 0 done,
1 error, 2 event-dropped. -/
structure PortNote where
  out : Bool
  qp : Nat
  op : Nat
  status : Nat
  len : Nat := 0
  imm : BitVec 32 := 0
  tag : BitVec 64 := 0
  deriving DecidableEq, Repr

def recordError : Nat := 1
def recordEventDropped : Nat := 2

/-- The bytes of a completion record: what it says, in a layout that is the part's (log 28). -/
def PortNote.bytes (r : PortNote) (draw : Nat) : List Byte :=
  leBytes 32 (Config.portRecord draw [if r.out then 1 else 0, r.qp, r.op, r.status, r.len, r.imm.toNat, r.tag.toNat]).toNat

/-- The next record of a partition's completion ring is written (R452). A fault of the write is recorded, and the record is lost (R17;
log 28). -/
def State.portRecord (s : State) (part : Nat) (r : PortNote) : Except DevStop State :=
  match s.portRings.get? part with
  | none => .ok s
  | some ring =>
    let s := { s with fresh := s.fresh + 1 }
    let va := ring.base.toNat + 32 * (ring.written % max ring.entries 1)
    match s.vwrite part va (r.bytes (s.fresh - 1)) with
    | .error (.waits n) => .error (.waits n)
    | .error (.fault f va) =>
      let port := match s.qps.get? r.qp with | some q => q.port | none => 0
      .ok (s.report (s.portAgent port part) (f.trap va 0x7F 0 true) false .none)
    | .ok s => .ok { s with portRings := s.portRings.put part { ring with written := ring.written + 1 } }

/-- The region that an operation names, of the partition of its queue pair. -/
def State.region? (s : State) (q : QueuePair) (key : BitVec 32) (va len : Nat) : Option Region :=
  s.regions.find? fun r => r.key == key && r.part == q.part && decide (r.base.toNat ≤ va) && decide (va + len ≤ r.base.toNat + r.len)

/-- A queue pair takes its operations in order: while one of them waits for its fault to be resolved, no other is performed (R305). -/
def State.portTurn (s : State) (qp : Nat) (op : PortOp) : Bool :=
  match s.portHeld.get? qp with
  | none => true
  | some h => h.op == op

/-- A fault on an inbound operation: recorded once until it has its disposition, and answered not ready (R451). -/
def State.portFault (s : State) (qp : Nat) (op : PortOp) (q : QueuePair) (f : XlFault) (va : Nat) (wr : Bool) : State :=
  let s := s.reply 0x80 portNotReady []
  if (match s.portHeld.get? qp with | some h => h.told | none => false) then s
  else
    { s.report (s.portAgent q.port q.part) (f.trap va 0x7F 0 wr) true (.port qp) with portHeld := s.portHeld.put qp ⟨op, true⟩ }

/-- An inbound operation on a queue pair whose link is up: a region with the right grants the access, or the pair enters its error state. -/
def State.inbound (s : State) (op : RdmaOp) (len : Nat) (right : Region → Bool) (wr : Bool)
    (perform : QueuePair → State → Except DevStop State) : State :=
  match s.qps.get? op.qp with
  | none => s
  | some q =>
    if q.error || s.portsDown.contains q.port then s
    else if !s.portTurn op.qp (.rdma op) then s.reply 0x80 portNotReady []
    else if !(match s.region? q op.key op.va.toNat len with | some r => right r | none => false) then
      { s with qps := s.qps.put op.qp { q with error := true } }.reply 0x80 portRefused []
    else match perform q s with
      | .error (.waits _) => s
      | .error (.fault f va) => s.portFault op.qp (.rdma op) q f va wr
      | .ok s => { s with portHeld := s.portHeld.del op.qp }

/-- The completion record of an inbound operation; only the forms with immediate bring one. -/
def rdmaNote (op : RdmaOp) (kind : Nat) : PortNote :=
  { out := false, qp := op.qp, op := kind, status := 0, len := op.data.length, imm := if kind = 1 ∨ kind = 3 then op.imm else 0 }

/-- A SEND lands at the address that the queue pair's receive side gives. -/
def State.inboundSend (s : State) (op : RdmaOp) (kind : Nat) : State :=
  match s.qps.get? op.qp with
  | none => s
  | some q =>
    if q.error || s.portsDown.contains q.port then s
    else if !s.portTurn op.qp (.rdma op) then s.reply 0x80 portNotReady []
    else match (s.vwrite q.part q.recv.toNat op.data).bind fun s => s.portRecord q.part (rdmaNote op kind) with
      | .error (.waits _) => s
      | .error (.fault f va) => s.portFault op.qp (.rdma op) q f va true
      | .ok s => { s with portHeld := s.portHeld.del op.qp }.reply 0x80 portDone []

/-- RDMA_WRITE. -/
def execRdmaWrite (op : RdmaOp) (s : State) : Out :=
  .next (s.inbound op op.data.length (·.wr) true fun q s => (s.vwrite q.part op.va.toNat op.data).map fun s => s.reply 0x80 portDone [])

/-- RDMA_WRITE_WITH_IMMEDIATE: an inbound completion follows (R452). -/
def execRdmaWriteWithImmediate (op : RdmaOp) (s : State) : Out :=
  .next (s.inbound op op.data.length (·.wr) true fun q s =>
    ((s.vwrite q.part op.va.toNat op.data).bind fun s => s.portRecord q.part (rdmaNote op 3)).map fun s => s.reply 0x80 portDone [])

/-- RDMA_SEND. -/
def execRdmaSend (op : RdmaOp) (s : State) : Out := .next (s.inboundSend op 0)

/-- RDMA_SEND_WITH_IMMEDIATE. -/
def execRdmaSendWithImmediate (op : RdmaOp) (s : State) : Out := .next (s.inboundSend op 1)

/-- RDMA_READ: the bytes as performed at system scope. -/
def execRdmaRead (op : RdmaOp) (s : State) : Out :=
  .next (s.inbound op op.length (·.rd) false fun q s =>
    (s.vread q.part op.va.toNat op.length).map fun r => r.2.reply 0x80 portDone r.1)

/-- An inbound atomic on 8 bytes, naturally aligned (R305): the old value is returned. -/
def State.inboundAtomic (s : State) (op : RdmaOp) (f : Dword → Dword) : State :=
  s.inbound op (if op.va.toNat % 8 = 0 then 8 else 2 ^ 64) (·.atom) true fun q s =>
    match s.vread q.part op.va.toNat 8 with
    | .error e => .error e
    | .ok (bs, s) =>
      let old : Dword := BitVec.ofNat 64 (leNat bs)
      (s.vwrite q.part op.va.toNat (leBytes 8 (f old).toNat)).map fun s => s.reply 0x80 portDone bs

/-- COMPARE_AND_SWAP. -/
def execCompareAndSwap (op : RdmaOp) (s : State) : Out :=
  .next (s.inboundAtomic op fun old => if old = op.compare then op.operand else old)

/-- FETCH_AND_ADD. -/
def execFetchAndAdd (op : RdmaOp) (s : State) : Out := .next (s.inboundAtomic op fun old => old + op.operand)

/-! ## Outbound work (R452) -/

/-- The completion record of a request. -/
def wrNote (wr : WorkRequest) (status : Nat) : PortNote :=
  { out := true, qp := wr.qp, op := wr.op, status := status, len := wr.length, tag := wr.tag }

/-- DOORBELL_WRITE: the port reads a new request. One that has not landed completes with an error and is not sent. While the line of its
record is held, the doorbell is read later. -/
def execDoorbellWrite (part : Nat) (wr : WorkRequest) (s : State) : Out :=
  .next (if (s.part? part).isNone then s
    else if !wr.landed then (match s.portRecord part (wrNote wr recordError) with | .ok s => s | .error _ => s)
    else { s with portWork := s.portWork.put s.nextNotice { id := s.nextNotice, wr := wr }, nextNotice := s.nextNotice + 1 })

/-- Operations of a work request, in the order in which R451 lists them: 4 READ, 5 and 6 the atomics; what they bring back is the peer's. -/
def wrBrings (w : WorkRequest) : Nat := if w.op = 4 then w.length else if w.op = 5 ∨ w.op = 6 then 8 else 0

/-- The local bytes that SEND and WRITE take, as performed at system scope. -/
def wrTakes (w : WorkRequest) : Nat := if w.op < 4 then w.length else 0

/-- The counter that a request names takes an increment: it is valid and the block's (R197, R452). -/
def State.takesIncrement (s : State) (launch block e : Nat) : Bool :=
  match s.blocks.find? (fun b => b.2.launch == launch && b.2.number == block && !b.2.chute) with
  | some (key, _) => (match (s.core (key / 16)).counters.get? e with | some c => c.owner == key % 16 | none => false)
  | none => (match (s.launches.get? launch).bind fun l => l.saved.get? block with
    | some b => (b.counters.get? e).isSome
    | none => false)

/-- The counter's bytes bit (R199), where the block is. -/
def State.countsBytes (s : State) (launch block e : Nat) : Bool :=
  match s.blocks.find? (fun b => b.2.launch == launch && b.2.number == block && !b.2.chute) with
  | some (key, _) => (match (s.core (key / 16)).counters.get? e with | some c => c.bytes | none => false)
  | none => (match ((s.launches.get? launch).bind fun l => l.saved.get? block).bind fun b => b.counters.get? e with
    | some c => c.bytes
    | none => false)

/-- What a completed operation moves: local bytes that leave with it, or what the peer sent, written at the request's address. A fault is
recorded, and the completion's status is an error (R17; log 28). -/
def State.portMoves (s : State) (part status : Nat) (q : QueuePair) (w : WorkRequest) : Except DevStop (Nat × State) :=
  let faulted (s : State) (f : XlFault) (va : Nat) (wr : Bool) : Nat × State :=
    (recordError, s.report (s.portAgent q.port part) (f.trap va 0x7F 0 wr) false .none)
  if status ≠ 0 then .ok (recordError, s)
  else if wrTakes w ≠ 0 then
    match s.vread part w.va.toNat (wrTakes w) with
    | .error (.waits n) => .error (.waits n)
    | .error (.fault f va) => .ok (faulted s f va false)
    | .ok (bs, s) => .ok (0, s.reply 0x82 portDone bs)
  else
    let n := wrBrings w
    let brought := ((List.range ((n + 7) / 8)).flatMap fun i => leBytes 8 (Config.freeDword (s.fresh + i)).toNat).take n
    let s := { s with fresh := s.fresh + (n + 7) / 8 }
    match s.vwrite part w.va.toNat brought with
    | .error (.waits n) => .error (.waits n)
    | .error (.fault f va) => .ok (faulted s f va true)
    | .ok s => .ok (0, s)

/-- RDMA_COMPLETION, over a link that is up (R1, R450): what the operation moves, the record, then the increment of the event counter that
the request names, by its bytes where its bytes bit is set (R199, R452). A counter that is gone or not its block's drops the increment, and
the record says event-dropped. Nothing is done while a line is held. -/
def execRdmaCompletion (part id status : Nat) (s : State) : Out :=
  .next (match s.portWork.get? id with
    | none => s
    | some w =>
      match s.qps.get? w.wr.qp with
      | none => s
      | some q =>
        if q.part != part || q.error || s.portsDown.contains q.port then s
        else
          let dropped := match w.wr.counter with | some (launch, block, e) => !s.takesIncrement launch block e | none => false
          let done := (State.portMoves { s with portWork := s.portWork.del id } part status q w.wr).bind fun r =>
            r.2.portRecord part (wrNote w.wr (if dropped then recordEventDropped else r.1))
          match done with
          | .error _ => s
          | .ok s => (match w.wr.counter with
            | some (launch, block, e) => s.addBlockCounter launch block e (if s.countsBytes launch block e then w.wr.length else 1)
            | none => s))

/-! ## Grenone (R453) -/

def greField (m : Grenone) (lo w : Nat) : Nat := (m.header.extractLsb' lo w).toNat

/-- A reserved value in the header. -/
def greReserved (m : Grenone) : Bool :=
  greField m 88 8 == 0 || decide (6 < greField m 88 8) || decide (2 < greField m 84 4) || decide (2 < greField m 80 4) || greField m 0 80 != 0

/-- One pairwise step of a reduction: FP32 under nearest, BF16 rounded to nearest after each step, INT32 wrapping. -/
def greStep (m : Grenone) (x y : Word) : Word :=
  let red := greField m 80 4
  match greField m 84 4 with
  | 0 => wordOf (if red = 0 then fAdd 0 (fp32.decode x.toNat) (fp32.decode y.toNat) else fMinMax (red == 2) x.toNat y.toNat).1
  | 1 =>
    let wide (v : Word) : Nat := v.toNat % 65536 * 65536
    let r := (if red = 0 then fAdd 0 (fp32.decode (wide x)) (fp32.decode (wide y)) else fMinMax (red == 2) (wide x) (wide y)).1
    wordOf (bf16.ofF32 0 r).1
  | _ => if red = 0 then x + y else if red = 1 then (if x.toInt ≤ y.toInt then x else y) else (if x.toInt ≤ y.toInt then y else x)

/-- Elements reduced over the ranks in ascending order. -/
def greReduced (m : Grenone) (ranks : List (List Word)) : List Word :=
  match ranks with
  | [] => []
  | r :: rs => rs.foldl (fun acc x => List.zipWith (greStep m) acc x) r

/-- The bytes of elements. -/
def greBytes (m : Grenone) (xs : List Word) : List Byte := xs.flatMap fun x => leBytes (if greField m 84 4 = 1 then 2 else 4) x.toNat

/-- Elements in bytes. -/
def greElements (m : Grenone) (bs : List Byte) : List Word :=
  let n := if greField m 84 4 = 1 then 2 else 4
  (List.range (bs.length / n)).map fun i => wordOf (leNat ((bs.drop (n * i)).take n))

/-- The elements of every rank: the module's own as performed at system scope when the port reads them (R305). -/
def State.greRanks (s : State) (m : Grenone) (q : QueuePair) : Except DevStop (List (List Word) × State) :=
  if m.own < m.ranks.length then
    (s.vread q.part m.va.toNat (greField m 96 32)).map fun r => (m.ranks.set m.own (greElements m r.1), r.2)
  else .ok (m.ranks, s)

/-- The elements that a message brings are those that its header announces: a rank for each of its ranks, each of its bytes; an import brings
one run of bytes, and an export none. -/
def greAnnounced (m : Grenone) (op : Nat) : Bool :=
  let fits (xs : List Word) : Bool := (greBytes m xs).length == greField m 96 32
  if op ≤ 4 then m.ranks.length == greField m 128 16 && m.ranks.zipIdx.all fun e => e.2 == m.own || fits e.1
  else op != 6 || fits (m.ranks.getD 0 [])

/-- Some region of a queue pair's partition lets a peer write a range (R451). -/
def State.regionWrites (s : State) (part va len : Nat) : Bool :=
  s.regions.any fun r => r.part == part && r.wr && decide (r.base.toNat ≤ va) && decide (va + len ≤ r.base.toNat + r.len)

/-- A message on a queue pair: dropped and logged for a reserved value, otherwise its result is written as an inbound operation, which a
region of the partition must grant (R451). A message whose parts have not all come as its header announces is not yet one. Which elements
this module takes, and where they go, are log 28's. -/
def State.grenone (s : State) (m : Grenone) (op : Nat) (result : List (List Word) → List Word) : State :=
  match s.qps.get? m.qp with
  | none => s
  | some q =>
    if q.error || s.portsDown.contains q.port then s
    else if !s.portTurn m.qp (.message m) then s.reply 0x80 portNotReady []
    else if (greReserved m) then
      s.log q.part (s.portAgent q.port q.part) { cause := .messageDrop, detail := m.qp }
    else if greField m 88 8 ≠ op || !greAnnounced m op then s
    else match s.greRanks m q with
      | .error (.waits _) => s
      | .error (.fault f va) => s.portFault m.qp (.message m) q f va false
      | .ok (ranks, t) =>
        let bs := greBytes m (result ranks)
        if !s.regionWrites q.part m.va.toNat bs.length then
          { s with qps := s.qps.put m.qp { q with error := true } }.reply 0x80 portRefused []
        else match t.vwrite q.part m.va.toNat bs with
        | .error (.waits _) => s
        | .error (.fault f va) => s.portFault m.qp (.message m) q f va true
        | .ok s => { s with portHeld := s.portHeld.del m.qp }

/-- ALL_REDUCE. -/
def execAllReduce (msg : Grenone) (s : State) : Out := .next (s.grenone msg 1 (greReduced msg))

/-- REDUCE_SCATTER: the slice of the rank that the header names. -/
def execReduceScatter (msg : Grenone) (s : State) : Out :=
  .next (s.grenone msg 2 fun ranks =>
    let xs := greReduced msg ranks
    let n := xs.length / max (greField msg 128 16) 1
    (xs.drop (n * greField msg 144 16)).take n)

/-- ALL_GATHER: the ranks' elements one after another. -/
def execAllGather (msg : Grenone) (s : State) : Out := .next (s.grenone msg 3 List.flatten)

/-- BROADCAST: the sender's elements. -/
def execBroadcast (msg : Grenone) (s : State) : Out := .next (s.grenone msg 4 fun ranks => ranks.getD (greField msg 144 16) [])

/-- EXPORT: the announced bytes, as performed at system scope, leave through the port (R305, R463). -/
def execExportState (msg : Grenone) (s : State) : Out :=
  .next (match s.qps.get? msg.qp with
    | none => s
    | some q =>
      if (greReserved msg) || q.error || s.portsDown.contains q.port || greField msg 88 8 != 5 || !s.portTurn msg.qp (.message msg) then s.grenone msg 5 fun _ => []
      else match s.vread q.part msg.va.toNat (greField msg 96 32) with
        | .error (.waits _) => s
        | .error (.fault f va) => s.portFault msg.qp (.message msg) q f va false
        | .ok (bs, s) => { s with portHeld := s.portHeld.del msg.qp }.reply 0x81 portDone bs)

/-- IMPORT: exported bytes are written back. -/
def execImportState (msg : Grenone) (s : State) : Out := .next (s.grenone { msg with own := msg.ranks.length } 6 fun ranks => ranks.getD 0 [])

end Sys2Proof.Machine
end

