-- ==== Sys2Proof/Machine/Dispatch.lean ====
section
/-! DEFINITION. The dispatch of every instruction to its meaning. -/

namespace Sys2Proof.Machine

def exec (i : Instr) (s : State) : Host.Outcome State Fault Refusal :=
  match i with
  | .nop a => Sys2Proof.Machine.execNop a s
  | .bra a => Sys2Proof.Machine.execBra a s
  | .brc a => Sys2Proof.Machine.execBrc a s
  | .brx a => Sys2Proof.Machine.execBrx a s
  | .join a => Sys2Proof.Machine.execJoin a s
  | .call a => Sys2Proof.Machine.execCall a s
  | .calli a => Sys2Proof.Machine.execCalli a s
  | .ret a => Sys2Proof.Machine.execRet a s
  | .jmpi a => Sys2Proof.Machine.execJmpi a s
  | .loop a => Sys2Proof.Machine.execLoop a s
  | .exit a => Sys2Proof.Machine.execExit a s
  | .suspend a => Sys2Proof.Machine.execSuspend a s
  | .trap a => Sys2Proof.Machine.execTrap a s
  | .tret a => Sys2Proof.Machine.execTret a s
  | .twait a => Sys2Proof.Machine.execTwait a s
  | .setbnd a => Sys2Proof.Machine.execSetbnd a s
  | .mfc a => Sys2Proof.Machine.execMfc a s
  | .mtc a => Sys2Proof.Machine.execMtc a s
  | .clkrd a => Sys2Proof.Machine.execClkrd a s
  | .doze a => Sys2Proof.Machine.execDoze a s
  | .yield a => Sys2Proof.Machine.execYield a s
  | .bkpt a => Sys2Proof.Machine.execBkpt a s
  | .trapc a => Sys2Proof.Machine.execTrapc a s
  | .ipref a => Sys2Proof.Machine.execIpref a s
  | .icinv a => Sys2Proof.Machine.execIcinv a s
  | .pmrd a => Sys2Proof.Machine.execPmrd a s
  | .tmark a => Sys2Proof.Machine.execTmark a s
  | .grpq a => Sys2Proof.Machine.execGrpq a s
  | .spallq a => Sys2Proof.Machine.execSpallq a s
  | .dbgrd a => Sys2Proof.Machine.execDbgrd a s
  | .dbgwr a => Sys2Proof.Machine.execDbgwr a s
  | .prio a => Sys2Proof.Machine.execPrio a s
  | .iadd a => Sys2Proof.Machine.execIadd a s
  | .isub a => Sys2Proof.Machine.execIsub a s
  | .imul a => Sys2Proof.Machine.execImul a s
  | .imulh a => Sys2Proof.Machine.execImulh a s
  | .imad a => Sys2Proof.Machine.execImad a s
  | .iadd3 a => Sys2Proof.Machine.execIadd3 a s
  | .idiv a => Sys2Proof.Machine.execIdiv a s
  | .irem a => Sys2Proof.Machine.execIrem a s
  | .imin a => Sys2Proof.Machine.execImin a s
  | .imax a => Sys2Proof.Machine.execImax a s
  | .iabs a => Sys2Proof.Machine.execIabs a s
  | .ineg a => Sys2Proof.Machine.execIneg a s
  | .isad a => Sys2Proof.Machine.execIsad a s
  | .idot4 a => Sys2Proof.Machine.execIdot4 a s
  | .iavg a => Sys2Proof.Machine.execIavg a s
  | .clamp a => Sys2Proof.Machine.execClamp a s
  | .and a => Sys2Proof.Machine.execAnd a s
  | .or a => Sys2Proof.Machine.execOr a s
  | .xor a => Sys2Proof.Machine.execXor a s
  | .not a => Sys2Proof.Machine.execNot a s
  | .andn a => Sys2Proof.Machine.execAndn a s
  | .lop3 a => Sys2Proof.Machine.execLop3 a s
  | .shl a => Sys2Proof.Machine.execShl a s
  | .shr a => Sys2Proof.Machine.execShr a s
  | .sar a => Sys2Proof.Machine.execSar a s
  | .rol a => Sys2Proof.Machine.execRol a s
  | .fshl a => Sys2Proof.Machine.execFshl a s
  | .fshr a => Sys2Proof.Machine.execFshr a s
  | .bfx a => Sys2Proof.Machine.execBfx a s
  | .bfi a => Sys2Proof.Machine.execBfi a s
  | .brev a => Sys2Proof.Machine.execBrev a s
  | .popc a => Sys2Proof.Machine.execPopc a s
  | .clz a => Sys2Proof.Machine.execClz a s
  | .ctz a => Sys2Proof.Machine.execCtz a s
  | .bperm a => Sys2Proof.Machine.execBperm a s
  | .sext a => Sys2Proof.Machine.execSext a s
  | .zext a => Sys2Proof.Machine.execZext a s
  | .bitset a => Sys2Proof.Machine.execBitset a s
  | .bitclr a => Sys2Proof.Machine.execBitclr a s
  | .bittst a => Sys2Proof.Machine.execBittst a s
  | .icmpEq a => Sys2Proof.Machine.execIcmpEq a s
  | .icmpNe a => Sys2Proof.Machine.execIcmpNe a s
  | .icmpLt a => Sys2Proof.Machine.execIcmpLt a s
  | .icmpLe a => Sys2Proof.Machine.execIcmpLe a s
  | .icmpGt a => Sys2Proof.Machine.execIcmpGt a s
  | .icmpGe a => Sys2Proof.Machine.execIcmpGe a s
  | .sel a => Sys2Proof.Machine.execSel a s
  | .mov a => Sys2Proof.Machine.execMov a s
  | .laneid a => Sys2Proof.Machine.execLaneid a s
  | .mand a => Sys2Proof.Machine.execMand a s
  | .mor a => Sys2Proof.Machine.execMor a s
  | .mxor a => Sys2Proof.Machine.execMxor a s
  | .mnot a => Sys2Proof.Machine.execMnot a s
  | .mpopc a => Sys2Proof.Machine.execMpopc a s
  | .mffs a => Sys2Proof.Machine.execMffs a s
  | .lea a => Sys2Proof.Machine.execLea a s
  | .iadd64 a => Sys2Proof.Machine.execIadd64 a s
  | .isub64 a => Sys2Proof.Machine.execIsub64 a s
  | .imulw a => Sys2Proof.Machine.execImulw a s
  | .imadw a => Sys2Proof.Machine.execImadw a s
  | .shl64 a => Sys2Proof.Machine.execShl64 a s
  | .shr64 a => Sys2Proof.Machine.execShr64 a s
  | .mov64 a => Sys2Proof.Machine.execMov64 a s
  | .crewix a => Sys2Proof.Machine.execCrewix a s
  | .fadd a => Sys2Proof.Machine.execFadd a s
  | .fsub a => Sys2Proof.Machine.execFsub a s
  | .fmul a => Sys2Proof.Machine.execFmul a s
  | .ffma a => Sys2Proof.Machine.execFfma a s
  | .fdiv a => Sys2Proof.Machine.execFdiv a s
  | .fmin a => Sys2Proof.Machine.execFmin a s
  | .fmax a => Sys2Proof.Machine.execFmax a s
  | .famax a => Sys2Proof.Machine.execFamax a s
  | .fclmp a => Sys2Proof.Machine.execFclmp a s
  | .frint a => Sys2Proof.Machine.execFrint a s
  | .ffrac a => Sys2Proof.Machine.execFfrac a s
  | .fscale a => Sys2Proof.Machine.execFscale a s
  | .fgetx a => Sys2Proof.Machine.execFgetx a s
  | .fclass a => Sys2Proof.Machine.execFclass a s
  | .fcmpEq a => Sys2Proof.Machine.execFcmpEq a s
  | .fcmpNe a => Sys2Proof.Machine.execFcmpNe a s
  | .fcmpLt a => Sys2Proof.Machine.execFcmpLt a s
  | .fcmpLe a => Sys2Proof.Machine.execFcmpLe a s
  | .fcmpGt a => Sys2Proof.Machine.execFcmpGt a s
  | .fcmpGe a => Sys2Proof.Machine.execFcmpGe a s
  | .fcmpUn a => Sys2Proof.Machine.execFcmpUn a s
  | .fdot2 a => Sys2Proof.Machine.execFdot2 a s
  | .fcpys a => Sys2Proof.Machine.execFcpys a s
  | .rcp a => Sys2Proof.Machine.execRcp a s
  | .rsq a => Sys2Proof.Machine.execRsq a s
  | .sqrt a => Sys2Proof.Machine.execSqrt a s
  | .exp2 a => Sys2Proof.Machine.execExp2 a s
  | .log2 a => Sys2Proof.Machine.execLog2 a s
  | .sinpi a => Sys2Proof.Machine.execSinpi a s
  | .cospi a => Sys2Proof.Machine.execCospi a s
  | .tanh a => Sys2Proof.Machine.execTanh a s
  | .cvtF32E4m3 a => Sys2Proof.Machine.execCvtF32E4m3 a s
  | .cvtF32Bf16 a => Sys2Proof.Machine.execCvtF32Bf16 a s
  | .cvtF32F16 a => Sys2Proof.Machine.execCvtF32F16 a s
  | .cvtBf16F32 a => Sys2Proof.Machine.execCvtBf16F32 a s
  | .cvtF16F32 a => Sys2Proof.Machine.execCvtF16F32 a s
  | .cvtE4m3F32 a => Sys2Proof.Machine.execCvtE4m3F32 a s
  | .cvtE4m3Bf16 a => Sys2Proof.Machine.execCvtE4m3Bf16 a s
  | .cvtI32F32 a => Sys2Proof.Machine.execCvtI32F32 a s
  | .cvtI8F32 a => Sys2Proof.Machine.execCvtI8F32 a s
  | .cvtF32I32 a => Sys2Proof.Machine.execCvtF32I32 a s
  | .cvtF32I8 a => Sys2Proof.Machine.execCvtF32I8 a s
  | .cvtI8I32 a => Sys2Proof.Machine.execCvtI8I32 a s
  | .tunpk a => Sys2Proof.Machine.execTunpk a s
  | .vget a => Sys2Proof.Machine.execVget a s
  | .vput a => Sys2Proof.Machine.execVput a s
  | .vrot a => Sys2Proof.Machine.execVrot a s
  | .vslide a => Sys2Proof.Machine.execVslide a s
  | .vbcast a => Sys2Proof.Machine.execVbcast a s
  | .voteAll a => Sys2Proof.Machine.execVoteAll a s
  | .voteAny a => Sys2Proof.Machine.execVoteAny a s
  | .ballot a => Sys2Proof.Machine.execBallot a s
  | .vmatch a => Sys2Proof.Machine.execVmatch a s
  | .lredIadd a => Sys2Proof.Machine.execLredIadd a s
  | .lredImin a => Sys2Proof.Machine.execLredImin a s
  | .lredImax a => Sys2Proof.Machine.execLredImax a s
  | .lredFadd a => Sys2Proof.Machine.execLredFadd a s
  | .lredFmin a => Sys2Proof.Machine.execLredFmin a s
  | .lredFmax a => Sys2Proof.Machine.execLredFmax a s
  | .lredOr a => Sys2Proof.Machine.execLredOr a s
  | .scanIadd a => Sys2Proof.Machine.execScanIadd a s
  | .scanFadd a => Sys2Proof.Machine.execScanFadd a s
  | .scanImax a => Sys2Proof.Machine.execScanImax a s
  | .vsqz a => Sys2Proof.Machine.execVsqz a s
  | .ld a => Sys2Proof.Machine.execLd a s
  | .st a => Sys2Proof.Machine.execSt a s
  | .ldAcq a => Sys2Proof.Machine.execLdAcq a s
  | .stRel a => Sys2Proof.Machine.execStRel a s
  | .ldc a => Sys2Proof.Machine.execLdc a s
  | .pref a => Sys2Proof.Machine.execPref a s
  | .spld a => Sys2Proof.Machine.execSpld a s
  | .spst a => Sys2Proof.Machine.execSpst a s
  | .spldp a => Sys2Proof.Machine.execSpldp a s
  | .spstp a => Sys2Proof.Machine.execSpstp a s
  | .spatom a => Sys2Proof.Machine.execSpatom a s
  | .spatomCas a => Sys2Proof.Machine.execSpatomCas a s
  | .atom a => Sys2Proof.Machine.execAtom a s
  | .atomCas a => Sys2Proof.Machine.execAtomCas a s
  | .atomF a => Sys2Proof.Machine.execAtomF a s
  | .mred a => Sys2Proof.Machine.execMred a s
  | .mredF a => Sys2Proof.Machine.execMredF a s
  | .fence a => Sys2Proof.Machine.execFence a s
  | .fenceAll a => Sys2Proof.Machine.execFenceAll a s
  | .waitaddr a => Sys2Proof.Machine.execWaitaddr a s
  | .lease a => Sys2Proof.Machine.execLease a s
  | .lrel a => Sys2Proof.Machine.execLrel a s
  | .cflush a => Sys2Proof.Machine.execCflush a s
  | .cinv a => Sys2Proof.Machine.execCinv a s
  | .ldb a => Sys2Proof.Machine.execLdb a s
  | .tld a => Sys2Proof.Machine.execTld a s
  | .tst a => Sys2Proof.Machine.execTst a s
  | .tclaim a => Sys2Proof.Machine.execTclaim a s
  | .tready a => Sys2Proof.Machine.execTready a s
  | .tdrain a => Sys2Proof.Machine.execTdrain a s
  | .tfree a => Sys2Proof.Machine.execTfree a s
  | .tdef a => Sys2Proof.Machine.execTdef a s
  | .hoist a => Sys2Proof.Machine.execHoist a s
  | .hoistT a => Sys2Proof.Machine.execHoistT a s
  | .hoistMc a => Sys2Proof.Machine.execHoistMc a s
  | .hoistSt a => Sys2Proof.Machine.execHoistSt a s
  | .qfence a => Sys2Proof.Machine.execQfence a s
  | .wload a => Sys2Proof.Machine.execWload a s
  | .mmaE4m3 a => Sys2Proof.Machine.execMmaE4m3 a s
  | .mmaI8 a => Sys2Proof.Machine.execMmaI8 a s
  | .mmaBf16 a => Sys2Proof.Machine.execMmaBf16 a s
  | .mmaTi8 a => Sys2Proof.Machine.execMmaTi8 a s
  | .mmaDist a => Sys2Proof.Machine.execMmaDist a s
  | .tsacc a => Sys2Proof.Machine.execTsacc a s
  | .tsaccI a => Sys2Proof.Machine.execTsaccI a s
  | .topk a => Sys2Proof.Machine.execTopk a s
  | .accRd a => Sys2Proof.Machine.execAccRd a s
  | .accSt a => Sys2Proof.Machine.execAccSt a s
  | .accClr a => Sys2Proof.Machine.execAccClr a s
  | .chAcq a => Sys2Proof.Machine.execChAcq a s
  | .chPut a => Sys2Proof.Machine.execChPut a s
  | .chTake a => Sys2Proof.Machine.execChTake a s
  | .chFree a => Sys2Proof.Machine.execChFree a s
  | .evAdd a => Sys2Proof.Machine.execEvAdd a s
  | .evSet a => Sys2Proof.Machine.execEvSet a s
  | .evRd a => Sys2Proof.Machine.execEvRd a s
  | .bar a => Sys2Proof.Machine.execBar a s
  | .barArv a => Sys2Proof.Machine.execBarArv a s
  | .capEnter a => Sys2Proof.Machine.execCapEnter a s
  | .capStep a => Sys2Proof.Machine.execCapStep a s
  | .capEnd a => Sys2Proof.Machine.execCapEnd a s
  | .capResult a => Sys2Proof.Machine.execCapResult a s
  | .chTryacq a => Sys2Proof.Machine.execChTryacq a s
  | .chTrytake a => Sys2Proof.Machine.execChTrytake a s
  | .pairIssue p => Sys2Proof.Machine.execPairIssue p s
  | .issueCycle core iss => Sys2Proof.Machine.execIssueCycle core iss s
  | .resultReturn crew id => Sys2Proof.Machine.execResultReturn crew id s
  | .runLimit crew unit => Sys2Proof.Machine.execRunLimit crew unit s
  | .trapEntry crew unit => Sys2Proof.Machine.execTrapEntry crew unit s
  | .dozeEnd crew unit => Sys2Proof.Machine.execDozeEnd crew unit s
  | .unitWake crew unit => Sys2Proof.Machine.execUnitWake crew unit s
  | .tileStall crew unit => Sys2Proof.Machine.execTileStall crew unit s
  | .chuteWaitSuspend crew unit => Sys2Proof.Machine.execChuteWaitSuspend crew unit s
  | .creditNotification id => Sys2Proof.Machine.execCreditNotification id s
  | .hoistLanding core q id n => Sys2Proof.Machine.execHoistLanding core q id n s
  | .hoistComplete core q id => Sys2Proof.Machine.execHoistComplete core q id s
  | .hoistFault core q id => Sys2Proof.Machine.execHoistFault core q id s
  | .taskStart core q id => Sys2Proof.Machine.execTaskStart core q id s
  | .taskComplete core q id => Sys2Proof.Machine.execTaskComplete core q id s
  | .storeSend crew id => Sys2Proof.Machine.execStoreSend crew id s
  | .storeAck id scope => Sys2Proof.Machine.execStoreAck id scope s
  | .tableWalk core va wr => Sys2Proof.Machine.execTableWalk core va wr s
  | .peerProbe core line => Sys2Proof.Machine.execPeerProbe core line s
  | .probeRelay id => Sys2Proof.Machine.execProbeRelay id s
  | .bankAccept bank => Sys2Proof.Machine.execBankAccept bank s
  | .ownershipGrant line => Sys2Proof.Machine.execOwnershipGrant line s
  | .memoryRead line key => Sys2Proof.Machine.execMemoryRead line key s
  | .memoryWrite line key data => Sys2Proof.Machine.execMemoryWrite line key data s
  | .keySweepDone slot => Sys2Proof.Machine.execKeySweepDone slot s
  | .retentionEntry group => Sys2Proof.Machine.execRetentionEntry group s
  | .retentionExit group => Sys2Proof.Machine.execRetentionExit group s
  | .leaseExpire crew line => Sys2Proof.Machine.execLeaseExpire crew line s
  | .capsuleDeschedule crew => Sys2Proof.Machine.execCapsuleDeschedule crew s
  | .adoptionNotice id => Sys2Proof.Machine.execAdoptionNotice id s
  | .capsuleDelivery id => Sys2Proof.Machine.execCapsuleDelivery id s
  | .queueTailWrite queue => Sys2Proof.Machine.execQueueTailWrite queue s
  | .packetReread queue => Sys2Proof.Machine.execPacketReread queue s
  | .packetLandTimeout queue => Sys2Proof.Machine.execPacketLandTimeout queue s
  | .launch queue => Sys2Proof.Machine.execLaunch queue s
  | .admissionResume launch => Sys2Proof.Machine.execAdmissionResume launch s
  | .depend queue => Sys2Proof.Machine.execDepend queue s
  | .dependSatisfied queue => Sys2Proof.Machine.execDependSatisfied queue s
  | .signal queue => Sys2Proof.Machine.execSignal queue s
  | .timestamp queue => Sys2Proof.Machine.execTimestamp queue s
  | .packetComplete queue index => Sys2Proof.Machine.execPacketComplete queue index s
  | .createQueue queue => Sys2Proof.Machine.execCreateQueue queue s
  | .destroyQueue queue => Sys2Proof.Machine.execDestroyQueue queue s
  | .preempt queue => Sys2Proof.Machine.execPreempt queue s
  | .halt queue => Sys2Proof.Machine.execHalt queue s
  | .resume queue => Sys2Proof.Machine.execResume queue s
  | .abort queue => Sys2Proof.Machine.execAbort queue s
  | .setRoot queue => Sys2Proof.Machine.execSetRoot queue s
  | .invalidate queue => Sys2Proof.Machine.execInvalidate queue s
  | .setGrant queue => Sys2Proof.Machine.execSetGrant queue s
  | .keyLive queue => Sys2Proof.Machine.execKeyLive queue s
  | .keyDiscard queue => Sys2Proof.Machine.execKeyDiscard queue s
  | .frame queue => Sys2Proof.Machine.execFrame queue s
  | .retain queue => Sys2Proof.Machine.execRetain queue s
  | .partition queue => Sys2Proof.Machine.execPartition queue s
  | .resetPart queue => Sys2Proof.Machine.execResetPart queue s
  | .clusterWipe part => Sys2Proof.Machine.execClusterWipe part s
  | .setDebugAccess queue => Sys2Proof.Machine.execSetDebugAccess queue s
  | .setDebugTracing queue => Sys2Proof.Machine.execSetDebugTracing queue s
  | .setDebugTraceBuffer queue => Sys2Proof.Machine.execSetDebugTraceBuffer queue s
  | .setDebugCounters queue => Sys2Proof.Machine.execSetDebugCounters queue s
  | .policyLoad queue => Sys2Proof.Machine.execPolicyLoad queue s
  | .policyUnload queue => Sys2Proof.Machine.execPolicyUnload queue s
  | .budget queue => Sys2Proof.Machine.execBudget queue s
  | .share queue => Sys2Proof.Machine.execShare queue s
  | .param queue => Sys2Proof.Machine.execParam queue s
  | .blockPlace launch block core => Sys2Proof.Machine.execBlockPlace launch block core s
  | .crewStart core bslot => Sys2Proof.Machine.execCrewStart core bslot s
  | .drainToSave core bslot => Sys2Proof.Machine.execDrainToSave core bslot s
  | .blockSave core bslot => Sys2Proof.Machine.execBlockSave core bslot s
  | .blockFlush core bslot => Sys2Proof.Machine.execBlockFlush core bslot s
  | .blockRestore launch block core => Sys2Proof.Machine.execBlockRestore launch block core s
  | .savedBlockRunnable launch block => Sys2Proof.Machine.execSavedBlockRunnable launch block s
  | .rebalance launch => Sys2Proof.Machine.execRebalance launch s
  | .budgetCharge => Sys2Proof.Machine.execBudgetCharge s
  | .budgetPeriod => Sys2Proof.Machine.execBudgetPeriod s
  | .enqueue cluster launch block => Sys2Proof.Machine.execEnqueue cluster launch block s
  | .pick cluster core => Sys2Proof.Machine.execPick cluster core s
  | .tick cluster => Sys2Proof.Machine.execTick cluster s
  | .block core bslot => Sys2Proof.Machine.execBlock core bslot s
  | .wake cluster launch block => Sys2Proof.Machine.execWake cluster launch block s
  | .routineInvoke cluster => Sys2Proof.Machine.execRoutineInvoke cluster s
  | .routineOverrun cluster => Sys2Proof.Machine.execRoutineOverrun cluster s
  | .holderChange cluster => Sys2Proof.Machine.execHolderChange cluster s
  | .floorOverdue cluster => Sys2Proof.Machine.execFloorOverdue cluster s
  | .migrationTake die => Sys2Proof.Machine.execMigrationTake die s
  | .faultRecordWrite ring => Sys2Proof.Machine.execFaultRecordWrite ring s
  | .faultRingHead ring => Sys2Proof.Machine.execFaultRingHead ring s
  | .softError code owner index => Sys2Proof.Machine.execSoftError code owner index s
  | .eccCorrection die => Sys2Proof.Machine.execEccCorrection die s
  | .correctedSummary die => Sys2Proof.Machine.execCorrectedSummary die s
  | .firmwareCrash die cpcore x => Sys2Proof.Machine.execFirmwareCrash die cpcore x s
  | .firmwareRestart die cpcore => Sys2Proof.Machine.execFirmwareRestart die cpcore s
  | .identify => Sys2Proof.Machine.execIdentify s
  | .bootLoad offset chunk => Sys2Proof.Machine.execBootLoad offset chunk s
  | .start who => Sys2Proof.Machine.execStart who s
  | .verificationEnd => Sys2Proof.Machine.execVerificationEnd s
  | .attest nonce => Sys2Proof.Machine.execAttest nonce s
  | .spoilRead index => Sys2Proof.Machine.execSpoilRead index s
  | .reset => Sys2Proof.Machine.execReset s
  | .powerOnReset => Sys2Proof.Machine.execPowerOnReset s
  | .moduleReset => Sys2Proof.Machine.execModuleReset s
  | .ckResync die => Sys2Proof.Machine.execCkResync die s
  | .lifeCycleChange target signature => Sys2Proof.Machine.execLifeCycleChange target signature s
  | .powerArbiter => Sys2Proof.Machine.execPowerArbiter s
  | .overcurrent die => Sys2Proof.Machine.execOvercurrent die s
  | .linkDown port => Sys2Proof.Machine.execLinkDown port s
  | .rdmaWrite op => Sys2Proof.Machine.execRdmaWrite op s
  | .rdmaWriteWithImmediate op => Sys2Proof.Machine.execRdmaWriteWithImmediate op s
  | .rdmaSend op => Sys2Proof.Machine.execRdmaSend op s
  | .rdmaSendWithImmediate op => Sys2Proof.Machine.execRdmaSendWithImmediate op s
  | .rdmaRead op => Sys2Proof.Machine.execRdmaRead op s
  | .compareAndSwap op => Sys2Proof.Machine.execCompareAndSwap op s
  | .fetchAndAdd op => Sys2Proof.Machine.execFetchAndAdd op s
  | .doorbellWrite part wr => Sys2Proof.Machine.execDoorbellWrite part wr s
  | .rdmaCompletion part id status => Sys2Proof.Machine.execRdmaCompletion part id status s
  | .allReduce msg => Sys2Proof.Machine.execAllReduce msg s
  | .reduceScatter msg => Sys2Proof.Machine.execReduceScatter msg s
  | .allGather msg => Sys2Proof.Machine.execAllGather msg s
  | .broadcast msg => Sys2Proof.Machine.execBroadcast msg s
  | .exportState msg => Sys2Proof.Machine.execExportState msg s
  | .importState msg => Sys2Proof.Machine.execImportState msg s
  | .registerWrite part value => Sys2Proof.Machine.execRegisterWrite part value s
  | .policyEnd => Sys2Proof.Machine.execPolicyEnd s
  | .policyAdd d a b => Sys2Proof.Machine.execPolicyAdd d a b s
  | .policySub d a b => Sys2Proof.Machine.execPolicySub d a b s
  | .policyMul d a b => Sys2Proof.Machine.execPolicyMul d a b s
  | .policyDivu d a b => Sys2Proof.Machine.execPolicyDivu d a b s
  | .policyRemu d a b => Sys2Proof.Machine.execPolicyRemu d a b s
  | .policyAnd d a b => Sys2Proof.Machine.execPolicyAnd d a b s
  | .policyOr d a b => Sys2Proof.Machine.execPolicyOr d a b s
  | .policyXor d a b => Sys2Proof.Machine.execPolicyXor d a b s
  | .policyShl d a b => Sys2Proof.Machine.execPolicyShl d a b s
  | .policyShru d a b => Sys2Proof.Machine.execPolicyShru d a b s
  | .policyShrs d a b => Sys2Proof.Machine.execPolicyShrs d a b s
  | .policyMin d a b => Sys2Proof.Machine.execPolicyMin d a b s
  | .policyMax d a b => Sys2Proof.Machine.execPolicyMax d a b s
  | .policyMinu d a b => Sys2Proof.Machine.execPolicyMinu d a b s
  | .policyMaxu d a b => Sys2Proof.Machine.execPolicyMaxu d a b s
  | .policySlt d a b => Sys2Proof.Machine.execPolicySlt d a b s
  | .policySltu d a b => Sys2Proof.Machine.execPolicySltu d a b s
  | .policySeq d a b => Sys2Proof.Machine.execPolicySeq d a b s
  | .policyAddi d a imm => Sys2Proof.Machine.execPolicyAddi d a imm s
  | .policyAndi d a imm => Sys2Proof.Machine.execPolicyAndi d a imm s
  | .policyOri d a imm => Sys2Proof.Machine.execPolicyOri d a imm s
  | .policyXori d a imm => Sys2Proof.Machine.execPolicyXori d a imm s
  | .policyShli d a imm => Sys2Proof.Machine.execPolicyShli d a imm s
  | .policyShrui d a imm => Sys2Proof.Machine.execPolicyShrui d a imm s
  | .policyShrsi d a imm => Sys2Proof.Machine.execPolicyShrsi d a imm s
  | .policyLi d imm => Sys2Proof.Machine.execPolicyLi d imm s
  | .policyLcat d imm => Sys2Proof.Machine.execPolicyLcat d imm s
  | .policyLd d a imm => Sys2Proof.Machine.execPolicyLd d a imm s
  | .policyLdw d a imm => Sys2Proof.Machine.execPolicyLdw d a imm s
  | .policySt d a imm => Sys2Proof.Machine.execPolicySt d a imm s
  | .policyStw d a imm => Sys2Proof.Machine.execPolicyStw d a imm s
  | .policyRdc d imm => Sys2Proof.Machine.execPolicyRdc d imm s
  | .policyRdcx d a imm => Sys2Proof.Machine.execPolicyRdcx d a imm s
  | .policySetd a imm => Sys2Proof.Machine.execPolicySetd a imm s
  | .policyBeq d a imm => Sys2Proof.Machine.execPolicyBeq d a imm s
  | .policyBne d a imm => Sys2Proof.Machine.execPolicyBne d a imm s
  | .policyBlt d a imm => Sys2Proof.Machine.execPolicyBlt d a imm s
  | .policyBltu d a imm => Sys2Proof.Machine.execPolicyBltu d a imm s
  | .policyJmp imm => Sys2Proof.Machine.execPolicyJmp imm s
  | .policyLoopi imm => Sys2Proof.Machine.execPolicyLoopi imm s
  | .policyLoopr a => Sys2Proof.Machine.execPolicyLoopr a s
  | .policyEndl => Sys2Proof.Machine.execPolicyEndl s
  | .policyIter d => Sys2Proof.Machine.execPolicyIter d s
  | .lanePortPerform core src => Sys2Proof.Machine.execLanePortPerform core src s
  | .linkUp port => Sys2Proof.Machine.execLinkUp port s
  | .powerLoss => Sys2Proof.Machine.execPowerLoss s

end Sys2Proof.Machine
end

