-- ==== Sys2Proof/Machine/Schedule.lean ====
section
/-! DEFINITION. What the machine does next (log 1): the unit that was chosen issues what stands at its PC; the agenda's step comes; a policy
engine performs the operation that is due; then, within one ck, results, lane ports and engines, the issuers, and whatever else the device
does on its own; one ck passes. The order within a ck is that of R176, R185, R201, R223 and R244. -/

namespace Sys2Proof.Machine

/-- What a step does: an instruction in a state, or a step without one. -/
inductive Choice where
  | run (i : Instr) (s : State)
  | quiet (s : State)

/-! ## The unit in focus (R49, R67, R68) -/

def decodeCause : DecodeErr → Cause
  | .illegalOpcode => .illegalOpcode
  | .illegalField => .illegalField
  | .pairRule => .pairRule

/-- A trap at the PC of a unit whose bytes are no instruction; a stop of the debug registers comes before it (R114). -/
def State.badFetch (s : State) (k u len : Nat) (c : Crew) (h : CrewUnit) (t : Trap) : State :=
  match debugStop s ⟨k, u, c, h, Half.args { opcode := 0, mod := 0, dst := .none, in0 := .none, in1 := .none, in2 := .none }, len, 0⟩ with
  | some (s, kind, code) => s.takeTrap k u len (breakTrap kind code)
  | none => s.takeTrap k u len t

/-- Fetches and decodes at the unit's PC. -/
noncomputable def State.unitChoice (s : State) (k u : Nat) (c : Crew) (h : CrewUnit) (l : Launch) : Choice :=
  match s.fetch (coreOf k) c.launch l h.pc h.origin with
  | (s, .error (.trap t)) => .quiet ({ s with focus := none }.badFetch k u 0 c h t)
  | (s, .error (.waits n)) => .quiet ({ s with focus := none }.stallUnit k u (.line n))
  | (s, .ok (w, len)) => match decode len w with
    | .ok i => .run i s
    | .error e => .quiet ({ s with focus := none }.badFetch k u len c h { cause := decodeCause e })

/-- The step changes something. -/
def State.live (s : State) (i : Instr) : Bool := match exec i s with | .next t => !decide (t = s) | _ => false

/-! ## Steps that the device makes on its own -/

noncomputable def unitSteps (ck k u : Nat) (h : CrewUnit) : List Instr :=
  match h.st with
  | .limited => [Instr.runLimit k u]
  | .entering _ _ => [Instr.trapEntry k u]
  | .dozing _ => [Instr.dozeEnd k u]
  | .suspended _ _ => if wakeDue ck h.st then [Instr.unitWake k u] else []
  | .stalled _ => [Instr.chuteWaitSuspend k u, Instr.tileStall k u]
  | _ => []

noncomputable def resultSteps (k : Nat) (c : Crew) : List Instr := c.out.map fun r => Instr.resultReturn k r.id

noncomputable def crewSteps (ck k : Nat) (c : Crew) : List Instr :=
  let units : List Instr := c.units.flatMap fun (e : Nat × CrewUnit) => unitSteps ck k e.1 e.2
  let stores : List Instr := (List.range c.sbuf.length).map fun i => Instr.storeSend k i
  let leases : List Instr := (c.leases ++ c.cap.recLeases).map fun l => Instr.leaseExpire k l.line
  units ++ stores ++ leases ++ (if c.cap.mode || !c.leases.isEmpty then [Instr.capsuleDeschedule k] else [])

noncomputable def itemSteps (core q : Nat) (i : QItem) : List Instr :=
  match i with
  | .hoist h => [Instr.hoistLanding core q h.id 64, Instr.hoistFault core q h.id, Instr.hoistComplete core q h.id]
  | .task t => [Instr.taskStart core q t.id, Instr.taskComplete core q t.id]

noncomputable def portSteps (core : Nat) (c : Core) : List Instr :=
  match c.portNext with | some src => [Instr.lanePortPerform core src] | none => []

noncomputable def engineSteps (core : Nat) (c : Core) : List Instr :=
  c.queues.flatMap fun (e : Nat × List QItem) => e.2.flatMap fun i => itemSteps core e.1 i

noncomputable def State.memorySteps (s : State) : List Instr :=
  let acks : List Instr := s.flights.filterMap fun (e : Nat × Flight) => e.2.acks.head?.map fun scope => Instr.storeAck e.1 scope
  let probes : List Instr := s.probes.flatMap fun (e : Nat × Probe) => [Instr.peerProbe e.2.core e.2.line, Instr.probeRelay e.1]
  let banks : List Instr := s.banks.flatMap fun (e : Nat × Bank) =>
    Instr.bankAccept e.1 :: e.2.active.map fun r => Instr.ownershipGrant r.line
  let credits : List Instr := s.credits.map fun (e : Nat × Credit) => Instr.creditNotification e.1
  let keys : List Instr := s.keys.map fun (e : Nat × KeyState) => Instr.keySweepDone e.1
  let groups : List Instr := s.retention.flatMap fun (e : Nat × Retention) => [Instr.retentionEntry e.1, Instr.retentionExit e.1]
  acks ++ probes ++ banks ++ credits ++ keys ++ groups

noncomputable def blockSteps (key : Nat) (b : Block) : List Instr :=
  let core := key / 16
  let bslot := key % 16
  if b.chute then []
  else [Instr.crewStart core bslot, Instr.drainToSave core bslot, Instr.blockSave core bslot, Instr.blockFlush core bslot,
    Instr.block core bslot]

noncomputable def State.launchSteps (s : State) (id : Nat) (l : Launch) : List Instr :=
  let requeue : List Instr := l.requeue.map fun (e : Nat × Nat) => Instr.enqueue e.2 id e.1
  let saved : List Instr := l.saved.flatMap fun (e : Nat × Saved) =>
    [Instr.savedBlockRunnable id e.1, Instr.enqueue (e.2.core / 4) id e.1, Instr.wake (e.2.core / 4) id e.1]
  let new : List Instr := if l.benches.isEmpty then [] else (s.coresOf l.part).map fun core => Instr.blockPlace id l.nextBlock core
  [Instr.admissionResume id, Instr.rebalance id] ++ requeue ++ saved ++ new

/-- A pick for the core waits for a decision. -/
def Cluster.picking (c : Cluster) (core : Nat) : Bool :=
  (c.pending ++ c.running.toList).any fun i => i.point == pointPick && i.core == core

/-- The cores of a cluster, those with fewer blocks first. -/
def State.coreOrder (s : State) (n : Nat) : List Nat :=
  let load (k : Nat) : Nat := (s.blocks.filter fun e => e.1 / 16 == k).length
  let rec put (k : Nat) : List Nat → List Nat
    | [] => [k]
    | x :: xs => if load k < load x then k :: x :: xs else x :: put k xs
  [4 * n, 4 * n + 1, 4 * n + 2, 4 * n + 3].foldl (fun t k => put k t) []

noncomputable def State.clusterSteps (s : State) (n : Nat) (c : Cluster) : List Instr :=
  let place : List Instr := c.granted.map fun g =>
    if g.saved then Instr.blockRestore g.launch g.block g.core else Instr.blockPlace g.launch g.block g.core
  let picks : List Instr := (s.coreOrder n).filterMap fun core =>
    if c.runq.isEmpty || c.picking core then none else some (Instr.pick n core)
  place ++ picks ++ [Instr.tick n, Instr.holderChange n] ++ (if c.pending.isEmpty && c.ended.isNone then [] else [Instr.routineInvoke n])

/-- Packets that a complex may start. -/
noncomputable def packetSteps (q : Nat) : List Instr :=
  [Instr.launch q, Instr.depend q, Instr.signal q, Instr.timestamp q, Instr.createQueue q, Instr.destroyQueue q, Instr.preempt q,
   Instr.halt q, Instr.resume q, Instr.abort q, Instr.setRoot q, Instr.invalidate q, Instr.setGrant q, Instr.keyLive q,
   Instr.keyDiscard q, Instr.frame q, Instr.retain q, Instr.partition q, Instr.resetPart q, Instr.setDebugAccess q,
   Instr.setDebugTracing q, Instr.setDebugTraceBuffer q, Instr.setDebugCounters q, Instr.policyLoad q, Instr.policyUnload q,
   Instr.budget q, Instr.share q, Instr.param q]

/-- What the complexes do for one queue. -/
noncomputable def State.queueSteps (s : State) (q : Nat) (x : Queue) : List Instr :=
  let late : List Instr := if x.unlanded.isSome then [Instr.packetLandTimeout q, Instr.packetReread q] else []
  let start : List Instr := if (s.startable q x).isSome then packetSteps q else []
  let depend : List Instr := if x.depend then [Instr.dependSatisfied q] else []
  let done : List Instr := x.started.map fun y => Instr.packetComplete q y.index
  Instr.queueTailWrite q :: (late ++ start ++ depend ++ done)

noncomputable def State.moduleSteps (s : State) : List Instr :=
  let rings : List Instr := s.rings.flatMap fun (e : Nat × Ring) => [Instr.faultRecordWrite e.1, Instr.faultRingHead e.1]
  let moves : List Instr := s.migRing.map fun (e : Nat × List Migrant) => Instr.migrationTake e.1
  let wipes : List Instr := s.parts.map fun (e : Nat × Part) => Instr.clusterWipe e.1
  let restarts : List Instr := s.cpDown.map fun n => Instr.firmwareRestart (n / 8) (n % 8)
  let resyncs : List Instr := s.ckSkew.map fun d => Instr.ckResync d
  let summaries : List Instr := (List.range 4).map fun d => Instr.correctedSummary d
  summaries ++ rings ++ moves ++ wipes ++ restarts ++ resyncs ++
    [Instr.verificationEnd, Instr.budgetCharge, Instr.budgetPeriod, Instr.powerArbiter]

/-- The next new block of a kernel, once no decision of the partition's clusters is open: a launch keeps at most 64 of them queued (log 20). -/
noncomputable def State.newBlock (s : State) (id : Nat) (l : Launch) : List Instr :=
  let ns := s.clustersOf l.part
  let queued := ((ns.map fun n => ((s.cluster n).runq.filter fun r => r.launch == id && !r.saved).length).sum : Nat)
  let quiet := ns.all fun n => (s.cluster n).granted.isEmpty && (s.cluster n).pending.isEmpty && (s.cluster n).running.isNone
  if !l.benches.isEmpty || !quiet || decide (64 ≤ queued) then []
  else match s.roomiest ns with
    | some n => [Instr.enqueue n id l.nextBlock]
    | none => []

/-- What comes first in a ck: results, the lane ports of all cores, then the engines and deliveries of capsules (R176, R185, R201, R223). -/
noncomputable def State.firstSteps (s : State) : List Instr :=
  let results : List Instr := s.crews.flatMap fun (e : Nat × Crew) => resultSteps e.1 e.2
  let ports : List Instr := s.cores.flatMap fun (e : Nat × Core) => portSteps e.1 e.2
  let engines : List Instr := s.cores.flatMap fun (e : Nat × Core) => engineSteps e.1 e.2
  let notices : List Instr := s.notices.flatMap fun (e : Nat × Notice) => [Instr.adoptionNotice e.1, Instr.capsuleDelivery e.1]
  results ++ ports ++ engines ++ notices

/-- What comes after the issuers: every other step that the device might make on its own. The floor goes before any decision (R428), a halt
before a rebalance (R244). -/
noncomputable def State.lastSteps (s : State) : List Instr :=
  let crews : List Instr := s.crews.flatMap fun (e : Nat × Crew) => crewSteps s.ck e.1 e.2
  let blocks : List Instr := s.blocks.flatMap fun (e : Nat × Block) => blockSteps e.1 e.2
  let launches : List Instr := s.launches.flatMap fun (e : Nat × Launch) => s.launchSteps e.1 e.2
  let clusters : List Instr := s.clusters.flatMap fun (e : Nat × Cluster) => s.clusterSteps e.1 e.2
  let queues : List Instr := s.queues.flatMap fun (e : Nat × Queue) => s.queueSteps e.1 e.2
  let new : List Instr := s.launches.flatMap fun (e : Nat × Launch) => s.newBlock e.1 e.2
  let floors : List Instr := s.clusters.map fun (e : Nat × Cluster) => Instr.floorOverdue e.1
  floors ++ crews ++ s.memorySteps ++ blocks ++ queues ++ launches ++ clusters ++ s.moduleSteps ++ new

/-- The first of them that is due and changes something. -/
noncomputable def State.firstStep (s : State) : Option Instr := s.firstSteps.find? fun i => s.live i
noncomputable def State.lastStep (s : State) : Option Instr := s.lastSteps.find? fun i => s.live i

/-! ## Issuers and the clock (R83, R116) -/

/-- Place of an instruction among those of its ck (R201, R223): requests of other cores at an instance or a counter come after those of its
own core, EV.SET after every EV.ADD, then SUSPEND's registration, then EV.RD. -/
def Ctx.turnClass (x : Ctx) (s : State) (op : Nat) : Nat :=
  let chute (n : Nat) : Nat := match s.inst? x.core n with | some (home, _) => if home = x.core then 1 else 2 | none => 1
  if op = 0xD5 then (if x.counterCore = x.core then 1 else 2)
  else if op = 0xD6 then 3
  else if op = 0x0B then 4
  else if op = 0xD7 then 5
  else if op = 0xD1 || op = 0xD3 || op = 0xDE || op = 0xDF then chute x.chuteIndex
  else if op = 0xD2 || op = 0xD4 then chute (field (x.scalar x.a.in2).toNat 14 9)
  else 1

/-- The place of what an issuer has chosen. -/
def State.issuerClass (s : State) (t : Nat) : Nat :=
  match s.chosen (t / 4) (t % 4) with
  | none => 1
  | some (k, u, _) => match s.crews.get? k with
    | none => 1
    | some c => match c.units.get? u, s.launches.get? c.launch with
      | some h, some l => match (s.fetch (coreOf k) c.launch l h.pc h.origin).2 with
        | .ok (w, _) => match decodeArgs .f128 w with
          | some a => Ctx.turnClass ⟨k, u, c, h, a, 16, 0⟩ s (w.extractLsb' 3 8).toNat
          | none => 1
        | .error _ => 1
      | _, _ => 1

/-- The next issuer of this ck, as 512 * place + 4 * core + issuer: of those that have a candidate and have not issued, the first by place, then
by number. One whose choice belongs before a place already reached has lost its turn (R201). -/
def State.nextIssuer (s : State) : Option Nat :=
  (((s.crews.map fun e => e.1 / 8).eraseDups.filter fun t =>
    !s.hasIssued t && s.ungated (t / 4) && (s.chosen (t / 4) (t % 4)).isSome).filterMap fun t =>
      if s.issuerClass t < s.place then none else some (512 * s.issuerClass t + t)).min?

/-- What a unit's next instruction does now, where that is to stall: the unit is STALLED before it is chosen (R81). -/
noncomputable def State.stallOf (s : State) (k u : Nat) (c : Crew) (h : CrewUnit) (l : Launch) : Option Choice :=
  let stalled (t : State) : Bool := match (t.crews.get? k).bind fun c => c.units.get? u with
    | some h => (match h.st with | .stalled _ => true | _ => false)
    | none => false
  match { s with focus := some (k, u) }.unitChoice k u c h l with
  | .run i t => (match exec i t with | .next r => if stalled r then some (.run i t) else none | _ => none)
  | .quiet t => if stalled t then some (.quiet t) else none

/-- The first unit that might be chosen and whose next instruction stalls. -/
noncomputable def State.nextStall (s : State) : Option Choice :=
  s.crews.findSome? fun (e : Nat × Crew) => e.2.units.findSome? fun (x : Nat × CrewUnit) =>
    match s.launches.get? e.2.launch with
    | some l => if s.mayIssue e.1 x.1 e.2 x.2 then s.stallOf e.1 x.1 e.2 x.2 l else none
    | none => none

/-- Units of a launch on a core that are stalled on a hazard that has not cleared. -/
def State.stalledOn (s : State) (core launch : Nat) (p : Hazard → Bool) : Nat :=
  ((s.crews.filter fun e => coreOf e.1 == core && e.2.launch == launch).map fun e => (e.2.units.filter fun u => match u.2.st with
    | .stalled z => p z && !s.clear e.1 u.1 e.2 u.2 z
    | _ => false).length).sum

/-- What one ck adds to a counter of an event of a launch (R116). -/
def State.ckEvents (s : State) (core event launch : Nat) : Nat :=
  let here := s.crews.any fun e => coreOf e.1 == core && e.2.launch == launch
  match event with
  | 1 => if here then 1 else 0
  | 5 => s.stalledOn core launch fun z => match z with | .tokens _ => true | _ => false
  | 6 => s.stalledOn core launch fun z => match z with | .entry _ _ _ _ => true | _ => false
  | 7 => s.stalledOn core launch fun z => match z with | .chute _ _ | .queueRoom _ => true | _ => false
  | 13 => if here && !s.ungated core then 1 else 0
  | _ => 0

/-- A stall whose limit counts consecutive ck starts again while its hazard is clear (R184). -/
def State.restartLimits (s : State) : State :=
  s.mapCrews fun k c => c.mapUnits fun u h => match h.st with
    | .stalled z => if z.limited.isSome && s.clear k u c h z then { h with since := s.ck + 1 } else h
    | _ => h

/-- One ck passes. -/
def State.tickCk (s : State) : State :=
  let cores := s.cores.map fun (e : Nat × Core) => (e.1, if e.2.perf.isEmpty then e.2 else { e.2 with
    perf := e.2.perf.map fun (i, p) => (i, { p with count := p.count + BitVec.ofNat 64 (s.ckEvents e.1 p.event p.launch) }) })
  { { s with cores := cores }.useCycles.restartLimits.ageCandidates.traceNow.settlePorts with ck := s.ck + 1, phase := 0, place := 0, spent := [], accepted := [], moved := [], banked := [] }

/-! ## The choice -/

/-- The policy engine whose operation is due: past its allowance it is stopped, past its last word it ends (R410, R417, R421). -/
noncomputable def State.engineChoice (s : State) : Option Choice :=
  match s.engineOf with
  | none => none
  | some n =>
    let c := s.cluster n
    if s.ck < c.due then none
    else if c.code.allowance < c.cycles then some (.run (.routineOverrun n) s)
    else match c.code.words[c.word]? with
      | none => some (.run .policyEnd s)
      | some w => match decodePolicy w with
        | some i => some (.run i s)
        | none => some (.run .policyEnd s)

/-- Without an agenda: the parts of a ck in their order. -/
noncomputable def State.choiceOwn (s : State) : Choice :=
  match s.engineChoice with
  | some c => c
  | none => match (if s.phase = 0 then s.firstStep else none) with
    | some i => .run i s
    | none => match (if s.phase ≤ 1 then s.nextStall else none) with
      | some c => c
      | none => match (if s.phase ≤ 1 then s.nextIssuer else none) with
        | some n => .run (.issueCycle (n % 512 / 4) (n % 4)) { s with phase := 1, place := n / 512 }
        | none => match s.lastStep with
          | some i => .run i { s with phase := 2 }
          | none => .quiet s.tickCk

/-- What the next step does. Without supply only the outside acts (R448). -/
noncomputable def State.choice (s : State) : Choice :=
  match s.focus with
  | some (k, u) =>
    match s.crews.get? k with
    | none => .quiet { s with focus := none }
    | some c => match c.units.get? u, s.launches.get? c.launch with
      | some h, some l => s.unitChoice k u c h l
      | _, _ => .quiet { s with focus := none }
  | none => match s.agenda with
    | i :: rest =>
      let s := { s with agenda := rest }
      if i.isStep && (s.power || i == .powerOnReset) then .run i s else .quiet s
    | [] => if s.power then s.choiceOwn else .quiet s

/-! ## Placing an instruction (log 2) -/

/-- Launch, image start and routine window that placeWord uses: kernel launch 1 at 0x1000_0000, the window at the start of die 0's mailbox
SRAM. -/
def placedCode : Dword := 0x10000000

def placedLaunch : Launch :=
  let sh : Shape := { entry := 0, regs := 64, bound := 64, crews := 1, scratch := 1, wlines := 1, nx := 96, ny := 1, nz := 1 }
  { tenant := 0, part := 0, queue := 0, packet := 0, st := .running, nblocks := 1, nextBlock := 1, shape := sh, trapoff := 0xFFFFFFFF
    imagetag := 0, codesz := 128, code := placedCode, xmap := [0x0F], paramAddr := 0, parlen := 0, swap := false, restart := false
    trace := false, dbg := false, tbase := 0, tlen := 0, tset := false, groups := [], barriers := [], chutes := [], benches := []
    assign := [], moving := [], rebal := 1000, nextRebal := 0, saveAddr := 0, saveLen := 0, saved := [], requeue := []
    savedChutes := [], savedChuteBlocks := [], chuteExtents := [], lifetimes := [], runSum := 0, runCount := 0 }

/-- A routine of one word on cluster 0's engine, which performs it next. -/
def State.placePolicy (s : State) (w : Nat) : State :=
  let r : Routine := { words := [wordOf w], wbase := 0x0F0000000000, wlen := 65536, allowance := 2000, part := 0 }
  let i : Invocation := { point := 2, layer := 0, part := 0, launch := 0, block := 0, candidate := false, core := 0, since := 0 }
  { s.modCluster 0 fun c => { c with
      running := some i, started := 0, code := r, word := 0, regs := [], loops := [], decisions := [], cycles := 0 } with
    focus := none, agenda := [] }

/-- A crew in slot 0 of core 0 whose main unit has been chosen to issue the instruction, which the instruction cache holds. -/
def State.placeCrew (s : State) (w : Nat) : State :=
  let line : CodeLine :=
    { launch := 1, vline := placedCode.toNat / 128, bytes := leBytes 128 w, map := [true, true, true, true] }
  let crew : Crew := { Crew.seated 1 0 0 0 placedLaunch.shape s.ck with units := [(0, CrewUnit.start placedCode s.ck)] }
  let block : Block :=
    { launch := 1, number := 0, bench := 0, chute := false, base := 0, size := 1024, mem := [], wbase := 0, wlines := 1, wtab := []
      w0 := [], w1 := [], placed := s.ck, crews := [0], idleSince := none, strategy := 0, limit := 0 }
  { s.modCore 0 fun c => { c with icache := line :: c.icache.filter fun e => !(e.launch == 1 && e.vline == placedCode.toNat / 128) } with
    launches := s.launches.put 1 placedLaunch, blocks := s.blocks.put 0 block, crews := s.crews.put 0 crew, focus := some (0, 0) }

/-- An instruction of `nbits` bits where the next step fetches it. -/
def State.placeWord (s : State) (nbits w : Nat) : State := if nbits ≤ 32 then s.placePolicy w else s.placeCrew w

end Sys2Proof.Machine
end

