-- ==== Sys2Proof/Machine/Step.lean ====
section
/-! DEFINITION. One step of the machine, and an instruction placed where the next step fetches it. -/

namespace Sys2Proof.Machine

/-- One step: what State.choice chooses. -/
noncomputable def step (s : State) : Host.Outcome State Fault Refusal :=
  match s.choice with
  | .run i s => exec i s
  | .quiet s => .next s

/-- The state with an instruction where the next step fetches it (log 2): a policy word as the only word of a routine that runs on
cluster 0's engine, a crew instruction as the code at the PC of a unit that has been chosen to issue. -/
def State.withFetchWord (s : State) (nbits w : Nat) : State := s.placeWord nbits w

end Sys2Proof.Machine
end

