-- ==== Sys2Proof/Safety.lean ====
section
/-! DEFINITION. What counts as a safe run, and the terms that claims about one instruction use: when a crew instruction executes
normally, the state its effect starts from, and how its results are read back. -/

namespace Sys2Proof.Machine

/-- The step from this state neither faults nor refuses. -/
def State.goesOn (s : State) : Prop := ∃ t, step s = .next t

/-- The invariant that claims about runs use: physical memory lists rising addresses and no zero byte. -/
def State.Inv (s : State) : Prop := Memory.wf s.mem = true

/-- A run of n steps is safe. -/
def State.SafeFor (s : State) : Nat → Prop
  | 0 => s.Inv
  | n + 1 => s.Inv ∧ ∃ t, step s = .next t ∧ t.SafeFor n

/-! ## When a crew instruction executes normally -/

/-- The pipe of an opcode: B for class B, else A (R61, R66). -/
def pipeOf (op : Nat) : Nat := match row? op with | some r => if r.pc = .b then 1 else 0 | none => 0

/-- The unit of x is chosen to issue, and x holds its crew, its state and the fields and length of an instruction of an opcode. -/
def Ctx.at_ (x : Ctx) (op : Nat) (s : State) : Bool :=
  s.focus == some (x.k, x.u) && s.crews.get? x.k == some x.c && x.c.units.get? x.u == some x.h && x.len == x.a.form.bytes &&
  x.pipe == pipeOf op

/-- Nothing that stands before an instruction's own effect stops it (R67, R68): no debug stop, legal fields, the waited tokens at
zero, room in its own token, valid and settled register operands without soft errors, capsule mode left or an instruction that it
allows, and for a fence no outstanding result and no enabled flag. -/
def Ctx.ready (x : Ctx) (op : Nat) (s : State) : Bool :=
  x.at_ op s && (debugStop s x).isNone && x.a.ok op &&
  !((List.range 8).any fun n => x.a.wait.getLsbD n && x.c.tokens.getD n 0 != 0) &&
  !(x.a.tv && x.c.tokens.getD x.a.tok.toNat 0 == 63) && (regTrap op x.a x.pipe x.c x.u).isNone && (softRegister s op x).isNone &&
  !x.capsuleFault op &&
  !(isFence op && op != 0x0A && (x.c.waiting x.u || x.c.flagTest != 0))

/-- The state in which a ready instruction has its effect: the unit is no longer chosen. -/
def Ctx.start (_ : Ctx) (s : State) : State := { s with focus := none }

/-- What follows the effect of an instruction that makes no transfer: PC, switch marker, stop point, the counts of R116, the issuer's ck. -/
def Ctx.ends (x : Ctx) (t : State) : State := (t.finish x x.a.sw).noteIssue x

/-! ## Reading results back -/

/-- Lane l of an operand as the unit of x reads it in a later state. -/
def Ctx.reads (x : Ctx) (t : State) (o : Opnd) (l : Nat) : Word :=
  match t.crews.get? x.k with
  | some c => match c.units.get? x.u with
    | some h => ({ x with c := c, h := h } : Ctx).word o l
    | none => 0
  | none => 0

/-- What a register reads after a lane instruction gives f: active lanes of a vector register change, s63 stays zero, s60 to s62 keep
lanes of the unit's domain only (R53, R89, R126). -/
def Ctx.landed (x : Ctx) (o : Opnd) (f : Nat → Word) (l : Nat) : Word :=
  match o with
  | .v _ | .o _ => if x.h.mask.getLsbD l then f l else x.word o l
  | .s i => if i.val = 63 then 0 else if 60 ≤ i.val then f 0 &&& maskWord x.h.dom (i.val - 60) else f 0
  | _ => 0

/-- A crew's result on its way, the youngest one. -/
def State.youngest (t : State) (k : Nat) : Option Result := match t.crews.get? k with | some c => c.out.getLast? | none => none

/-- The byte of physical memory at an address. -/
def State.byteAt (s : State) (a : Nat) : Byte := s.mem.byte a

end Sys2Proof.Machine
end

