-- ==== Sys2Proof/Certificates/Slice0/Obligations.lean ====
section
/-! DEFINITION. The statements for the provers, with the few terms that they share. `x.ready op s` says that an instruction of opcode op
executes normally in s (R67, R68); `x.reads t o l` is what lane l of an operand reads in a later state t; `x.landed o f l` is what a
register reads once a result f has been written to it under R53, R89 and R126. -/

namespace Sys2Proof.Machine

/-! ## Fields of an instruction -/

/-- The fields of a 64-bit instruction without modifiers, tokens to wait for or a switch marker. -/
def fields (d a b c : Opnd) : Args :=
  { form := .f64, sw := false, wait := 0, mod := 0, dst := d, in0 := a, in1 := b, in2 := c, imm := 0, aux := 0, ctl := 0, tv := false
    tok := 0, scope := 0 }

/-- The fields of such a 128-bit instruction. -/
def longFields (d a b c : Opnd) : Args := { fields d a b c with form := .f128 }

/-! ## Terms of the lane instructions -/

/-- A ready instruction answers a next state in which its destination holds f (R53, R126). -/
def GivesWord (op : Nat) (ctor : Args → Instr) (f : Ctx → State → Nat → Word) : Prop :=
  ∀ (x : Ctx) (s : State), x.ready op s = true →
    ∃ t, exec (ctor x.a) s = .next t ∧ ∀ l < 96, x.reads t x.a.dst l = x.landed x.a.dst (f x s) l

/-- The same of a pair: bits [31:0] in the destination, bits [63:32] in the register after it (R130). -/
def GivesPair (op : Nat) (ctor : Args → Instr) (f : Ctx → State → Nat → Dword) : Prop :=
  ∀ (x : Ctx) (s : State), x.ready op s = true →
    ∃ t, exec (ctor x.a) s = .next t ∧ ∀ l < 96,
      x.reads t x.a.dst l = x.landed x.a.dst (fun l => (f x s l).setWidth 32) l ∧
      x.reads t (Opnd.next x.a.dst 1) l = x.landed (Opnd.next x.a.dst 1) (fun l => (f x s l >>> 32).setWidth 32) l

/-- The same of a mask in three scalar registers (R147). -/
def GivesMask (op : Nat) (ctor : Args → Instr) (f : Mask → Mask → Mask) : Prop :=
  ∀ (x : Ctx) (s : State), x.ready op s = true →
    ∃ t, exec (ctor x.a) s = .next t ∧ ∀ i < 3,
      x.reads t (Opnd.next x.a.dst i) 0 =
        x.landed (Opnd.next x.a.dst i) (fun _ => maskWord (f (x.triple x.a.in0) (x.triple x.a.in1)) i) 0

/-- The crew once a result has returned. -/
def Ctx.after (x : Ctx) (r : Result) : Crew := r.writes.foldl (fun c w => c.writeReg x.u w) x.c

/-- Lane l of an operand as the unit reads it in another state of its crew. -/
def Ctx.readsIn (x : Ctx) (c : Crew) (o : Opnd) (l : Nat) : Word :=
  match c.units.get? x.u with
  | some h => ({ x with c := c, h := h } : Ctx).word o l
  | none => 0

/-- The state holds the unit's result, which may return from the next ck on and is complete in itself, as the youngest on its way (R62). -/
def Ctx.awaits (x : Ctx) (s t : State) (r : Result) : Prop :=
  t.youngest x.k = some r ∧ r.unit = x.u ∧ r.due = s.ck + 1 ∧ r.parts = 0

/-- A ready variable-latency instruction answers a next state in which its result is on its way: once it has returned, the destination
holds f (R62, RESULT_RETURN). -/
def SendsWord (op : Nat) (ctor : Args → Instr) (f : Ctx → State → Nat → Word) : Prop :=
  ∀ (x : Ctx) (s : State), x.ready op s = true →
    ∃ t r, exec (ctor x.a) s = .next t ∧ x.awaits s t r ∧ ∀ l < 96, x.readsIn (x.after r) x.a.dst l = x.landed x.a.dst (f x s) l

/-- The u and sat bits of an integer instruction (R150). -/
def Ctx.uBit (x : Ctx) : Bool := x.a.mod.getLsbD 1
def Ctx.satBit (x : Ctx) : Bool := x.a.mod.getLsbD 0

/-- A 32-bit operand under the reading that u selects (R130). -/
def Ctx.val (x : Ctx) (o : Opnd) (l : Nat) : Int := if x.uBit then ((x.word o l).toNat : Int) else (x.word o l).toInt

/-- A 64-bit operand under that reading. -/
def Ctx.val64 (x : Ctx) (o : Opnd) (l : Nat) : Int :=
  if x.uBit then ((x.dword o x.uBit l).toNat : Int) else (x.dword o x.uBit l).toInt

/-- The bounds to which sat clamps a result of w bits (R131). -/
def Ctx.lowest (x : Ctx) (w : Nat) : Int := if x.uBit then 0 else -(2 ^ (w - 1))
def Ctx.highest (x : Ctx) (w : Nat) : Int := if x.uBit then 2 ^ w - 1 else 2 ^ (w - 1) - 1

/-- An exact value narrowed to w bits (R131). -/
def Ctx.narrowTo (x : Ctx) (w : Nat) (t : Int) : BitVec w :=
  if x.satBit then BitVec.ofInt w (max (x.lowest w) (min (x.highest w) t)) else BitVec.ofInt w t

/-- Operand values of a lane. -/
def Ctx.w0 (x : Ctx) (l : Nat) : Word := x.word x.a.in0 l
def Ctx.w1 (x : Ctx) (l : Nat) : Word := x.word x.a.in1 l
def Ctx.w2 (x : Ctx) (l : Nat) : Word := x.word x.a.in2 l
def Ctx.i0 (x : Ctx) (l : Nat) : Int := x.val x.a.in0 l
def Ctx.i1 (x : Ctx) (l : Nat) : Int := x.val x.a.in1 l
def Ctx.i2 (x : Ctx) (l : Nat) : Int := x.val x.a.in2 l

/-- The old destination that LOP3 and BFI read (R132). -/
def Ctx.oldDst (x : Ctx) (l : Nat) : Word := x.word x.a.dst l

/-- Byte i of a word under the reading that u selects (R135). -/
def Ctx.byteVal (x : Ctx) (w : Word) (i : Nat) : Int :=
  if x.uBit then ((w.extractLsb' (8 * i) 8).toNat : Int) else (w.extractLsb' (8 * i) 8).toInt

/-- The lanes whose results count: the active ones of a vector shape, one result of a scalar shape (R126, R131). -/
def Ctx.counts (x : Ctx) (l : Nat) : Prop := if x.vector then l < 96 ∧ x.h.mask.getLsbD l = true else l = 0

/-- c.fflags of the unit's crew in a later state. -/
def Ctx.flagsIn (x : Ctx) (t : State) : Option (BitVec 7) := (t.crews.get? x.k).map (·.fflags)

/-- sat is 1, and the exact value t lies outside the bounds in a lane that counts (R131). -/
def Ctx.clamps (x : Ctx) (w : Nat) (t : Ctx → Nat → Int) : Prop :=
  x.satBit = true ∧ ∃ l, x.counts l ∧ (t x l < x.lowest w ∨ x.highest w < t x l)

/-- A ready instruction with the exact value t sets SAT, bit 5 of c.fflags, if sat is 1 and t lies outside the bounds in a lane that counts,
and changes no other flag (R131). -/
def SetsSat (op : Nat) (ctor : Args → Instr) (w : Nat) (t : Ctx → Nat → Int) : Prop :=
  ∀ (x : Ctx) (s : State), x.ready op s = true → ∃ s', exec (ctor x.a) s = .next s' ∧
    (x.clamps w t → x.flagsIn s' = some (x.c.fflags ||| 0x20)) ∧ (¬ x.clamps w t → x.flagsIn s' = some x.c.fflags)

/-- The same of a variable-latency instruction, whose result brings its flags (R44, R62). -/
def SendsSat (op : Nat) (ctor : Args → Instr) (w : Nat) (t : Ctx → Nat → Int) : Prop :=
  ∀ (x : Ctx) (s : State), x.ready op s = true → ∃ s' r, exec (ctor x.a) s = .next s' ∧ x.awaits s s' r ∧ x.flagsIn s' = some x.c.fflags ∧
    (x.clamps w t → r.flags = 0x20) ∧ (¬ x.clamps w t → r.flags = 0)

/-- A ready instruction changes no flag. -/
def KeepsFlags (op : Nat) (ctor : Args → Instr) : Prop :=
  ∀ (x : Ctx) (s : State), x.ready op s = true → ∃ s', exec (ctor x.a) s = .next s' ∧ x.flagsIn s' = some x.c.fflags

/-- An amount: the low eight bits of an operand (R137, R138). -/
def amount (w : Word) : Nat := w.toNat % 256

/-- The truth value of a relation (R143). -/
def truth (p : Prop) [Decidable p] : Word := if p then 1 else 0

/-- An opcode takes neither u nor sat: no legal instruction of it has either bit. -/
def Plain (op : Nat) : Prop := ∀ a : Args, a.ok op = true → a.mod.getLsbD 0 = false ∧ a.mod.getLsbD 1 = false

/-! ## Terms of the floating-point instructions (R23 to R35) -/

/-- The rational that a finite value stands for. -/
def Fp.rat : Fp → ℚ
  | .num n m e => (if n then -1 else 1) * (m : ℚ) * (2 : ℚ) ^ e
  | _ => 0

def Fp.finite : Fp → Bool
  | .num _ _ _ => true
  | _ => false

def Fp.negate : Fp → Fp
  | .nan g => .nan g
  | .inf n => .inf !n
  | .num n m e => .num (!n) m e

/-- b with flags fl is the rounding of q ≠ 0 in mode rnd: `roundNum` on some dyadic writing of q (FloatRounding says what it gives). -/
def RoundsTo (f : Fmt) (rnd : Nat) (q : ℚ) (b : Nat) (fl : BitVec 7) : Prop :=
  ∃ n m e, m ≠ 0 ∧ q = (Fp.num n m e).rat ∧ f.roundNum rnd n m e = (b, fl)

/-- The canonical NaN, with IV as said (R25). -/
def NanResult (iv : Bool) (w : Word) (fl : BitVec 7) : Prop := w = 0x7FC00000 ∧ fl = if iv then 0x10 else 0

/-- The FP32 rounding of an exact sum (R31, R33, R152): infinities of both signs, NaNs, infinities, the sign of a zero, and one rounding. -/
def SumTo (rnd : Nat) (xs : List Fp) (w : Word) (fl : BitVec 7) : Prop :=
  if Fp.inf true ∈ xs ∧ Fp.inf false ∈ xs then NanResult true w fl
  else if xs.any Fp.isNan then NanResult (xs.any Fp.isSig) w fl
  else if Fp.inf true ∈ xs then w = 0xFF800000 ∧ fl = 0
  else if Fp.inf false ∈ xs then w = 0x7F800000 ∧ fl = 0
  else if (xs.map Fp.rat).sum = 0 then
    fl = 0 ∧ w = (if xs ≠ [] ∧ (∀ x ∈ xs, x.isZero ∧ x.neg?) then 0x80000000
      else if (∀ x ∈ xs, x.isZero ∧ ¬ x.neg?) then 0 else if rnd = 2 then 0x80000000 else 0)
  else RoundsTo fp32 rnd (xs.map Fp.rat).sum w.toNat fl

/-- A product as a value; none for 0 × ∞. -/
def Fp.times : Fp → Fp → Option Fp
  | .num n m e, .num n' m' e' => some (.num (n != n') (m * m') (e + e'))
  | .inf n, .num n' m' _ => if m' = 0 then none else some (.inf (n != n'))
  | .num n m _, .inf n' => if m = 0 then none else some (.inf (n != n'))
  | .inf n, .inf n' => some (.inf (n != n'))
  | x, _ => some x

/-- The FP32 product of two values (R153). -/
def ProductTo (rnd : Nat) (a b : Fp) (w : Word) (fl : BitVec 7) : Prop :=
  if a.isNan ∨ b.isNan then NanResult (a.isSig || b.isSig) w fl else match a.times b with
    | none => NanResult true w fl
    | some (.inf n) => w = (if n then 0xFF800000 else 0x7F800000) ∧ fl = 0
    | some p => if p.rat = 0 then w = (if p.neg? then 0x80000000 else 0) ∧ fl = 0 else RoundsTo fp32 rnd p.rat w.toNat fl

/-- A product and a third value, added exactly and rounded once (R153). -/
def FusedTo (rnd : Nat) (a b z : Fp) (w : Word) (fl : BitVec 7) : Prop :=
  if a.isNan ∨ b.isNan then NanResult (a.isSig || b.isSig || z.isSig) w fl else match a.times b with
    | none => NanResult true w fl
    | some p => SumTo rnd [p, z] w fl

/-- Order of FP32 bits that are no NaN: −0 directly below +0 (R154), or equal to it (R156). -/
def orderKey (w : Word) : Int := if w.getLsbD 31 then -((w.toNat : Int) - 2 ^ 31) - 1 else w.toNat
def valueKey (w : Word) : Int := if w.getLsbD 31 then -((w.toNat : Int) - 2 ^ 31) else w.toNat

def fpOf (w : Word) : Fp := fp32.decode w.toNat

/-- The smaller or larger of two values (R154), without flags. -/
def pickOf (larger : Bool) (x y : Word) : Word :=
  if (fpOf x).isNan ∧ (fpOf y).isNan then 0x7FC00000 else if (fpOf x).isNan then y else if (fpOf y).isNan then x
  else if larger then (if orderKey x < orderKey y then y else x) else (if orderKey y < orderKey x then y else x)

def sigOf (xs : List Word) : Bool := xs.any fun x => (fpOf x).isSig

/-- A rational rounded to an integer in a mode (R30). -/
def roundRat (rnd : Nat) (q : ℚ) : Int :=
  match rnd with
  | 0 => if q - ⌊q⌋ < 1 / 2 then ⌊q⌋ else if 1 / 2 < q - ⌊q⌋ then ⌊q⌋ + 1 else if ⌊q⌋ % 2 = 0 then ⌊q⌋ else ⌊q⌋ + 1
  | 1 => if q < 0 then ⌈q⌉ else ⌊q⌋
  | 2 => ⌊q⌋
  | _ => ⌈q⌉

/-- Operands of a lane after abs and negation (R151): x and y modified, z never. -/
def Ctx.fw0 (x : Ctx) (l : Nat) : Word := wordOf (x.fl0 l)
def Ctx.fw1 (x : Ctx) (l : Nat) : Word := wordOf (x.fl1 l)
def Ctx.fw2 (x : Ctx) (l : Nat) : Word := wordOf (x.fl2 l)

/-- Flags of all results that count (R43, R152). -/
def Ctx.joined (x : Ctx) (g : Nat → BitVec 7) : BitVec 7 := if x.vector then laneFlags x.h.mask g else g 0

/-- A ready instruction answers a next state whose destination holds, lane by lane, results that Q relates to the operands, and whose
c.fflags have gained their flags. -/
def GivesFloat (op : Nat) (ctor : Args → Instr) (Q : Ctx → Nat → Word → BitVec 7 → Prop) : Prop :=
  ∀ (x : Ctx) (s : State), x.ready op s = true → ∃ t f g, exec (ctor x.a) s = .next t ∧
    (∀ l < 96, x.reads t x.a.dst l = x.landed x.a.dst f l) ∧ x.flagsIn t = some (x.c.fflags ||| x.joined g) ∧ ∀ l < 96, Q x l (f l) (g l)

/-- The same of a variable-latency instruction: the result on its way holds both (R44, R62). -/
def SendsFloat (op : Nat) (ctor : Args → Instr) (Q : Ctx → Nat → Word → BitVec 7 → Prop) : Prop :=
  ∀ (x : Ctx) (s : State), x.ready op s = true → ∃ t r f g, exec (ctor x.a) s = .next t ∧
    x.awaits s t r ∧ (∀ l < 96, x.readsIn (x.after r) x.a.dst l = x.landed x.a.dst f l) ∧ r.flags = x.joined g ∧ ∀ l < 96, Q x l (f l) (g l)

/-- The FP32 value of an exact rational, or its rounding with zero kept apart. -/
def ValueTo (rnd : Nat) (q : ℚ) (zero : Word) (w : Word) (fl : BitVec 7) : Prop :=
  if q = 0 then w = zero ∧ fl = 0 else RoundsTo fp32 rnd q w.toNat fl

def signWord (n : Bool) : Word := if n then 0x80000000 else 0

/-- Finite values of the format. -/
def Fmt.finites (f : Fmt) (b : Nat) : Prop := b < 2 ^ f.width ∧ (f.decode b).finite = true

/-- b is the nearest value to q, ties to the even encoding. -/
def NearestTo (f : Fmt) (q : ℚ) (b : Nat) : Prop :=
  ∀ c, f.finites c → |(f.decode b).rat - q| ≤ |(f.decode c).rat - q| ∧
    (|(f.decode b).rat - q| = |(f.decode c).rat - q| → (f.decode b).rat = (f.decode c).rat ∨ b % 2 = 0)

/-- b with flags fl is q, of sign n and not zero, rounded once to the format (R30 to R32): past the largest finite value the overflow result
of R31 with OF and IX, else the nearest value, the largest not above in magnitude, not above, or not below; IX says that it differs, and UF
that it differs and q, rounded to the format's precision with an unbounded exponent, lies below the least normal value (R31, R42). -/
def RoundedTo (f : Fmt) (rnd : Nat) (n : Bool) (q : ℚ) (b : Nat) (fl : BitVec 7) : Prop :=
  let most := (f.decode f.largest).rat
  let unit := most - (f.decode (f.largest - 1)).rat
  let leastNormal := (2 : ℚ) ^ (1 - (f.bias : Int))
  let below := (2 : ℚ) ^ (-(f.bias : Int) - (f.fw : Int))
  (fl.getLsbD 2 = true ↔ match rnd with
    | 0 => if f.ieee then most + unit / 2 ≤ |q| else most + unit / 2 < |q|
    | 1 => most + unit ≤ |q|
    | 2 => if n then most < |q| else most + unit ≤ |q|
    | _ => if n then most + unit ≤ |q| else most < |q|) ∧
  fl.toNat < 8 ∧ (fl.getLsbD 2 = false → (fl.getLsbD 1 = true ↔ (f.decode b).rat ≠ q ∧ match rnd with
    | 0 => |q| < leastNormal - below / 2
    | 1 => |q| < leastNormal
    | 2 => if n then |q| ≤ leastNormal - below else |q| < leastNormal
    | _ => if n then |q| < leastNormal else |q| ≤ leastNormal - below)) ∧
  (fl.getLsbD 2 = true → fl = 0x05 ∧ b = f.overflow rnd n) ∧
  (fl.getLsbD 2 = false → f.finites b ∧ (fl.getLsbD 0 = true ↔ (f.decode b).rat ≠ q) ∧
    (rnd = 0 → NearestTo f q b) ∧
    (rnd = 1 → |(f.decode b).rat| ≤ |q| ∧ ∀ c, f.finites c → |(f.decode c).rat| ≤ |q| → |(f.decode c).rat| ≤ |(f.decode b).rat|) ∧
    (rnd = 2 → (f.decode b).rat ≤ q ∧ ∀ c, f.finites c → (f.decode c).rat ≤ q → (f.decode c).rat ≤ (f.decode b).rat) ∧
    (rnd = 3 → q ≤ (f.decode b).rat ∧ ∀ c, f.finites c → q ≤ (f.decode c).rat → (f.decode b).rat ≤ (f.decode c).rat))

/-- What FP32 bits of a narrow element give: the canonical NaN, an infinity, or the same number (R34). -/
def Widens (v : Fp) (w : Word) (fl : BitVec 7) : Prop :=
  match v with
  | .nan g => NanResult g w fl
  | .inf n => w = (if n then 0xFF800000 else 0x7F800000) ∧ fl = 0
  | .num n m _ => fl = 0 ∧ (fpOf w).rat = v.rat ∧ (fpOf w).finite = true ∧ (m = 0 → w = signWord n)

/-- An FP32 value narrowed to a format of R34: an element's bits and flags. -/
def Narrows (f : Fmt) (rnd : Nat) (v : Fp) (b : Nat) (fl : BitVec 7) : Prop :=
  match v with
  | .nan g => b = f.nan ∧ fl = if g || !f.ieee then 0x10 else 0
  | .inf n => if f.ieee then b = f.infinity n ∧ fl = 0 else b = f.signBit n + f.largest ∧ fl = 0x05
  | .num n m e => if m = 0 then b = f.signBit n ∧ fl = 0 else RoundsTo f rnd (Fp.num n m e).rat b fl

/-- FP32 to an integer of w bits (R34). -/
def ToInteger (w rnd : Nat) (v : Fp) (r : Int) (fl : BitVec 7) : Prop :=
  let lo : Int := -(2 ^ (w - 1))
  let hi : Int := 2 ^ (w - 1) - 1
  match v with
  | .nan _ => r = 0 ∧ fl = 0x10
  | .inf n => r = (if n then lo else hi) ∧ fl = 0x10
  | v => let t := roundRat rnd v.rat
    if t < lo then r = lo ∧ fl = 0x10 else if hi < t then r = hi ∧ fl = 0x10 else r = t ∧ fl = if (t : ℚ) = v.rat then 0 else 0x01

/-- Bits of an operand that a conversion reads. -/
def Ctx.cvtByte (x : Ctx) (l : Nat) : Nat := ((x.word x.a.in0 l).toNat / 2 ^ (8 * x.sel 3)) % 256
def Ctx.cvtHalf (x : Ctx) (l : Nat) : Nat := ((x.word x.a.in0 l).toNat / 2 ^ (16 * x.sel 1)) % 65536

/-- The FP32 value of a conversion's source (R53, R159). -/
def Ctx.source (x : Ctx) (o : Opnd) (l : Nat) : Fp := fp32.decode (x.fword o l)

/-- x, and y where it is named, narrowed to elements of w bits (R159). -/
def Packs (f : Fmt) (w : Nat) (x : Ctx) (l : Nat) (r : Word) (fl : BitVec 7) : Prop :=
  ∃ a b fa fb, Narrows f (x.a.mod.toNat % 4) (x.source x.a.in0 l) a fa ∧
    (if x.a.in1 = .none then b = 0 ∧ fb = 0 else Narrows f (x.a.mod.toNat % 4) (x.source x.a.in1 l) b fb) ∧
    r.toNat = a + b * 2 ^ w ∧ fl = fa ||| fb

/-- The result of a comparison: a NaN operand makes it `nan`; IV for a signalling NaN, or for any where `any` says so (R156). -/
def Compares (nan any : Bool) (rel : Int → Int → Bool) (x : Ctx) (l : Nat) (w : Word) (fl : BitVec 7) : Prop :=
  let un := (fpOf (x.fw0 l)).isNan || (fpOf (x.fw1 l)).isNan
  fl = flagIf (if any then un else sigOf [x.fw0 l, x.fw1 l]) 0x10 ∧
    w = if (if un then nan else rel (valueKey (x.fw0 l)) (valueKey (x.fw1 l))) then 1 else 0

/-! ## Terms of the cross-lane instructions (R162 to R168) -/

/-- Lane l is active in the issuing unit. -/
def Ctx.acts (x : Ctx) (l : Nat) : Bool := decide (l < 96) && x.h.mask.getLsbD l

/-- The active lanes of a property, ascending. -/
def Ctx.lanesWith (x : Ctx) (p : Nat → Bool) : List Nat := (List.range 96).filter fun l => x.acts l && p l

/-- Lane j of in0; out of range 0. -/
def Ctx.lane0 (x : Ctx) (j : Nat) : Word := if j < 96 then x.word x.a.in0 j else 0

/-- P(L): active lanes up to L, or below L with e (R167). -/
def Ctx.upTo (x : Ctx) (l : Nat) : List Nat := x.lanesWith fun j => if x.a.mod.getLsbD 2 then decide (j < l) else decide (j ≤ l)

/-- SAT of a sum (R131). -/
def Ctx.satFlag (x : Ctx) (t : Int) : BitVec 7 := flagIf (x.satBit && decide (t < x.lowest 32 ∨ x.highest 32 < t)) 0x20

/-- The FP32 sum of lanes; an empty one is +0 (R166, R167). -/
def Ctx.sumOf (x : Ctx) (ls : List Nat) (w : Word) (fl : BitVec 7) : Prop :=
  if ls = [] then w = 0 ∧ fl = 0 else SumTo (x.a.mod.toNat % 4) (ls.map fun l => x.source x.a.in0 l) w fl

/-- The fold of FMIN or FMAX from the first lane on (R154, R166). -/
def Ctx.foldOf (x : Ctx) (larger : Bool) (ls : List Nat) : Word :=
  match ls.map fun l => wordOf (x.fword x.a.in0 l) with
  | [] => if larger then 0xFF800000 else 0x7F800000
  | b :: bs => let r := bs.foldl (pickOf larger) b
    if (fpOf r).isNan then 0x7FC00000 else r

/-- A result for every active lane, flags once for all lanes that receive one (R162, R166). -/
def SendsLanes (op : Nat) (ctor : Args → Instr) (Q : Ctx → (Nat → Word) → BitVec 7 → Prop) : Prop :=
  ∀ (x : Ctx) (s : State), x.ready op s = true → ∃ t r f, exec (ctor x.a) s = .next t ∧ x.awaits s t r ∧
    (∀ l < 96, x.readsIn (x.after r) x.a.dst l = x.landed x.a.dst f l) ∧ Q x f r.flags

/-! ## Forms of a crew instruction's outcome -/

/-- The crew and the unit of x in a later state. -/
def Ctx.crewIn (x : Ctx) (t : State) : Option Crew := t.crews.get? x.k
def Ctx.unitIn (x : Ctx) (t : State) : Option CrewUnit := (t.crews.get? x.k).bind fun c => c.units.get? x.u

/-- Under a condition a ready instruction has an effect f on the whole state, changes nothing else, and the unit goes on after it. -/
def Does (op : Nat) (ctor : Args → Instr) (pre : Ctx → State → Prop) (f : Ctx → State → State) : Prop :=
  ∀ (x : Ctx) (s : State), x.ready op s = true → pre x s → exec (ctor x.a) s = .next (x.ends (f x (x.start s)))

/-- Under a condition it changes its crew alone. -/
def DoesCrew (op : Nat) (ctor : Args → Instr) (pre : Ctx → State → Prop) (f : Ctx → State → Crew → Crew) : Prop :=
  Does op ctor pre fun x s => s.modCrew x.k (f x s)

/-- Under a condition it raises a trap before any of its effects (R119, R430). -/
def Traps (op : Nat) (ctor : Args → Instr) (pre : Ctx → State → Prop) (t : Ctx → State → Trap) : Prop :=
  ∀ (x : Ctx) (s : State), x.ready op s = true → pre x s →
    exec (ctor x.a) s = .next ((x.start s).takeTrap x.k x.u x.len (t x s))

/-- Under a condition the unit stalls, and nothing else happens (R81). -/
def Stalls (op : Nat) (ctor : Args → Instr) (pre : Ctx → State → Prop) (hz : Ctx → State → Hazard) : Prop :=
  ∀ (x : Ctx) (s : State), x.ready op s = true → pre x s →
    exec (ctor x.a) s = .next ((x.start s).stallUnit x.k x.u (hz x s))

/-- Under a condition it gives its scalar destination a value. -/
def GivesScalar (op : Nat) (ctor : Args → Instr) (pre : Ctx → State → Prop) (v : Ctx → State → Word) : Prop :=
  ∀ (x : Ctx) (s : State), x.ready op s = true → pre x s →
    ∃ t, exec (ctor x.a) s = .next t ∧ x.reads t x.a.dst 0 = x.landed x.a.dst (fun _ => v x s) 0

/-- No condition. -/
def always (_ : Ctx) (_ : State) : Prop := True

/-- A transfer target that R97 admits. -/
def goodTarget (t : Dword) : Prop := t.toNat % 4 = 0 ∧ t.toNat < 2 ^ 56

/-- The unit goes on at t: what a taken transfer leaves (R61, R63, R97). -/
def Ctx.arrives (x : Ctx) (t : State) (pc : Dword) : Prop :=
  ∃ c h, x.crewIn t = some c ∧ c.units.get? x.u = some h ∧ h.pc = pc ∧ h.origin = x.h.pc ∧ c.last = noLast ∧
    (x.a.sw = true → h.st = if x.c.waiting x.u then .marked else .ready) ∧
    (x.a.sw = false → h.st = if 1024 ≤ x.h.run then .limited else .ready)

/-- Under a condition a ready instruction goes to a target, if R97 admits it; `more` says what else holds in the next state. -/
def GoesTo (op : Nat) (ctor : Args → Instr) (pre : Ctx → State → Prop) (target : Ctx → Dword) (more : Ctx → State → Prop) : Prop :=
  (∀ (x : Ctx) (s : State), x.ready op s = true → pre x s → goodTarget (target x) →
    ∃ t, exec (ctor x.a) s = .next t ∧ x.arrives t (target x) ∧ more x t) ∧
  Traps op ctor (fun x s => pre x s ∧ (target x).toNat % 4 ≠ 0) (fun x _ => { cause := .misalignedPc, addr := (target x).toNat }) ∧
  Traps op ctor (fun x s => pre x s ∧ (target x).toNat % 4 = 0 ∧ 2 ^ 56 ≤ (target x).toNat)
    (fun x _ => { cause := .addressRange, addr := (target x).toNat })

/-- The return address is in the destination pair. -/
def Ctx.linked (x : Ctx) (t : State) : Prop :=
  x.reads t x.a.dst 0 = x.landed x.a.dst (fun _ => x.next.setWidth 32) 0 ∧
  x.reads t (Opnd.next x.a.dst 1) 0 = x.landed (Opnd.next x.a.dst 1) (fun _ => (x.next >>> 32).setWidth 32) 0

/-- The pair at an operand. -/
def Ctx.pairAt (x : Ctx) (o : Opnd) : Dword := x.word (Opnd.next o 1) 0 ++ x.word o 0

/-- Lanes in which BRX's condition holds (R99). -/
def Ctx.takes (x : Ctx) : Mask := x.h.mask &&& BitVec.ofFnLE fun l : Fin 96 => (x.word x.a.in0 l != 0) != x.a.mod.getLsbD 4
def Ctx.falls (x : Ctx) : Mask := x.h.mask &&& ~~~x.takes

def Ctx.joinId (x : Ctx) : Nat := x.a.mod.toNat % 16

/-- The register that an MFC or MTC, DBGRD or DBGWR names. -/
def Ctx.regNumber (x : Ctx) : Nat := match x.a.in1 with | .num n => n.toNat | _ => 0

def Ctx.launchOf (x : Ctx) (s : State) : Option Launch := s.launches.get? x.c.launch

/-- The unit of x is in the handler. -/
def Ctx.handling (x : Ctx) : Prop := x.c.hstate.getLsbD 0 = true ∧ x.c.hstate.toNat / 2 = x.u

/-- Spalls that the unit owns under a join id and that are not yet JOINED (R86). -/
def Ctx.toCome (x : Ctx) : List (Nat × CrewUnit) :=
  x.c.units.filter fun e => e.1 != 0 && e.1 != x.u && e.2.owner == x.u && e.2.joinId == x.joinId && e.2.st != .joined none

/-- The JOINED spalls that it takes into itself (R87). -/
def Ctx.arrived (x : Ctx) : List (Nat × CrewUnit) :=
  x.c.units.filter fun e => e.1 != 0 && e.1 != x.u && e.2.owner == x.u && e.2.joinId == x.joinId && e.2.st == .joined none

/-- The unit may enter the handler of its launch at once (R434, R436). -/
def Ctx.handlerOpen (x : Ctx) (s : State) (l : Launch) : Prop :=
  x.launchOf s = some l ∧ l.trapoff ≠ 0xFFFFFFFF ∧ x.c.hstate.getLsbD 0 = false ∧ x.c.waiting x.u = false ∧ x.c.cap.mode = false

/-- What entering the handler leaves (R436): the resumption address and mask saved, cause and record readable, the handler marked with the
spall id, the PC at the image start plus the handler's offset, the mask unchanged. -/
def Ctx.entered (x : Ctx) (t : State) (l : Launch) (cause : BitVec 8) (resume : Dword) (detail : Word) : Prop :=
  ∃ c h, x.crewIn t = some c ∧ c.units.get? x.u = some h ∧ c.hpc = resume ∧ c.hmask = x.h.mask ∧ c.hcause = cause ∧
    c.hstate = BitVec.ofNat 6 (1 + 2 * x.u) ∧ c.hrec.extractLsb' 248 8 = cause ∧ c.hrec.extractLsb' 320 32 = detail ∧
    c.hrec.extractLsb' 352 64 = x.h.pc ∧ h.pc = l.code + BitVec.ofNat 64 l.trapoff ∧ h.st = .ready ∧ h.mask = x.h.mask ∧ c.last = noLast

/-- The unit stands at a fault until its results have returned (R432). -/
def Ctx.faultsIn (x : Ctx) (t : State) (cause : Cause) : Prop :=
  ∃ h r, x.unitIn t = some h ∧ h.st = .faulting r ⟨cause.code, x.len, false, .none, 0⟩ ∧ r.extractLsb' 248 8 = BitVec.ofNat 8 cause.code ∧
    h.pc = x.h.pc ∧ h.mask = x.h.mask

/-- The unit is held, and its record waits for the ring of the crew's partition (R432). -/
def Ctx.heldBy (x : Ctx) (s t : State) (cause : Cause) (detail : Word) : Prop :=
  ∃ h r, x.unitIn t = some h ∧ h.st = .held ⟨cause.code, x.len, false, .none, s.nextHold⟩ ∧ h.pc = x.h.pc ∧ h.mask = x.h.mask ∧
    r ∈ (t.ring (s.partOf x.c % 16)).waiting ∧ (t.ring (s.partOf x.c % 16)).waiting.length = (s.ring (s.partOf x.c % 16)).waiting.length + 1 ∧
    r.time = s.ck % 2 ^ 64 ∧ r.record.extractLsb' 248 8 = BitVec.ofNat 8 cause.code ∧
    r.record.extractLsb' 320 32 = detail ∧ r.record.extractLsb' 352 64 = x.h.pc ∧ r.target = .unit x.c.launch x.c.name x.u s.nextHold

/-- The unit goes on at the next instruction. -/
def Ctx.goesOn (x : Ctx) (t : State) : Prop := ∃ h, x.unitIn t = some h ∧ h.pc = skipTail x.next

/-- The launch's tracing is on, none of its records waits, and hd is the start of the buffer's header, read in the state s1 (R115). -/
def Ctx.tracing (x : Ctx) (s : State) (l : Launch) (hd : List Byte) (s1 : State) : Prop :=
  x.launchOf s = some l ∧ l.trace = true ∧ l.tset = true ∧ s.traces = [] ∧ l.tbase.toNat % 4096 = 0 ∧
    (x.start s).vread l.part l.tbase.toNat 24 = .ok (hd, s1)

/-- Records that the header counts as written and as dropped, and whether the buffer has room for one more (R115). -/
def writtenOf (hd : List Byte) : Nat := leNat (hd.take 8)
def droppedOf (hd : List Byte) : Nat := leNat ((hd.drop 8).take 8)
def hasRoom (l : Launch) (hd : List Byte) : Prop := (writtenOf hd + 2 ^ 64 - leNat (hd.drop 16)) % 2 ^ 64 < (l.tlen - 64) / 16

/-- Address of the next record. -/
def nextRecord (l : Launch) (hd : List Byte) : Nat := l.tbase.toNat + 64 + 16 * (writtenOf hd % ((l.tlen - 64) / 16))

/-- A write of the device to a trace buffer finds its place p, outside the rings and under the frame's key. -/
def State.traceFinds (s : State) (part va : Nat) (p : Xl) : Prop :=
  (∃ s', { s with heads := [] }.devXlate part va true false = .ok (p, s') ∧ s'.keyed p.key p.pa = true) ∧ inRings (p.pa / 128 * 128) = false ∧
    p.pa % 4096 = va % 4096

/-- A boundary that SETBND refuses (R103). -/
def Ctx.badBound (x : Ctx) (n : Nat) : Prop := 256 < n ∨ x.c.budget < n ∨ (x.c.budget - n) % 128 ≠ 0 ∨ 4 < (x.c.budget - n) / 128

/-- The bytes of c.hrec that control register 0x050 + i reads (R435). -/
def recordWord (c : Crew) (i : Nat) : Word := (c.hrec >>> (32 * i)).setWidth 32

/-! ## Terms of the memory instructions (R295 to R318) -/

/-- Nothing stands before an access of n-byte elements: no piece of an earlier store waits, the scope is granted, the addresses are aligned
and in range (R294, R302, R307). -/
def Ctx.mayAccess (x : Ctx) (s : State) (n : Nat) (as : List Acc) : Prop :=
  x.c.pieces = [] ∧ x.scopeOk s = true ∧ ∀ a ∈ as, a.va % n = 0 ∧ a.va < 2 ^ 56

/-- Every address translates, to the places xs, in the state s' (R307, R319). -/
def Ctx.finds (x : Ctx) (s : State) (n : Nat) (wr load : Bool) (as : List Acc) (xs : List (Acc × Xl)) (s' : State) : Prop :=
  x.mayAccess s n as ∧ (x.start s).xlateAll x.core (s.partOf x.c) 2 wr load as = .ok (xs, s')

/-- No read has to wait for a line that another agent holds, nor, where the L1 of the core lacks it, for requests accepted before it (R334,
R346, R347), and no strong store of the crew stands before a strong access (R298). -/
def Ctx.unhindered (x : Ctx) (s' : State) (xs : List (Acc × Xl)) : Prop :=
  (∀ e ∈ xs, s'.lineStop x.k x.u (e.2.pa / 128) (s'.l1Hit x.core (e.2.pa / 128) false) x.h = false) ∧
  ((∃ e ∈ xs, e.2.kind = 1) → s'.strongBusy x.c = false)

/-- The L1 of the core owns a line, and no other agent holds it (R329, R345, R347). -/
def Ctx.holds (x : Ctx) (s' : State) (n : Nat) : Prop := s'.owns x.core n = true ∧ s'.lineHeld n (some x.k) = false

/-- An atomic may be performed: the L1 of the core holds its lines, and no store of the crew that has to come first is unperformed (R296,
R298, R304, R345). -/
def Ctx.mayUpdate (x : Ctx) (s' : State) (xs : List (Acc × Xl)) : Prop :=
  (∀ e ∈ xs, x.holds s' (e.2.pa / 128) ∧ s'.lineBusy x.c (e.2.pa / 128) = false) ∧ s'.oldLine x.c = none ∧
  ((∃ e ∈ xs, e.2.kind = 1) → s'.strongBusy x.c = false)

/-- The place that serves lane l: its own, or the one access of a scalar-shaped or broadcast form. -/
def servedBy (xs : List (Acc × Xl)) (l : Nat) : Option (Acc × Xl) := xs.find? fun e => e.1.lane == 0x7F || e.1.lane == l

/-- Register j of a loaded element: zero-extended, or sign-extended for the size codes 1 and 3 (R188). -/
def element (size : Nat) (bs : List Byte) (j : Nat) : Word :=
  let w := BitVec.ofNat 32 (leNat ((bs.drop (4 * j)).take 4))
  if size = 1 then (w.setWidth 8).signExtend 32 else if size = 3 then (w.setWidth 16).signExtend 32 else w

/-- Once the youngest result has returned, the destination group holds what f gives for each register. -/
def Ctx.loads (x : Ctx) (s t : State) (size : Nat) (f : Nat → List Byte) : Prop :=
  ∃ r, x.awaits s t r ∧ ∀ j < sizeRegs size, ∀ l < 96,
    x.readsIn (x.after r) (Opnd.next x.a.dst j) l = x.landed (Opnd.next x.a.dst j) (fun l => element size (f l) j) l

/-- A load gives the bytes at the translated addresses, the crew's own unperformed stores first (R296, R302, R308), and writes no memory. -/
def LoadGives (op : Nat) (ctor : Args → Instr) (as : Ctx → List Acc) : Prop :=
  ∀ (x : Ctx) (s s' : State) (xs : List (Acc × Xl)), x.ready op s = true → x.c.cap.mode = false →
    x.finds s (sizeBytes x.a.size) false true (as x) xs s' → x.unhindered s' xs →
    ∃ t, exec (ctor x.a) s = .next t ∧ t.mem = s'.mem ∧ x.loads s t x.a.size fun l => match servedBy xs l with
      | some e => s'.loadBytes x.c e.2.key e.2.pa (sizeBytes x.a.size)
      | none => []

/-- A store is seen at once by its own crew: its bytes, the highest lane's where lanes meet, and no others; memory is not yet written
(R296, R302). -/
def StoreSeen (op : Nat) (ctor : Args → Instr) : Prop :=
  ∀ (x : Ctx) (s s' : State) (xs : List (Acc × Xl)), x.ready op s = true → x.c.cap.mode = false → x.c.sbuf.length < 16 →
    x.finds s (sizeBytes x.a.size) true false (x.accs (x.a.in0.isVec || x.a.in1.isVec)) xs s' → (∀ e ∈ xs, e.2.pa % sizeBytes x.a.size = 0) →
    ∃ t c, exec (ctor x.a) s = .next t ∧ x.crewIn t = some c ∧ t.mem = s'.mem ∧ ∀ pa,
      t.ownBytes c pa = match xs.reverse.find? fun e => decide (e.2.pa ≤ pa ∧ pa < e.2.pa + sizeBytes x.a.size) with
        | some e => (x.sourceBytes x.a.in1 x.a.size e.1.src)[pa - e.2.pa]?
        | none => s'.ownBytes x.c pa

/-- An atomic performs its lanes in ascending order, merges their flags and returns the old values (R311, R312). -/
def AtomGives (op : Nat) (ctor : Args → Instr) (n : Ctx → Nat) (f : Ctx → Nat → Nat → Nat × BitVec 7) : Prop :=
  ∀ (x : Ctx) (s s' : State) (xs : List (Acc × Xl)), x.ready op s = true →
    x.finds s (n x) true true (x.accs (isVector op x.a)) xs s' → x.mayUpdate s' xs →
    (x.a.ctl.getLsbD 5 = true → s'.released x.k x.c x.a.scope.toNat false false false = true) →
    ∃ t, exec (ctor x.a) s = .next t ∧
      let r := s'.rmwAll x.core (n x) (f x) xs
      t.mem = r.2.2.mem ∧ x.flagsIn t = some (x.c.fflags ||| r.2.1) ∧
      (x.a.dst.isReg = true → x.loads s t (if n x = 8 then 5 else 4) fun l =>
        ((r.1.find? fun e => e.1.lane == 0x7F || e.1.lane == l).map (·.2)).getD [])

/-- The functions of R311 on w-bit words. -/
def atomic (code w old y : Nat) : Nat :=
  let o := BitVec.ofNat w old
  let z := BitVec.ofNat w y
  (match code with
    | 0 => o + z
    | 1 => if z.toInt < o.toInt then z else o
    | 2 => if o.toInt < z.toInt then z else o
    | 3 => if z.toNat < o.toNat then z else o
    | 4 => if o.toNat < z.toNat then z else o
    | 5 => o &&& z
    | 6 => o ||| z
    | 7 => o ^^^ z
    | _ => z).toNat

/-- Bytes of an atomic: 8 with w64. -/
def Ctx.atomSize (x : Ctx) : Nat := if x.a.ctl.getLsbD 4 then 8 else 4

/-- A lane's operand of an atomic. -/
def Ctx.atomOperand (x : Ctx) (o : Opnd) (l : Nat) : Nat := if x.a.ctl.getLsbD 4 then leNat (x.sourceBytes o 5 l) else (x.word o l).toNat

def Ctx.intUpdate (x : Ctx) (l old : Nat) : Nat × BitVec 7 :=
  (atomic (x.a.ctl.toNat % 16) (8 * x.atomSize) old (x.atomOperand x.a.in1 l), 0)

def Ctx.casUpdate (x : Ctx) (l old : Nat) : Nat × BitVec 7 :=
  (if old = x.atomOperand x.a.in2 l then x.atomOperand x.a.in1 l else old, 0)

def Ctx.floatUpdate (x : Ctx) (l old : Nat) : Nat × BitVec 7 :=
  let y := x.fword x.a.in1 l
  match x.a.ctl.toNat % 4 with
  | 0 => fAdd 0 (fp32.decode old) (fp32.decode y)
  | 1 => ((pickOf false (wordOf old) (wordOf y)).toNat, flagIf (sigOf [wordOf old, wordOf y]) 0x10)
  | _ => ((pickOf true (wordOf old) (wordOf y)).toNat, flagIf (sigOf [wordOf old, wordOf y]) 0x10)

/-- A line that the core does not own is requested, and the unit waits for it; the atomic is performed once it comes (R345). -/
def AtomAsks (op : Nat) (ctor : Args → Instr) (n : Ctx → Nat) : Prop :=
  ∀ (x : Ctx) (s s' : State) (xs : List (Acc × Xl)) (e : Nat × Nat), x.ready op s = true →
    x.finds s (n x) true true (x.accs (isVector op x.a)) xs s' → (∀ e ∈ xs, s'.lineBusy x.c (e.2.pa / 128) = false) → s'.oldLine x.c = none →
    ((∃ e ∈ xs, e.2.kind = 1) → s'.strongBusy x.c = false) →
    (x.a.ctl.getLsbD 5 = true → s'.released x.k x.c x.a.scope.toNat false false false = true) →
    (linesOf xs).find? (fun e => !s'.owns x.core e.1) = some e →
    ∃ t h, exec (ctor x.a) s = .next t ∧ t.mem = s'.mem ∧ x.unitIn t = some h ∧ h.st = .stalled (.owner e.1 ((linesOf xs).map (·.1))) ∧
      h.pc = x.h.pc ∧ t.asked x.core e.1 true = true

/-- Scope, alignment and range traps of accesses of n bytes, in this order (R294, R307, R318). -/
def AccessTraps (op : Nat) (ctor : Args → Instr) (as : Ctx → List Acc) (n : Ctx → Nat) (pre : Ctx → Prop) : Prop :=
  Traps op ctor (fun x s => pre x ∧ x.c.pieces = [] ∧ x.scopeOk s = false) (fun x _ => { cause := .scope, detail := x.a.scope.toNat }) ∧
  (∀ a : Acc, Traps op ctor (fun x s => pre x ∧ x.c.pieces = [] ∧ x.scopeOk s = true ∧ (as x).find? (fun b => b.va % n x != 0) = some a)
    (fun _ _ => { cause := .misalignedAddress, addr := a.va, lane := a.lane, slot := 2 })) ∧
  ∀ a : Acc, Traps op ctor (fun x s => pre x ∧ x.c.pieces = [] ∧ x.scopeOk s = true ∧ (∀ b ∈ as x, b.va % n x = 0) ∧
      (as x).find? (fun b => decide (2 ^ 56 ≤ b.va)) = some a)
    (fun _ _ => { cause := .addressRange, addr := a.va, lane := a.lane, slot := 2 })

/-- LDB's accesses: lane after lane from one address (R308). -/
def Ctx.laneAfterLane (x : Ctx) : List Acc :=
  x.active.map fun l => ⟨l, (x.dword x.a.in0 true 0 + x.a.imm.signExtend 64 + BitVec.ofNat 64 (l * sizeBytes x.a.size)).toNat⟩

/-! ## Terms of translation (R319 to R323) -/

/-- What the entries of a walk grant so far, and the level of the first that denies (R322). -/
structure Grants where
  w : Bool
  x : Bool
  wLevel : Nat
  xLevel : Nat

/-- With the entry of a level. -/
def Grants.under (g : Grants) (n e : Nat) : Grants where
  w := g.w && bits e 2 1 == 1
  x := g.x && bits e 3 1 == 1
  wLevel := if g.w && bits e 2 1 == 0 then n else g.wLevel
  xLevel := if g.x && bits e 3 1 == 0 then n else g.xLevel

def allGranted : Grants := { w := true, x := true, wLevel := 0, xLevel := 0 }

/-- An entry keeps the rules of R321 at a level: reserved bits, key and ord zero where they must be, the leaf bit at its level, the low bits
of oa. `below` is the size of the tables of the next level, none at the last. -/
def entryKeeps (stage n lo : Nat) (below : Option Nat) (e : Nat) : Prop :=
  bits e 60 4 = 0 ∧ bits e 48 6 = 0 ∧
  (bits e 1 1 = 1 → n ≠ 0 ∧ (bits e 8 40 * 256) % 2 ^ lo = 0 ∧ (stage = 1 → bits e 54 6 = 0)) ∧
  (bits e 1 1 = 0 → (∃ b, below = some b ∧ (bits e 8 40 * 256) % b = 0) ∧ bits e 54 6 = 0 ∧ bits e 4 2 = 0)

/-- What a stage's walk finds: the address, its leaf with level and address, and what the walk grants. -/
structure Found where
  out : Nat
  level : Nat
  place : Nat
  leaf : Nat
  grants : Grants

/-- Levels of a walk: number, low bit and width of the index, size of the next level's tables (R320). -/
def levelsOf (stage : Nat) : List (Nat × Nat × Nat × Option Nat) :=
  [(0, 41, if stage = 1 then 15 else 7, some 262144), (1, 26, 15, some 256), (2, 21, 5, some 512), (3, 15, 6, none)]

/-- A stage's walk from a table, with the entries that `read` gives, ends with an address or a fault (R320 to R322). -/
def Walked (read : Nat → Nat → Prop) (stage va : Nat) :
    List (Nat × Nat × Nat × Option Nat) → Nat → Grants → Except XlFault Found → Prop
  | [], _, _, _ => False
  | (n, lo, width, below) :: rest, table, g, r => ∃ e, read (table + 8 * bits va lo width) e ∧
    ((bits e 0 1 = 0 ∧ r = .error ⟨.notValid, stage, n⟩) ∨
     (bits e 0 1 = 1 ∧ ¬ entryKeeps stage n lo below e ∧ r = .error ⟨.format, stage, n⟩) ∨
     (bits e 0 1 = 1 ∧ entryKeeps stage n lo below e ∧ bits e 1 1 = 1 ∧
       r = .ok { out := bits e 8 40 * 256 + va % 2 ^ lo, level := n, place := table + 8 * bits va lo width, leaf := e, grants := g.under n e }) ∨
     (bits e 0 1 = 1 ∧ entryKeeps stage n lo below e ∧ bits e 1 1 = 0 ∧ Walked read stage va rest (bits e 8 40 * 256) (g.under n e) r))

/-- The eight bytes of a table entry, in memory that a walk may read. -/
def State.entryIs (s : State) (key pa e : Nat) : Prop :=
  s.backed pa = true ∧ s.poisoned key pa = false ∧ s.lineHeld (pa / 128) none = false ∧ e = leNat (s.readBytes key pa 8)

/-- Stage 2 of a tenant: its tables are read under their frames' own keys (log 17). -/
def State.stage2 (s : State) (tenant ia : Nat) (r : Except XlFault Found) : Prop :=
  ∃ root, (s.tenant tenant).root2 = some root ∧ Walked (fun a e => s.entryIs (s.ownKey a) a e) 2 ia (levelsOf 2) root allGranted r

/-- Stage 1 of a partition: its table addresses are intermediate (R319). -/
def State.stage1 (s : State) (x : Part) (va : Nat) (r : Except XlFault Found) : Prop :=
  ∃ root, x.root1 = some root ∧
    Walked (fun a e => ∃ f, s.stage2 x.tenant a (.ok f) ∧ s.entryIs (bits f.leaf 54 6) f.out e) 1 va (levelsOf 1) root allGranted r

/-- No TLB and no walk cache that serves the core has anything for the address. -/
def State.coldFor (s : State) (core part va : Nat) : Prop :=
  (∀ t ∈ s.tlb, (tlbPlaces core).contains t.place = false ∨ t.covers part va = false) ∧ ∀ w ∈ s.walks, w.die ≠ dieOf core

/-- The weaker of two ordering attributes: UN, then RC, then SO (R322). -/
def weakerOrd (a b : Nat) : Nat := if a = 2 ∨ b = 2 then 2 else if a = 0 ∨ b = 0 then 0 else 1

/-! ## Terms of the scratchpad, tile and event instructions (R170 to R215) -/

/-- The offset of a lane (R187). -/
def Ctx.offsetOf (x : Ctx) (l : Nat) : Nat := (x.word x.a.in0 l + x.a.imm).toNat

/-- The lanes that a scratchpad instruction serves, by number; 0x7F stands for the one access of a scalar-shaped form (R126). -/
def Ctx.served (x : Ctx) (vec : Bool) : List Nat := if vec then x.lanesWith fun _ => true else [0x7F]

/-- The lane whose registers a served number reads. -/
def laneOfServed (n : Nat) : Nat := if n = 0x7F then 0 else n

/-- The access that an instruction puts in a port's queue for lanes at places of one core. -/
def Ctx.queued (x : Ctx) (ck core : Nat) (op : SpOp) (size : Nat) (result : Option Nat) (serial : Nat) (ls : List (Nat × Nat × Nat)) : SpAccess :=
  { crew := x.k, unit := x.u, peer := core != x.core, op := op, size := size, result := result, tok := if x.a.tv then some x.a.tok.toNat else none
    serial := serial, since := ck, lanes := ls.map fun e =>
      { lane := e.1, bslot := e.2.1, offset := e.2.2, data := if op = .load then [] else x.sourceBytes x.a.in1 size (laneOfServed e.1)
        cmp := if op = .cas then (x.word x.a.in2 (laneOfServed e.1)).toNat else 0 } }

/-- An own-core access joins its issuer's queue at the core's lane port (R174); one with a register destination has a result on its way,
which returns once the part is performed (R62). -/
def Queues (op : Nat) (ctor : Args → Instr) (pre : Ctx → State → Prop) (kind : Ctx → SpOp) (size : Ctx → Nat)
    (place : Ctx → State → Nat → Nat × Nat) : Prop :=
  ∀ (x : Ctx) (s : State), x.ready op s = true → x.c.pieces = [] → s.softErrors = [] → pre x s → x.served (isVector op x.a) ≠ [] →
    ∃ t a, exec (ctor x.a) s = .next t ∧ t.mem = s.mem ∧ t.blocks = s.blocks ∧
      (t.core x.core).port.getD (issuerOf x.k) [] = (s.core x.core).port.getD (issuerOf x.k) [] ++ [a] ∧
      a = x.queued s.ck x.core (kind x) (size x) (if x.a.dst.isReg then some x.c.nextId else none) x.c.nextId
        ((x.served (isVector op x.a)).map fun l => (l, place x s (laneOfServed l))) ∧
      (x.a.dst.isReg = true → ∃ r, t.youngest x.k = some r ∧ r.id = x.c.nextId ∧ r.unit = x.u ∧ r.parts = 1 ∧
        r.writes.map (·.reg) = (List.range (sizeRegs (size x))).map (Opnd.next x.a.dst))

/-- Every served offset is aligned and lies in the own allocation (R187). -/
def Ctx.fits (x : Ctx) (s : State) (op n : Nat) : Prop :=
  ∀ l ∈ x.served (isVector op x.a), x.offsetOf (laneOfServed l) % n = 0 ∧ x.offsetOf (laneOfServed l) + n ≤ x.allocation s

/-- The window address of every served lane names a resident block of the launch on one core, and lies in it (R178, R195). -/
def Ctx.fitsPeer (x : Ctx) (s : State) (op n core : Nat) : Prop :=
  ∀ l ∈ x.served (isVector op x.a), let a := x.offsetOf (laneOfServed l)
    a % n = 0 ∧ windowFieldsOk a = true ∧ (windowPlace x.core a).core = core ∧
      ∃ b, s.blocks.get? (blockKey core (windowPlace x.core a).bslot) = some b ∧ b.launch = x.c.launch ∧ field a 19 0 + n ≤ b.size

/-- A peer access joins the queue of the window at the target core, or of its issuer where that is the own core (R174, R177). -/
def QueuesPeer (op : Nat) (ctor : Args → Instr) (pre : Ctx → Prop) (kind : Ctx → SpOp) (size : Ctx → Nat) : Prop :=
  ∀ (x : Ctx) (s : State) (core : Nat), x.ready op s = true → x.c.pieces = [] → s.softErrors = [] → pre x →
    x.fitsPeer s op (sizeBytes (size x)) core → x.served (isVector op x.a) ≠ [] →
    ∃ t a, exec (ctor x.a) s = .next t ∧ t.mem = s.mem ∧ t.blocks = s.blocks ∧
      (let src := if core = x.core then issuerOf x.k else 4
       (t.core core).port.getD src [] = (s.core core).port.getD src [] ++ [a]) ∧
      a = x.queued s.ck core (kind x) (size x) (if x.a.dst.isReg then some x.c.nextId else none) x.c.nextId
        ((x.served (isVector op x.a)).map fun l =>
          (l, (windowPlace x.core (x.offsetOf (laneOfServed l))).bslot, (windowPlace x.core (x.offsetOf (laneOfServed l))).offset))

/-- What an element of a scratchpad access becomes, and the flags (R189 to R191, R311). -/
def SpAccess.element (a : SpAccess) (l : SpLane) (old : Nat) : Option Nat × BitVec 7 :=
  match a.op with
  | .load => (none, 0)
  | .store => (some (leNat l.data), 0)
  | .atom 9 => let r := fAdd 0 (fp32.decode old) (fp32.decode (leNat l.data)); (some r.1, r.2)
  | .atom f => (some (atomic f 32 old (leNat l.data)), 0)
  | .cas => (if old = l.cmp then some (leNat l.data) else none, 0)

/-- The lanes of an access one after the other: what each found, the flags of all, and the allocations, by block slot, after them. -/
def SpAccess.run (a : SpAccess) : List SpLane → (Nat → Memory) → List (Nat × List Byte) × BitVec 7 × (Nat → Memory)
  | [], m => ([], 0, m)
  | l :: ls, m =>
    let old := (m l.bslot).bytes l.offset (sizeBytes a.size)
    let r := a.element l (leNat old)
    let m' := fun b => if b = l.bslot then (match r.1 with
      | some v => (m b).storeBytes l.offset (leBytes (sizeBytes a.size) v)
      | none => m b) else m b
    let more := a.run ls m'
    ((l.lane, old) :: more.1, r.2 ||| more.2.1, more.2.2)

/-- The allocations of the blocks of a core, by block slot. -/
def State.allocations (s : State) (core bslot : Nat) : Memory :=
  match s.blocks.get? (blockKey core bslot) with | some b => b.mem | none => []

/-- The port of a core serves the access a of a source in this ck (R174): no memory changes but the allocations, as its lanes say. -/
def Serves (core src : Nat) (a : SpAccess) (s t : State) : Prop :=
  (∀ bslot b, s.blocks.get? (blockKey core bslot) = some b →
    ∃ b', t.blocks.get? (blockKey core bslot) = some b' ∧ b'.mem = (a.run a.lanes (s.allocations core)).2.2 bslot) ∧
  (∀ key, key / 16 ≠ core → t.blocks.get? key = s.blocks.get? key) ∧ t.mem = s.mem ∧ (t.core core).portPtr = (src + 1) % 5 ∧
  (t.core core).portFree = s.ck + a.passes

/-- The turn of a source, whose first access is a, at the port of a core, and all blocks that its lanes name are there. -/
def Turn (core src : Nat) (a : SpAccess) (rest : List SpAccess) (s : State) : Prop :=
  (s.core core).portNext = some src ∧ (s.core core).portReady src s.ck = true ∧ (s.core core).port.getD src [] = a :: rest ∧
  ∀ l ∈ a.lanes, l.bslot < 16 ∧ (s.blocks.get? (blockKey core l.bslot)).isSome = true

/-- The tile entry that the instruction names, by aux or by the register in in2 (R188). -/
def Ctx.tileNamed (x : Ctx) : Nat := if x.a.ctl.getLsbD 8 then (x.word x.a.in2 0).toNat else x.a.aux.toNat

/-- The operand slot that names it. -/
def Ctx.tileSlot (x : Ctx) : Nat := if x.a.ctl.getLsbD 8 then 4 else 5

/-- An entry of the crew's own block, no chute slot, in a state (R186). -/
def Ctx.owns (x : Ctx) (s : State) (t : TileEntry) : Prop :=
  x.c.pieces = [] ∧ s.softErrors = [] ∧ x.tileNamed ≤ 511 ∧ s.tile? x.core x.tileNamed = some t ∧ t.chute = false ∧ t.owner = s.bslotOf x.k

/-- Under a condition the entry named, which has not changed its state in this ck (R185), goes into a new state, and nothing else changes
(R183, R193). -/
def Retiles (op : Nat) (ctor : Args → Instr) (pre : Ctx → State → TileEntry → Prop) (f : Ctx → TileEntry → TileEntry) : Prop :=
  ∀ (x : Ctx) (s : State) (e : TileEntry), x.ready op s = true → x.owns s e → pre x s e →
    s.moved.contains (x.core, x.tileNamed) = false → ∃ t, exec (ctor x.a) s = .next t ∧ t.tile? x.core x.tileNamed = some (f x e) ∧ t.mem = s.mem ∧ t.blocks = s.blocks ∧
      (∀ core n, (core, n) ≠ (x.core, x.tileNamed) → t.tile? core n = s.tile? core n) ∧ ∃ h, x.unitIn t = some h ∧ h.pc = skipTail x.next

/-- The event counter that the instruction names, and its core (R197, R210). -/
def Ctx.eventNamed (x : Ctx) : Nat := if x.a.ctl.getLsbD 8 then (x.word x.a.in2 0).toNat else x.a.aux.toNat
def Ctx.eventCore (x : Ctx) : Nat := if x.a.ctl.getLsbD 4 then 4 * clusterOf x.core + x.a.ctl.toNat % 4 else x.core

/-- The operand slot that names it. -/
def Ctx.eventSlot (x : Ctx) : Nat := if x.a.ctl.getLsbD 8 then 4 else 5

/-- What an instruction that behaves as if S were set leaves (R63, R210). -/
def Ctx.parks (x : Ctx) (t : State) : State := (t.finish x true).noteIssue x

/-- A counter that a block of the crew's launch owns (R197). -/
def Ctx.eventOwned (x : Ctx) (s : State) (c : Counter) : Prop :=
  s.softErrors = [] ∧ x.eventNamed ≤ 2047 ∧ (s.core x.eventCore).counters.get? x.eventNamed = some c ∧
    ∃ b, s.blocks.get? (blockKey x.eventCore c.owner) = some b ∧ b.launch = x.c.launch

/-- The crew may arrive at or wait for group g: a member, undivided, with the scope granted (R205, R214). -/
def Ctx.member (x : Ctx) (s : State) (l : Launch) (b : Barrier) : Prop :=
  x.scopeOk s = true ∧ x.launchOf s = some l ∧ l.groupUsed x.a.aux.toNat = true ∧ l.groupHas x.a.aux.toNat x.c.index = true ∧
    l.barriers.get? x.a.aux.toNat = some b ∧ x.u = 0 ∧ x.c.units.length = 1 ∧ x.c.deferred = []

/-- The barrier of the group in a later state. -/
def Ctx.barrierIn (x : Ctx) (t : State) : Option Barrier := (t.launches.get? x.c.launch).bind fun l => l.barriers.get? x.a.aux.toNat

/-- The barrier once its last member has arrived (R207). -/
def Barrier.completed (b : Barrier) : Barrier :=
  { members := b.members - b.leaving, arrived := 0, leaving := 0, epoch := (b.epoch + 1) % 65536 }

/-- The unit waits at the group for an epoch; the instruction is its continuation (R207, R214). -/
def Ctx.barWaits (x : Ctx) (t : State) (epoch : Nat) : Prop :=
  ∃ h, x.unitIn t = some h ∧ h.st = .suspended (.barrier x.a.aux.toNat epoch) false ∧ h.pc = x.h.pc ∧ h.barEpoch = some epoch ∧
    h.barPc = x.h.pc

/-- The epoch recorded with the unit at this BAR, which it executes again (R214). -/
def Ctx.recorded (x : Ctx) : Option Nat := if x.h.barPc = x.h.pc then x.h.barEpoch else none

/-- Of the other units, those in `hit` waits are woken, and no others. -/
def Ctx.wakes (x : Ctx) (s t : State) (hit : Nat → Crew → Wake → Prop) : Prop :=
  ∀ (k u : Nat) (c : Crew) (h : CrewUnit) (w : Wake), (k, u) ≠ (x.k, x.u) → s.crews.get? k = some c → c.units.get? u = some h →
    h.st = .suspended w false → ∃ c' h', t.crews.get? k = some c' ∧ c'.units.get? u = some h' ∧
      (hit k c w → h'.st = .suspended w true) ∧ (¬ hit k c w → h'.st = .suspended w false)

/-- A wait at a group of the launch whose epoch is reached (R207). -/
def Ctx.atGroup (x : Ctx) (epoch : Nat) (_ : Nat) (c : Crew) (w : Wake) : Prop :=
  c.launch = x.c.launch ∧ ∃ e, w = .barrier x.a.aux.toNat e ∧ reached epoch e = true

/-- A wait on the counter that the instruction names, whose target its epoch has reached (R91, R198, R316). -/
def Ctx.atCounter (x : Ctx) (epoch k : Nat) (_ : Crew) (w : Wake) : Prop :=
  coreOf k = x.eventCore ∧ ∃ e, reached epoch e = true ∧ (w = .counter x.eventNamed e ∨ ∃ n, w = .watch n (some (x.eventNamed, e)))

/-- A release of the crew at its scope is complete (R299, R303, R181). -/
def Ctx.releases (x : Ctx) (s : State) : Prop := s.released x.k x.c x.a.scope.toNat false true false = true

/-- The crew has arrived at the group and its phase is open (R206). -/
def Ctx.pends (x : Ctx) (b : Barrier) : Bool :=
  match x.c.arrivals.get? x.a.aux.toNat with | some t => !reached b.epoch t | none => false

/-! ## Terms of the chute, hoist, matrix and capsule instructions (R216 to R291, R347 to R366) -/

/-- Chute n, seen from the crew's core, is the instance at `home`, and nothing of R229, R230 and R242 stands before its use. -/
def Ctx.opens (x : Ctx) (s : State) (n : Nat) (out : Bool) (home : Nat) (d : Chute) : Prop :=
  x.u = 0 ∧ x.c.units.length = 1 ∧ x.c.deferred = [] ∧ n ≤ 63 ∧ s.inst? x.core n = some (home, d) ∧
  ∀ l, x.launchOf s = some l → l.bound x.c.bench n out = true ∧ l.moving.get? x.core = none

/-- The chute that CH.ACQ and CH.TAKE name (R229). -/
def Ctx.chuteNamed (x : Ctx) : Nat := if x.a.ctl.getLsbD 8 then (x.word x.a.in2 0).toNat else x.a.aux.toNat % 64

/-- The operand slot that names it. -/
def Ctx.chuteField (x : Ctx) : Nat := if x.a.in2.isS then 4 else 5

/-- The chute and the entry that a handle's tag names (R221). -/
def Ctx.tagChute (x : Ctx) : Nat := (x.word x.a.in2 0).toNat / 2 ^ 9 % 64
def Ctx.tagEntry (x : Ctx) : Nat := (x.word x.a.in2 0).toNat % 2 ^ 9

/-- The instance in a later state. -/
def chuteIn (t : State) (home n : Nat) : Option Chute := (t.core home).chutes.get? n

/-- The handle in the destination pair (R221): cluster-window address and tag. -/
def Ctx.gotHandle (x : Ctx) (t : State) (addr tag : Nat) : Prop :=
  x.reads t x.a.dst 0 = x.landed x.a.dst (fun _ => wordOf addr) 0 ∧
  x.reads t (Opnd.next x.a.dst 1) 0 = x.landed (Opnd.next x.a.dst 1) (fun _ => wordOf tag) 0

/-- Slots that the crew holds in a later state (R231). -/
def Ctx.slotsIn (x : Ctx) (t : State) : Option Nat := (x.crewIn t).map (·.slots)

/-- CH.ACQ or CH.TRYACQ with a free tail slot (R231). -/
def Acquires (op : Nat) (ctor : Args → Instr) : Prop :=
  ∀ (x : Ctx) (s : State) (home : Nat) (d : Chute) (e : TileEntry), x.ready op s = true → x.opens s x.chuteNamed true home d →
    d.mc = false → s.moved.contains (home, d.first + d.tail) = false → s.tile? home (d.first + d.tail) = some e → e.state = 0 → d.held.getD (x.core % 4) 0 < d.allow.getD (x.core % 4) 0 →
    ∃ t d', exec (ctor x.a) s = .next t ∧ chuteIn t home x.chuteNamed = some d' ∧ d'.tail = (d.tail + 1) % (d.nslots + 1) ∧
      d'.nempty = d.nempty - 1 ∧ (∀ j < 4, d'.held.getD j 0 = d.held.getD j 0 + if j = x.core % 4 then 1 else 0) ∧
      t.tile? home (d.first + d.tail) = some { e with state := 1, expect := 1024 * (d.ssize + 1), landed := 0, late := false } ∧
      t.slotRec home (d.first + d.tail) = { item := 0, mark := false, eng := false, acqcore := x.core % 4, holder := x.c.index } ∧
      x.gotHandle t (2 ^ 26 * (home % 4) + 2 ^ 22 * d.cbslot + 1024 * (d.base + d.tail * (d.ssize + 1)))
        (2 ^ 9 * x.chuteNamed + (d.first + d.tail)) ∧ x.slotsIn t = some (x.c.slots + 1) ∧ x.goesOn t ∧ t.mem = s.mem

/-- CH.TAKE or CH.TRYTAKE with a READY head slot (R232). -/
def Takes (op : Nat) (ctor : Args → Instr) : Prop :=
  ∀ (x : Ctx) (s : State) (home : Nat) (d : Chute) (e : TileEntry), x.ready op s = true → x.opens s x.chuteNamed false home d →
    s.moved.contains (home, d.first + d.head) = false → s.tile? home (d.first + d.head) = some e → e.state = 2 →
    let r := s.slotRec home (d.first + d.head)
    ∃ t d', exec (ctor x.a) s = .next t ∧ chuteIn t home x.chuteNamed = some d' ∧ d'.head = (d.head + 1) % (d.nslots + 1) ∧
      d'.nready = d.nready - 1 ∧ t.tile? home (d.first + d.head) = some { e with state := 3 } ∧
      t.slotRec home (d.first + d.head) = { r with eng := false, holder := x.c.index } ∧
      x.gotHandle t (2 ^ 26 * (home % 4) + 2 ^ 22 * d.cbslot + 1024 * (d.base + d.head * (d.ssize + 1)))
        (2 ^ 16 * r.item + (if r.mark then 2 ^ 15 else 0) + 2 ^ 9 * x.chuteNamed + (d.first + d.head)) ∧
      x.slotsIn t = some (x.c.slots + 1) ∧ x.goesOn t ∧ t.mem = s.mem

/-- CH.ACQ and CH.TAKE trap: a unit that is held at its fault leaves the list of the instance too (R224). -/
def TrapsListed (op : Nat) (ctor : Args → Instr) (pre : Ctx → State → Prop) (t : Ctx → State → Trap) : Prop :=
  ∀ (x : Ctx) (s : State), x.ready op s = true → pre x s →
    exec (ctor x.a) s = .next (((x.start s).takeTrap x.k x.u x.len (t x s)).dropWaiter x.k x.u)

/-- The unit that accepts the queue entries of an opcode: the hoist engine, or the task scheduler. -/
def acceptor (op : Nat) : Nat := if op ≤ 0xC4 then 0 else 1

/-- An instruction waits where its core has accepted an entry in this ck (R250, R272), and where its queue has no room for it (R246). -/
def Awaits (op : Nat) (ctor : Args → Instr) (q : Ctx → State → Nat) : Prop :=
  Stalls op ctor (fun x s => s.accepted.contains (x.core, acceptor op) = true) (fun _ _ => .acceptance (acceptor op)) ∧
  Stalls op ctor (fun x s => s.accepted.contains (x.core, acceptor op) = false ∧ s.queueRoom x.core (q x s) x.c.launch x.c.name = false)
    (fun x s => .queueRoom (q x s))

/-- A stated instruction enters a queue of its core as the last item, its token rises, and the unit goes on (R246, R272). -/
def Enters (op : Nat) (ctor : Args → Instr) (q : Ctx → State → Nat) (pre : Ctx → State → Prop) (what : Ctx → State → State → QItem → Prop) : Prop :=
  ∀ (x : Ctx) (s : State), x.ready op s = true → s.accepted.contains (x.core, acceptor op) = false →
    s.queueRoom x.core (q x s) x.c.launch x.c.name = true → pre x s →
    ∃ t c i, exec (ctor x.a) s = .next t ∧ t.queue x.core (q x s) = s.queue x.core (q x s) ++ [i] ∧ i.id = s.nextItem ∧ what x s t i ∧
      x.crewIn t = some c ∧ (x.a.tv = true → c.tokens.getD x.a.tok.toNat 0 = x.c.tokens.getD x.a.tok.toNat 0 + 1) ∧
      x.goesOn t ∧ t.mem = s.mem

/-- A hoist of a kind that the crew has enqueued, not begun. -/
def Ctx.ownHoist (x : Ctx) (kind : HoistKind) (r : HTarget) (h : Hoist) : Prop :=
  h.kind = kind ∧ h.launch = x.c.launch ∧ h.name = x.c.name ∧ h.tgt = x.a.ctl.toNat / 2 ^ 6 % 4 ∧ h.tindex = r.tindex ∧
  h.landings = r.landings ∧ h.cursor = 0 ∧ h.started = false ∧ h.held = false

/-- The lanes of a lane form: number, memory address, window address (R255). -/
def Ctx.laneList (x : Ctx) : List (Nat × Nat × Nat) :=
  (x.lanesWith fun _ => true).map fun l => (l, x.addr l, (x.word x.a.in1 l).toNat)

/-- Bytes of a lane's element (R255). -/
def Ctx.hoistSize (x : Ctx) : Nat := 4 * 2 ^ (x.a.ctl.toNat / 4 % 4)

/-- Register i of the descriptor (R256). -/
def Ctx.descWord (x : Ctx) (i : Nat) : Word := x.word (Opnd.next x.a.in2 i) 0

/-- The shape that a descriptor gives (R256). -/
def Ctx.shaped (x : Ctx) (h : Hoist) : Prop :=
  h.width = (x.descWord 0).toNat ∧ h.rows = (x.descWord 1).toNat % 2 ^ 16 + 1 ∧ h.planes = (x.descWord 1).toNat / 2 ^ 16 + 1 ∧
  h.mrow = (x.descWord 2).toInt ∧ h.mplane = (x.descWord 3).toInt ∧ h.srow = (x.descWord 4).toNat ∧ h.splane = (x.descWord 5).toNat ∧
  h.total = h.width * h.rows * h.planes ∧ h.src = x.addr 0 ∧ h.win = (x.word x.a.in1 0).toNat

/-- The task that the crew has handed over, not begun. -/
def Ctx.ownTask (x : Ctx) (op : Nat) (r : TRegion) (t : Task) : Prop :=
  t.op = op ∧ t.launch = x.c.launch ∧ t.name = x.c.name ∧ t.started = false ∧ t.handle = x.word x.a.in2 0 ∧ t.kind = r.kind ∧ t.regionBslot = r.bslot ∧
  t.regionBase = r.base ∧ t.regionLen = r.len ∧ t.entry = r.entry ∧ t.chute = r.chute ∧ t.offset = x.a.imm.toNat

/-- Engine 0 or 1 by the low bits of ctl; a steered MMA goes where fewer tasks wait, other steered ones follow it (R273). -/
def Ctx.engineFor (x : Ctx) (s : State) (mma : Bool) : Nat :=
  if x.a.ctl.toNat % 4 = 0 then 0 else if x.a.ctl.toNat % 4 = 1 then 1
  else if mma then (if s.taskCount x.core 1 < s.taskCount x.core 0 then 1 else 0) else x.c.steer

/-- The crew has accumulator tile j, without soft errors (R120, R278). -/
def Ctx.hasTile (x : Ctx) (s : State) (j : Nat) : Prop := j < (x.c.budget - x.c.bound) / 128 ∧ s.softErrors = []

/-- The tile that bits of ctl name. -/
def Ctx.tileAt (x : Ctx) (lo : Nat) : Nat := x.a.ctl.toNat / 2 ^ lo % 4

/-- The source bytes lie in the region, from a multiple of 128 (R279). -/
def Ctx.sourceFits (x : Ctx) (n : Nat) (r : TRegion) : Prop := x.a.imm.toNat % 128 = 0 ∧ x.a.imm.toNat + n ≤ r.len

/-- The weight entry w is defined with a form in every engine that the MMA may go to (R281). -/
def Ctx.weighted (x : Ctx) (s : State) (form : Nat) : Prop :=
  ∃ b, s.blocks.get? (blockKey x.core (s.bslotOf x.k)) = some b ∧
    ∀ e < 2, (x.a.ctl.toNat % 4 = 2 ∨ x.a.ctl.toNat % 4 = e) → ∃ base, b.wtab.get? (128 * e + x.a.aux.toNat % 128) = some (form, base)

/-- Acceptance of an MMA (R276, R281): with a tile as its destination, or with a partial, for which a credit and a sequence number go. -/
def AcceptsMma (op form bytes : Nat) (fp : Ctx → Bool) (ctor : Args → Instr) : Prop :=
  (∀ (r : TRegion) (j : Nat), Enters op ctor (fun x s => 4 + x.engineFor s true)
    (fun x s => x.a.ctl.toNat / 8 % 8 = 4 + j ∧ x.hasTile s j ∧ x.taskRegion (x.start s) false (x.a.aux.toNat / 128) = .ok r ∧
      x.sourceFits bytes r ∧ x.weighted s form ∧ (if fp x then x.c.tileMode j = 0 else x.c.tileMode j = 1 ∨ x.c.tileMode j = 2))
    (fun x _ _ i => ∃ t, i = .task t ∧ x.ownTask op r t ∧ t.tile = some j ∧ t.mode = x.c.tileMode j)) ∧
  ∀ r : TRegion, Enters op ctor (fun x s => 4 + x.engineFor s true)
    (fun x s => x.a.ctl.toNat / 8 % 8 = 0 ∧ x.taskRegion (x.start s) false (x.a.aux.toNat / 128) = .ok r ∧ x.sourceFits bytes r ∧
      x.weighted s form ∧ x.c.untaken (x.engineFor s true) < 4 ∧ (s.core x.core).creditsUsed.getD (x.engineFor s true) 0 < 4)
    (fun x s st i => ∃ t, i = .task t ∧ x.ownTask op r t ∧ t.tile = none ∧ t.pseq = x.c.produce.getD (x.engineFor s true) 0 ∧
      (st.core x.core).creditsUsed.getD (x.engineFor s true) 0 = (s.core x.core).creditsUsed.getD (x.engineFor s true) 0 + 1 ∧
      ∃ c, x.crewIn st = some c ∧ c.produce.getD (x.engineFor s true) 0 = (t.pseq + 1) % 256)

/-- Signed element of a byte. -/
def int8 (b : Byte) : Int := b.toInt

/-- An exact value rounded to FP32 under nearest; an exact zero is +0 (R33). -/
def PartialTo (q : ℚ) (w : Word) (fl : BitVec 7) : Prop := if q = 0 then w = 0 ∧ fl = 0 else RoundsTo fp32 0 q w.toNat fl

/-- The partial of a row and a column (R39): NaN with IV, or an infinity, where the products say so, else what `sums` gives. -/
def CellTo (ps : List (Fp × Fp)) (sums : Word → BitVec 7 → Prop) (w : Word) (fl : BitVec 7) : Prop :=
  let products := ps.map fun p => p.1.times p.2
  if (ps.any fun p => p.1.isNan || p.2.isNan) ∨ none ∈ products ∨ (some (Fp.inf true) ∈ products ∧ some (Fp.inf false) ∈ products) then
    w = 0x7FC00000 ∧ fl = 0x10
  else if some (Fp.inf true) ∈ products then w = 0xFF800000 ∧ fl = 0
  else if some (Fp.inf false) ∈ products then w = 0x7F800000 ∧ fl = 0
  else sums w fl

/-- The exact sum of products. -/
def dotOf (ps : List (Fp × Fp)) : ℚ := (ps.map fun p => p.1.rat * p.2.rat).sum

/-- An FP32 sum within a partial: an exact zero is +0 (R33). -/
def AddsTo (a b w : Word) (fl : BitVec 7) : Prop :=
  if (fpOf a).finite = true ∧ (fpOf b).finite = true ∧ (fpOf a).rat + (fpOf b).rat = 0 then w = 0 ∧ fl = 0 else SumTo 0 [fpOf a, fpOf b] w fl

/-- The four groups of 32 products, each rounded, added in order (R37). -/
def GroupsTo (ps : List (Fp × Fp)) (w : Word) (fl : BitVec 7) : Prop :=
  ∃ (g : Nat → Word) (f : Nat → BitVec 7) (h1 h2 : Word) (f1 f2 f3 : BitVec 7),
    (∀ i < 4, PartialTo (dotOf ((ps.drop (32 * i)).take 32)) (g i) (f i)) ∧ AddsTo (g 0) (g 1) h1 f1 ∧ AddsTo h1 (g 2) h2 f2 ∧
    AddsTo h2 (g 3) w f3 ∧ fl = f 0 ||| f 1 ||| f 2 ||| f 3 ||| f1 ||| f2 ||| f3

/-- A 16-bit element of a byte function. -/
def half (f : Nat → Byte) (i : Nat) : Nat := (f (2 * i)).toNat + 256 * (f (2 * i + 1)).toNat

/-- An integer within the bounds of int32, or clamped to them (R41). -/
def clamped (t : Int) : Int := max (-(2 ^ 31)) (min (2 ^ 31 - 1) t)

/-- An element of a tile in a mode with a partial added: FP32 under nearest, wrapping or saturating (R41, R281). -/
def Accumulates (mode : Nat) (a p w : Word) : Prop :=
  match mode with
  | 0 => ∃ fl, SumTo 0 [fpOf a, fpOf p] w fl
  | 1 => w = a + p
  | _ => w = BitVec.ofInt 32 (clamped (a.toInt + p.toInt))

/-- A candidate of TOPK: value, index, whether it is a merge candidate. -/
abbrev Candidate := Word × Word × Bool

/-- x ranks before y, or their ranks are the same (R284). -/
def Candidate.upTo (mode : Nat) (largest : Bool) (x y : Candidate) : Prop :=
  let nan (v : Word) : Bool := mode == 0 && (fpOf v).isNan
  let value (v : Word) : Int := if nan v then 0 else if mode = 0 then orderKey v else v.toInt
  if nan x.1 ≠ nan y.1 then nan y.1 = true
  else if value x.1 ≠ value y.1 then (if largest then value y.1 < value x.1 else value x.1 < value y.1)
  else if x.2.1 ≠ y.2.1 then x.2.1.toInt < y.2.1.toInt
  else x.2.2 = true ∨ y.2.2 = false

/-- The candidates of row m for TOPK (R284). -/
def Task.candidates (t : Task) (column : Nat → List Word) (m : Nat) : List Candidate :=
  let k := t.aux.toNat % 16 + 1
  ((List.range 128).map fun i => (lane (column i) m, t.arg + BitVec.ofNat 32 i, false)) ++
  (if t.merge = [] then [] else (List.range k).map fun i => (lane (t.merge.getD i []) m, lane (t.merge.getD (k + i) []) m, true))

/-- What ACC.ST makes of an element (R27, R31, R32, R286). -/
def StoredAs (cvt mode : Nat) (v : Word) (b : Nat) : Prop :=
  match cvt with
  | 0 => b = v.toNat
  | 1 => ∃ fl, Narrows bf16 0 (fpOf v) b fl
  | _ => if mode = 0 then ∃ fl, Narrows e4m3 0 (fpOf v) b fl else b = (BitVec.ofInt 8 (max (-128) (min 127 v.toInt))).toNat

/-- Bytes of an element that ACC.ST stores, and the place of element (m, c) (R286). -/
def Task.storeSize (t : Task) : Nat := match t.ctl.toNat / 16 % 4 with | 0 => 4 | 1 => 2 | _ => 1
def Task.storePlace (t : Task) (m c : Nat) : Int :=
  t.regionBase + t.offset + m * (if t.arg.toInt = 0 then 128 * (t.storeSize : Int) else t.arg.toInt) + c * t.storeSize

/-- The crew has a lease in force on the line that it names, at ck (R349). -/
def Ctx.leasesLine (x : Ctx) (ck : Nat) : Prop := ∃ l ∈ x.c.leases, l.vline = x.addr 0 / 128 ∧ l.ended = false ∧ ck < l.deadline

/-- The lease set of a crew outside capsule mode has n lines in force at ck (R348, R363). -/
def Ctx.holdsLines (x : Ctx) (ck n : Nat) : Prop :=
  (((x.c.leases.filter fun l => !l.ended && decide (ck < l.deadline)).map (·.vline)).eraseDups).length = n

/-- LEASE reaches the line of p: nothing that R366 names before the lease set stands in the way. -/
def Ctx.leases? (x : Ctx) (s : State) (p : Xl) (s' : State) : Prop :=
  x.c.cap.mode = false ∧ x.c.pieces = [] ∧ x.addr 0 < 2 ^ 56 ∧
  (x.start s).translate x.core (s.partOf x.c) (x.addr 0) true false false = .ok (p, s')

/-- The capsule record at an address, reached with write permission in s', behind the requests that wait for its first line; both lines are
the core's, no other agent holds them, and every byte of them may be written (R350, R353, R354). -/
def Ctx.obtains (x : Ctx) (s : State) (va : Nat) (w : Xl) (r : CapRecord) (s' : State) : Prop :=
  (x.start s).translate x.core (s.partOf x.c) va true false true = .ok (w, s') ∧ s'.lineStop x.k x.u (w.pa / 128) false x.h = false ∧
  x.holds s' (w.pa / 128) ∧ x.holds s' (w.pa / 128 + 1) ∧ s'.poisoned w.key (w.pa + 128) = false ∧ w.pa % 256 = 0 ∧
  s'.guarded (w.pa / 128) = false ∧ s'.guarded (w.pa / 128 + 1) = false ∧ s'.keyed w.key w.pa = true ∧
  CapRecord.read (s'.readRecord w.key w.pa) = r

/-- Every buffered byte of a step lies in a line of the buffer, which a key slot reaches, and may be written. -/
def Ctx.buffered (x : Ctx) (s' : State) : Prop :=
  (x.c.cap.wbuf.map (·.1)).Nodup ∧ (∀ e ∈ x.c.cap.wlines, s'.keyed e.2 (e.1 * 128) = true) ∧
  ∀ e ∈ x.c.cap.wbuf, s'.fixed e.1 = false ∧ ∃ l ∈ x.c.cap.wlines, l.1 = e.1 / 128

/-- A commit leaves the buffered bytes in memory; but for them and the record's 256 bytes, every byte reads as before (R358, R359). -/
def Ctx.commits (x : Ctx) (s' t : State) (w : Xl) : Prop :=
  (∀ a b, x.c.cap.wbuf.get? a = some b → (a < w.pa ∨ w.pa + 256 ≤ a) → t.mem.byte a = b) ∧
  ∀ key a, x.c.cap.wbuf.get? a = none → (a < w.pa ∨ w.pa + 256 ≤ a) → t.readByte key a = s'.readByte key a

/-- A displaced runner: a holder reads 1 and goes on outside capsule mode, an adopter is back where it stood before it adopted, with its own
s0 to s7 (R360). -/
def Ctx.isDisplaced (x : Ctx) (t : State) : Prop :=
  (x.c.cap.role = .holder → ∃ c, x.crewIn t = some c ∧ c.cap.role = .displaced ∧ c.cap.mode = false ∧ c.cap.wbuf = [] ∧ c.leases = [] ∧
    x.goesOn t ∧ (x.a.dst.isS = true → x.reads t x.a.dst 0 = x.landed x.a.dst (fun _ => 1) 0)) ∧
  (x.c.cap.role = .adopter → goodTarget x.c.cap.stashPc → ∃ c h, x.crewIn t = some c ∧ c.units.get? x.u = some h ∧ h.pc = x.c.cap.stashPc ∧
    (∀ i < 8, c.sregs.getD i 0 = x.c.cap.stash.getD i 0) ∧ c.cap.role = .none ∧ c.cap.mode = false ∧ c.cap.wbuf = [] ∧ c.leases = [])

/-- The record at a place in a later state. -/
def recordIn (t : State) (w : Xl) : CapRecord := CapRecord.read (t.readRecord w.key w.pa)

/-- Nothing of R353 stands before CAP.ENTER on the record at va with code at offset b. -/
def Ctx.mayEnter (x : Ctx) (s : State) (l : Launch) (va b : Nat) : Prop :=
  x.launchOf s = some l ∧ x.u = 0 ∧ x.c.units.length = 1 ∧ x.c.deferred = [] ∧ x.c.cap.role = .none ∧ x.c.cap.rv = false ∧
  va = (x.dword x.a.in0 true 0).toNat ∧ va % 256 = 0 ∧ va < 2 ^ 56 ∧ x.a.in1 = .none ∧
  (x.h.pc.toNat : Int) + x.a.imm.toInt - (l.code.toNat : Int) = b ∧ b % 512 = 0 ∧ b + 512 ≤ l.codesz ∧
  s.released x.k x.c 5 true true true = true

/-! ## Terms of the device's own steps -/

/-- A started packet of a queue is ready to complete with a status (R375). -/
def readyWith (t : State) (queue index status detail : Nat) : Prop :=
  ∃ q x, t.queues.get? queue = some q ∧ x ∈ q.started ∧ x.index = index ∧ x.ready = true ∧ x.status = status ∧ x.detail = detail

/-- The packet at the head of a queue may start, under a reference that is not void (R367), has clean header bits and a signal word in its
window (R371, R373, R374). -/
def State.offers (s : State) (queue : Nat) (q : Queue) (p : BitVec 512) : Prop :=
  s.queues.get? queue = some q ∧ s.startable queue q = some p ∧ s.refLive q = true ∧ q.signalOk p = true ∧ p.extractLsb' 34 6 = 0

/-- A packet of a kind, with no byte set outside those listed, has its effect (R372, R415). `pre` may speak of the state in which head has
moved past the packet. -/
def PacketDoes (ctor : Nat → Instr) (mine : BitVec 512 → Prop) (lo : Nat) (used : List (Nat × Nat)) (pre : Queue → BitVec 512 → State → Prop)
    (eff : Nat → Queue → BitVec 512 → State → State → Prop) : Prop :=
  ∀ (s : State) (queue : Nat) (q : Queue) (p : BitVec 512), s.offers queue q p → mine p → strayByte p lo used = none →
    pre q p (s.begin queue p) → ∃ t, exec (ctor queue) s = .next t ∧ eff queue q p (s.begin queue p) t

/-- A CONTROL command of a code from a queue of enough privilege (R369, R395, R482); one of too little is denied. -/
def CommandDoes (ctor : Nat → Instr) (code minPriv : Nat) (mine : BitVec 512 → Prop) (used : List (Nat × Nat))
    (pre : Queue → BitVec 512 → State → Prop) (eff : Nat → Queue → BitVec 512 → State → State → Prop) : Prop :=
  PacketDoes ctor (fun p => pktKind p = 6 ∧ pkt p 24 2 = code ∧ mine p) 26 [(32, 32)]
    (fun q p s => minPriv ≤ q.priv ∧ strayByte p 32 used = none ∧ pre q p s) eff ∧
  PacketDoes ctor (fun p => pktKind p = 6 ∧ pkt p 24 2 = code ∧ mine p) 26 [(32, 32)] (fun q _ _ => q.priv < minPriv)
    (fun n q _ _ t => readyWith t n q.head stDenied 24)

/-- The launch that bytes 32 to 35 name, of the queue's tenant or under hypervisor privilege. -/
def named (q : Queue) (p : BitVec 512) (s : State) (l : Launch) : Prop :=
  s.launches.get? (pkt p 32 4) = some l ∧ (q.priv < 2 → l.tenant = q.tenant)

/-- A unit that the steps of its crew reach. -/
def State.has (s : State) (k u : Nat) (c : Crew) (h : CrewUnit) : Prop := s.crews.get? k = some c ∧ c.units.get? u = some h

/-- A bank has accepted nothing in this ck and has room, none of its waiting requests goes first, and round-robin chooses r (R333, R334). -/
def State.bankTurn (s : State) (bank : Nat) (r : BankReq) : Prop :=
  s.banked.contains bank = false ∧ (s.bank bank).conflict = [] ∧ s.bankFull bank = false ∧ (s.bank bank).pick = some r

/-- Nothing of a core's hoist or task that leaves its queue goes on beyond it: no block waits for it, and its crew is not RETIRING. -/
def State.settled (s : State) (launch : Nat) (n : CrewName) : Prop :=
  (∀ e ∈ s.blocks, e.2.strategy ≠ 4) ∧
  ∀ k c h, s.findCrew launch n = some k → s.crews.get? k = some c → c.units.get? 0 = some h → ∀ m, h.st ≠ .retiring m

/-- The queue pair of an inbound operation is usable, its turn has come, and a region grants the access (R305, R451). -/
def State.accepts (s : State) (op : RdmaOp) (len : Nat) (right : Region → Bool) (q : QueuePair) : Prop :=
  s.qps.get? op.qp = some q ∧ q.error = false ∧ s.portsDown.contains q.port = false ∧ s.portTurn op.qp (.rdma op) = true ∧
  ∃ r, s.region? q op.key op.va.toNat len = some r ∧ right r = true

/-- A message that its queue pair may take (R453). -/
def State.takesMessage (s : State) (m : Grenone) (q : QueuePair) (code : Nat) : Prop :=
  s.qps.get? m.qp = some q ∧ q.error = false ∧ s.portsDown.contains q.port = false ∧ s.portTurn m.qp (.message m) = true ∧
  greReserved m = false ∧ greField m 88 8 = code

/-- What a port answers last. -/
def answered (t : State) (code status : Nat) (value : List Byte) : Prop :=
  ∃ r, t.replies.getLast? = some r ∧ r.code = code ∧ r.status = status ∧ r.value = value

/-! ## Terms of packets and commands -/

/-- A packet ends with OK and no detail. -/
def okFor (n : Nat) (q : Queue) (t : State) : Prop := readyWith t n q.head stOk 0

/-- The complex has read no further than the state of the queue from which it makes its next read of the tail (R370, R385). -/
def State.atTail (s : State) (queue n : Nat) (q : Queue) (s0 s1 : State) : Prop :=
  s0 = (s.leaveSlot queue).flushWrites queue ∧ s0.queues.get? queue = some q ∧ s0.served queue q = true ∧ s0.readTail q = some (n, s1)

/-- Bytes of a completion record (R375). -/
def completionBytes (launch status seq detail tag ck : Nat) : List Byte :=
  leBytes 8 0 ++ leBytes 4 launch ++ leBytes 1 0 ++ leBytes 1 status ++ leBytes 2 seq ++ leBytes 4 detail ++ leBytes 4 tag ++ leBytes 8 ck

/-- The packet's signal word lies under a reference that has become void (R367). -/
def Queue.voided (q : Queue) (x : Started) : Bool := x.life != q.life && pkt x.packet 8 8 != 0

/-- A completion has a record, unless its packet is quiet and without error (R375). -/
def Queue.records (q : Queue) (x : Started) : Bool := q.voided x || !pktQuiet x.packet || x.status != stOk

/-- The writes that end a started packet (R375): record and ctail where there is one, then the signal word, in this order. A voided signal word
is not written, and is a capability fault (R367, R373). -/
def Queue.endWrites (q : Queue) (x : Started) (ck : Nat) : List CpWrite :=
  (if q.records x then
    [⟨BitVec.ofNat 64 (q.cbase.toNat + 32 * (q.ctail % q.entries)),
      completionBytes x.launch (if q.voided x then stCapability else x.status) (pktSeq x.packet) (if q.voided x then 8 else x.detail)
        (pkt x.packet 0 4) ck, x.launch⟩,
     ⟨q.record + 32, leBytes 4 ((q.ctail + 1) % 2 ^ 32), x.launch⟩] else []) ++
  (if q.voided x || pkt x.packet 8 8 == 0 then [] else [⟨BitVec.ofNat 64 (pkt x.packet 8 8), leBytes 8 (pkt x.packet 16 8), x.launch⟩])

/-- The queue once a packet of it has completed: it is started no more, and a record counts in ctail (R375, R481). -/
def Queue.ended (q : Queue) (x : Started) : Queue :=
  { q with
    started := q.started.filter fun y => y.index != x.index
    ctail := if q.records x then (q.ctail + 1) % 2 ^ 32 else q.ctail }

/-- A started packet of a queue that its complex serves, with nothing to be written before its end. -/
def State.completing (s : State) (queue index : Nat) (q : Queue) (x : Started) : Prop :=
  s.queues.get? queue = some q ∧ q.paused = false ∧ q.writes = [] ∧ s.boot = .running ∧ s.cpDown.contains (s.cpCore queue q) = false ∧
  q.started.find? (fun y => y.index == index) = some x ∧ x.status < 256

/-- A command that is not ready has reached its end: the blocks that PREEMPT found are taken away or freed, a resumed launch runs, an aborted
one is gone, a partition is reset (R386, R392, R395, R397). -/
def State.commandEnds (s : State) (x : Started) : Prop :=
  match pkt x.packet 24 2 with
  | 0x03 => ∀ e ∈ s.blocks, e.2.launch = pkt x.packet 32 4 → e.2.chute = false → e.2.number ∈ x.waits → e.2.strategy = 0
  | 0x05 => ∀ l, s.launches.get? (pkt x.packet 32 4) = some l → l.st ≠ .halted
  | 0x06 => s.launches.get? (pkt x.packet 32 4) = none
  | 0x0E => ∀ y, s.parts.get? (pkt x.packet 32 1) = some y → y.resetting = false
  | _ => False

/-- Tenant and partition that CREATE.QUEUE names, or those of the carrying queue (R369, R482). -/
def createFor (q : Queue) (p : BitVec 512) : Nat × Nat := if 2 ≤ q.priv then (pkt p 40 1, pkt p 41 1) else (q.tenant, q.part)

/-- The queue record may become a new queue (R367, R370, R395). -/
def mayCreate (q : Queue) (p : BitVec 512) (s : State) : Prop :=
  (2 ≤ q.priv ∨ (pkt p 40 1 = 0 ∧ pkt p 41 1 = 0 ∧ q.grants (pkt p 32 8) 64 true true false = true)) ∧ (createFor q p).1 ≤ 15 ∧
  (s.part? (createFor q p).2).isSome = true ∧ pkt p 32 8 % 64 = 0 ∧
  ∃ bs s', s.vread (createFor q p).2 (pkt p 32 8) 64 = .ok (bs, s') ∧ s'.queueAt (createFor q p).2 (pkt p 32 8) = none ∧
    s'.queues.length < 4096 ∧ (∃ i < 4096, s'.queues.get? i = none) ∧ bits (leNat bs) 0 242 = 0 ∧
    ∀ q', q' = queueOf (pkt p 32 8) (leNat bs) (createFor q p).1 (createFor q p).2 q s'.ck →
      q'.priv ≠ 3 ∧ q'.priv ≤ q.priv ∧ q'.lsize ≤ 10 ∧ q'.pbase.toNat % 64 = 0 ∧ q'.cbase.toNat % 32 = 0 ∧
      q'.grants q'.pbase.toNat (64 * q'.entries) true false false = true ∧ q'.grants q'.cbase.toNat (32 * q'.entries) false true false = true

/-- What a policy packet aims at passes the checks of R405, R414 and R415. -/
def aims (q : Queue) (p : BitVec 512) (s : State) : Prop :=
  pkt p 26 1 ≤ 1 ∧ 1 + pkt p 26 1 ≤ q.priv ∧ pkt p 25 1 ≤ 6 ∧
  (pkt p 26 1 = 1 → pkt p 27 1 = 0 ∧ (pkt p 25 1 = 1 ∨ pkt p 25 1 = 2 ∨ pkt p 25 1 = 5)) ∧
  (pkt p 26 1 = 0 → ∃ x, s.part? (pkt p 27 1) = some x ∧ x.tenant = q.tenant)

/-- Key of the routine that a policy packet names, and its engines. -/
def aimKey (p : BitVec 512) : Nat := routineKey (pkt p 25 1) (pkt p 26 1) (pkt p 27 1)
def State.aimEngines (s : State) (p : BitVec 512) : List Nat := s.enginesOf (pkt p 26 1) (pkt p 27 1)

/-- Limits of POLICY.LOAD's own fields but its word count (R415), with its allowance. -/
def loadAllowance (p : BitVec 512) : Nat := if pkt p 42 2 = 0 then 2000 else pkt p 42 2
def loadLimits (q : Queue) (p : BitVec 512) (s : State) : Prop :=
  pkt p 44 8 % 64 = 0 ∧ pkt p 52 4 % 8 = 0 ∧ 8 ≤ pkt p 52 4 ∧ pkt p 52 4 ≤ 65536 ∧
  (pkt p 26 1 = 0 → ∀ x, s.part? (pkt p 27 1) = some x → loadAllowance p ≤ (s.tenant x.tenant).alim) ∧
  q.grants (pkt p 32 8) (4 * pkt p 40 2) true false false = true

/-- The words of the routine that POLICY.LOAD reads, where it can. -/
def State.loadWords (s : State) (q : Queue) (p : BitVec 512) : Option (List Word) :=
  match s.policyWindow q (pkt p 26 1) (pkt p 27 1) (pkt p 44 8) (pkt p 52 4) with
  | none => none
  | some (_, s) => match s.vread q.part (pkt p 32 8) (4 * pkt p 40 2) with
    | .ok (bs, _) => some ((List.range (pkt p 40 2)).map fun i => BitVec.ofNat 32 (leNat ((bs.drop (4 * i)).take 4)))
    | .error _ => none

/-- The word count is within R416's. -/
def countOk (p : BitVec 512) : Prop := 1 ≤ pkt p 40 2 ∧ pkt p 40 2 ≤ 1024

/-- The window that POLICY.LOAD names for its routine lies where R414 has it. -/
def State.policyWindowOk (s : State) (q : Queue) (p : BitVec 512) : Prop :=
  (s.policyWindow q (pkt p 26 1) (pkt p 27 1) (pkt p 44 8) (pkt p 52 4)).isSome = true

/-- The routine that POLICY.LOAD carries, as the check of R416 to R418 judges it. -/
def State.loadCheck (s : State) (q : Queue) (p : BitVec 512) : Option (Option Nat) :=
  (s.loadWords q p).map fun ws => checkRoutine ws (pkt p 25 1) (pkt p 26 1) (pkt p 52 4) (loadAllowance p)

/-- The holders that SHARE lists. -/
def shareList (p : BitVec 512) : List Nat := ((List.range 4).map fun i => pkt p (32 + i) 1).filter (· != 0xFF)

/-- SET.DEBUG selects setting n (R396). -/
def sets (p : BitVec 512) (n : Nat) : Prop := bits (pkt p 36 1) n 1 = 1

/-- Lowest selected setting. -/
def lowestSet (p : BitVec 512) : Nat := ((List.range 4).find? fun n => bits (pkt p 36 1) n 1 == 1).getD 0

/-- SET.DEBUG has its effect for every setting that it selects (R396). -/
def DebugSets (ctor : Nat → Instr) (lowest : Nat) : Prop :=
  CommandDoes ctor 0x0F 1 (fun p => lowestSet p = lowest) [(32, 6), (40, 16)]
    (fun q p s => (∃ l, named q p s l) ∧ pkt p 36 1 ≤ 15 ∧ pkt p 37 1 ≤ 3 ∧ (sets p 2 → pkt p 40 8 % 4096 = 0 ∧ pkt p 48 4 % 4096 = 0 ∧
      4096 ≤ pkt p 48 4 ∧ pkt p 48 4 ≤ 67108864 ∧ q.grants (pkt p 40 8) (pkt p 48 4) true true false = true))
    (fun n q p s t => okFor n q t ∧ ∀ l, s.launches.get? (pkt p 32 4) = some l → ∃ l', t.launches.get? (pkt p 32 4) = some l' ∧
      (sets p 0 → l'.dbg = (bits (pkt p 37 1) 0 1 == 1)) ∧ (¬ sets p 0 → l'.dbg = l.dbg) ∧
      (sets p 1 → l'.trace = (bits (pkt p 37 1) 1 1 == 1)) ∧ (¬ sets p 1 → l'.trace = l.trace) ∧
      (sets p 2 → l'.tbase.toNat = pkt p 40 8 ∧ l'.tlen = pkt p 48 4) ∧ (¬ sets p 2 → l'.tbase = l.tbase ∧ l'.tlen = l.tlen) ∧
      (sets p 3 → ∀ core ∈ s.coresOf l.part, ∀ i < 8, (t.core core).perf.get? i =
        some { event := bits (pkt p 52 4) (4 * i) 4, launch := pkt p 32 4, count := 0 }))

/-- Constructors of the packets. -/
noncomputable def packetCtors : List (Nat → Instr) :=
  [.launch, .depend, .signal, .timestamp, .createQueue, .destroyQueue, .preempt, .halt, .resume, .abort, .setRoot, .invalidate, .setGrant,
   .keyLive, .keyDiscard, .frame, .retain, .partition, .resetPart, .setDebugAccess, .setDebugTracing, .setDebugTraceBuffer,
   .setDebugCounters, .policyLoad, .policyUnload, .budget, .share, .param]

/-- Each of those packets leaves to the others what is not its own: its kind, or the command and what else tells it apart. -/
def packetOf (p : BitVec 512) : List (BitVec 512 → Bool) :=
  let k (n : Nat) : BitVec 512 → Bool := fun p => pktKind p == n
  let c (n : Nat) : BitVec 512 → Bool := fun p => pktKind p == 6 && pkt p 24 2 == n
  let o (n : Nat) : BitVec 512 → Bool := fun p => pktKind p == 5 && pkt p 24 1 == n
  let d (n : Nat) : BitVec 512 → Bool := fun q => c 0x0F q && lowestSet p == n
  [k 1, k 2, k 3, k 4, c 1, c 2, c 3, c 4, c 5, c 6, c 7, c 8, c 9, fun p => c 0x0A p && pkt p 33 1 != 1, fun p => c 0x0A p && pkt p 33 1 == 1,
   c 0x0B, c 0x0C, c 0x0D, c 0x0E, d 0, d 1, d 2, d 3, o 0, o 1, o 2, o 3, o 4]

/-! ## Terms of dispatch -/

/-- A launch of a kernel that may place blocks on a core (R384, R403, R405). -/
def State.placing (s : State) (launch core : Nat) (l : Launch) : Prop :=
  s.launches.get? launch = some l ∧ l.st = .running ∧ s.exhausted l.part = false ∧ s.mayPlace (clusterOf core) l.part = true

/-- A block has been placed as R78 says: its slots are taken, no crew of it has started. -/
def placedAs (t : State) (launch block core : Nat) (sh : Shape) (f : Fit) : Prop :=
  ∃ b, t.blocks.get? (blockKey core f.bslot) = some b ∧ b.launch = launch ∧ b.number = block ∧ b.chute = false ∧ b.base = f.base ∧
    b.size = 1024 * sh.scratch ∧ b.wbase = f.wbase ∧ b.wlines = sh.wlines ∧ b.mem = [] ∧ b.crews = f.slots ∧
    ∀ k ∈ f.slots, ∃ c i, t.crews.get? k = some c ∧ f.slots[i]? = some k ∧ c.launch = launch ∧ c.block = block ∧
      c.index = block * sh.crews + i ∧ c.budget = sh.regs ∧ c.bound = sh.bound ∧ c.units = []

/-- Saved block of a launch. -/
def State.savedAt (s : State) (launch block : Nat) (v : Saved) : Prop :=
  ∃ l, s.launches.get? launch = some l ∧ l.saved.get? block = some v

/-- No line is held by an agent, none is waited for, and every bank takes what the device brings to it in this ck. -/
def State.linesFree (s : State) : Prop :=
  (∀ n, s.lineHeld n none = false ∧ s.lineQueued n = false) ∧ ∀ bank, s.deviceTakes bank = true

/-- A saved block that a pick, or a RESUME of its halted launch, has given to a core where it may come back (R245, R384, R403, R405). -/
def State.returning (s : State) (launch block core : Nat) (l : Launch) (v : Saved) : Prop :=
  s.launches.get? launch = some l ∧ (l.st = .running ∨ l.st = .halted) ∧ s.exhausted l.part = false ∧
  s.mayPlace (clusterOf core) l.part = true ∧ l.saved.get? block = some v ∧ s.grant? core launch block true = true ∧
  State.mayReturn l core v = true

/-- No routine of a partition is loaded for a point on a cluster, which only that partition uses. -/
def State.defaults (s : State) (n point part : Nat) : Prop :=
  (s.cluster n).shared = false ∧ (s.cluster n).routines.get? (routineKey point 0 part) = none

/-- An entry of a cluster's run queue. -/
def queuedAt (t : State) (n launch block prio : Nat) (saved : Bool) : Prop :=
  ∃ e ∈ (t.cluster n).runq, e.launch = launch ∧ e.block = block ∧ e.prio = prio ∧ e.saved = saved

/-- The engine that runs, after an operation of a cost: its word has moved on by one unless `word` says otherwise. -/
def policyDone (s t : State) (n cost : Nat) (word : Nat) (regs : Table Dword) : Prop :=
  t.cluster n = { s.cluster n with word := word, cycles := (s.cluster n).cycles + cost, regs := regs } ∧ t.mem = s.mem ∧
  t.crews = s.crews ∧ ∀ m, m ≠ n → t.cluster m = s.cluster m

/-- The same for a window load, but for the cluster's count of accesses that miss in L2 (R408). -/
def policyLoaded (s t : State) (n cost : Nat) (word : Nat) (regs : Table Dword) : Prop :=
  t.cluster n = { s.cluster n with word := word, cycles := (s.cluster n).cycles + cost, regs := regs, l2Now := (t.cluster n).l2Now } ∧
  t.mem = s.mem ∧ t.crews = s.crews ∧ ∀ m, m ≠ n → t.cluster m = s.cluster m

/-- An operation whose result goes to a register and takes some cycles (R411). -/
def PolicyGives (i : Instr) (cost : Nat) (d : Fin 16) (f : Cluster → Dword) : Prop :=
  ∀ (s : State) (n : Nat), s.engineOf = some n → ∃ t, exec i s = .next t ∧
    policyDone s t n cost ((s.cluster n).word + 1) ((s.cluster n).regs.put d.val (f (s.cluster n)))

/-- A branch: the next word is the current one plus the immediate where the comparison holds (R411). -/
def PolicyGoes (i : Instr) (imm : BitVec 18) (p : Cluster → Bool) : Prop :=
  ∀ (s : State) (n : Nat), s.engineOf = some n → ∃ t, exec i s = .next t ∧
    policyDone s t n 1 (if p (s.cluster n) = true then (((s.cluster n).word : Int) + imm.toInt).toNat else (s.cluster n).word + 1)
      (s.cluster n).regs

/-- Loops that words open, and those that they close. -/
def opened (ws : List Word) : Nat := (ws.filter fun w => w.toNat / 2 ^ 26 = 0x30 ∨ w.toNat / 2 ^ 26 = 0x31).length
def closed (ws : List Word) : Nat := (ws.filter fun w => w.toNat / 2 ^ 26 = 0x32).length

/-- Every loop that words open they close, and no other. -/
def balanced (ws : List Word) : Prop := opened ws = closed ws ∧ ∀ k, closed (ws.take k) ≤ opened (ws.take k)

/-- A loop is entered with n iterations, or skipped past its own ENDL when there are none (R411). -/
def PolicyLoops (i : Instr) (iters : Cluster → Nat) : Prop :=
  ∀ (s : State) (n : Nat), s.engineOf = some n → ∃ t, exec i s = .next t ∧ t.mem = s.mem ∧
    (t.cluster n).cycles = (s.cluster n).cycles + 1 ∧ (t.cluster n).regs = (s.cluster n).regs ∧
    (iters (s.cluster n) ≠ 0 → (t.cluster n).word = (s.cluster n).word + 1 ∧
      (t.cluster n).loops = { start := (s.cluster n).word + 1, remaining := iters (s.cluster n), iter := 0 } :: (s.cluster n).loops) ∧
    (iters (s.cluster n) = 0 → (t.cluster n).loops = (s.cluster n).loops ∧
      ∀ pre w post, (s.cluster n).code.words.drop ((s.cluster n).word + 1) = pre ++ w :: post → w.toNat / 2 ^ 26 = 0x32 → balanced pre →
        (t.cluster n).word = (s.cluster n).word + 1 + pre.length + 1)

/-- Byte offset of a window access (R412). -/
def windowOffset (c : Cluster) (a : Fin 16) (imm : BitVec 18) : Nat := (c.reg a + imm.setWidth 64).toNat

/-- The access stays in the window. -/
def State.inWindow (s : State) (n : Nat) (a : Fin 16) (imm : BitVec 18) (size : Nat) : Prop :=
  s.engineOf = some n ∧ windowOffset (s.cluster n) a imm + size ≤ (s.cluster n).code.wlen

/-- Physical address of a window access. -/
def windowAt (c : Cluster) (a : Fin 16) (imm : BitVec 18) : Nat := c.code.wbase + windowOffset c a imm

/-- No other agent holds a line of an engine's access, or has waited for it longer, and the banks on its path take it (R15, R334, R347). -/
def State.lineOpen (s : State) (n pa : Nat) : Prop :=
  s.lineHeld (pa / 128) none = false ∧ s.lineQueued (pa / 128) = false ∧ s.homeTakes (4 * n) (pa / 128) = true

/-- The access stays in the window, and its lines are open to it. -/
def State.windowFree (s : State) (n : Nat) (a : Fin 16) (imm : BitVec 18) (size : Nat) : Prop :=
  s.inWindow n a imm size ∧ ∀ i < size, s.lineOpen n (windowAt (s.cluster n) a imm + i)

/-- An access waits a cycle at a time while one of its lines is not open to it (R412). -/
def PolicyWaits (i : Instr) (size : Nat) (a : Fin 16) (imm : BitVec 18) : Prop :=
  ∀ (s : State) (n : Nat), s.inWindow n a imm size →
    (¬ s.lineOpen n (windowAt (s.cluster n) a imm) ∨ ¬ s.lineOpen n (windowAt (s.cluster n) a imm + size - 1)) →
    ∃ t, exec i s = .next t ∧ policyDone s t n 1 (s.cluster n).word (s.cluster n).regs

/-- A window load (R412). -/
def PolicyLoads (i : Instr) (size : Nat) (d a : Fin 16) (imm : BitVec 18) : Prop :=
  ∀ (s : State) (n : Nat), s.windowFree n a imm size →
    ∃ t v, exec i s = .next t ∧ policyLoaded s t n (windowCost n (windowAt (s.cluster n) a imm)) ((s.cluster n).word + 1)
        ((s.cluster n).regs.put d.val v) ∧
      ((∀ j < size, s.poisoned 0 (windowAt (s.cluster n) a imm + j) = false) →
        v = BitVec.ofNat 64 (leNat (s.readBytes 0 (windowAt (s.cluster n) a imm) size)))

/-- A window store in mailbox SRAM (R412, R415). -/
def PolicyStores (i : Instr) (size : Nat) (d a : Fin 16) (imm : BitVec 18) : Prop :=
  ∀ (s : State) (n : Nat), s.windowFree n a imm size →
    ∃ t, exec i s = .next t ∧ (t.cluster n).word = (s.cluster n).word + 1 ∧ (t.cluster n).regs = (s.cluster n).regs ∧
      (t.cluster n).cycles = (s.cluster n).cycles + windowCost n (windowAt (s.cluster n) a imm) ∧
      ((∀ j < size, inMailbox (windowAt (s.cluster n) a imm + j) = true ∧ s.fixed (windowAt (s.cluster n) a imm + j) = false) →
        ∀ j, t.mem.byte j =
          if windowAt (s.cluster n) a imm ≤ j ∧ j < windowAt (s.cluster n) a imm + size then
            ((s.cluster n).reg d >>> (8 * (j - windowAt (s.cluster n) a imm))).setWidth 8
          else s.mem.byte j)

/-- The record of a hold in a ring, alone, is passed with a disposition; no line of it is poisoned. -/
def State.passes (s : State) (ring : Nat) (r : FaultRec) (disp : Nat) : Prop :=
  ring ≤ 16 ∧ s.boot = .running ∧ since32 (leNat (s.readBytes 0 (ringBase ring) 4)) (s.ring ring).head = 1 ∧
  1 ≤ since32 (s.ring ring).tail (s.ring ring).head ∧ (s.ring ring).open_.take 1 = [r] ∧
  (s.readByte 0 (recordAt ring (s.ring ring).head)).toNat = disp ∧ s.poisoned 0 (ringBase ring) = false ∧
  s.poisoned 0 (recordAt ring (s.ring ring).head) = false

/-- A unit of a resident crew, held at a fault. -/
def State.heldAt (s : State) (launch : Nat) (n : CrewName) (k u : Nat) (c : Crew) (h : CrewUnit) (x : Hold) : Prop :=
  s.findCrew launch n = some k ∧ s.has k u c h ∧ h.st = .held x

/-! ## Terms of resets and ports -/

/-- Nothing is left in memory, keys, crews, queues or programs of engines (R457, R458). -/
def State.blank (t : State) : Prop :=
  t.mem = [] ∧ t.keys = [] ∧ t.crews = [] ∧ t.blocks = [] ∧ t.launches = [] ∧ t.queues = [] ∧ t.parts = [] ∧ t.clusters = [] ∧ t.tlb = [] ∧
  t.imageStore = [] ∧ t.firmware = [] ∧ t.boot = .empty ∧ t.ck = 0

/-- The last answer, with the reset's effects, to a request that comes when port 0 is up. -/
def State.port0Up (s : State) : Prop := s.portsDown.contains 0 = false

/-- A SEND may land (R305, R451). -/
def State.takesSend (s : State) (op : RdmaOp) (q : QueuePair) : Prop :=
  s.qps.get? op.qp = some q ∧ q.error = false ∧ s.portsDown.contains q.port = false ∧ s.portTurn op.qp (.rdma op) = true

/-- A message whose result is written (R305, R453): its operation and what it writes. Of every rank's elements, this module's own are what
memory holds when the port reads them; an import (`as`) reads none. -/
def MessageWrites (ctor : Grenone → Instr) (code : Nat) (as : Grenone → Grenone) (result : Grenone → List (List Word) → List Word) : Prop :=
  (∀ (s s1 s2 : State) (m : Grenone) (q : QueuePair) (ranks : List (List Word)), s.takesMessage (as m) q code →
    greAnnounced (as m) code = true → s.regionWrites q.part m.va.toNat (greBytes m (result m ranks)).length = true →
    s.greRanks (as m) q = .ok (ranks, s1) → s1.vwrite q.part m.va.toNat (greBytes m (result m ranks)) = .ok s2 →
    ∃ t, exec (ctor m) s = .next t ∧ t.mem = s2.mem ∧ t.portHeld.get? m.qp = none) ∧
  (∀ (s : State) (m : Grenone) (q : QueuePair) (f : XlFault) (va : Nat), s.takesMessage (as m) q code →
    greAnnounced (as m) code = true →
    (s.greRanks (as m) q = .error (.fault f va) ∨ ∃ ranks s1, s.greRanks (as m) q = .ok (ranks, s1) ∧
      s.regionWrites q.part m.va.toNat (greBytes m (result m ranks)).length = true ∧ s1.vwrite q.part m.va.toNat (greBytes m (result m ranks)) = .error (.fault f va)) →
    ∃ t h, exec (ctor m) s = .next t ∧ t.mem = s.mem ∧ answered t 0x80 portNotReady [] ∧ t.portHeld.get? m.qp = some h ∧
      (s.portHeld.get? m.qp = none → h = { op := .message (as m), told := true })) ∧
  (∀ (s s1 : State) (m : Grenone) (q : QueuePair) (ranks : List (List Word)), s.takesMessage (as m) q code → greAnnounced (as m) code = true →
    s.greRanks (as m) q = .ok (ranks, s1) → s.regionWrites q.part m.va.toNat (greBytes m (result m ranks)).length = false →
    ∃ t, exec (ctor m) s = .next t ∧ t.qps.get? m.qp = some { q with error := true } ∧ answered t 0x80 portRefused [] ∧ t.mem = s.mem)

/-- A value of reduction step (R453): its sum or the smaller or greater of two elements. -/
def int32Step (red : Nat) (x y : Word) : Word :=
  if red = 0 then x + y else if red = 1 then BitVec.ofInt 32 (min x.toInt y.toInt) else BitVec.ofInt 32 (max x.toInt y.toInt)

/-! ## Terms of frames -/

/-- An operation of a policy engine completes in its cycles; of the machine it changes its own engine alone, and of that engine's registers
those listed alone. -/
def PolicyKeeps (i : Instr) (cost : Nat) (ds : List Nat) : Prop :=
  ∀ (s : State) (n : Nat), s.engineOf = some n → ∃ t, exec i s = .next t ∧ (t.cluster n).cycles = (s.cluster n).cycles + cost ∧
    t.mem = s.mem ∧ t.crews = s.crews ∧ t.blocks = s.blocks ∧ t.launches = s.launches ∧ (∀ m, m ≠ n → t.cluster m = s.cluster m) ∧
    (t.cluster n).runq = (s.cluster n).runq ∧ (t.cluster n).holder = (s.cluster n).holder ∧
    ∀ r : Fin 16, ds.contains r.val = false → (t.cluster n).reg r = (s.cluster n).reg r

/-- The same of a window access that is open to it, memory apart. -/
def WindowKeeps (i : Instr) (size : Nat) (a : Fin 16) (imm : BitVec 18) (ds : List Nat) : Prop :=
  ∀ (s : State) (n : Nat), s.windowFree n a imm size → ∃ t, exec i s = .next t ∧
    (t.cluster n).cycles = (s.cluster n).cycles + windowCost n (windowAt (s.cluster n) a imm) ∧ t.blocks = s.blocks ∧ t.queues = s.queues ∧
    (∀ m, m ≠ n → t.cluster m = s.cluster m) ∧ (t.cluster n).runq = (s.cluster n).runq ∧
    ∀ r : Fin 16, ds.contains r.val = false → (t.cluster n).reg r = (s.cluster n).reg r

end Sys2Proof.Machine

open Sys2Proof Sys2Proof.Machine

/-! ## Encodings (R49 to R60, R410, R411) -/

/-- Words that the manual writes out, or that follow from R49 to R60 and R410 bit by bit, decode to the instructions that they stand for. -/
def Obligations.DecodeWords : Prop :=
  decodeTableWord 64 0x4E0681010020131C = some (.ffma { fields (.v 4) (.v 8) (.s 2) (.small 3) with sw := true, wait := 2, mod := 9 }) ∧
  decodeTableWord 64 0x0A12018040380968 = some (.idot4 { fields (.v 7) (.v 2) (.v 3) (.s 9) with wait := 1, mod := 1 }) ∧
  decodeTableWord 128 0x0000FFFFF00C0B8207FE010020500307 = some (.pairIssue
    { sw := true, wait := 0
      a := { opcode := 0x60, mod := 0, dst := .v 10, in0 := .v 1, in1 := .v 2, in2 := .none }
      b := { opcode := 0x82, mod := 0, dst := .v 11, in0 := .v 3, in1 := .none, in2 := .none } }) ∧
  decodeTableWord 128 0x000000400000020007FFFF8100180532 = some (.spld { longFields (.v 3) (.v 8) .none .none with ctl := 4, imm := 0x40 }) ∧
  decodeTableWord 128 0x00000000012C000207FFFFE0282806AA =
    some (.evAdd { longFields (.s 5) (.small 1) .none .none with scope := 2, aux := 0x12C }) ∧
  decodeTableWord 128 0x000000000002000007FFFFFFE840069A = some (.chTake { longFields (.s 8) .none .none .none with aux := 2 }) ∧
  decodeTableWord 128 0x0000100000092101022086209FF8060A =
    some (.hoistT { longFields .none (.s 4) (.s 12) (.s 16) with scope := 1, ctl := 0x42, aux := 9, imm := 0x1000 }) ∧
  decodeTableWord 128 0x00000000088314D107FFFFFFFFF80632 =
    some (.mmaE4m3 { longFields .none .none .none .none with scope := 1, tv := true, tok := 2, ctl := 0x29, aux := 0x883 }) ∧
  decodeTableWord 128 0x000000400000028607FFFFA108500512 =
    some (.ldAcq { longFields (.s 10) (.s 8) .none .none with scope := 6, ctl := 5, imm := 0x40 }) ∧
  decodeTableWord 128 0x0000010007FF000007FF82A2885006D2 =
    some (.capEnter { longFields (.s 10) (.s 20) (.small 5) .none with aux := 0x7FF, imm := 0x100 }) ∧
  decodeTableWord 96 0x0000002017FFFF805FF80019 = some (.brx { fields .none (.v 2) .none .none with form := .f96, mod := 2, imm := 0x20 }) ∧
  decodeTableWord 32 0x90400020 = some (.policyRdc 1 0x20) ∧ decodeTableWord 32 0x5444003F = some (.policyAndi 1 1 0x3F) ∧
  decodeTableWord 32 0x60440003 = some (.policyShli 1 1 3) ∧ decodeTableWord 32 0x80840000 = some (.policyLd 2 1 0) ∧
  decodeTableWord 32 0x98080000 = some (.policySetd 2 0) ∧ decodeTableWord 64 0x0000000000000700 = none

/-- Decoding the word of a well-formed crew instruction gives it back, whatever its operands, modifiers and fields (R49 to R56, R67). -/
def Obligations.CrewRoundTrip : Prop :=
  ∀ (i : Instr) (op : Nat) (a : Args), i.crewOp = some (op, a) → i.wf = true →
    encode i = some (a.form.bytes, a.word op) ∧ decode a.form.bytes (a.word op) = .ok i

/-- Decoding the word of a well-formed pair gives both halves back (R59, R60). -/
def Sys2Proof.Machine.PairRoundTrip : Prop :=
  ∀ p : PairArgs, p.ok = true → encode (.pairIssue p) = some (16, p.word) ∧ decode 16 p.word = .ok (.pairIssue p)

/-- Decoding the word of a well-formed policy operation gives it back (R410, R411). -/
def Sys2Proof.Machine.PolicyRoundTrip : Prop :=
  ∀ (i : Instr) (w : BitVec 32), i.policyWord = some w → i.wf = true → encode i = some (4, w.setWidth 128) ∧ decode 4 (w.setWidth 128) = .ok i

/-- No two words of one length mean the same: what decodes is the instruction's own word, all of whose bits are read (R49 to R60, R411). -/
def Obligations.EncodingsAreUnique : Prop :=
  ∀ (n : Nat) (w : BitVec 128) (i : Instr), decode n w = .ok i →
    i.wf = true ∧ encode i = some (n, BitVec.ofNat 128 (w.toNat % 2 ^ (8 * n)))

/-! ## The step (R49, R83, R410, R457) -/

/-- A step runs what the bytes at the chosen unit's PC decode to, the policy operation that is due, or the agenda's step of the device. -/
def Obligations.StepRunsDecoded : Prop :=
  (∀ (s s' : State) (k u : Nat) (c : Crew) (h : CrewUnit) (l : Launch) (w : BitVec 128) (len : Nat) (i : Instr),
    s.focus = some (k, u) → s.crews.get? k = some c → c.units.get? u = some h → s.launches.get? c.launch = some l →
    s.fetch (coreOf k) c.launch l h.pc h.origin = (s', .ok (w, len)) → decode len w = .ok i → step s = exec i s') ∧
  (∀ (s : State) (n : Nat) (w : BitVec 32) (i : Instr),
    s.focus = none → s.agenda = [] → s.power = true → s.engineOf = some n → (s.cluster n).due ≤ s.ck →
    (s.cluster n).cycles ≤ (s.cluster n).code.allowance → (s.cluster n).code.words[(s.cluster n).word]? = some w →
    decodePolicy w = some i → step s = exec i s) ∧
  (∀ (s : State) (i : Instr) (rest : List Instr),
    s.focus = none → s.agenda = i :: rest → i.isStep = true → s.power = true → step s = exec i { s with agenda := rest })

/-- Bytes at the PC that are no instruction raise the trap of R67: a reserved opcode illegal-opcode, an illegal half or field illegal-field,
a broken pair rule pair-rule; and so do a PC outside the executable blocks, and one at the last word of a fetch block (R50, R69, R97). -/
def Obligations.FetchTraps : Prop :=
  (∀ (s s' : State) (k u : Nat) (c : Crew) (h : CrewUnit) (l : Launch) (w : BitVec 128) (len : Nat) (e : DecodeErr),
    s.focus = some (k, u) → s.crews.get? k = some c → c.units.get? u = some h → s.launches.get? c.launch = some l →
    h.debugStops = [] → c.dbg.ctl.getLsbD 1 = false →
    s.fetch (coreOf k) c.launch l h.pc h.origin = (s', .ok (w, len)) → decode len w = .error e →
    step s = .next (({ s' with focus := none }).takeTrap k u len { cause := match e with
      | .illegalOpcode => .illegalOpcode
      | .illegalField => .illegalField
      | .pairRule => .pairRule })) ∧
  (∀ (s : State) (k u : Nat) (c : Crew) (h : CrewUnit) (l : Launch),
    s.focus = some (k, u) → s.crews.get? k = some c → c.units.get? u = some h → s.launches.get? c.launch = some l →
    h.debugStops = [] → c.dbg.ctl.getLsbD 1 = false →
    (s.core (coreOf k)).codeLine c.launch (h.pc.toNat / 128) = none → l.executable h.pc.toNat = false →
    step s = .next (({ s with focus := none }).takeTrap k u 0
      { cause := .executedPool, pc := some h.pc, addr := h.origin.toNat, slot := 7 })) ∧
  (∀ (s : State) (k u : Nat) (c : Crew) (h : CrewUnit) (l : Launch),
    s.focus = some (k, u) → s.crews.get? k = some c → c.units.get? u = some h → s.launches.get? c.launch = some l →
    h.debugStops = [] → c.dbg.ctl.getLsbD 1 = false →
    (s.core (coreOf k)).codeLine c.launch (h.pc.toNat / 128) = none → l.executable h.pc.toNat = true → h.pc.toNat % 32 = 0x1C →
    step s = .next (({ s with focus := none }).takeTrap k u 0
      { cause := .fetchCrossing, pc := some h.pc, addr := h.origin.toNat, slot := 7 }))

/-- Every step keeps physical memory in its canonical form: addresses rising, no zero byte listed. -/
def Obligations.StepKeepsMemory : Prop := ∀ s t : State, s.Inv → step s = .next t → t.Inv

/-- Right after the power-on reset memory has its canonical form. -/
def Obligations.ResetMemory : Prop := State.reset.Inv

/-- After the power-on reset the module ck is zero, no key slot is in use, no firmware is loaded, every frame is cleared, the spoil area is
empty (R457, R339), no crew, block or launch is resident, every event counter is invalid, and every byte reads zero. -/
def Obligations.ResetValues : Prop :=
  State.reset.ck = 0 ∧ (∀ k, State.reset.keys.get? k = none) ∧ State.reset.boot = .empty ∧ State.reset.firmware = [] ∧
  (∀ f, (State.reset.frame f).cleared = true) ∧ (∀ n, State.reset.spoil.get? n = none) ∧ (∀ k, State.reset.crews.get? k = none) ∧
  (∀ b, State.reset.blocks.get? b = none) ∧ (∀ l, State.reset.launches.get? l = none) ∧ (∀ q, State.reset.queues.get? q = none) ∧
  (∀ core e, (State.reset.core core).counters.get? e = none) ∧ (∀ a, State.reset.byteAt a = 0)

/-! ## Integer instructions (R130 to R149) -/

/-- IADD, ISUB, IMUL, IMULH, IMAD, IADD3, IMIN, IMAX, IABS, INEG, ISAD, IDOT4, IAVG and CLAMP give the value of R133 and R135,
narrowed as R131 says. -/
def Sys2Proof.Machine.IntegerArithmetic : Prop :=
  GivesWord 0x20 .iadd (fun x _ l => x.narrowTo 32 (x.i0 l + x.i1 l)) ∧
  GivesWord 0x21 .isub (fun x _ l => x.narrowTo 32 (x.i0 l - x.i1 l)) ∧
  GivesWord 0x22 .imul (fun x _ l => x.narrowTo 32 (x.i0 l * x.i1 l)) ∧
  GivesWord 0x23 .imulh (fun x _ l => ((BitVec.ofInt 64 (x.i0 l * x.i1 l)) >>> 32).setWidth 32) ∧
  GivesWord 0x24 .imad (fun x _ l => x.narrowTo 32 (x.i0 l * x.i1 l + x.i2 l)) ∧
  GivesWord 0x25 .iadd3 (fun x _ l => x.narrowTo 32 (x.i0 l + x.i1 l + x.i2 l)) ∧
  GivesWord 0x28 .imin (fun x _ l => if x.i0 l ≤ x.i1 l then x.w0 l else x.w1 l) ∧
  GivesWord 0x29 .imax (fun x _ l => if x.i0 l ≤ x.i1 l then x.w1 l else x.w0 l) ∧
  GivesWord 0x2A .iabs (fun x _ l => x.narrowTo 32 |x.i0 l|) ∧
  GivesWord 0x2B .ineg (fun x _ l => x.narrowTo 32 (-x.i0 l)) ∧
  GivesWord 0x2C .isad (fun x _ l => x.narrowTo 32 (|x.i0 l - x.i1 l| + x.i2 l)) ∧
  GivesWord 0x2D .idot4 (fun x _ l => x.narrowTo 32 (x.i2 l + x.byteVal (x.w0 l) 0 * x.byteVal (x.w1 l) 0 +
    x.byteVal (x.w0 l) 1 * x.byteVal (x.w1 l) 1 + x.byteVal (x.w0 l) 2 * x.byteVal (x.w1 l) 2 + x.byteVal (x.w0 l) 3 * x.byteVal (x.w1 l) 3)) ∧
  GivesWord 0x2E .iavg (fun x _ l => BitVec.ofInt 32 ((x.i0 l + x.i1 l + 1) / 2)) ∧
  GivesWord 0x2F .clamp (fun x _ l => BitVec.ofInt 32 (min (max (x.i0 l) (x.i1 l)) (x.i2 l)))

/-- IDIV and IREM: quotient toward zero and a remainder with the sign of x; by zero they give -1 and x, and no flag (R134). IDIV sets SAT
where the exact quotient lies outside the bounds, -2^31 / -1, and sat is 1; no other flag changes (R131). -/
def Obligations.IntegerDivision : Prop :=
  SendsWord 0x26 .idiv (fun x _ l => if x.i1 l = 0 then 0xFFFFFFFF else x.narrowTo 32 ((x.i0 l).tdiv (x.i1 l))) ∧
  SendsWord 0x27 .irem (fun x _ l => if x.i1 l = 0 then x.w0 l else BitVec.ofInt 32 (x.i0 l - x.i1 l * (x.i0 l).tdiv (x.i1 l))) ∧
  SendsSat 0x26 .idiv 32 (fun x l => (x.i0 l).tdiv (x.i1 l)) ∧ SendsSat 0x27 .irem 32 (fun _ _ => 0)

/-- SAT is raised by active lanes only, or once by a scalar-shaped instruction, and no other flag changes (R131). -/
def Sys2Proof.Machine.IntegerSaturation : Prop :=
  SetsSat 0x20 .iadd 32 (fun x l => x.i0 l + x.i1 l) ∧ SetsSat 0x21 .isub 32 (fun x l => x.i0 l - x.i1 l) ∧
  SetsSat 0x22 .imul 32 (fun x l => x.i0 l * x.i1 l) ∧ SetsSat 0x24 .imad 32 (fun x l => x.i0 l * x.i1 l + x.i2 l) ∧
  SetsSat 0x25 .iadd3 32 (fun x l => x.i0 l + x.i1 l + x.i2 l) ∧ SetsSat 0x2A .iabs 32 (fun x l => |x.i0 l|) ∧
  SetsSat 0x2B .ineg 32 (fun x l => -x.i0 l) ∧ SetsSat 0x2C .isad 32 (fun x l => |x.i0 l - x.i1 l| + x.i2 l) ∧
  SetsSat 0x2D .idot4 32 (fun x l => x.i2 l + x.byteVal (x.w0 l) 0 * x.byteVal (x.w1 l) 0 + x.byteVal (x.w0 l) 1 * x.byteVal (x.w1 l) 1 +
    x.byteVal (x.w0 l) 2 * x.byteVal (x.w1 l) 2 + x.byteVal (x.w0 l) 3 * x.byteVal (x.w1 l) 3)

/-- AND, OR, XOR, NOT, ANDN and LOP3 (R136): bit i of LOP3 is the table's bit at x[i], y[i] and the old destination's bit i.
Neither u nor sat is taken, and a table in a vector operand is illegal-field. -/
def Obligations.IntegerLogic : Prop :=
  GivesWord 0x30 .and (fun x _ l => x.w0 l &&& x.w1 l) ∧ GivesWord 0x31 .or (fun x _ l => x.w0 l ||| x.w1 l) ∧
  GivesWord 0x32 .xor (fun x _ l => x.w0 l ^^^ x.w1 l) ∧ GivesWord 0x33 .not (fun x _ l => ~~~ x.w0 l) ∧
  GivesWord 0x34 .andn (fun x _ l => x.w0 l &&& ~~~ x.w1 l) ∧
  GivesWord 0x35 .lop3 (fun x _ l =>
    let pick (k : Nat) : Word := if (x.w2 l).getLsbD k then
      (if k.testBit 2 then x.w0 l else ~~~ x.w0 l) &&& (if k.testBit 1 then x.w1 l else ~~~ x.w1 l) &&&
      (if k.testBit 0 then x.oldDst l else ~~~ x.oldDst l) else 0
    pick 0 ||| pick 1 ||| pick 2 ||| pick 3 ||| pick 4 ||| pick 5 ||| pick 6 ||| pick 7) ∧
  (∀ op ∈ [0x30, 0x31, 0x32, 0x33, 0x34, 0x35], Plain op) ∧
  ∀ (a : Args) (table : Opnd), a.ok 0x35 = true → table.isVec = true →
    decode a.form.bytes (({ a with in2 := table } : Args).word 0x35) = .error .illegalField

/-- SHL, SHR, SAR, ROL, FSHL and FSHR (R137). -/
def Sys2Proof.Machine.IntegerShifts : Prop :=
  GivesWord 0x36 .shl (fun x _ l => if 32 ≤ amount (x.w1 l) then 0 else x.w0 l <<< amount (x.w1 l)) ∧
  GivesWord 0x37 .shr (fun x _ l => if 32 ≤ amount (x.w1 l) then 0 else x.w0 l >>> amount (x.w1 l)) ∧
  GivesWord 0x38 .sar (fun x _ l => if 32 ≤ amount (x.w1 l) then (if (x.w0 l).getLsbD 31 then 0xFFFFFFFF else 0)
    else (x.w0 l).sshiftRight (amount (x.w1 l))) ∧
  GivesWord 0x39 .rol (fun x _ l => x.w0 l <<< (amount (x.w1 l) % 32) ||| x.w0 l >>> (32 - amount (x.w1 l) % 32)) ∧
  GivesWord 0x3A .fshl (fun x _ l => let n := (x.w2 l).toNat % 32
    if n = 0 then x.w0 l else x.w0 l <<< n ||| x.w1 l >>> (32 - n)) ∧
  GivesWord 0x3B .fshr (fun x _ l => let n := (x.w2 l).toNat % 32
    if n = 0 then x.w1 l else x.w1 l >>> n ||| x.w0 l <<< (32 - n))

/-- BFX, BFI, BREV, POPC, CLZ, CTZ, BPERM, SEXT, ZEXT, BITSET, BITCLR and BITTST (R138 to R142); those that take no u or sat have no legal form with one. -/
def Sys2Proof.Machine.IntegerBits : Prop :=
  GivesWord 0x3C .bfx (fun x _ l => let p := amount (x.w1 l); let w := min 32 (amount (x.w2 l))
    if w = 0 then 0
    else if x.uBit then (x.w0 l >>> p) <<< (32 - w) >>> (32 - w)
    else (((x.w0 l).sshiftRight p) <<< (32 - w)).sshiftRight (32 - w)) ∧
  GivesWord 0x3D .bfi (fun x _ l => let p := amount (x.w1 l); let w := min 32 (amount (x.w2 l))
    BitVec.ofFnLE fun i : Fin 32 =>
      if p ≤ i.val ∧ i.val < p + w then (x.w0 l).getLsbD (i.val - p) else (x.oldDst l).getLsbD i.val) ∧
  GivesWord 0x3E .brev (fun x _ l => BitVec.ofFnLE fun i : Fin 32 => (x.w0 l).getLsbD (31 - i.val)) ∧
  GivesWord 0x3F .popc (fun x _ l => BitVec.ofNat 32 (((List.range 32).filter fun i => (x.w0 l).getLsbD i).length)) ∧
  GivesWord 0x40 .clz (fun x _ l => BitVec.ofNat 32 (((List.range 32).find? fun i => (x.w0 l).getLsbD (31 - i)).getD 32)) ∧
  GivesWord 0x41 .ctz (fun x _ l => BitVec.ofNat 32 (((List.range 32).find? fun i => (x.w0 l).getLsbD i).getD 32)) ∧
  GivesWord 0x42 .bperm (fun x _ l =>
    let byte (i : Nat) : BitVec 8 := let n := ((x.w1 l).toNat / 16 ^ i) % 16
      if 8 ≤ n then 0 else (x.w2 l ++ x.w0 l).extractLsb' (8 * n) 8
    byte 3 ++ byte 2 ++ byte 1 ++ byte 0) ∧
  GivesWord 0x43 .sext (fun x _ l => let w := (x.w1 l).toNat % 64
    if w = 0 ∨ 32 ≤ w then x.w0 l else (x.w0 l <<< (32 - w)).sshiftRight (32 - w)) ∧
  GivesWord 0x44 .zext (fun x _ l => let w := (x.w1 l).toNat % 64
    if w = 0 ∨ 32 ≤ w then x.w0 l else x.w0 l <<< (32 - w) >>> (32 - w)) ∧
  GivesWord 0x45 .bitset (fun x _ l => x.w0 l ||| BitVec.twoPow 32 ((x.w1 l).toNat % 32)) ∧
  GivesWord 0x46 .bitclr (fun x _ l => x.w0 l &&& ~~~ BitVec.twoPow 32 ((x.w1 l).toNat % 32)) ∧
  GivesWord 0x47 .bittst (fun x _ l => if (x.w0 l).getLsbD ((x.w1 l).toNat % 32) then 1 else 0) ∧
  (∀ op ∈ [0x3E, 0x3F, 0x40, 0x41, 0x43, 0x44, 0x45, 0x46, 0x47], Plain op) ∧
  ∀ a : Args, a.ok 0x3D = true → a.mod.getLsbD 1 = false

/-- The ICMP relations, SEL and MOV (R143, R144). -/
def Sys2Proof.Machine.IntegerComparison : Prop :=
  GivesWord 0x48 .icmpEq (fun x _ l => truth (x.w0 l = x.w1 l)) ∧ GivesWord 0x49 .icmpNe (fun x _ l => truth (x.w0 l ≠ x.w1 l)) ∧
  GivesWord 0x4A .icmpLt (fun x _ l => truth (x.i0 l < x.i1 l)) ∧ GivesWord 0x4B .icmpLe (fun x _ l => truth (x.i0 l ≤ x.i1 l)) ∧
  GivesWord 0x4C .icmpGt (fun x _ l => truth (x.i1 l < x.i0 l)) ∧ GivesWord 0x4D .icmpGe (fun x _ l => truth (x.i1 l ≤ x.i0 l)) ∧
  GivesWord 0x4E .sel (fun x _ l => if x.w2 l = 0 then x.w1 l else x.w0 l) ∧ GivesWord 0x4F .mov (fun x _ l => x.w0 l)

/-- LANEID and CREWIX (R145, R146): indices in the block's shape (R77) and the crew's own. -/
def Sys2Proof.Machine.IntegerIndices : Prop :=
  (∀ (x : Ctx) (s : State) (p : Launch), x.ready 0x50 s = true → s.launches.get? x.c.launch = some p →
    ∃ t, exec (.laneid x.a) s = .next t ∧ ∀ l < 96, x.reads t x.a.dst l = x.landed x.a.dst (fun l =>
      let sh := p.shapeOf x.c.bench
      let i := 96 * (x.c.index % sh.crews) + l
      if x.a.in0 = .small 1 then BitVec.ofNat 32 i else if x.a.in0 = .small 2 then BitVec.ofNat 32 (i % sh.nx)
      else if x.a.in0 = .small 3 then BitVec.ofNat 32 (i / sh.nx % sh.ny)
      else if x.a.in0 = .small 4 then BitVec.ofNat 32 (i / (sh.nx * sh.ny)) else BitVec.ofNat 32 l) l) ∧
  (∀ (x : Ctx) (s : State) (p : Launch), x.ready 0x5F s = true → s.launches.get? x.c.launch = some p →
    ∃ t, exec (.crewix x.a) s = .next t ∧ ∀ l < 96, x.reads t x.a.dst l = x.landed x.a.dst (fun l =>
      if x.a.in0 = .small 0 then BitVec.ofNat 32 x.c.index else if x.a.in0 = .small 1 then BitVec.ofNat 32 x.c.block
      else if x.a.in0 = .small 2 then BitVec.ofNat 32 (x.c.index % (p.shapeOf x.c.bench).crews)
      else BitVec.ofNat 32 (96 * x.c.index + l)) l)

/-- MAND, MOR, MXOR and MNOT on masks in three registers, MPOPC and MFFS (R147). -/
def Sys2Proof.Machine.MaskInstructions : Prop :=
  GivesMask 0x51 .mand (· &&& ·) ∧ GivesMask 0x52 .mor (· ||| ·) ∧ GivesMask 0x53 .mxor (· ^^^ ·) ∧ GivesMask 0x54 .mnot (fun m _ => ~~~ m) ∧
  GivesWord 0x55 .mpopc (fun x _ _ => BitVec.ofNat 32 (((List.range 96).filter fun i => (x.triple x.a.in0).getLsbD i).length)) ∧
  GivesWord 0x56 .mffs (fun x _ _ => if x.triple x.a.in0 = 0 then 0xFFFFFFFF
    else BitVec.ofNat 32 (((List.range 96).find? fun i => (x.triple x.a.in0).getLsbD i).getD 0))

/-- LEA and the 64-bit instructions write their pair (R130, R148, R149); IADD64, ISUB64 and IMADW set SAT where a sum lies outside the
64-bit bounds, and no other flag changes (R131). -/
def Sys2Proof.Machine.IntegerPairs : Prop :=
  GivesPair 0x57 .lea (fun x _ l => x.dword x.a.in0 x.uBit l +
    (if x.uBit then (x.w1 l).setWidth 64 else (x.w1 l).signExtend 64) <<< ((x.w2 l).toNat % 8)) ∧
  GivesPair 0x58 .iadd64 (fun x _ l => x.narrowTo 64 (x.val64 x.a.in0 l + x.val64 x.a.in1 l)) ∧
  GivesPair 0x59 .isub64 (fun x _ l => x.narrowTo 64 (x.val64 x.a.in0 l - x.val64 x.a.in1 l)) ∧
  GivesPair 0x5A .imulw (fun x _ l => BitVec.ofInt 64 (x.i0 l * x.i1 l)) ∧
  GivesPair 0x5B .imadw (fun x _ l => x.narrowTo 64 (x.i0 l * x.i1 l + x.val64 x.a.in2 l)) ∧
  GivesPair 0x5C .shl64 (fun x _ l => x.dword x.a.in0 x.uBit l <<< amount (x.w1 l)) ∧
  GivesPair 0x5D .shr64 (fun x _ l => if x.uBit then x.dword x.a.in0 true l >>> amount (x.w1 l)
    else (x.dword x.a.in0 false l).sshiftRight (amount (x.w1 l))) ∧
  GivesPair 0x5E .mov64 (fun x _ l => x.dword x.a.in0 x.uBit l) ∧
  SetsSat 0x58 .iadd64 64 (fun x l => x.val64 x.a.in0 l + x.val64 x.a.in1 l) ∧
  SetsSat 0x59 .isub64 64 (fun x l => x.val64 x.a.in0 l - x.val64 x.a.in1 l) ∧
  SetsSat 0x5B .imadw 64 (fun x l => x.i0 l * x.i1 l + x.val64 x.a.in2 l) ∧
  KeepsFlags 0x57 .lea ∧ KeepsFlags 0x5A .imulw ∧ KeepsFlags 0x5C .shl64 ∧ KeepsFlags 0x5D .shr64 ∧ KeepsFlags 0x5E .mov64

/-! ## Floating point (R23 to R35, R151 to R161) -/

/-- The rounding of a number that is not zero (R30 to R32): within the range a result is the nearest value, the largest one not above in
magnitude, not above, or not below, and IX says that it differs from the number, and UF that it does and is tiny after rounding; beyond it the overflow result of R31 sets OF
and IX. -/
def Obligations.FloatRounding : Prop :=
  ∀ f ∈ [fp32, bf16, fp16, e4m3], ∀ (rnd m : Nat) (n : Bool) (e : Int), rnd < 4 → m ≠ 0 →
    RoundedTo f rnd n (Fp.num n m e).rat (f.roundNum rnd n m e).1 (f.roundNum rnd n m e).2

/-- FADD, FSUB, FMUL, FFMA and FDOT2 (R153, R157): NaNs, invalid cases, infinities, and one rounding of the exact value. -/
def Obligations.FloatArithmetic : Prop :=
  GivesFloat 0x60 .fadd (fun x l => SumTo x.rnd [fpOf (x.fw0 l), fpOf (x.fw1 l)]) ∧
  GivesFloat 0x61 .fsub (fun x l => SumTo x.rnd [fpOf (x.fw0 l), (fpOf (x.fw1 l)).negate]) ∧
  GivesFloat 0x62 .fmul (fun x l => ProductTo x.rnd (fpOf (x.fw0 l)) (fpOf (x.fw1 l))) ∧
  GivesFloat 0x63 .ffma (fun x l => FusedTo x.rnd (fpOf (x.fw0 l)) (fpOf (x.fw1 l)) (fpOf (x.fw2 l))) ∧
  GivesFloat 0x75 .fdot2 (fun x l w fl =>
    let a0 := x.half0 0 l
    let b0 := x.half1 0 l
    let a1 := x.half0 1 l
    let b1 := x.half1 1 l
    let z := fpOf (x.fw2 l)
    if (¬ a0.isNan ∧ ¬ b0.isNan ∧ a0.times b0 = none) ∨ (¬ a1.isNan ∧ ¬ b1.isNan ∧ a1.times b1 = none) then NanResult true w fl
    else
      let product (a b : Fp) : Fp := if a.isNan ∨ b.isNan then .nan (a.isSig || b.isSig) else (a.times b).getD a
      SumTo x.rnd [product a0 b0, product a1 b1, z] w fl)

/-- FMIN, FMAX, FAMAX, FCLMP and FCPYS choose an operand's bits (R153, R154). -/
def Sys2Proof.Machine.FloatSelection : Prop :=
  GivesFloat 0x65 .fmin (fun x l w fl => w = pickOf false (x.fw0 l) (x.fw1 l) ∧ fl = flagIf (sigOf [x.fw0 l, x.fw1 l]) 0x10) ∧
  GivesFloat 0x66 .fmax (fun x l w fl => w = pickOf true (x.fw0 l) (x.fw1 l) ∧ fl = flagIf (sigOf [x.fw0 l, x.fw1 l]) 0x10) ∧
  GivesFloat 0x67 .famax (fun x l w fl => w = pickOf true (x.fw0 l &&& 0x7FFFFFFF) (x.fw1 l &&& 0x7FFFFFFF) ∧
    fl = flagIf (sigOf [x.fw0 l, x.fw1 l]) 0x10) ∧
  GivesFloat 0x68 .fclmp (fun x l w fl => w = pickOf false (pickOf true (x.fw0 l) (x.fw1 l)) (x.fw2 l) ∧
    fl = flagIf (sigOf [x.fw0 l, x.fw1 l] || sigOf [pickOf true (x.fw0 l) (x.fw1 l), x.fw2 l]) 0x10) ∧
  GivesFloat 0x76 .fcpys (fun x l w fl => w = (x.fw0 l &&& 0x7FFFFFFF) ||| (x.fw1 l &&& 0x80000000) ∧ fl = 0)

/-- FRINT, FFRAC, FSCALE, FGETX and FCLASS (R155). -/
def Sys2Proof.Machine.FloatParts : Prop :=
  GivesFloat 0x69 .frint (fun x l w fl => match fpOf (x.fw0 l) with
    | .nan g => NanResult g w fl
    | .inf _ => w = x.fw0 l ∧ fl = 0
    | .num n m e => fl = 0 ∧ (fpOf w).rat = roundRat x.rnd (Fp.num n m e).rat ∧ ((fpOf w).rat = 0 → w = signWord n)) ∧
  GivesFloat 0x6A .ffrac (fun x l w fl => match fpOf (x.fw0 l) with
    | .nan g => NanResult g w fl
    | .inf _ => NanResult true w fl
    | .num n m e => ValueTo x.rnd ((Fp.num n m e).rat - ⌊(Fp.num n m e).rat⌋) 0 w fl) ∧
  GivesFloat 0x6B .fscale (fun x l w fl =>
    let n := (x.word x.a.in1 l).toInt
    let n := if x.a.mod.getLsbD 4 then |n| else n
    let n := if x.a.mod.getLsbD 3 then -n else n
    match fpOf (x.fw0 l) with
    | .nan g => NanResult g w fl
    | .inf g => w = (if g then 0xFF800000 else 0x7F800000) ∧ fl = 0
    | .num g m e => ValueTo x.rnd ((Fp.num g m e).rat * (2 : ℚ) ^ max (-1000) (min 1000 n)) (signWord g) w fl) ∧
  GivesFloat 0x6C .fgetx (fun x l w fl => match fpOf (x.fw0 l) with
    | .nan g => w = 0x7FFFFFFF ∧ fl = flagIf g 0x10
    | .inf _ => w = 0x7FFFFFFF ∧ fl = 0
    | .num n m e => fl = 0 ∧ if m = 0 then w = 0x80000000 else
        ∃ i : Int, w = BitVec.ofInt 32 i ∧ (2 : ℚ) ^ i ≤ |(Fp.num n m e).rat| ∧ |(Fp.num n m e).rat| < (2 : ℚ) ^ (i + 1)) ∧
  GivesFloat 0x6D .fclass (fun x l w fl =>
    let b := x.fw0 l
    let e := (b >>> 23) &&& 0xFF
    let m := b &&& 0x7FFFFF
    fl = 0 ∧ w = (if e = 0xFF then (if m ≠ 0 then (if b.getLsbD 22 then 0x200 else 0x100) else if b.getLsbD 31 then 0x001 else 0x080)
      else if e = 0 then (if m = 0 then (if b.getLsbD 31 then 0x008 else 0x010) else if b.getLsbD 31 then 0x004 else 0x020)
      else if b.getLsbD 31 then 0x002 else 0x040))

/-- The FCMP relations (R156). -/
def Sys2Proof.Machine.FloatComparison : Prop :=
  GivesFloat 0x6E .fcmpEq (Compares false false fun a b => a == b) ∧ GivesFloat 0x6F .fcmpNe (Compares true false fun a b => a != b) ∧
  GivesFloat 0x70 .fcmpLt (Compares false true fun a b => decide (a < b)) ∧
  GivesFloat 0x71 .fcmpLe (Compares false true fun a b => decide (a ≤ b)) ∧
  GivesFloat 0x72 .fcmpGt (Compares false true fun a b => decide (b < a)) ∧
  GivesFloat 0x73 .fcmpGe (Compares false true fun a b => decide (b ≤ a)) ∧ GivesFloat 0x74 .fcmpUn (Compares true false fun _ _ => false)

/-- FDIV and the special functions: every ready one sends a result with its flags. For zeros, infinities, NaNs, operands out of domain and the
exact results that R153 and R158 name it is the one named, and TANH of a finite operand that is not zero sets IX. QuotientsAndRoots has the
other operands of FDIV, RCP, RSQ and SQRT; the rounding of the other functions elsewhere is stated nowhere (log 6). -/
def Obligations.SpecialFunctions : Prop :=
  SendsFloat 0x64 .fdiv (fun x l w fl =>
    let n := (fpOf (x.fw0 l)).neg? != (fpOf (x.fw1 l)).neg?
    match fpOf (x.fw0 l), fpOf (x.fw1 l) with
    | .nan g, b => NanResult (g || b.isSig) w fl
    | _, .nan g => NanResult g w fl
    | .inf _, .inf _ => NanResult true w fl
    | .inf _, .num _ _ _ => w = (if n then 0xFF800000 else 0x7F800000) ∧ fl = 0
    | .num _ _ _, .inf _ => w = signWord n ∧ fl = 0
    | .num _ m _, .num _ m' _ => if m' = 0 then (if m = 0 then NanResult true w fl else w = (if n then 0xFF800000 else 0x7F800000) ∧ fl = 0x08)
      else m = 0 → w = signWord n ∧ fl = 0) ∧
  SendsFloat 0x77 .rcp (fun x l w fl => match fpOf (x.fw0 l) with
    | .nan g => NanResult g w fl
    | .inf n => w = signWord n ∧ fl = 0
    | .num n m _ => m = 0 → w = (if n then 0xFF800000 else 0x7F800000) ∧ fl = 0x08) ∧
  SendsFloat 0x78 .rsq (fun x l w fl => match fpOf (x.fw0 l) with
    | .nan g => NanResult g w fl
    | .inf n => if n then NanResult true w fl else w = 0 ∧ fl = 0
    | .num n m _ => if m = 0 then w = (if n then 0xFF800000 else 0x7F800000) ∧ fl = 0x08 else n = true → NanResult true w fl) ∧
  SendsFloat 0x79 .sqrt (fun x l w fl => match fpOf (x.fw0 l) with
    | .nan g => NanResult g w fl
    | .inf n => if n then NanResult true w fl else w = 0x7F800000 ∧ fl = 0
    | .num n m _ => if m = 0 then w = signWord n ∧ fl = 0 else n = true → NanResult true w fl) ∧
  SendsFloat 0x7A .exp2 (fun x l w fl => match fpOf (x.fw0 l) with
    | .nan g => NanResult g w fl
    | .inf n => w = (if n then 0 else 0x7F800000) ∧ fl = 0
    | .num n m e => (m = 0 → w = 0x3F800000 ∧ fl = 0) ∧ (128 ≤ (Fp.num n m e).rat → w = 0x7F800000 ∧ fl = 0x05) ∧
      ∀ i : Int, (Fp.num n m e).rat = i → -149 ≤ i → i ≤ 127 → (fpOf w).rat = (2 : ℚ) ^ i ∧ (fpOf w).finite = true ∧ fl = 0) ∧
  SendsFloat 0x7B .log2 (fun x l w fl => match fpOf (x.fw0 l) with
    | .nan g => NanResult g w fl
    | .inf n => if n then NanResult true w fl else w = 0x7F800000 ∧ fl = 0
    | .num n m e => if m = 0 then w = 0xFF800000 ∧ fl = 0x08 else if n then NanResult true w fl
      else ∀ k : Int, (Fp.num n m e).rat = (2 : ℚ) ^ k → (fpOf w).rat = k ∧ (fpOf w).finite = true ∧ fl = 0) ∧
  SendsFloat 0x7C .sinpi (fun x l w fl => match fpOf (x.fw0 l) with
    | .nan g => NanResult g w fl
    | .inf _ => NanResult true w fl
    | .num n m e => ((⌊(Fp.num n m e).rat⌋ : ℚ) = (Fp.num n m e).rat → w = signWord n ∧ fl = 0) ∧
      ∀ k : Int, (Fp.num n m e).rat = k + 1 / 2 → w = (if k % 2 = 0 then 0x3F800000 else 0xBF800000) ∧ fl = 0) ∧
  SendsFloat 0x7D .cospi (fun x l w fl => match fpOf (x.fw0 l) with
    | .nan g => NanResult g w fl
    | .inf _ => NanResult true w fl
    | .num n m e => (∀ k : Int, (Fp.num n m e).rat = k → w = (if k % 2 = 0 then 0x3F800000 else 0xBF800000) ∧ fl = 0) ∧
      ∀ k : Int, (Fp.num n m e).rat = k + 1 / 2 → w = 0 ∧ fl = 0) ∧
  SendsFloat 0x7E .tanh (fun x l w fl => match fpOf (x.fw0 l) with
    | .nan g => NanResult g w fl
    | .inf n => w = (if n then 0xBF800000 else 0x3F800000) ∧ fl = 0
    | .num n m _ => if m = 0 then w = signWord n ∧ fl = 0 else fl.getLsbD 0 = true)

/-- FDIV in its mode, and RCP, RSQ and SQRT under nearest, round the exact value of finite operands once (R35, R153, R158): for the roots,
no finite FP32 value lies nearer to the root than the result, and IX says that the result is not the root. -/
def Obligations.QuotientsAndRoots : Prop :=
  SendsFloat 0x64 .fdiv (fun x l w fl =>
    (fpOf (x.fw0 l)).finite = true → (fpOf (x.fw1 l)).finite = true → (fpOf (x.fw0 l)).isZero = false → (fpOf (x.fw1 l)).isZero = false →
      RoundedTo fp32 x.rnd ((fpOf (x.fw0 l)).neg? != (fpOf (x.fw1 l)).neg?) ((fpOf (x.fw0 l)).rat / (fpOf (x.fw1 l)).rat) w.toNat fl) ∧
  SendsFloat 0x77 .rcp (fun x l w fl => (fpOf (x.fw0 l)).finite = true → (fpOf (x.fw0 l)).isZero = false →
    RoundedTo fp32 0 (fpOf (x.fw0 l)).neg? (1 / (fpOf (x.fw0 l)).rat) w.toNat fl) ∧
  SendsFloat 0x78 .rsq (fun x l w fl => (fpOf (x.fw0 l)).finite = true → 0 < (fpOf (x.fw0 l)).rat →
    0 < (fpOf w).rat ∧ (fl.getLsbD 0 = true ↔ (fpOf w).rat ^ 2 * (fpOf (x.fw0 l)).rat ≠ 1) ∧ ∀ c, fp32.finites c → 0 ≤ (fp32.decode c).rat →
      ((fp32.decode c).rat < (fpOf w).rat → ((fp32.decode c).rat + (fpOf w).rat) ^ 2 * (fpOf (x.fw0 l)).rat ≤ 4) ∧
      ((fpOf w).rat < (fp32.decode c).rat → 4 ≤ ((fp32.decode c).rat + (fpOf w).rat) ^ 2 * (fpOf (x.fw0 l)).rat)) ∧
  SendsFloat 0x79 .sqrt (fun x l w fl => (fpOf (x.fw0 l)).finite = true → 0 < (fpOf (x.fw0 l)).rat →
    0 < (fpOf w).rat ∧ (fl.getLsbD 0 = true ↔ (fpOf w).rat ^ 2 ≠ (fpOf (x.fw0 l)).rat) ∧ ∀ c, fp32.finites c → 0 ≤ (fp32.decode c).rat →
      ((fp32.decode c).rat < (fpOf w).rat → ((fp32.decode c).rat + (fpOf w).rat) ^ 2 ≤ 4 * (fpOf (x.fw0 l)).rat) ∧
      ((fpOf w).rat < (fp32.decode c).rat → 4 * (fpOf (x.fw0 l)).rat ≤ ((fp32.decode c).rat + (fpOf w).rat) ^ 2))

/-- The conversions (R34, R159, R160). -/
def Sys2Proof.Machine.Conversions : Prop :=
  GivesFloat 0x7F .cvtF32E4m3 (fun x l => Widens (e4m3.decode (x.cvtByte l))) ∧
  GivesFloat 0x80 .cvtF32Bf16 (fun x l => Widens (bf16.decode (x.cvtHalf l))) ∧
  GivesFloat 0x81 .cvtF32F16 (fun x l => Widens (fp16.decode (x.cvtHalf l))) ∧
  GivesFloat 0x82 .cvtBf16F32 (Packs bf16 16) ∧ GivesFloat 0x83 .cvtF16F32 (Packs fp16 16) ∧ GivesFloat 0x84 .cvtE4m3F32 (Packs e4m3 8) ∧
  GivesFloat 0x85 .cvtE4m3Bf16 (fun x l w fl => ∃ (b : Fin 4 → Nat) (g : Fin 4 → BitVec 7),
    (∀ i : Fin 4, let o := if i.val < 2 then x.a.in0 else x.a.in1
      if o = .none then b i = 0 ∧ g i = 0
      else Narrows e4m3 x.rnd (bf16.decode ((x.word o l).toNat / 2 ^ (16 * (i.val % 2)) % 65536)) (b i) (g i)) ∧
    w.toNat = b 0 + 256 * (b 1 + 256 * (b 2 + 256 * b 3)) ∧ fl = g 0 ||| g 1 ||| g 2 ||| g 3) ∧
  GivesFloat 0x86 .cvtI32F32 (fun x l w fl => ∃ r, ToInteger 32 x.rnd (x.source x.a.in0 l) r fl ∧ w = BitVec.ofInt 32 r) ∧
  GivesFloat 0x87 .cvtI8F32 (fun x l w fl => ∃ r, ToInteger 8 x.rnd (x.source x.a.in0 l) r fl ∧ w = BitVec.ofInt 32 r) ∧
  GivesFloat 0x88 .cvtF32I32 (fun x l w fl => ValueTo x.rnd ((x.word x.a.in0 l).toInt : ℚ) 0 w fl) ∧
  GivesFloat 0x89 .cvtF32I8 (fun x l w fl => fl = 0 ∧ (fpOf w).rat = ((BitVec.ofNat 8 (x.cvtByte l)).toInt : ℚ)) ∧
  GivesFloat 0x8A .cvtI8I32 (fun x l w fl =>
    let t := (x.word x.a.in0 l).toInt
    if x.a.mod.getLsbD 2 then w = BitVec.ofInt 32 (max (-128) (min 127 t)) ∧ fl = flagIf (decide (t < -128 ∨ 127 < t)) 0x20
    else w = ((x.word x.a.in0 l).setWidth 8).signExtend 32 ∧ fl = 0)

/-- TUNPK writes the five trits of the selected byte as bytes, or zeros and TC for a reserved code (R28, R161). -/
def Sys2Proof.Machine.TernaryUnpack : Prop :=
  ∀ (x : Ctx) (s : State), x.ready 0x8B s = true →
    let byte (l : Nat) : Nat := ((x.word x.a.in0 l).toNat / 2 ^ (8 * (if x.a.in1 = .none then 0 else (x.word x.a.in1 l).toNat % 4))) % 256
    let trits (l i : Nat) : Int := if 242 < byte l then 0 else ((byte l / 3 ^ i % 3 : Nat) : Int) - 1
    let low (l : Nat) : Word := BitVec.ofInt 8 (trits l 3) ++ BitVec.ofInt 8 (trits l 2) ++ BitVec.ofInt 8 (trits l 1) ++ BitVec.ofInt 8 (trits l 0)
    let high (l : Nat) : Word := (BitVec.ofInt 8 (trits l 4)).setWidth 32
    ∃ t, exec (.tunpk x.a) s = .next t ∧
      (∀ l < 96, x.reads t x.a.dst l = x.landed x.a.dst low l ∧ x.reads t (Opnd.next x.a.dst 1) l = x.landed (Opnd.next x.a.dst 1) high l) ∧
      x.flagsIn t = some (x.c.fflags ||| x.joined fun l => flagIf (decide (242 < byte l)) 0x40)

/-! ## Cross-lane instructions (R162 to R168) -/

/-- VGET, VROT, VSLIDE and VBCAST read lanes of x, and VPUT and VSQZ place them (R164, R165, R168). -/
def Sys2Proof.Machine.CrossLaneMoves : Prop :=
  SendsWord 0x8C .vget (fun x _ l => x.lane0 (x.w1 l).toNat) ∧
  SendsWord 0x8E .vrot (fun x _ l => x.lane0 (((l : Int) + (x.scalar x.a.in1).toInt) % 96).toNat) ∧
  SendsWord 0x8F .vslide (fun x _ l =>
    let j := (l : Int) + (x.scalar x.a.in1).toInt
    if 0 ≤ j ∧ j ≤ 95 then x.word x.a.in0 j.toNat else if 96 ≤ j ∧ j ≤ 191 then x.word x.a.in2 (j - 96).toNat
    else if -96 ≤ j ∧ j ≤ -1 then x.word x.a.in2 (j + 96).toNat else 0) ∧
  SendsWord 0x90 .vbcast (fun x _ _ => x.lane0 (x.scalar x.a.in1).toNat) ∧
  SendsWord 0x8D .vput (fun x _ d => match (x.lanesWith fun l => (x.w1 l).toNat == d).getLast? with
    | some l => x.word x.a.in0 l
    | none => x.word x.a.dst d) ∧
  SendsWord 0x9F .vsqz (fun x _ l =>
    match (x.lanesWith fun j => x.word x.a.in1 j != 0)[(x.lanesWith fun j => decide (j < l)).length]? with
    | some j => x.word x.a.in0 j
    | none => x.word x.a.in2 l)

/-- VOTE, BALLOT and VMATCH fold the active lanes; a scalar destination is written whatever the mask (R162, R166). -/
def Sys2Proof.Machine.CrossLaneVotes : Prop :=
  SendsWord 0x91 .voteAll (fun x _ _ => truth ((List.range 96).all fun l => !x.acts l || x.word x.a.in0 l != 0)) ∧
  SendsWord 0x92 .voteAny (fun x _ _ => truth ((List.range 96).any fun l => x.acts l && x.word x.a.in0 l != 0)) ∧
  SendsWord 0x94 .vmatch (fun x _ l => if x.a.dst.isS then BitVec.ofNat 32 (((x.lanesWith fun _ => true).map fun j => x.word x.a.in0 j).toFinset.card)
    else BitVec.ofNat 32 (((x.lanesWith fun j => x.word x.a.in0 j == x.word x.a.in0 l).head?).getD l)) ∧
  (∀ (x : Ctx) (s : State), x.ready 0x93 s = true → ∃ t r, exec (.ballot x.a) s = .next t ∧ x.awaits s t r ∧ ∀ i < 3,
    x.readsIn (x.after r) (Opnd.next x.a.dst i) 0 = x.landed (Opnd.next x.a.dst i)
      (fun _ => maskWord (BitVec.ofFnLE fun l : Fin 96 => x.acts l && x.word x.a.in0 l != 0) i) 0)

/-- LRED folds the active lanes into one result with its flags (R166). The sign of a sum that is zero is log 7's. -/
def Sys2Proof.Machine.CrossLaneReductions : Prop :=
  SendsLanes 0x95 .lredIadd (fun x f fl => let t := ((x.lanesWith fun _ => true).map x.i0).sum
    (∀ l < 96, f l = x.narrowTo 32 t) ∧ fl = x.satFlag t) ∧
  SendsLanes 0x96 .lredImin (fun x f fl => fl = 0 ∧ ∃ m : Int, (∀ l < 96, f l = BitVec.ofInt 32 m) ∧ m ≤ x.highest 32 ∧
    (∀ l < 96, x.acts l = true → m ≤ x.i0 l) ∧ ((∃ l < 96, x.acts l = true ∧ m = x.i0 l) ∨ m = x.highest 32)) ∧
  SendsLanes 0x97 .lredImax (fun x f fl => fl = 0 ∧ ∃ m : Int, (∀ l < 96, f l = BitVec.ofInt 32 m) ∧ x.lowest 32 ≤ m ∧
    (∀ l < 96, x.acts l = true → x.i0 l ≤ m) ∧ ((∃ l < 96, x.acts l = true ∧ m = x.i0 l) ∨ m = x.lowest 32)) ∧
  SendsLanes 0x98 .lredFadd (fun x f fl => ∃ w, (∀ l < 96, f l = w) ∧ x.sumOf (x.lanesWith fun _ => true) w fl) ∧
  SendsLanes 0x99 .lredFmin (fun x f fl => (∀ l < 96, f l = x.foldOf false (x.lanesWith fun _ => true)) ∧
    fl = flagIf ((x.lanesWith fun _ => true).any fun l => (x.source x.a.in0 l).isSig) 0x10) ∧
  SendsLanes 0x9A .lredFmax (fun x f fl => (∀ l < 96, f l = x.foldOf true (x.lanesWith fun _ => true)) ∧
    fl = flagIf ((x.lanesWith fun _ => true).any fun l => (x.source x.a.in0 l).isSig) 0x10) ∧
  SendsLanes 0x9B .lredOr (fun x f fl => fl = 0 ∧
    ∀ l < 96, ∀ i < 32, (f l).getLsbD i = (List.range 96).any fun j => x.acts j && (x.word x.a.in0 j).getLsbD i)

/-- SCAN gives each active lane the sum or maximum over the active lanes up to it, each rounded or narrowed on its own (R167). The
sign of a sum that is zero is log 7's. -/
def Sys2Proof.Machine.CrossLaneScans : Prop :=
  SendsLanes 0x9C .scanIadd (fun x f fl => let t (l : Nat) : Int := ((x.upTo l).map x.i0).sum
    (∀ l < 96, x.acts l = true → f l = x.narrowTo 32 (t l)) ∧ fl = laneFlags x.h.mask fun l => x.satFlag (t l)) ∧
  SendsLanes 0x9D .scanFadd (fun x f fl => ∃ g : Nat → BitVec 7,
    (∀ l < 96, x.acts l = true → x.sumOf (x.upTo l) (f l) (g l)) ∧ fl = laneFlags x.h.mask g) ∧
  SendsLanes 0x9E .scanImax (fun x f fl => fl = 0 ∧ ∀ l < 96, x.acts l = true → ∃ m : Int, f l = BitVec.ofInt 32 m ∧ x.lowest 32 ≤ m ∧
    (∀ j ∈ x.upTo l, x.i0 j ≤ m) ∧ ((∃ j ∈ x.upTo l, m = x.i0 j) ∨ m = x.lowest 32))

/-! ## Control and system instructions (R61 to R64, R85 to R119) -/

/-- After an instruction without a transfer the unit stands at the next address, past the last word of a fetch block (R50), its run one
longer; at a switch marker it parks until its results have returned, or starts a new run, and the last-result files are invalid (R63). No
byte of memory, no other crew and no launch changes. -/
def Sys2Proof.Machine.InstructionEnds : Prop :=
  ∀ (x : Ctx) (t : State) (c : Crew) (h : CrewUnit), t.crews.get? x.k = some c → c.units.get? x.u = some h →
    ∃ c' h', x.crewIn (x.ends t) = some c' ∧ c'.units.get? x.u = some h' ∧ h'.pc = skipTail (x.h.pc + BitVec.ofNat 64 x.len) ∧
      h'.origin = x.h.pc ∧ h'.mask = h.mask ∧ h'.stop = (x.a.sw && !c.waiting x.u) ∧
      h'.run = (if x.a.sw ∧ c.waiting x.u = false then 0 else h.run + 1) ∧
      h'.st = (if x.a.sw ∧ c.waiting x.u = true then .marked else .ready) ∧ c'.last = (if x.a.sw then noLast else c.last) ∧
      c'.sregs = c.sregs ∧ c'.pool = c.pool ∧ c'.oregs = c.oregs ∧ c'.fflags = c.fflags ∧
      (x.ends t).mem = t.mem ∧ (x.h.stop = false → (x.ends t).launches = t.launches) ∧ ∀ k, k ≠ x.k → (x.ends t).crews.get? k = t.crews.get? k

/-- BRA, BRC, LOOP, CALL, CALLI, RET and JMPI (R97, R98): where they go, and what a bad target raises. -/
def Obligations.Transfers : Prop :=
  GoesTo 0x01 .bra always (fun x => x.h.pc + x.a.imm.signExtend 64) (fun _ _ => True) ∧
  GoesTo 0x02 .brc (fun x _ => (x.word x.a.in0 0 ≠ 0) ↔ x.a.mod.getLsbD 0 = false) (fun x => x.h.pc + x.a.imm.signExtend 64) (fun _ _ => True) ∧
  Does 0x02 .brc (fun x _ => (x.word x.a.in0 0 ≠ 0) ↔ x.a.mod.getLsbD 0 = true) (fun _ s => s) ∧
  GoesTo 0x05 .call always (fun x => x.h.pc + x.a.imm.signExtend 64) (fun x t => x.linked t) ∧
  GoesTo 0x06 .calli always (fun x => x.pairAt x.a.in0) (fun x t => x.linked t) ∧
  GoesTo 0x07 .ret always (fun x => x.pairAt x.a.in0) (fun _ _ => True) ∧
  GoesTo 0x08 .jmpi always (fun x => x.pairAt x.a.in0) (fun _ _ => True) ∧
  GoesTo 0x09 .loop (fun x _ => x.word x.a.dst 0 ≠ 1) (fun x => x.h.pc + x.a.imm.signExtend 64)
    (fun x t => x.reads t x.a.dst 0 = x.landed x.a.dst (fun _ => x.word x.a.dst 0 - 1) 0) ∧
  (∀ (x : Ctx) (s : State), x.ready 0x09 s = true → x.word x.a.dst 0 = 1 →
    ∃ t, exec (.loop x.a) s = .next t ∧ x.reads t x.a.dst 0 = 0 ∧ ∃ h, x.unitIn t = some h ∧ h.pc = skipTail x.next)

/-- BRX (R85, R86, R88, R99): all lanes taken, none, a split into disjoint masks of which the smaller detaches, a deferral, an
overflow. Where deferred lanes stand and what is tested first are the model's readings (logs 33, 55). -/
def Sys2Proof.Machine.Divergence : Prop :=
  (∀ (x : Ctx) (s : State), x.ready 0x03 s = true → x.falls = 0 → goodTarget x.target →
    ∃ t h, exec (.brx x.a) s = .next t ∧ x.arrives t x.target ∧ x.unitIn t = some h ∧ h.mask = x.h.mask ∧ h.opens.getLsbD x.joinId = true) ∧
  (∀ (x : Ctx) (s : State), x.ready 0x03 s = true → x.falls ≠ 0 → x.takes = 0 →
    ∃ t h, exec (.brx x.a) s = .next t ∧ x.unitIn t = some h ∧ h.pc = skipTail x.next ∧ h.mask = x.h.mask ∧ h.opens.getLsbD x.joinId = true) ∧
  (∀ (x : Ctx) (s : State) (n : Nat), x.ready 0x03 s = true → x.falls ≠ 0 → x.takes ≠ 0 → goodTarget x.target →
    ((List.range 16).map (· + 1)).find? (fun n => (x.c.units.get? n).isNone) = some n →
    ∃ t c m p, exec (.brx x.a) s = .next t ∧ x.crewIn t = some c ∧ c.units.get? x.u = some m ∧ c.units.get? n = some p ∧
      m.mask ||| p.mask = x.h.mask ∧ m.mask &&& p.mask = 0 ∧ popCount 96 p.mask.toNat ≤ popCount 96 m.mask.toNat ∧
      (p.mask = x.falls ∧ p.pc = skipTail x.next ∧ m.pc = x.target ∨ p.mask = x.takes ∧ p.pc = x.target ∧ m.pc = skipTail x.next) ∧
      (popCount 96 x.takes.toNat = popCount 96 x.falls.toNat → m.mask = x.takes) ∧ p.dom = p.mask ∧ p.joinId = x.joinId ∧
      p.owner = (if x.u ≠ 0 ∧ x.h.joinId = x.joinId then x.h.owner else x.u) ∧ m.opens.getLsbD x.joinId = true ∧
      (x.c.waiting x.u = true → m.st = .marked ∧ p.st = .splitting x.u) ∧ (x.c.waiting x.u = false → m.st = .ready ∧ p.st = .ready)) ∧
  (∀ (x : Ctx) (s : State), x.ready 0x03 s = true → x.falls ≠ 0 → x.takes ≠ 0 → goodTarget x.target →
    (∀ n, 1 ≤ n → n ≤ 16 → (x.c.units.get? n).isSome = true) → x.c.deferred.get? x.joinId = none →
    ∃ t c m r, exec (.brx x.a) s = .next t ∧ x.crewIn t = some c ∧ c.units.get? x.u = some m ∧ m.mask = x.takes ∧ m.pc = x.target ∧
      c.deferred.get? x.joinId = some r ∧ r.addr = skipTail x.next ∧ r.mask = x.falls ∧ r.running = false) ∧
  Traps 0x03 .brx (fun x _ => x.falls ≠ 0 ∧ x.takes ≠ 0 ∧ (∀ n, 1 ≤ n → n ≤ 16 → (x.c.units.get? n).isSome = true) ∧
    ∃ r, x.c.deferred.get? x.joinId = some r ∧ r.addr ≠ skipTail x.next) (fun x _ => { cause := .divergenceOverflow, detail := x.joinId })

/-- JOIN (R87, R88, R63): a spall waits as JOINED, with a switch marker once its results have returned; the merger waits while its count is not zero, else takes the masks and domains of its JOINED
spalls and goes on; with a deferred record it first runs the deferred lanes; a unit that is neither traps. -/
def Sys2Proof.Machine.Joining : Prop :=
  (∀ (x : Ctx) (s : State), x.ready 0x04 s = true → x.u ≠ 0 → x.h.joinId = x.joinId → x.h.owner ≠ x.u →
    (x.a.sw = false ∨ x.c.waiting x.u = false) → (∀ o, x.c.units.get? x.h.owner = some o → ∀ m, o.st ≠ .joined (some m)) →
    ∃ t h, exec (.join x.a) s = .next t ∧ x.unitIn t = some h ∧ h.st = .joined none ∧ h.mask = x.h.mask) ∧
  (∀ (x : Ctx) (s : State), x.ready 0x04 s = true → x.u ≠ 0 → x.h.joinId = x.joinId → x.a.sw = true → x.c.waiting x.u = true →
    ∃ t h, exec (.join x.a) s = .next t ∧ x.unitIn t = some h ∧ h.st = .joining ∧ h.mask = x.h.mask) ∧
  (∀ (x : Ctx) (s : State), x.ready 0x04 s = true → (x.u = 0 ∨ x.h.joinId ≠ x.joinId) → x.h.opens.getLsbD x.joinId = true →
    x.c.deferred.get? x.joinId = none → x.toCome ≠ [] →
    ∃ t h, exec (.join x.a) s = .next t ∧ x.unitIn t = some h ∧ h.st = .joined (some (x.joinId, x.a.sw)) ∧ h.pc = skipTail x.next) ∧
  (∀ (x : Ctx) (s : State), x.ready 0x04 s = true → (x.u = 0 ∨ x.h.joinId ≠ x.joinId) → x.h.opens.getLsbD x.joinId = true →
    x.c.deferred.get? x.joinId = none → x.toCome = [] → x.a.sw = false →
    ∃ t c h, exec (.join x.a) s = .next t ∧ x.crewIn t = some c ∧ c.units.get? x.u = some h ∧ h.st = .ready ∧ h.pc = skipTail x.next ∧
      h.mask = x.arrived.foldl (fun m e => m ||| e.2.mask) x.h.mask ∧ h.dom = x.arrived.foldl (fun m e => m ||| e.2.dom) x.h.dom ∧
      h.opens.getLsbD x.joinId = false ∧ ∀ e ∈ x.arrived, c.units.get? e.1 = none) ∧
  (∀ (x : Ctx) (s : State) (r : Deferred), x.ready 0x04 s = true → (x.u = 0 ∨ x.h.joinId ≠ x.joinId) →
    x.h.opens.getLsbD x.joinId = true → x.c.deferred.get? x.joinId = some r → r.running = false →
    ∃ t c h r', exec (.join x.a) s = .next t ∧ x.crewIn t = some c ∧ c.units.get? x.u = some h ∧ h.mask = r.mask ∧ h.pc = r.addr ∧
      c.deferred.get? x.joinId = some r' ∧ r'.running = true ∧ r'.arrived = x.h.mask) ∧
  Traps 0x04 .join (fun x _ => (x.u = 0 ∨ x.h.joinId ≠ x.joinId) ∧ x.h.opens.getLsbD x.joinId = false)
    (fun x _ => { cause := .joinMismatch, detail := x.joinId })

/-- TRAP, TRAPC and BKPT (R104): the user trap enters the handler, to resume at the next instruction, or goes to the supervisor, as a
breakpoint always does, once the unit's results have returned; TRAPC with a zero condition does nothing. The address recorded is log 51's reading. -/
def Sys2Proof.Machine.TrapInstructions : Prop :=
  (∀ (x : Ctx) (s : State) (l : Launch), x.ready 0x0C s = true → x.handlerOpen s l →
    ∃ t, exec (.trap x.a) s = .next t ∧ x.entered t l 0x0B x.next (x.word x.a.in0 0)) ∧
  (∀ (x : Ctx) (s : State) (l : Launch), x.ready 0x0C s = true → x.launchOf s = some l → (l.trapoff = 0xFFFFFFFF ∨ x.handling) →
    x.c.cap.mode = false → ∃ t, exec (.trap x.a) s = .next t ∧
      if x.c.waiting x.u = true then x.faultsIn t .user else x.heldBy s t .user (x.word x.a.in0 0)) ∧
  (∀ (x : Ctx) (s : State) (l : Launch), x.ready 0x0C s = true → x.launchOf s = some l → l.trapoff ≠ 0xFFFFFFFF → ¬ x.handling →
    (x.c.waiting x.u = true ∨ x.c.hstate.getLsbD 0 = true) → x.c.cap.mode = false →
    ∃ t h r, exec (.trap x.a) s = .next t ∧ x.unitIn t = some h ∧ h.st = .entering r x.next ∧ h.pc = x.h.pc) ∧
  (∀ (x : Ctx) (s : State) (l : Launch), x.ready 0x16 s = true → x.word x.a.in0 0 ≠ 0 → x.handlerOpen s l →
    ∃ t, exec (.trapc x.a) s = .next t ∧ x.entered t l 0x0B x.next (x.word x.a.in1 0)) ∧
  Does 0x16 .trapc (fun x _ => x.word x.a.in0 0 = 0) (fun _ s => s) ∧
  (∀ (x : Ctx) (s : State), x.ready 0x15 s = true → x.c.cap.mode = false →
    ∃ t, exec (.bkpt x.a) s = .next t ∧
      if x.c.waiting x.u = true then x.faultsIn t .breakpoint else x.heldBy s t .breakpoint (x.word x.a.in0 0))

/-- TRET (R105, R436) resumes at the recorded address with the recorded mask, within the unit's domain, and leaves the handler; outside
one it raises handler-state, and a bad resumption address traps first (R97). -/
def Sys2Proof.Machine.HandlerReturn : Prop :=
  (∀ (x : Ctx) (s : State), x.ready 0x0D s = true → x.handling → goodTarget x.c.hpc →
    ∃ t c h, exec (.tret x.a) s = .next t ∧ x.crewIn t = some c ∧ c.units.get? x.u = some h ∧ h.pc = x.c.hpc ∧
      h.mask = x.c.hmask &&& x.h.dom ∧ c.hstate = 0 ∧ c.last = noLast ∧ (x.c.waiting x.u = false → h.st = .ready)) ∧
  Traps 0x0D .tret (fun x _ => ¬ x.handling) (fun _ _ => { cause := .handlerState }) ∧
  Traps 0x0D .tret (fun x _ => x.handling ∧ x.c.hpc.toNat % 4 ≠ 0) (fun x _ => { cause := .misalignedPc, addr := x.c.hpc.toNat })

/-- NOP, YIELD, PRIO, TWAIT, DOZE, SUSPEND, SETBND and EXIT: their effects, waits and traps (R58, R91, R94, R100 to R103, R109, R110). -/
def Sys2Proof.Machine.WaitsAndEnds : Prop :=
  Does 0x00 .nop always (fun _ s => s) ∧
  Does 0x14 .yield (fun x s => ∃ u n, (s.core x.core).cand.get? (x.k % 32) = some (u, n)) (fun x s => s.modCore x.core fun c =>
    { c with cand := c.cand.put (x.k % 32) (((c.cand.get? (x.k % 32)).map (·.1)).getD 0, 0) }) ∧
  DoesCrew 0x1F .prio always (fun x _ c => { c with prio := (x.word x.a.in0 0).setWidth 2 }) ∧
  Does 0x0E .twait (fun x _ => x.a.wait ≠ 0 ∨ ∀ n < 8, x.c.tokens.getD n 0 = 0) (fun _ s => s) ∧
  Stalls 0x0E .twait (fun x _ => x.a.wait = 0 ∧ ∃ n < 8, x.c.tokens.getD n 0 ≠ 0) (fun _ _ => .tokens 0xFF) ∧
  (∀ (x : Ctx) (s : State), x.ready 0x13 s = true → x.word x.a.in0 0 ≠ 0 → ∃ t c h, exec (.doze x.a) s = .next t ∧
    x.crewIn t = some c ∧ c.units.get? x.u = some h ∧ h.st = .dozing (s.ck + min (x.word x.a.in0 0).toNat 65535) ∧ h.stop = true ∧
    h.pc = skipTail x.next ∧ c.last = noLast) ∧
  (∀ (x : Ctx) (s : State), x.ready 0x13 s = true → x.word x.a.in0 0 = 0 →
    exec (.doze x.a) s = .next (((x.start s).finish x true).noteIssue x)) ∧
  (∀ (x : Ctx) (s : State) (e : Counter), x.ready 0x0B s = true → (x.a.form = .f96 → goodTarget x.target) → (x.word x.a.in0 0).toNat ≤ 2047 →
    (s.core x.core).counters.get? (x.word x.a.in0 0).toNat = some e → e.owner = s.bslotOf x.k →
    reached e.epoch ((x.word x.a.in1 0).toNat % 65536) = false → ∃ t h, exec (.suspend x.a) s = .next t ∧ x.unitIn t = some h ∧
      h.st = .suspended (.counter (x.word x.a.in0 0).toNat ((x.word x.a.in1 0).toNat % 65536)) false ∧
      h.pc = if x.a.form = .f96 then x.target else skipTail x.next) ∧
  Does 0x0B .suspend (fun x s => x.a.form = .f64 ∧ (x.word x.a.in0 0).toNat ≤ 2047 ∧
    ∃ e : Counter, (s.core x.core).counters.get? (x.word x.a.in0 0).toNat = some e ∧ e.owner = s.bslotOf x.k ∧
      reached e.epoch ((x.word x.a.in1 0).toNat % 65536) = true) (fun _ s => s) ∧
  Traps 0x0B .suspend (fun x _ => 2047 < (x.word x.a.in0 0).toNat)
    (fun x _ => { cause := .eventIndex, ixkind := 3, index := (x.word x.a.in0 0).toNat % 2048, slot := 2 }) ∧
  DoesCrew 0x0F .setbnd (fun x s => ¬ x.badBound (x.word x.a.in0 0).toNat ∧ x.c.units.length = 1 ∧ x.c.deferred = [] ∧ x.c.out = [] ∧
      s.tileBusy x.core x.c = false)
    (fun x _ c => { c with
      pool := c.pool.filter fun e => decide (e.1 < min (x.word x.a.in0 0).toNat c.bound) || decide (max (x.word x.a.in0 0).toNat c.bound ≤ e.1)
      bound := (x.word x.a.in0 0).toNat, tileModes := [], last := noLast }) ∧
  Traps 0x0F .setbnd (fun x _ => x.badBound (x.word x.a.in0 0).toNat) (fun _ _ => { cause := .boundary, slot := 2 }) ∧
  (∀ (x : Ctx) (s : State), x.ready 0x0A s = true → x.u = 0 → x.c.units.length = 1 → x.c.deferred = [] → x.c.slots = 0 →
    x.c.waiting 0 = false → s.engineBusy x.core x.c.launch x.c.name = true →
    ∃ t h, exec (.exit x.a) s = .next t ∧ x.unitIn t = some h ∧ h.st = .retiring false) ∧
  (∀ (x : Ctx) (s : State), x.ready 0x0A s = true → x.u = 0 → x.c.units.length = 1 → x.c.deferred = [] → x.c.slots = 0 →
    x.c.waiting 0 = false → s.engineBusy x.core x.c.launch x.c.name = false → x.c.fflags &&& x.c.fenable = 0 →
    ∃ t, exec (.exit x.a) s = .next t ∧ x.crewIn t = none) ∧
  Traps 0x0A .exit (fun x _ => x.u ≠ 0 ∨ 1 < x.c.units.length ∨ x.c.deferred ≠ []) (fun _ _ => { cause := .spallOutstanding }) ∧
  Traps 0x0A .exit (fun x _ => x.u = 0 ∧ x.c.units.length = 1 ∧ x.c.deferred = [] ∧ x.c.slots ≠ 0) (fun _ _ => { cause := .chuteHeld })

/-- MFC and MTC, number by number: which are read, which are written, and how (R106, R127 to R129, R435). -/
def Sys2Proof.Machine.ControlRegisters : Prop :=
  (∀ p ∈ ([(0x000, fun x _ => wordOf x.c.index), (0x001, fun x _ => wordOf x.c.block),
      (0x003, fun x s => wordOf (x.core * 2 ^ 16 + issuerOf x.k * 2 ^ 12 + slotOf x.k * 2 ^ 8 + s.bslotOf x.k)),
      (0x004, fun x _ => wordOf x.c.bound), (0x005, fun x _ => wordOf x.c.budget), (0x006, fun x _ => x.c.fflags.setWidth 32),
      (0x007, fun x _ => x.c.fenable.setWidth 32), (0x008, fun x _ => x.c.prio.setWidth 32),
      (0x009, fun x s => wordOf (s.tenantOf x.c + 2 ^ 8 * s.partOf x.c)), (0x00A, fun x _ => wordOf x.c.launch),
      (0x040, fun x _ => x.c.hpc.setWidth 32), (0x041, fun x _ => (x.c.hpc >>> 32).setWidth 32), (0x042, fun x _ => maskWord x.c.hmask 0),
      (0x043, fun x _ => maskWord x.c.hmask 1), (0x044, fun x _ => maskWord x.c.hmask 2), (0x045, fun x _ => x.c.hcause.setWidth 32),
      (0x046, fun x _ => x.c.hstate.setWidth 32)] : List (Nat × (Ctx → State → Word))),
    GivesScalar 0x10 .mfc (fun x _ => x.regNumber = p.1) p.2) ∧
  (∀ i < 16, GivesScalar 0x10 .mfc (fun x _ => x.regNumber = 0x050 + i) (fun x _ => recordWord x.c i)) ∧
  (∀ l : Launch, GivesScalar 0x10 .mfc (fun x s => x.regNumber = 0x002 ∧ x.launchOf s = some l) (fun x _ =>
    let sh := l.shapeOf x.c.bench; wordOf (sh.nx + 2 ^ 10 * sh.ny + 2 ^ 20 * sh.nz))) ∧
  (∀ l : Launch, GivesScalar 0x10 .mfc (fun x s => x.regNumber = 0x00B ∧ x.launchOf s = some l) (fun _ _ => wordOf l.nblocks)) ∧
  (∀ l : Launch, GivesScalar 0x10 .mfc (fun x s => x.regNumber = 0x00C ∧ x.launchOf s = some l)
    (fun x _ => if l.benches = [] then 0 else wordOf (x.c.bench + 2 ^ 31))) ∧
  DoesCrew 0x11 .mtc (fun x _ => x.regNumber = 0x006) (fun x _ c => { c with fflags := (x.word x.a.in0 0).setWidth 7 }) ∧
  DoesCrew 0x11 .mtc (fun x _ => x.regNumber = 0x007) (fun x _ c => { c with fenable := (x.word x.a.in0 0).setWidth 7 }) ∧
  DoesCrew 0x11 .mtc (fun x _ => x.regNumber = 0x008) (fun x _ c => { c with prio := (x.word x.a.in0 0).setWidth 2 }) ∧
  DoesCrew 0x11 .mtc (fun x _ => x.regNumber = 0x040) (fun x _ c => { c with hpc := (c.hpc >>> 32).setWidth 32 ++ x.word x.a.in0 0 }) ∧
  DoesCrew 0x11 .mtc (fun x _ => x.regNumber = 0x041) (fun x _ c => { c with hpc := x.word x.a.in0 0 ++ c.hpc.setWidth 32 }) ∧
  (∀ i < 3, DoesCrew 0x11 .mtc (fun x _ => x.regNumber = 0x042 + i) (fun x _ c => { c with hmask := setMaskWord c.hmask i (x.word x.a.in0 0) })) ∧
  Does 0x11 .mtc (fun x _ => x.regNumber < 0x006 ∨ (0x009 ≤ x.regNumber ∧ x.regNumber ≤ 0x00C) ∨ 0x045 ≤ x.regNumber)
    (fun x s => s.modCrew x.k id)

/-- DBGRD, DBGWR, CLKRD, PMRD, TMARK, GRPQ, SPALLQ, IPREF and ICINV (R107, R108, R111 to R118). That CLKRD gives a free value while its
die's counter is out of step (log 9), that PMRD does not count itself (log 43), and what TMARK does where its buffer faults (log 18), is
the model's choice. -/
def Sys2Proof.Machine.QueriesAndDebug : Prop :=
  GivesScalar 0x1D .dbgrd (fun x s => ∃ l, x.launchOf s = some l ∧ l.dbg = true) (fun x _ =>
    match x.regNumber with
    | 0x000 => x.c.dbg.ctl | 0x020 => x.c.dbg.wlo | 0x021 => x.c.dbg.whi | 0x022 => x.c.dbg.wctl | 0x030 => x.c.dbg.stat
    | n => x.c.dbg.bp.getD (n - 0x010) 0) ∧
  Traps 0x1D .dbgrd (fun x s => ∃ l, x.launchOf s = some l ∧ l.dbg = false) (fun _ _ => { cause := .privilege }) ∧
  DoesCrew 0x1E .dbgwr (fun x s => x.regNumber = 0x000 ∧ ∃ l, x.launchOf s = some l ∧ l.dbg = true)
    (fun x _ c => { c with dbg := { c.dbg with ctl := x.word x.a.in0 0 &&& 7 } }) ∧
  DoesCrew 0x1E .dbgwr (fun x s => x.regNumber = 0x022 ∧ ∃ l, x.launchOf s = some l ∧ l.dbg = true)
    (fun x _ c => { c with dbg := { c.dbg with wctl := x.word x.a.in0 0 &&& 3 } }) ∧
  DoesCrew 0x1E .dbgwr (fun x s => x.regNumber = 0x020 ∧ ∃ l, x.launchOf s = some l ∧ l.dbg = true)
    (fun x _ c => { c with dbg := { c.dbg with wlo := x.word x.a.in0 0 } }) ∧
  DoesCrew 0x1E .dbgwr (fun x s => x.regNumber = 0x021 ∧ ∃ l, x.launchOf s = some l ∧ l.dbg = true)
    (fun x _ c => { c with dbg := { c.dbg with whi := x.word x.a.in0 0 } }) ∧
  (∀ i < 4, DoesCrew 0x1E .dbgwr (fun x s => x.regNumber = 0x010 + i ∧ ∃ l, x.launchOf s = some l ∧ l.dbg = true)
    (fun x _ c => { c with dbg := { c.dbg with
      bp := (List.range 4).map fun j => if j = i then x.word x.a.in0 0 &&& ~~~2 else c.dbg.bp.getD j 0 } })) ∧
  Traps 0x1E .dbgwr (fun x s => ∃ l, x.launchOf s = some l ∧ l.dbg = false) (fun _ _ => { cause := .privilege }) ∧
  (∀ (x : Ctx) (s : State), x.ready 0x12 s = true → (x.a.mod.getLsbD 0 = true ∨ s.ckSkew.contains (dieOf x.core) = false) →
    let v : Dword := BitVec.ofNat 64 (if x.a.mod.getLsbD 0 then x.c.ranBefore + (s.ck - x.c.placed) else s.ck)
    ∃ t, exec (.clkrd x.a) s = .next t ∧ x.reads t x.a.dst 0 = x.landed x.a.dst (fun _ => v.setWidth 32) 0 ∧
      x.reads t (Opnd.next x.a.dst 1) 0 = x.landed (Opnd.next x.a.dst 1) (fun _ => (v >>> 32).setWidth 32) 0) ∧
  (∀ (x : Ctx) (s : State), x.ready 0x12 s = true → x.a.mod.getLsbD 0 = false → s.ckSkew.contains (dieOf x.core) = true →
    ∃ t v, exec (.clkrd x.a) s = .next t ∧ x.reads t x.a.dst 0 = x.landed x.a.dst (fun _ => v) 0) ∧
  GivesScalar 0x19 .pmrd (fun x _ => 7 < (x.word x.a.in0 0).toNat) (fun _ _ => 0) ∧
  (∀ p : Perf, GivesScalar 0x19 .pmrd (fun x s => (x.word x.a.in0 0).toNat ≤ 7 ∧ (s.core x.core).perf.get? (x.word x.a.in0 0).toNat = some p)
    (fun x _ => if p.launch = x.c.launch then p.count.setWidth 32 else 0)) ∧
  Does 0x1A .tmark (fun x s => ∃ l, x.launchOf s = some l ∧ (l.trace = false ∨ l.tset = false)) (fun _ s => s) ∧
  (∀ (x : Ctx) (s s1 s2 : State) (l : Launch) (hd : List Byte) (p q : Xl), x.ready 0x1A s = true → x.tracing s l hd s1 → hasRoom l hd →
    let record := leBytes 4 (x.word x.a.in0 0).toNat ++ leBytes 4 x.c.index ++ leBytes 8 s.ck
    s1.traceFinds l.part (nextRecord l hd) p → s1.traceWrite l.part (nextRecord l hd) record = .ok s2 → s2.traceFinds l.part l.tbase.toNat q →
    p.pa / 4096 ≠ q.pa / 4096 ∨ p.pa = q.pa + 64 + 16 * (writtenOf hd % ((l.tlen - 64) / 16)) →
    ∃ t, exec (.tmark x.a) s = .next t ∧ x.goesOn t ∧ t.traces = [] ∧ (∀ i < 16, some (t.mem.byte (p.pa + i)) = record[i]?) ∧
      ∀ i < 8, some (t.mem.byte (q.pa + i)) = (leBytes 8 ((writtenOf hd + 1) % 2 ^ 64))[i]?) ∧
  (∀ (x : Ctx) (s s1 : State) (l : Launch) (hd : List Byte) (q : Xl), x.ready 0x1A s = true → x.tracing s l hd s1 → ¬ hasRoom l hd →
    s1.traceFinds l.part (l.tbase.toNat + 8) q →
    ∃ t, exec (.tmark x.a) s = .next t ∧ x.goesOn t ∧ t.traces = [] ∧
      ∀ i < 8, some (t.mem.byte (q.pa + i)) = (leBytes 8 ((droppedOf hd + 1) % 2 ^ 64))[i]?) ∧
  (∀ (x : Ctx) (s : State) (l : Launch) (n : Nat), x.ready 0x1A s = true → x.launchOf s = some l → l.trace = true → l.tset = true →
    s.traces = [] → (x.start s).vread l.part l.tbase.toNat 24 = .error (.waits n) →
    ∃ t op, exec (.tmark x.a) s = .next t ∧ x.goesOn t ∧ t.mem = s.mem ∧ t.traces = [op] ∧ op.value = some (x.word x.a.in0 0) ∧
      op.base = l.tbase.toNat ∧ op.index = x.c.index ∧ op.ck = s.ck) ∧
  (∀ l : Launch, GivesScalar 0x1B .grpq (fun x s => x.launchOf s = some l) (fun x _ =>
    let g := (x.word x.a.in0 0).toNat % 256
    match x.a.mod.toNat % 4 with
    | 0 => if l.groupHas g x.c.index then 1 else 0
    | 1 => wordOf ((List.range l.crewCount).filter fun i => l.groupHas g i).length
    | _ => if l.groupHas g x.c.index then wordOf ((List.range x.c.index).filter fun i => l.groupHas g i).length else 0xFFFFFFFF)) ∧
  GivesScalar 0x1C .spallq always (fun x _ => match x.a.mod.toNat % 4 with
    | 0 => wordOf (x.c.units.length - 1)
    | 1 => wordOf x.u
    | _ => wordOf (x.c.units.filter fun e => e.1 != 0 && e.1 != x.u && e.2.owner == x.u &&
        e.2.joinId == (x.word x.a.in0 0).toNat % 16 && e.2.st != .joined none).length) ∧
  (∀ (x : Ctx) (s : State) (l : Launch), x.ready 0x17 s = true → x.launchOf s = some l →
    (∀ i, i ≤ x.a.mod.toNat % 8 → l.lineInImage (x.target.toNat / 128 + i) = false ∨
      ((s.core x.core).codeLine x.c.launch (x.target.toNat / 128 + i)).isSome = true) → exec (.ipref x.a) s = .next (x.ends (x.start s))) ∧
  (∀ (x : Ctx) (s s' : State) (l : Launch) (e : CodeLine), x.ready 0x17 s = true → x.launchOf s = some l → x.a.mod.toNat % 8 = 0 →
    l.lineInImage (x.target.toNat / 128) = true → (s.core x.core).codeLine x.c.launch (x.target.toNat / 128) = none →
    (x.start s).fillCode x.core x.c.launch l (x.target.toNat / 128) = .ok (e, s') → exec (.ipref x.a) s = .next (x.ends s')) ∧
  Does 0x18 .icinv always (fun x s => s.modCore x.core fun c => { c with icache := c.icache.filter fun e => e.launch != x.c.launch })

/-! ## Memory (R294 to R318) -/

/-- LD, LD.ACQ and LDB: LDB reads lane after lane from one address (R308). -/
def Sys2Proof.Machine.Loads : Prop :=
  LoadGives 0xA0 .ld Ctx.loadAccs ∧ LoadGives 0xA2 .ldAcq Ctx.loadAccs ∧
  LoadGives 0xB8 .ldb Ctx.laneAfterLane

/-- LDC reads a line that the core's constant cache holds for the launch from there, and another from memory, which the cache then holds (R309). -/
def Sys2Proof.Machine.ConstantLoads : Prop :=
  (∀ (x : Ctx) (s s' : State) (a : Acc) (p : Xl) (line : ConstLine), x.ready 0xA4 s = true →
    x.finds s (sizeBytes x.a.size) false true x.loadAccs [(a, p)] s' →
    (s'.core x.core).constLine x.c.launch (a.va / 128) = some line →
    ∃ t, exec (.ldc x.a) s = .next t ∧ t.mem = s'.mem ∧
      x.loads s t x.a.size fun l => if a.lane = 0x7F ∨ a.lane = l then (line.bytes.drop (a.va % 128)).take (sizeBytes x.a.size) else []) ∧
  (∀ (x : Ctx) (s s' : State) (a : Acc) (p : Xl), x.ready 0xA4 s = true →
    x.finds s (sizeBytes x.a.size) false true x.loadAccs [(a, p)] s' →
    (s'.core x.core).constLine x.c.launch (a.va / 128) = none → s'.lineStop x.k x.u (p.pa / 128) (s'.l1Hit x.core (p.pa / 128) false) x.h = false →
    p.pa % 128 = a.va % 128 →
    ∃ t, exec (.ldc x.a) s = .next t ∧ t.mem = s'.mem ∧ ((t.core x.core).constLine x.c.launch (a.va / 128)).isSome = true ∧
      x.loads s t x.a.size fun l => if a.lane = 0x7F ∨ a.lane = l then s'.readBytes p.key p.pa (sizeBytes x.a.size) else [])

/-- ST and ST.REL enter the store buffer (R302, R308). -/
def Obligations.Stores : Prop := StoreSeen 0xA1 .st ∧ StoreSeen 0xA3 .stRel

/-- The store buffer is full, or pieces of an earlier store wait: a store waits, and so does every access, fence and cache operation (R302). -/
def Sys2Proof.Machine.StoreBufferFull : Prop :=
  Stalls 0xA1 .st (fun x _ => x.c.cap.mode = false ∧ 16 ≤ x.c.sbuf.length) (fun _ _ => .storeRoom) ∧
  Stalls 0xA3 .stRel (fun x _ => 16 ≤ x.c.sbuf.length) (fun _ _ => .storeRoom) ∧
  ∀ p ∈ ([(0xA0, .ld), (0xA1, .st), (0xA2, .ldAcq), (0xA3, .stRel), (0xA4, .ldc), (0xA5, .pref), (0xAC, .atom), (0xAD, .atomCas),
      (0xAE, .atomF), (0xAF, .mred), (0xB0, .mredF), (0xB1, .fence), (0xB2, .fenceAll), (0xB3, .waitaddr), (0xB6, .cflush), (0xB7, .cinv),
      (0xB8, .ldb)] : List (Nat × (Args → Instr))),
    Stalls p.1 p.2 (fun x _ => x.c.cap.mode = false ∧ x.c.pieces ≠ []) (fun _ _ => .storeRoom)

/-- ATOM, ATOM.CAS, ATOM.F, MRED and MRED.F: with their lines owned they are performed; otherwise they ask for the first line that the core
does not own (R311, R312, R345). -/
def Sys2Proof.Machine.Atomics : Prop :=
  AtomGives 0xAC .atom Ctx.atomSize Ctx.intUpdate ∧ AtomGives 0xAD .atomCas Ctx.atomSize Ctx.casUpdate ∧
  AtomGives 0xAE .atomF (fun _ => 4) Ctx.floatUpdate ∧ AtomGives 0xAF .mred Ctx.atomSize Ctx.intUpdate ∧
  AtomGives 0xB0 .mredF (fun _ => 4) Ctx.floatUpdate ∧
  AtomAsks 0xAC .atom Ctx.atomSize ∧ AtomAsks 0xAD .atomCas Ctx.atomSize ∧ AtomAsks 0xAE .atomF (fun _ => 4) ∧
  AtomAsks 0xAF .mred Ctx.atomSize ∧ AtomAsks 0xB0 .mredF (fun _ => 4)

/-- One read-modify-write: the element takes the new value where the frame's key admits the request, every other byte keeps its own, and
the old value is returned (R311, R340). Lines of fault rings and of trace headers, some of whose bytes no store changes (R5), are apart. -/
def Sys2Proof.Machine.AtomicElement : Prop :=
  ∀ (s t : State) (core n : Nat) (p : Xl) (f : Nat → Nat × BitVec 7) (old : Nat) (fl : BitVec 7),
    (n = 4 ∨ n = 8) → s.keyed p.key p.pa = true → p.pa % n = 0 → s.guarded (p.pa / 128) = false → s.rmw core n p f = (old, fl, t) →
    old = leNat (s.readBytes p.key p.pa n) ∧ fl = (f old).2 ∧
    t.readBytes p.key p.pa n = leBytes n (f old).1 ∧ ∀ key a, (a < p.pa ∨ p.pa + n ≤ a) → t.readByte key a = s.readByte key a

/-- Scope, alignment and range traps of the accesses, and their order (R294, R307, R318). -/
def Sys2Proof.Machine.MemoryTraps : Prop :=
  (∀ p ∈ ([(0xA0, .ld), (0xA2, .ldAcq), (0xA4, .ldc)] : List (Nat × (Args → Instr))),
    AccessTraps p.1 p.2 Ctx.loadAccs (fun x => sizeBytes x.a.size) (fun x => x.c.cap.mode = false)) ∧
  AccessTraps 0xB8 .ldb Ctx.laneAfterLane (fun x => sizeBytes x.a.size) (fun _ => True) ∧
  (∀ p ∈ ([(0xA1, .st), (0xA3, .stRel)] : List (Nat × (Args → Instr))),
    AccessTraps p.1 p.2 (fun x => x.accs (x.a.in0.isVec || x.a.in1.isVec)) (fun x => sizeBytes x.a.size)
      (fun x => x.c.cap.mode = false ∧ x.c.sbuf.length < 16)) ∧
  (∀ p ∈ ([(0xAC, .atom, Ctx.atomSize), (0xAD, .atomCas, Ctx.atomSize), (0xAE, .atomF, fun _ => 4), (0xAF, .mred, Ctx.atomSize),
      (0xB0, .mredF, fun _ => 4)] : List (Nat × (Args → Instr) × (Ctx → Nat))),
    AccessTraps p.1 p.2.1 (fun x => x.accs (isVector p.1 x.a)) p.2.2 (fun _ => True)) ∧
  AccessTraps 0xB3 .waitaddr (fun x => [⟨0x7F, x.addr 0⟩]) (fun _ => 4) (fun _ => True)

/-- FENCE and FENCE.ALL wait until what they cover is complete, and then change nothing (R181, R303, R313, R314); an acquire kind waits for
scratchpad accesses alone, since a load's value is fixed when it issues (log 3). -/
def Sys2Proof.Machine.Fences : Prop :=
  ∀ p ∈ ([(0xB1, .fence, false), (0xB2, .fenceAll, true)] : List (Nat × (Args → Instr) × Bool)),
    Does p.1 p.2.1 (fun x s => x.c.pieces = [] ∧ x.scopeOk s = true ∧ x.a.ctl.toNat % 4 ≠ 2 ∧
      (x.a.scope = 0 ∨ (s.storesDone x.c x.a.scope.toNat p.2.2 = true ∧
        s.scratchBusy x.k false (decide (2 ≤ x.a.scope.toNat)) = false ∧ s.scratchBusy x.k true (decide (2 ≤ x.a.scope.toNat)) = false)))
      (fun _ s => s) ∧
    Stalls p.1 p.2.1 (fun x s => x.c.pieces = [] ∧ x.scopeOk s = true ∧ x.a.ctl.toNat % 4 ≠ 2 ∧ x.a.scope ≠ 0 ∧
      s.storesDone x.c x.a.scope.toNat p.2.2 = false) (fun x _ => .release x.a.scope.toNat p.2.2 true true) ∧
    Does p.1 p.2.1 (fun x s => x.c.pieces = [] ∧ x.scopeOk s = true ∧ x.a.ctl.toNat % 4 = 2 ∧
      (x.a.scope = 0 ∨ (s.scratchBusy x.k true (decide (2 ≤ x.a.scope.toNat)) = false ∧
        s.scratchBusy x.k false (decide (2 ≤ x.a.scope.toNat)) = false))) (fun _ s => s)

/-- The word that WAITADDR reads, and whether it lets the unit go on (R315). -/
def Sys2Proof.Machine.AddressWait : Prop :=
  (∀ (x : Ctx) (s s' : State) (p : Xl), x.ready 0xB3 s = true → x.a.ctl.getLsbD 1 = false →
    x.finds s 4 false true [⟨0x7F, x.addr 0⟩] [(⟨0x7F, x.addr 0⟩, p)] s' → x.unhindered s' [(⟨0x7F, x.addr 0⟩, p)] →
    let v := wordOf (leNat (s'.loadBytes x.c p.key p.pa 4))
    ((v = x.word x.a.in2 0 ↔ x.a.ctl.getLsbD 0 = true) → ∃ t, exec (.waitaddr x.a) s = .next t ∧ t.mem = s'.mem ∧
      (x.a.dst.isS = true → ∃ r, x.awaits s t r ∧ x.readsIn (x.after r) x.a.dst 0 = x.landed x.a.dst (fun _ => v) 0)) ∧
    (¬ (v = x.word x.a.in2 0 ↔ x.a.ctl.getLsbD 0 = true) → (s'.core x.core).watches < 64 → ∃ t h, exec (.waitaddr x.a) s = .next t ∧
      x.unitIn t = some h ∧ h.st = .suspended (.watch (p.pa / 128) none) false ∧ h.pc = x.h.pc) ∧
    (¬ (v = x.word x.a.in2 0 ↔ x.a.ctl.getLsbD 0 = true) → 64 ≤ (s'.core x.core).watches → ∃ t h, exec (.waitaddr x.a) s = .next t ∧
      x.unitIn t = some h ∧ h.st = .suspended (.poll s.ck) false ∧ h.pc = x.h.pc)) ∧
  (∀ (x : Ctx) (s s' : State) (p : Xl) (e : Counter), x.ready 0xB3 s = true → x.a.ctl.getLsbD 1 = true →
    (s.core x.core).counters.get? x.a.aux.toNat = some e → e.owner = s.bslotOf x.k →
    x.finds s 4 false true [⟨0x7F, x.addr 0⟩] [(⟨0x7F, x.addr 0⟩, p)] s' → x.unhindered s' [(⟨0x7F, x.addr 0⟩, p)] →
    reached e.epoch ((x.word x.a.in1 0).toNat % 65536) = true → ∃ t, exec (.waitaddr x.a) s = .next t ∧ t.mem = s'.mem)

/-- PREF, CFLUSH and CINV reach the lines that translate, skip the others, and change no byte that a load returns; a deep CFLUSH writes its
lines to the memory device, from whichever L1 holds them modified, once no other agent holds them (R307, R309, R310). -/
def Sys2Proof.Machine.CacheOperations : Prop :=
  (∀ (x : Ctx) (s s' : State) (ls : List Xl), x.ready 0xA5 s = true → x.c.pieces = [] → x.scopeOk s = true →
    x.quietLines (x.start s) (isVector 0xA5 x.a) = (ls, s') → ∃ t, exec (.pref x.a) s = .next t ∧ t.mem = s'.mem ∧
      (x.a.ctl.toNat % 4 = 1 → (∀ e ∈ ls, (s'.l2.filter fun r => sameSet r.1 (e.pa / 128)).length + ls.length ≤ 16) →
        ∀ e ∈ ls, (t.l2.get? (e.pa / 128)).isSome = true)) ∧
  (∀ (x : Ctx) (s s' : State) (ls : List Xl), x.ready 0xB6 s = true → x.c.pieces = [] →
    x.quietLines (x.start s) (isVector 0xB6 x.a) = (ls, s') →
    (x.a.ctl.getLsbD 0 = true → ∀ e ∈ ls, s'.lineHeld (e.pa / 128) (some x.k) = false) → ∃ t, exec (.cflush x.a) s = .next t ∧ t.mem = s'.mem ∧
      (∀ e ∈ ls, (t.core x.core).l1.get? (e.pa / 128) ≠ some .modified) ∧
      (x.a.ctl.getLsbD 0 = true → ∀ e ∈ ls, t.dirty.get? (e.pa / 128) = none ∧ ∀ n, (t.core n).l1.get? (e.pa / 128) ≠ some .modified) ∧
      ∀ n, (∀ e ∈ ls, e.pa / 128 ≠ n) → t.dirty.get? n = s'.dirty.get? n) ∧
  (∀ (x : Ctx) (s s' : State) (ls : List Xl) (n : Nat), x.ready 0xB6 s = true → x.c.pieces = [] →
    x.quietLines (x.start s) (isVector 0xB6 x.a) = (ls, s') → x.a.ctl.getLsbD 0 = true →
    (ls.map fun e => e.pa / 128).find? (fun n => s'.lineHeld n (some x.k)) = some n →
    exec (.cflush x.a) s = .next ((x.start s).stallUnit x.k x.u (.line n))) ∧
  (∀ (x : Ctx) (s : State), x.ready 0xB7 s = true → x.c.pieces = [] → (∀ r ∈ x.c.out, r.ldc = false) →
    (s.launches.get? x.c.launch).isSome = true →
    ∃ t, exec (.cinv x.a) s = .next t ∧ t.mem = s.mem ∧ (x.a.ctl.getLsbD 0 = true → (t.core x.core).ccache = []) ∧
      (x.a.ctl.getLsbD 0 = false → ∀ a ∈ x.accs (isVector 0xB7 x.a), (t.core x.core).constLine x.c.launch (a.va / 128) = none)) ∧
  Stalls 0xB7 .cinv (fun x _ => x.c.pieces = [] ∧ ∃ r ∈ x.c.out, r.ldc = true) (fun _ _ => .constLoads)

/-- Translation for a core whose TLBs and walk caches hold nothing for the address: both stages of tables give the physical address, the key
slot and the ordering attribute, with the flag bits of the last leaf set, or the fault of the stage and level that stops it; and a TLB entry that permits the access gives its own
(R319 to R324). The entries' bytes are read under their frames' keys (log 17). -/
def Sys2Proof.Machine.Translation : Prop :=
  (∀ (s : State) (core part va : Nat) (wr ex load : Bool) (x : Part) (f g : Found), s.part? part = some x → s.coldFor core part va →
    s.stage1 x va (.ok f) → s.stage2 x.tenant f.out (.ok g) → bits f.leaf 4 2 ≠ 3 → bits g.leaf 4 2 ≠ 3 →
    (wr = true → f.grants.w = true ∧ g.grants.w = true) → (ex = true → f.grants.x = true ∧ g.grants.x = true) →
    (bits f.leaf 6 1 = 1 ∧ (wr = true → bits f.leaf 7 1 = 1) ∨ ∃ h, s.stage2 x.tenant f.place (.ok h) ∧ h.grants.w = true) →
    (s.backed g.out = true → (load = true → s.poison.contains (g.out / 128) = false) →
      ∃ s', s.translate core part va wr ex load =
        .ok ({ pa := g.out, key := bits g.leaf 54 6, kind := weakerOrd (bits f.leaf 4 2) (bits g.leaf 4 2) }, s') ∧
      (s.guarded (g.place / 128) = false → let e := (s'.readByte (s.ownKey g.place) g.place).toNat
        bits e 6 1 = 1 ∧ (wr = true → bits e 7 1 = 1))) ∧
    (s.backed g.out = false → s.translate core part va wr ex load = .error ⟨.physical, 0, 0⟩)) ∧
  (∀ (s : State) (core part va : Nat) (wr ex load : Bool) (x : Part) (e : XlFault), s.part? part = some x → s.coldFor core part va →
    s.stage1 x va (.error e) → s.translate core part va wr ex load = .error e) ∧
  (∀ (s : State) (core part va : Nat) (wr ex load : Bool) (x : Part) (f : Found) (e : XlFault), s.part? part = some x →
    s.coldFor core part va → s.stage1 x va (.ok f) → s.stage2 x.tenant f.out (.error e) → s.translate core part va wr ex load = .error e) ∧
  (∀ (s : State) (core part va : Nat) (wr ex load : Bool) (x : Part) (f g : Found), s.part? part = some x → s.coldFor core part va →
    s.stage1 x va (.ok f) → s.stage2 x.tenant f.out (.ok g) →
    (bits f.leaf 4 2 = 3 → s.translate core part va wr ex load = .error ⟨.attributes, 1, f.level⟩) ∧
    (bits f.leaf 4 2 ≠ 3 → bits g.leaf 4 2 = 3 → s.translate core part va wr ex load = .error ⟨.attributes, 2, g.level⟩) ∧
    (bits f.leaf 4 2 ≠ 3 → bits g.leaf 4 2 ≠ 3 →
      (wr = true → f.grants.w = false → s.translate core part va wr ex load = .error ⟨.protection, 1, f.grants.wLevel⟩) ∧
      (wr = true → f.grants.w = true → g.grants.w = false →
        s.translate core part va wr ex load = .error ⟨.protection, 2, g.grants.wLevel⟩) ∧
      (wr = false → ex = true → f.grants.x = false → s.translate core part va wr ex load = .error ⟨.protection, 1, f.grants.xLevel⟩) ∧
      (wr = false → ex = true → f.grants.x = true → g.grants.x = false →
        s.translate core part va wr ex load = .error ⟨.protection, 2, g.grants.xLevel⟩))) ∧
  (∀ (s : State) (core part va : Nat) (wr ex load : Bool) (x : Part) (f g h : Found), s.part? part = some x → s.coldFor core part va →
    s.stage1 x va (.ok f) → s.stage2 x.tenant f.out (.ok g) → bits f.leaf 4 2 ≠ 3 → bits g.leaf 4 2 ≠ 3 →
    (wr = true → f.grants.w = true ∧ g.grants.w = true) → (ex = true → f.grants.x = true ∧ g.grants.x = true) →
    (bits f.leaf 6 1 = 0 ∨ (wr = true ∧ bits f.leaf 7 1 = 0)) → s.stage2 x.tenant f.place (.ok h) → h.grants.w = false →
    s.translate core part va wr ex load = .error ⟨.protection, 2, h.grants.wLevel⟩) ∧
  (∀ (s : State) (core part va : Nat) (wr ex load : Bool), s.part? part = none →
    s.coldFor core part va → s.translate core part va wr ex load = .error ⟨.notValid, 1, 0⟩) ∧
  (∀ (s : State) (core part va : Nat) (wr ex load : Bool) (t : Tlb), t ∈ s.tlb → (tlbPlaces core).contains t.place = true →
    t.covers part va = true → (∀ t' ∈ s.tlb, (tlbPlaces core).contains t'.place = true → t'.covers part va = true → t' = t) →
    (wr = true → t.w = true ∧ t.d = true) → (ex = true → t.x = true) → s.backed (t.pbase + (va - t.vbase)) = true →
    (load = true → s.poison.contains ((t.pbase + (va - t.vbase)) / 128) = false) →
    ∃ s', s.translate core part va wr ex load = .ok ({ pa := t.pbase + (va - t.vbase), key := t.key, kind := t.kind }, s') ∧ s'.mem = s.mem)

/-! ## Scratchpad, tiles, events and groups (R170 to R215) -/

/-- SPLD, SPST, SPATOM and SPATOM.CAS on the own allocation (R187 to R191). -/
def Sys2Proof.Machine.ScratchpadAccess : Prop :=
  Queues 0xA6 .spld (fun x s => x.fits s 0xA6 (sizeBytes x.a.size)) (fun _ => .load) (fun x => x.a.size) (fun x s l => (s.bslotOf x.k, x.offsetOf l)) ∧
  Queues 0xA7 .spst (fun x s => x.fits s 0xA7 (sizeBytes x.a.size)) (fun _ => .store) (fun x => x.a.size) (fun x s l => (s.bslotOf x.k, x.offsetOf l)) ∧
  Queues 0xAA .spatom (fun x s => x.a.ctl.getLsbD 4 = false ∧ x.fits s 0xAA 4) (fun x => .atom (x.a.ctl.toNat % 16)) (fun _ => 4)
    (fun x s l => (s.bslotOf x.k, x.offsetOf l)) ∧
  Queues 0xAB .spatomCas (fun x s => x.a.ctl.getLsbD 4 = false ∧ x.fits s 0xAB 4) (fun _ => .cas) (fun _ => 4)
    (fun x s l => (s.bslotOf x.k, x.offsetOf l))

/-- SPLDP, SPSTP and the peer forms of SPATOM and SPATOM.CAS (R177, R189 to R191), where all lanes name blocks of one core. -/
def Sys2Proof.Machine.PeerAccess : Prop :=
  QueuesPeer 0xA8 .spldp (fun _ => True) (fun _ => .load) (fun x => x.a.size) ∧
  QueuesPeer 0xA9 .spstp (fun _ => True) (fun _ => .store) (fun x => x.a.size) ∧
  QueuesPeer 0xAA .spatom (fun x => x.a.ctl.getLsbD 4 = true) (fun x => .atom (x.a.ctl.toNat % 16)) (fun _ => 4) ∧
  QueuesPeer 0xAB .spatomCas (fun x => x.a.ctl.getLsbD 4 = true) (fun _ => .cas) (fun _ => 4)

/-- LANE_PORT_PERFORM serves the source whose turn it is once the port is free for it (R174), and no other, which is log 12's choice. The lanes
of a load, a store, an atomic or a compare-and-swap go in ascending order over one another (R189 to R191). An access with a destination enters
what its lanes found, and their flags, into its result, with one part fewer to come, due 21 ck and its passes after issue, 57 and its
passes from a peer; one without merges its flags, and its token falls with its last part. -/
def Obligations.LanePort : Prop :=
  (∀ (core src : Nat) (s : State) (a : SpAccess) (rest : List SpAccess) (c : Crew), Turn core src a rest s → a.result = none →
    s.crews.get? a.crew = some c →
    ∃ t c', exec (.lanePortPerform core src) s = .next t ∧ Serves core src a s t ∧ (t.core core).port.getD src [] = rest ∧
      t.crews.get? a.crew = some c' ∧ c'.fflags = c.fflags ||| (a.run a.lanes (s.allocations core)).2.1 ∧ c'.out = c.out ∧
      (t.partWaits a.crew a.serial = true → c'.tokens = c.tokens) ∧
      (t.partWaits a.crew a.serial = false → ∀ n, c'.tokens.getD n 0 = if a.tok = some n then c.tokens.getD n 0 - 1 else c.tokens.getD n 0)) ∧
  (∀ (core src id : Nat) (s : State) (a : SpAccess) (rest : List SpAccess) (c : Crew), Turn core src a rest s → a.result = some id →
    s.crews.get? a.crew = some c →
    ∃ t c', exec (.lanePortPerform core src) s = .next t ∧ Serves core src a s t ∧ (t.core core).port.getD src [] = rest ∧
      t.crews.get? a.crew = some c' ∧ c'.tokens = c.tokens ∧ c'.out.length = c.out.length ∧
      ∀ (i : Nat) (r : Result), c.out[i]? = some r → ∃ r', c'.out[i]? = some r' ∧ (r.id ≠ id → r' = r) ∧ (r.id = id →
        let found := a.run a.lanes (s.allocations core)
        r'.id = r.id ∧ r'.parts = r.parts - 1 ∧ r'.flags = r.flags ||| found.2.1 ∧
        r'.due = max r.due (s.ck + a.passes + if a.peer then 56 else 20) ∧ r'.writes.map (·.reg) = r.writes.map (·.reg) ∧
        ∀ (j : Nat) (w : RegWrite), r.writes[j]? = some w → ∀ l < 96, r'.writes[j]?.map (fun w => lane w.vals l) =
          some (match found.1.find? fun e => e.1 == l || e.1 == 0x7F with
            | some e => element a.size e.2 j
            | none => lane w.vals l))) ∧
  (∀ (core src : Nat) (s : State), ((s.core core).portNext ≠ some src ∨ (s.core core).portReady src s.ck = false) → exec (.lanePortPerform core src) s = .next s)

/-- Misaligned offsets and offsets beyond the allocation trap, alignment first, over all lanes (R187, R195). -/
def Sys2Proof.Machine.ScratchpadTraps : Prop :=
  ∀ p ∈ ([(0xA6, .spld), (0xA7, .spst)] : List (Nat × (Args → Instr))),
    (∀ l : Nat, Traps p.1 p.2 (fun x _ => x.c.pieces = [] ∧
        (x.served (isVector p.1 x.a)).find? (fun l => x.offsetOf (laneOfServed l) % sizeBytes x.a.size != 0) = some l)
      (fun x _ => { cause := .misalignedAddress, addr := x.offsetOf (laneOfServed l), lane := l, slot := 2 })) ∧
    (∀ l : Nat, Traps p.1 p.2 (fun x s => x.c.pieces = [] ∧
        (∀ l ∈ x.served (isVector p.1 x.a), x.offsetOf (laneOfServed l) % sizeBytes x.a.size = 0) ∧
        (x.served (isVector p.1 x.a)).find? (fun l => decide (x.allocation s < x.offsetOf (laneOfServed l) + sizeBytes x.a.size)) = some l)
      (fun x _ => { cause := .scratchRange, addr := x.offsetOf (laneOfServed l), lane := l, slot := 2 }))

/-- TCLAIM, TREADY, TDRAIN, TFREE and TDEF move an entry through its states (R183, R193), once a ck (R185). -/
def Obligations.TileStates : Prop :=
  Retiles 0xBB .tclaim (fun x _ e => e.state = 0 ∧ (x.word x.a.in0 0).toNat ≤ 1024 * (e.size + 1)) (fun x e => { e with
    state := 1, landed := 0, late := false
    expect := if (x.word x.a.in0 0).toNat = 0 then 1024 * (e.size + 1) else (x.word x.a.in0 0).toNat }) ∧
  Retiles 0xBC .tready (fun x s e => e.state = 1 ∧ s.scratchBusy x.k false false = false) (fun _ e => { e with state := 2 }) ∧
  Retiles 0xBD .tdrain (fun x s e => e.state = 2 ∧ s.entryBusy x.core x.tileNamed = false) (fun _ e => { e with state := 3 }) ∧
  Retiles 0xBE .tfree (fun x s e => e.state = 3 ∧ s.entryBusy x.core x.tileNamed = false ∧ s.scratchBusy x.k true false = false)
    (fun _ e => { e with state := 0 }) ∧
  (∀ (x : Ctx) (s : State), x.ready 0xBF s = true → x.c.pieces = [] → x.tileNamed ≤ 511 → s.moved.contains (x.core, x.tileNamed) = false →
    (∀ e, s.tile? x.core x.tileNamed = some e → e.chute = false ∧ e.owner = s.bslotOf x.k ∧ e.state = 0) →
    let base := (x.word x.a.in0 0).toNat
    let size := (x.word x.a.in1 0).toNat
    base % 1024 = 0 → size % 1024 = 0 → 1024 ≤ size → size ≤ 65536 → base + size ≤ x.allocation s →
    ∃ t, exec (.tdef x.a) s = .next t ∧ t.tile? x.core x.tileNamed = some
      { chute := false, late := false, owner := s.bslotOf x.k, state := 0, size := size / 1024 - 1, base := base / 1024, expect := size, landed := 0 })

/-- A tile instruction on an entry in another state, or on one that has changed its state in this ck, stalls on it (R184, R185); an index above 511, an entry that is not defined, and one of another
block or of a chute trap (R186, R188, R195). -/
def Sys2Proof.Machine.TileStallsAndTraps : Prop :=
  ∀ p ∈ ([(0xBB, .tclaim, 0, false), (0xBC, .tready, 1, false), (0xBD, .tdrain, 2, true), (0xBE, .tfree, 3, true)] :
      List (Nat × (Args → Instr) × Nat × Bool)),
    (∀ e : TileEntry, Stalls p.1 p.2.1 (fun x s => x.owns s e ∧ e.state ≠ p.2.2.1 ∧ (x.word x.a.in0 0).toNat ≤ 1024 * (e.size + 1))
      (fun x _ => .entry x.tileNamed [p.2.2.1] p.2.2.2 x.tileSlot)) ∧
    (∀ e : TileEntry, Stalls p.1 p.2.1 (fun x s => x.owns s e ∧ e.state = p.2.2.1 ∧ (x.word x.a.in0 0).toNat ≤ 1024 * (e.size + 1) ∧
        s.entryBusy x.core x.tileNamed = false ∧ s.scratchBusy x.k false false = false ∧ s.scratchBusy x.k true false = false ∧
        s.moved.contains (x.core, x.tileNamed) = true) (fun x _ => .turn x.core x.tileNamed)) ∧
    Traps p.1 p.2.1 (fun x _ => x.c.pieces = [] ∧ 511 < x.tileNamed)
      (fun x _ => { cause := .tileIndex, slot := x.tileSlot, ixkind := 1, index := x.tileNamed % 2048 }) ∧
    Traps p.1 p.2.1 (fun x s => x.c.pieces = [] ∧ x.tileNamed ≤ 511 ∧ s.tile? x.core x.tileNamed = none)
      (fun x _ => { cause := .tileUndefined, slot := x.tileSlot, ixkind := 1, index := x.tileNamed }) ∧
    (∀ e : TileEntry, Traps p.1 p.2.1 (fun x s => x.c.pieces = [] ∧ x.tileNamed ≤ 511 ∧ s.tile? x.core x.tileNamed = some e ∧
        (e.chute = true ∨ e.owner ≠ s.bslotOf x.k)) (fun x _ => { cause := .tileOwner, slot := x.tileSlot, ixkind := 1, index := x.tileNamed }))

/-- TLD reads an entry that is READY or DRAINING, TST fills one that is FILLING, at offsets within its region (R192). -/
def Sys2Proof.Machine.TileAccess : Prop :=
  (∀ e : TileEntry, Queues 0xB9 .tld (fun x s => x.owns s e ∧ (e.state = 2 ∨ e.state = 3) ∧ ∀ l ∈ x.served (isVector 0xB9 x.a),
      x.offsetOf (laneOfServed l) % sizeBytes x.a.size = 0 ∧ x.offsetOf (laneOfServed l) + sizeBytes x.a.size ≤ 1024 * (e.size + 1))
    (fun _ => .load) (fun x => x.a.size) (fun x s l => (s.bslotOf x.k, 1024 * e.base + x.offsetOf l))) ∧
  (∀ e : TileEntry, Queues 0xBA .tst (fun x s => x.owns s e ∧ e.state = 1 ∧ ∀ l ∈ x.served (isVector 0xBA x.a),
      x.offsetOf (laneOfServed l) % sizeBytes x.a.size = 0 ∧ x.offsetOf (laneOfServed l) + sizeBytes x.a.size ≤ 1024 * (e.size + 1))
    (fun _ => .store) (fun x => x.a.size) (fun x s l => (s.bslotOf x.k, 1024 * e.base + x.offsetOf l)))

/-- EV.ADD, EV.SET and EV.RD (R197, R198, R210 to R213), of the own core or, with p, of another core of the cluster: the count, its wrap into
the epoch, the waiters that it wakes, the epoch returned, a counter set or undefined, the field read; and the waits and traps of each. -/
def Sys2Proof.Machine.EventCounters : Prop :=
  (∀ (x : Ctx) (s : State) (c : Counter), x.ready 0xD5 s = true → x.scopeOk s = true → x.eventOwned s c → x.releases s →
    let n := c.count + (x.word x.a.in0 0).toNat
    let c' : Counter := if c.target = 0 then { c with count := n % 2 ^ 32 }
      else { c with count := n % c.target, epoch := (c.epoch + n / c.target) % 65536 }
    ∃ t h, exec (.evAdd x.a) s = .next t ∧ (t.core x.eventCore).counters.get? x.eventNamed = some c' ∧
      x.reads t x.a.dst 0 = x.landed x.a.dst (fun _ => wordOf c'.epoch) 0 ∧ x.unitIn t = some h ∧ h.pc = skipTail x.next ∧ t.mem = s.mem ∧
      (c'.epoch ≠ c.epoch → x.wakes s t (x.atCounter c'.epoch)) ∧ (c'.epoch = c.epoch → x.wakes s t fun _ _ _ => False) ∧
      ∀ core e, (core, e) ≠ (x.eventCore, x.eventNamed) → (t.core core).counters.get? e = (s.core core).counters.get? e) ∧
  Stalls 0xD5 .evAdd (fun x s => x.scopeOk s = true ∧ x.eventNamed ≤ 2047 ∧ ¬ x.releases s) (fun x _ => .release x.a.scope.toNat false true false) ∧
  (∀ (x : Ctx) (s : State), x.ready 0xD6 s = true → x.eventNamed ≤ 2047 → x.a.ctl.getLsbD 2 = false →
    (∀ c, (s.core x.core).counters.get? x.eventNamed = some c → c.owner = s.bslotOf x.k) →
    let target := (x.word x.a.in0 0).toNat
    let count := (x.word x.a.in1 0).toNat
    let epoch := match (s.core x.core).counters.get? x.eventNamed with
      | some c => if x.a.ctl.getLsbD 1 then 0 else c.epoch
      | none => 0
    ∃ t h, exec (.evSet x.a) s = .next t ∧ (t.core x.core).counters.get? x.eventNamed = some
      { bytes := x.a.ctl.getLsbD 0, owner := s.bslotOf x.k, target := target
        count := if target = 0 then count else count % target
        epoch := if target = 0 ∨ count < target then epoch else (epoch + count / target) % 65536 } ∧
      x.unitIn t = some h ∧ h.pc = skipTail x.next ∧ t.mem = s.mem) ∧
  (∀ (x : Ctx) (s : State), x.ready 0xD6 s = true → x.eventNamed ≤ 2047 → x.a.ctl.getLsbD 2 = true →
    (∀ c, (s.core x.core).counters.get? x.eventNamed = some c → c.owner = s.bslotOf x.k ∧ s.counterBusy x.core x.eventNamed = false) →
    ∃ t h, exec (.evSet x.a) s = .next t ∧ (t.core x.core).counters.get? x.eventNamed = none ∧ x.unitIn t = some h ∧
      h.pc = skipTail x.next ∧ t.mem = s.mem) ∧
  (∀ c : Counter, Stalls 0xD6 .evSet (fun x s => x.eventNamed ≤ 2047 ∧ x.a.ctl.getLsbD 2 = true ∧
    (s.core x.core).counters.get? x.eventNamed = some c ∧ c.owner = s.bslotOf x.k ∧ s.counterBusy x.core x.eventNamed = true)
    (fun x _ => .counterWork x.eventNamed)) ∧
  (∀ c : Counter, Traps 0xD6 .evSet (fun x s => x.eventNamed ≤ 2047 ∧ (s.core x.core).counters.get? x.eventNamed = some c ∧
    c.owner ≠ s.bslotOf x.k) (fun x _ => { cause := .eventOwner, ixkind := 3, index := x.eventNamed, slot := x.eventSlot })) ∧
  (∀ (x : Ctx) (s : State) (c : Counter), x.ready 0xD7 s = true → s.softErrors = [] → x.eventNamed ≤ 2047 →
    (s.core x.eventCore).counters.get? x.eventNamed = some c →
    (if x.a.ctl.getLsbD 4 then x.eventOwned s c else c.owner = s.bslotOf x.k ∨ (x.a.ctl.toNat / 4) % 4 = 3) →
    ∃ t h, exec (.evRd x.a) s = .next t ∧ x.reads t x.a.dst 0 = x.landed x.a.dst (fun _ => match (x.a.ctl.toNat / 4) % 4 with
      | 0 => wordOf c.count
      | 1 => wordOf c.target
      | 2 => wordOf c.epoch
      | _ => wordOf (2 ^ 31 + (if c.bytes then 2 ^ 30 else 0) + 2 ^ 16 * c.owner)) 0 ∧ x.unitIn t = some h ∧ h.pc = skipTail x.next ∧
      t.mem = s.mem) ∧
  (∀ (x : Ctx) (s : State), x.ready 0xD7 s = true → x.eventNamed ≤ 2047 → (s.core x.eventCore).counters.get? x.eventNamed = none →
    (x.a.ctl.toNat / 4) % 4 = 3 → ∃ t, exec (.evRd x.a) s = .next t ∧ x.reads t x.a.dst 0 = x.landed x.a.dst (fun _ => 0) 0) ∧
  Traps 0xD7 .evRd (fun x s => x.eventNamed ≤ 2047 ∧ (x.a.ctl.toNat / 4) % 4 ≠ 3 ∧ (s.core x.eventCore).counters.get? x.eventNamed = none)
    (fun x _ => { cause := .eventUndefined, ixkind := 3, index := x.eventNamed, slot := x.eventSlot }) ∧
  Traps 0xD5 .evAdd (fun x s => x.scopeOk s = true ∧ x.eventNamed ≤ 2047 ∧ x.releases s ∧
      (s.core x.eventCore).counters.get? x.eventNamed = none)
    (fun x _ => { cause := .eventUndefined, ixkind := 3, index := x.eventNamed, slot := x.eventSlot }) ∧
  ∀ p ∈ ([(0xD5, .evAdd), (0xD6, .evSet), (0xD7, .evRd)] : List (Nat × (Args → Instr))),
    Traps p.1 p.2 (fun x s => x.scopeOk s = true ∧ 2047 < x.eventNamed)
      (fun x _ => { cause := .eventIndex, ixkind := 3, index := x.eventNamed % 2048, slot := 4 })

/-- BAR and BAR.ARV (R205 to R207, R214): an arrival is counted; the last one completes the phase, wakes its waiters and goes on; any other
waiter suspends with the instruction as its continuation, and so does a crew that waits for its earlier arrival or for an epoch that it
names; executed again, the instruction tests its epoch and makes no second arrival. BAR.ARV returns the epoch that the phase completes with,
and never waits. -/
def Sys2Proof.Machine.GroupBarriers : Prop :=
  (∀ (x : Ctx) (s : State) (l : Launch) (b : Barrier), x.ready 0xD8 s = true → x.member s l b → x.recorded = none →
    x.a.ctl.getLsbD 0 = false → x.pends b = false → x.releases s → b.members ≤ b.arrived + 1 →
    ∃ t, exec (.bar x.a) s = .next t ∧ x.barrierIn t = some b.completed ∧ x.goesOn t ∧ t.mem = s.mem ∧
      x.wakes s t (x.atGroup b.completed.epoch)) ∧
  (∀ (x : Ctx) (s : State) (l : Launch) (b : Barrier), x.ready 0xD8 s = true → x.member s l b → x.recorded = none →
    x.a.ctl.getLsbD 0 = false → x.pends b = false → x.releases s → b.arrived + 1 < b.members → b.epoch < 65536 →
    ∃ t, exec (.bar x.a) s = .next t ∧ x.barrierIn t = some { b with arrived := b.arrived + 1 } ∧
      x.barWaits t ((b.epoch + 1) % 65536)) ∧
  (∀ (x : Ctx) (s : State) (l : Launch) (b : Barrier), x.ready 0xD8 s = true → x.member s l b →
    (x.recorded ≠ none ∨ x.a.ctl.getLsbD 0 = true ∨ x.pends b = true) →
    let target := match x.recorded with
      | some e => e
      | none => if x.a.ctl.getLsbD 0 then (x.word x.a.in0 0).toNat % 65536 else x.c.arrivals.getD x.a.aux.toNat 0
    ∃ t, exec (.bar x.a) s = .next t ∧ x.barrierIn t = some b ∧ t.mem = s.mem ∧
      (reached b.epoch target = true → x.goesOn t) ∧ (reached b.epoch target = false → x.barWaits t target)) ∧
  (∀ (x : Ctx) (s : State) (l : Launch) (b : Barrier), x.ready 0xD9 s = true → x.member s l b → x.pends b = false →
    x.releases s →
    ∃ t, exec (.barArv x.a) s = .next t ∧
      x.barrierIn t = some (if b.members ≤ b.arrived + 1 then b.completed else { b with arrived := b.arrived + 1 }) ∧
      x.reads t x.a.dst 0 = x.landed x.a.dst (fun _ => wordOf ((b.epoch + 1) % 65536)) 0 ∧ x.goesOn t ∧ t.mem = s.mem ∧
      (b.members ≤ b.arrived + 1 → x.wakes s t (x.atGroup b.completed.epoch)) ∧ (b.arrived + 1 < b.members → x.wakes s t fun _ _ _ => False)) ∧
  (∀ (l : Launch) (b : Barrier), Stalls 0xD8 .bar (fun x s => x.member s l b ∧ x.recorded = none ∧ x.a.ctl.getLsbD 0 = false ∧
      x.pends b = false ∧ ¬ x.releases s) (fun x _ => .release x.a.scope.toNat false true false)) ∧
  (∀ (l : Launch) (b : Barrier), Traps 0xD9 .barArv (fun x s => x.member s l b ∧ x.pends b = true)
    (fun x _ => { cause := .barrierRearrival, ixkind := 4, index := x.a.aux.toNat, slot := 5 })) ∧
  ∀ p ∈ ([(0xD8, .bar), (0xD9, .barArv)] : List (Nat × (Args → Instr))), ∀ l : Launch,
    Traps p.1 p.2 (fun x s => x.scopeOk s = true ∧ x.launchOf s = some l ∧
        (l.groupUsed x.a.aux.toNat = false ∨ l.groupHas x.a.aux.toNat x.c.index = false))
      (fun x _ => { cause := .groupMember, ixkind := 4, index := x.a.aux.toNat, slot := 5 }) ∧
    Traps p.1 p.2 (fun x s => x.scopeOk s = true ∧ x.launchOf s = some l ∧ l.groupUsed x.a.aux.toNat = true ∧
        l.groupHas x.a.aux.toNat x.c.index = true ∧ (x.u ≠ 0 ∨ 1 < x.c.units.length ∨ x.c.deferred ≠ []))
      (fun x _ => { cause := .barrierDivergence, ixkind := 4, index := x.a.aux.toNat, slot := 5 })

/-! ## Chutes, hoists and matrix tasks (R216 to R291) -/

/-- CH.ACQ, CH.TAKE and their TRY forms (R222, R231, R232), with their waits, a second transition of the slot in one ck among them (R185),
and traps (R229, R230). -/
def Sys2Proof.Machine.ChuteSlots : Prop :=
  Acquires 0xD1 .chAcq ∧ Acquires 0xDE .chTryacq ∧ Takes 0xD3 .chTake ∧ Takes 0xDF .chTrytake ∧
  (∀ (x : Ctx) (s : State) (home : Nat) (d : Chute), x.ready 0xDE s = true → x.opens s x.chuteNamed true home d → d.mc = false →
    s.canAcquire home d (x.core % 4) = false →
    ∃ t, exec (.chTryacq x.a) s = .next t ∧ x.gotHandle t 0 0xFFFFFFFF ∧ x.goesOn t ∧ x.slotsIn t = some x.c.slots) ∧
  (∀ (x : Ctx) (s : State) (home : Nat) (d : Chute), x.ready 0xDF s = true → x.opens s x.chuteNamed false home d →
    s.canTake home d = false → ∃ t, exec (.chTrytake x.a) s = .next t ∧ x.gotHandle t 0 0xFFFFFFFF ∧ x.goesOn t ∧ x.slotsIn t = some x.c.slots) ∧
  (∀ (home : Nat) (d : Chute), Stalls 0xD1 .chAcq
    (fun x s => x.opens s x.chuteNamed true home d ∧ d.mc = false ∧ s.canAcquire home d (x.core % 4) = false) (fun x _ => .chute x.chuteNamed true)) ∧
  (∀ (home : Nat) (d : Chute), Stalls 0xD3 .chTake (fun x s => x.opens s x.chuteNamed false home d ∧ s.canTake home d = false)
    (fun x _ => .chute x.chuteNamed false)) ∧
  (∀ p ∈ ([(0xD1, .chAcq), (0xDE, .chTryacq)] : List (Nat × (Args → Instr))), ∀ (home : Nat) (d : Chute), Stalls p.1 p.2
    (fun x s => x.opens s x.chuteNamed true home d ∧ d.mc = false ∧ s.canAcquire home d (x.core % 4) = true ∧
      s.moved.contains (home, d.first + d.tail) = true) (fun _ _ => .turn home (d.first + d.tail))) ∧
  (∀ p ∈ ([(0xD3, .chTake), (0xDF, .chTrytake)] : List (Nat × (Args → Instr))), ∀ (home : Nat) (d : Chute), Stalls p.1 p.2
    (fun x s => x.opens s x.chuteNamed false home d ∧ s.canTake home d = true ∧ s.moved.contains (home, d.first + d.head) = true)
    (fun _ _ => .turn home (d.first + d.head))) ∧
  ∀ p ∈ ([(0xD1, .chAcq, TrapsListed), (0xD3, .chTake, TrapsListed), (0xDE, .chTryacq, Traps), (0xDF, .chTrytake, Traps)] :
      List (Nat × (Args → Instr) × (Nat → (Args → Instr) → (Ctx → State → Prop) → (Ctx → State → Trap) → Prop))),
    p.2.2 p.1 p.2.1 (fun x _ => x.u ≠ 0 ∨ 1 < x.c.units.length ∨ x.c.deferred ≠ [])
      (fun x _ => { cause := .chuteDivergence, ixkind := 2, index := x.chuteNamed % 2048, slot := x.chuteField }) ∧
    p.2.2 p.1 p.2.1 (fun x _ => x.u = 0 ∧ x.c.units.length = 1 ∧ x.c.deferred = [] ∧ 63 < x.chuteNamed)
      (fun x _ => { cause := .chuteIndex, ixkind := 2, index := x.chuteNamed % 2048, slot := x.chuteField }) ∧
    p.2.2 p.1 p.2.1 (fun x s => x.u = 0 ∧ x.c.units.length = 1 ∧ x.c.deferred = [] ∧ x.chuteNamed ≤ 63 ∧ s.inst? x.core x.chuteNamed = none)
      (fun x _ => { cause := .chuteUndefined, ixkind := 2, index := x.chuteNamed % 2048, slot := x.chuteField })

/-- CH.PUT and CH.FREE (R233): the slot becomes READY with its item and mark, or EMPTY, once no task works on it (R279); a crew that does
not hold it traps. -/
def Sys2Proof.Machine.ChuteReturns : Prop :=
  (∀ (x : Ctx) (s : State) (home : Nat) (d : Chute) (e : TileEntry), x.ready 0xD2 s = true → x.scopeOk s = true →
    x.opens s x.tagChute true home d → s.released x.k x.c (max 2 x.a.scope.toNat) false true false = true →
    s.holds home d x.tagEntry x.c.index 1 = true → s.taskNames home x.tagEntry = false → s.moved.contains (home, x.tagEntry) = false →
    s.tile? home x.tagEntry = some e →
    let r := s.slotRec home x.tagEntry
    ∃ t d', exec (.chPut x.a) s = .next t ∧ t.tile? home x.tagEntry = some { e with state := 2 } ∧
      t.slotRec home x.tagEntry = { r with item := (x.word x.a.in0 0).toNat % 2 ^ 16, mark := x.a.ctl.getLsbD 0 } ∧
      chuteIn t home x.tagChute = some d' ∧ d'.nready = d.nready + 1 ∧
      (∀ j < 4, d'.held.getD j 0 = d.held.getD j 0 - if j = r.acqcore then 1 else 0) ∧
      x.slotsIn t = some (x.c.slots - 1) ∧ x.goesOn t ∧ t.mem = s.mem) ∧
  (∀ (x : Ctx) (s : State) (home : Nat) (d : Chute) (e : TileEntry), x.ready 0xD4 s = true → x.opens s x.tagChute false home d →
    s.holds home d x.tagEntry x.c.index 3 = true → s.tile? home x.tagEntry = some e → s.scratchBusy x.k true true = false →
    s.entryBusy home x.tagEntry = false → s.moved.contains (home, x.tagEntry) = false →
    ∃ t d', exec (.chFree x.a) s = .next t ∧ t.tile? home x.tagEntry = some { e with state := 0 } ∧
      chuteIn t home x.tagChute = some d' ∧ d'.nempty = d.nempty + 1 ∧ x.slotsIn t = some (x.c.slots - 1) ∧ x.goesOn t ∧ t.mem = s.mem ∧
      (d.mc = true → ∀ j < 4, ∃ id, t.credits.get? id = some ⟨4 * clusterOf home + j, home % 4, x.tagChute⟩)) ∧
  (∀ (home : Nat) (d : Chute), Stalls 0xD2 .chPut
    (fun x s => x.scopeOk s = true ∧ x.opens s x.tagChute true home d ∧ s.released x.k x.c (max 2 x.a.scope.toNat) false true false = true ∧
      s.holds home d x.tagEntry x.c.index 1 = true ∧ s.taskNames home x.tagEntry = true) (fun x _ => .taskWork home x.tagEntry)) ∧
  (∀ (home : Nat) (d : Chute), Stalls 0xD2 .chPut
    (fun x s => x.scopeOk s = true ∧ x.opens s x.tagChute true home d ∧ s.released x.k x.c (max 2 x.a.scope.toNat) false true false = true ∧
      s.holds home d x.tagEntry x.c.index 1 = true ∧ s.taskNames home x.tagEntry = false ∧ s.moved.contains (home, x.tagEntry) = true)
    (fun x _ => .turn home x.tagEntry)) ∧
  (∀ (home : Nat) (d : Chute), Traps 0xD2 .chPut
    (fun x s => x.scopeOk s = true ∧ x.opens s x.tagChute true home d ∧
      s.released x.k x.c (max 2 x.a.scope.toNat) false true false = true ∧ s.holds home d x.tagEntry x.c.index 1 = false)
    (fun x _ => { cause := .chuteHolder, ixkind := 2, index := x.tagChute, slot := 4 })) ∧
  ∀ (home : Nat) (d : Chute), Traps 0xD4 .chFree
    (fun x s => x.opens s x.tagChute false home d ∧ s.holds home d x.tagEntry x.c.index 3 = false)
    (fun x _ => { cause := .chuteHolder, ixkind := 2, index := x.tagChute, slot := 4 })

/-- HOIST, HOIST.T, HOIST.MC, HOIST.ST and QFENCE enter their queue with what they are to move (R246, R251, R255 to R260); a full queue
stalls them, and so does an entry that the core has accepted in the same ck (R250). -/
def Obligations.Hoists : Prop :=
  (∀ p ∈ ([(0xC0, .hoist, .lane), (0xC3, .hoistSt, .storeLane)] : List (Nat × (Args → Instr) × HoistKind)), ∀ r : HTarget,
    Enters p.1 p.2.1 (fun x _ => x.a.ctl.toNat % 4)
      (fun x s => (p.1 = 0xC3 → x.a.ctl.getLsbD 4 = true) ∧ x.scopeOk s = true ∧ x.hoistTarget (x.start s) = .ok r ∧
        (∀ l ∈ x.laneList, l.2.1 % x.hoistSize = 0 ∧ l.2.2 % x.hoistSize = 0 ∧ l.2.1 < 2 ^ 56 ∧
          s.windowOk x.core x.c.launch l.2.2 x.hoistSize r.region = true ∧ (s.peerBlock x.core x.c.launch l.2.2).isSome = true))
      (fun x _ _ i => ∃ h, i = .hoist h ∧ x.ownHoist p.2.2 r h ∧ h.lanes = x.laneList ∧ 4 * 2 ^ h.size = x.hoistSize ∧
        h.total = x.hoistSize * x.laneList.length)) ∧
  (∀ p ∈ ([(0xC1, .hoistT, .tensor), (0xC3, .hoistSt, .storeTensor)] : List (Nat × (Args → Instr) × HoistKind)), ∀ (r : HTarget) (d : Desc),
    Enters p.1 p.2.1 (fun x _ => x.a.ctl.toNat % 4)
      (fun x s => (p.1 = 0xC3 → x.a.ctl.getLsbD 4 = false) ∧ x.scopeOk s = true ∧ x.hoistTarget (x.start s) = .ok r ∧ x.desc = some d ∧
        s.hoistTensorTrap x.core x.c.launch (x.addr 0) (x.word x.a.in1 0).toNat none r.region d = none)
      (fun x _ _ i => ∃ h, i = .hoist h ∧ x.ownHoist p.2.2 r h ∧ x.shaped h)) ∧
  (∀ (i : Chute) (d : Desc), Enters 0xC2 .hoistMc (fun x _ => x.a.ctl.toNat % 4)
    (fun x s => x.scopeOk s = true ∧ x.desc = some d ∧ chuteIn s x.core (x.a.aux.toNat % 64) = some i ∧ i.cluster = false ∧ i.mc = true ∧
      s.hoistTensorTrap x.core x.c.launch (x.addr 0) (x.word x.a.in1 0).toNat (some (1024 * (i.ssize + 1))) none d = none ∧
      ∀ c < 4, x.a.ctl.getLsbD (2 + c) = true → i.credit.getD c 0 ≠ 0 ∧
        s.tailMoved (4 * clusterOf x.core + c) (x.a.aux.toNat % 64) = false ∧ (chuteIn s (4 * clusterOf x.core + c) (x.a.aux.toNat % 64)).isSome = true)
    (fun x s t q => ∃ h i', q = .hoist h ∧ h.kind = .multicast ∧ x.shaped h ∧ h.chute = x.a.aux.toNat % 64 ∧
      chuteIn t x.core (x.a.aux.toNat % 64) = some i' ∧
      (∀ c < 4, i'.credit.getD c 0 = i.credit.getD c 0 - if x.a.ctl.getLsbD (2 + c) then 1 else 0) ∧
      ∀ c < 4, ∀ n, chuteIn s (4 * clusterOf x.core + c) (x.a.aux.toNat % 64) = some n → x.a.ctl.getLsbD (2 + c) = true →
        (c, n.first + n.tail) ∈ h.landings ∧ ∀ e, s.tile? (4 * clusterOf x.core + c) (n.first + n.tail) = some e →
          t.tile? (4 * clusterOf x.core + c) (n.first + n.tail) = some { e with state := 1, landed := 0, expect := h.total })) ∧
  (∀ r : HTarget, Enters 0xC4 .qfence (fun x _ => x.a.ctl.toNat % 8) (fun x s => x.hoistTarget (x.start s) = .ok r)
    (fun x s _ i => ∃ h, i = .hoist h ∧ x.ownHoist .qfence r h ∧ ∀ j < 6, ∀ y ∈ s.queue x.core j,
      (j = x.a.ctl.toNat % 8 ∨ x.a.imm.getLsbD j = true) → y.ofCrew x.c.launch x.c.name = true → (j, y.id) ∈ h.after)) ∧
  (∀ p ∈ ([(0xC0, .hoist), (0xC1, .hoistT), (0xC2, .hoistMc), (0xC3, .hoistSt)] : List (Nat × (Args → Instr))),
    Awaits p.1 p.2 fun x _ => x.a.ctl.toNat % 4) ∧
  Awaits 0xC4 .qfence fun x _ => x.a.ctl.toNat % 8

/-- The MMA family enters its task queue, with a weight entry of the form that it multiplies by (R269, R273, R276, R281, R282). -/
def Sys2Proof.Machine.MatrixTasks : Prop :=
  AcceptsMma 0xC6 0 12288 (fun _ => true) .mmaE4m3 ∧ AcceptsMma 0xC7 0 12288 (fun _ => false) .mmaI8 ∧
  AcceptsMma 0xC8 1 24576 (fun _ => true) .mmaBf16 ∧ AcceptsMma 0xC9 2 12288 (fun _ => false) .mmaTi8 ∧
  AcceptsMma 0xCA 0 12288 (fun x => !x.a.ctl.getLsbD 2) .mmaDist ∧
  ∀ p ∈ ([(0xC6, .mmaE4m3), (0xC7, .mmaI8), (0xC8, .mmaBf16), (0xC9, .mmaTi8), (0xCA, .mmaDist)] : List (Nat × (Args → Instr))),
    Awaits p.1 p.2 fun x s => 4 + x.engineFor s true

/-- WLOAD, TSACC, TSACC.I, TOPK and the ACC instructions enter their task queue (R276, R280, R283 to R287). -/
def Sys2Proof.Machine.AccumulatorTasks : Prop :=
  (∀ (r : TRegion) (n : Nat) (b : Block), Enters 0xC5 .wload (fun x s => 4 + x.engineFor s false)
    (fun x s => x.taskRegion (x.start s) false (x.a.aux.toNat / 128) = .ok r ∧ x.sourceFits (128 * n) r ∧
      n = (match x.a.ctl.toNat / 16 % 4 with | 0 => 128 | 1 => 256 | _ => 26) ∧
      s.blocks.get? (blockKey x.core (s.bslotOf x.k)) = some b ∧ (x.word x.a.in0 0).toNat + n ≤ b.wlines)
    (fun x s t i => ∃ y, i = .task y ∧ x.ownTask 0xC5 r y ∧ y.wbase = (x.word x.a.in0 0).toNat ∧ y.wsize = n ∧
      ∃ b', t.blocks.get? (blockKey x.core (s.bslotOf x.k)) = some b' ∧ ∀ e < 2, x.a.ctl.getLsbD (2 + e) = true →
        b'.wtab.get? (128 * e + x.a.aux.toNat % 128) = some (x.a.ctl.toNat / 16 % 4, (x.word x.a.in0 0).toNat))) ∧
  (∀ p ∈ ([(0xCB, .tsacc, true), (0xCC, .tsaccI, false)] : List (Nat × (Args → Instr) × Bool)),
    Enters p.1 p.2.1 (fun x s => 4 + x.engineFor s false)
      (fun x s => x.hasTile s (x.tileAt 3) ∧ x.c.untaken (x.engineFor s false) ≠ 0 ∧
        s.partialKind x.core (x.engineFor s false) x.c.launch x.c.name (x.c.take.getD (x.engineFor s false) 0) = p.2.2 ∧
        (if p.2.2 then x.c.tileMode (x.tileAt 3) = 0 else x.c.tileMode (x.tileAt 3) = 1 ∨ x.c.tileMode (x.tileAt 3) = 2))
      (fun x s t i => ∃ y c, i = .task y ∧ y.op = p.1 ∧ y.tile = some (x.tileAt 3) ∧ y.pseq = x.c.take.getD (x.engineFor s false) 0 ∧
        x.crewIn t = some c ∧ c.take.getD (x.engineFor s false) 0 = (y.pseq + 1) % 256)) ∧
  Enters 0xCD .topk (fun x s => 4 + x.engineFor s false) (fun x s => x.hasTile s (x.tileAt 3))
    (fun x _ t i => ∃ y r, i = .task y ∧ y.op = 0xCD ∧ y.tile = some (x.tileAt 3) ∧ y.lanes = x.h.mask ∧ t.youngest x.k = some r ∧
      y.result = some r.id ∧ r.unit = x.u ∧ r.writes.map (·.reg) = (List.range (2 * (x.a.aux.toNat % 16 + 1))).map (Opnd.next x.a.dst)) ∧
  Enters 0xCE .accRd (fun x s => 4 + x.engineFor s false)
    (fun x s => x.hasTile s (x.tileAt 3) ∧ (x.word x.a.in0 0).toNat + (x.a.aux.toNat % 16 + 1) ≤ 128)
    (fun x _ t i => ∃ y r, i = .task y ∧ y.op = 0xCE ∧ y.tile = some (x.tileAt 3) ∧ y.arg = x.word x.a.in0 0 ∧ y.lanes = x.h.mask ∧
      t.youngest x.k = some r ∧ y.result = some r.id ∧ r.unit = x.u ∧
      r.writes.map (·.reg) = (List.range (x.a.aux.toNat % 16 + 1)).map (Opnd.next x.a.dst)) ∧
  (∀ r : TRegion, Enters 0xCF .accSt (fun x s => 4 + x.engineFor s false)
    (fun x s => x.hasTile s (x.tileAt 2) ∧ (x.a.ctl.toNat / 16 % 4 = 1 → x.c.tileMode (x.tileAt 2) = 0) ∧
      x.taskRegion (x.start s) true (if x.a.ctl.toNat / 64 % 4 = 2 then x.a.aux.toNat % 64 else x.a.aux.toNat % 512) = .ok r ∧
      accStoreTrap x.a.imm.toNat (x.a.ctl.toNat / 16 % 4) r.len (accPitch (x.a.ctl.toNat / 16 % 4) (x.word x.a.in0 0).toInt) = none)
    (fun x _ _ i => ∃ y, i = .task y ∧ x.ownTask 0xCF r y ∧ y.tile = some (x.tileAt 2) ∧ y.arg = x.word x.a.in0 0)) ∧
  Enters 0xD0 .accClr (fun x s => 4 + x.engineFor s false) (fun x _ => x.tileAt 3 < (x.c.budget - x.c.bound) / 128)
    (fun x _ t i => ∃ y c, i = .task y ∧ y.op = 0xD0 ∧ y.tile = some (x.tileAt 3) ∧ x.crewIn t = some c ∧
      c.tileMode (x.tileAt 3) = x.a.ctl.toNat / 32 % 4) ∧
  ∀ p ∈ ([(0xC5, .wload), (0xCB, .tsacc), (0xCC, .tsaccI), (0xCD, .topk), (0xCE, .accRd), (0xCF, .accSt), (0xD0, .accClr)] :
      List (Nat × (Args → Instr))),
    Awaits p.1 p.2 fun x s => 4 + x.engineFor s false

/-- One cell of the array: row m of the source bytes against column n of the weight lines, for every form (R33, R36 to R39, R281, R282). That
no rounding takes place where a product is infinite or invalid is the model's reading (log 81). -/
def Sys2Proof.Machine.MatrixCells : Prop :=
  ∀ (s : State) (core e : Nat) (t : Task) (src blk : Block) (m n : Nat), m < 96 → n < 128 → e < 2 → s.softErrors = [] →
    s.blocks.get? (blockKey core t.regionBslot) = some src → s.blocks.get? (blockKey core t.bslot) = some blk →
    let a (i : Nat) : Byte := src.mem.byte (t.regionBase + t.offset + i)
    let w (i : Nat) : Byte := (if e = 0 then blk.w0 else blk.w1).byte (128 * t.wbase + i)
    let ks := List.range 128
    let e8 : List (Fp × Fp) := ks.map fun k => (e4m3.decode (a (128 * m + k)).toNat, e4m3.decode (w (128 * n + k)).toNat)
    let b16 : List (Fp × Fp) := ks.map fun k => (bf16.decode (half a (128 * m + k)), bf16.decode (half w (128 * n + k)))
    (t.op = 0xC6 → CellTo e8 (PartialTo (dotOf e8)) (s.cell core e t m n).1 (s.cell core e t m n).2) ∧
    (t.op = 0xC8 → CellTo b16 (GroupsTo b16) (s.cell core e t m n).1 (s.cell core e t m n).2) ∧
    (t.op = 0xCA → t.ctl.getLsbD 2 = false →
      if e8.any (fun p => p.1.isNan || p.2.isNan) then s.cell core e t m n = (0x7FC00000, 0x10)
      else PartialTo (e8.map fun p => (p.1.rat - p.2.rat) ^ 2).sum (s.cell core e t m n).1 (s.cell core e t m n).2) ∧
    (t.op = 0xC7 → s.cell core e t m n = (BitVec.ofInt 32 (ks.map fun k => int8 (a (128 * m + k)) * int8 (w (128 * n + k))).sum, 0)) ∧
    (t.op = 0xC9 → (∀ k, 26 * n ≤ k → k < 26 * n + 26 → (w k).toNat ≤ 242) → s.cell core e t m n =
      (BitVec.ofInt 32 (ks.map fun k => int8 (a (128 * m + k)) * (((w (26 * n + k / 5)).toNat / 3 ^ (k % 5) % 3 : Nat) - 1 : Int)).sum, 0)) ∧
    (t.op = 0xCA → t.ctl.getLsbD 2 = true → s.cell core e t m n =
      (BitVec.ofInt 32 (ks.map fun k => (int8 (a (128 * m + k)) - int8 (w (128 * n + k))) ^ 2).sum, 0))

/-- A started task that may complete (R277): its crew k is resident and goes on, the entry that it names has made no transition in this ck
(R185), it is at no chute instance, and nothing waits for it to be gone. -/
def completes (s : State) (core q id k : Nat) (c : Crew) (t : Task) : Prop :=
  s.task? core q id = some t ∧ (q = 4 ∨ q = 5) ∧ t.started = true ∧ t.since < s.ck ∧ s.softErrors = [] ∧
  s.findCrew t.launch t.name = some k ∧ s.crews.get? k = some c ∧ (∀ e ∈ s.blocks, e.2.strategy ≠ 4) ∧
  (∀ h, c.units.get? 0 = some h → ∀ m, h.st ≠ .retiring m) ∧ t.kind ≠ 2 ∧ t.entryMoved core s = false ∧
  ∀ h, c.units.get? t.spall = some h → ∀ r d, h.st ≠ .faulting r d

/-- What tasks leave at their completion (R40, R41, R276, R277, R283, R284, R285, R287): an MMA's partial in the buffer, or added to its tile
in the tile's mode; TSACC's partial scaled and added, TSACC.I's added, and the credit returned; ACC.RD's columns and TOPK's first k
candidates in the lanes active at issue; ACC.CLR's zeros. -/
def Sys2Proof.Machine.TaskResults : Prop :=
  ∀ (s : State) (core q id k : Nat) (c : Crew) (t : Task), completes s core q id k c t →
    ∃ t' c', exec (.taskComplete core q id) s = .next t' ∧ t'.crews.get? k = some c' ∧ t'.task? core q id = none ∧ t'.mem = s.mem ∧
      (∀ n, t.tok = some n → c'.tokens.getD n 0 = c.tokens.getD n 0 - 1) ∧
      (isMma t.op = true → t.tile = none → ∃ p, (t'.core core).partials = (s.core core).partials ++ [p] ∧ p.queue = q - 4 ∧
        p.launch = t.launch ∧ p.name = t.name ∧ p.seq = t.pseq ∧ c'.pool = c.pool ∧
        ∀ m < 96, ∀ n < 128, lane (p.cols.getD n []) m = (s.cell core (q - 4) t m n).1) ∧
      (∀ j, isMma t.op = true → t.tile = some j → t.mode ≤ 2 → ∀ m < 96, ∀ n < 128, Accumulates t.mode
        (lane (c.pool? (c.bound + 128 * j + n)) m) (s.cell core (q - 4) t m n).1 (lane (c'.pool? (c.bound + 128 * j + n)) m)) ∧
      (∀ j, t.op = 0xC7 → t.tile = some j → t.mode = 2 → (c'.fflags.getLsbD 5 = true ↔ c.fflags.getLsbD 5 = true ∨ ∃ m < 96, ∃ n < 128,
        let v := (lane (c.pool? (c.bound + 128 * j + n)) m).toInt + (s.cell core (q - 4) t m n).1.toInt
        clamped v ≠ v)) ∧
      (∀ j p, t.op = 0xCC → t.tile = some j → (t.mode = 1 ∨ t.mode = 2) → s.partialOf core q t = some p → p.bad = [] →
        (∀ m < 96, ∀ n < 128, Accumulates t.mode (lane (c.pool? (c.bound + 128 * j + n)) m) (lane (p.cols.getD n []) m)
          (lane (c'.pool? (c.bound + 128 * j + n)) m)) ∧
        (t'.core core).creditsUsed.getD (q - 4) 0 = (s.core core).creditsUsed.getD (q - 4) 0 - 1) ∧
      (∀ j p, t.op = 0xCB → t.tile = some j → s.partialOf core q t = some p → p.bad = [] →
        (∀ m < 96, ∃ sc fs, ProductTo 0 (fpOf (lane t.sa m)) (fpOf t.arg) sc fs ∧ ∀ n < 128, ∃ fl,
          FusedTo 0 (fpOf (lane (p.cols.getD n []) m)) (fpOf sc) (fpOf (lane (c.pool? (c.bound + 128 * j + n)) m))
            (lane (c'.pool? (c.bound + 128 * j + n)) m) fl) ∧
        (t'.core core).creditsUsed.getD (q - 4) 0 = (s.core core).creditsUsed.getD (q - 4) 0 - 1) ∧
      (∀ j, t.op = 0xCE → t.tile = some j → ∀ i ≤ t.aux.toNat % 16, ∀ l < 96, lane (c'.pool? (t.dst + i)) l =
        if t.lanes.getLsbD l then lane (c.pool? (c.bound + 128 * j + (t.arg.toNat + i))) l else lane (c.pool? (t.dst + i)) l) ∧
      (∀ j, t.op = 0xCD → t.tile = some j → let k := t.aux.toNat % 16 + 1
        ∀ m < 96, (t.lanes.getLsbD m = false → ∀ i < 2 * k, lane (c'.pool? (t.dst + i)) m = lane (c.pool? (t.dst + i)) m) ∧
          (t.lanes.getLsbD m = true → ∃ r : List Candidate, r.Perm (t.candidates (fun i => c.pool? (c.bound + 128 * j + i)) m) ∧
            r.Pairwise (Candidate.upTo t.mode (t.ctl.getLsbD 5)) ∧
            ∀ i < k, some (lane (c'.pool? (t.dst + i)) m, lane (c'.pool? (t.dst + (k + i))) m) = r[i]?.map fun y => (y.1, y.2.1))) ∧
      (∀ j, t.op = 0xD0 → t.tile = some j → ∀ m < 96, ∀ n < 128, lane (c'.pool? (c.bound + 128 * j + n)) m = 0)

/-- WLOAD copies its region's bytes into the weight lines of each engine of its mask, and no other line changes (R280); ACC.ST writes the
elements of its tile, converted, where R286 places them, the later one in row-major order over the earlier, and no other byte (R279, R286). -/
def Sys2Proof.Machine.TaskStores : Prop :=
  (∀ (s : State) (core q id k : Nat) (c : Crew) (t : Task) (src blk : Block), completes s core q id k c t → t.op = 0xC5 →
    s.blocks.get? (blockKey core t.regionBslot) = some src → s.blocks.get? (blockKey core t.bslot) = some blk →
    ∃ t' b, exec (.taskComplete core q id) s = .next t' ∧ t'.blocks.get? (blockKey core t.bslot) = some b ∧ b.mem = blk.mem ∧ t'.mem = s.mem ∧
      ∀ i, (b.w0.byte i = if t.wmask.testBit 0 = true ∧ 128 * t.wbase ≤ i ∧ i < 128 * (t.wbase + t.wsize) then
          src.mem.byte (t.regionBase + t.offset + (i - 128 * t.wbase)) else blk.w0.byte i) ∧
        (b.w1.byte i = if t.wmask.testBit 1 = true ∧ 128 * t.wbase ≤ i ∧ i < 128 * (t.wbase + t.wsize) then
          src.mem.byte (t.regionBase + t.offset + (i - 128 * t.wbase)) else blk.w1.byte i)) ∧
  (∀ (s : State) (core q id k j : Nat) (c : Crew) (t : Task) (dst : Block), completes s core q id k c t → t.op = 0xCF → t.tile = some j →
    s.blocks.get? (blockKey core t.regionBslot) = some dst → (∀ m < 96, ∀ n < 128, 0 ≤ t.storePlace m n) →
    ∃ (t' : State) (b : Block) (v : Nat → Nat → Nat), exec (.taskComplete core q id) s = .next t' ∧ t'.blocks.get? (blockKey core t.regionBslot) = some b ∧ t'.mem = s.mem ∧
      (∀ m < 96, ∀ n < 128, StoredAs (t.ctl.toNat / 16 % 4) t.mode (lane (c.pool? (c.bound + 128 * j + n)) m) (v m n)) ∧
      ∀ a : Nat, b.mem.byte a =
        match ((List.range (96 * 128)).reverse.find? fun i =>
            decide (t.storePlace (i / 128) (i % 128) ≤ a ∧ a < t.storePlace (i / 128) (i % 128) + t.storeSize)) with
        | some i => (leBytes t.storeSize (v (i / 128) (i % 128))).getD (a - (t.storePlace (i / 128) (i % 128)).toNat) 0
        | none => dst.mem.byte a)

/-! ## Leases, capsules, pairs and the frame (R59 to R61, R126, R347 to R366) -/

/-- LEASE and LREL (R345, R347 to R349, R363, R364): a line that the core's L1 owns is leased with a deadline, and one that it lacks is asked for; a line that the crew leases gets a new
deadline, or is given up where another agent waits for it; a fifth line traps. -/
def Obligations.Leases : Prop :=
  (∀ (x : Ctx) (s s' : State) (p : Xl) (n : Nat), x.ready 0xB4 s = true → x.leases? s p s' → ¬ x.leasesLine s'.ck → x.holdsLines s'.ck n → n < 4 →
    s'.lineStop x.k x.u (p.pa / 128) false x.h = false → x.holds s' (p.pa / 128) →
    ∃ t c, exec (.lease x.a) s = .next t ∧ x.crewIn t = some c ∧ t.mem = s'.mem ∧ (t.core x.core).l1.get? (p.pa / 128) = some .modified ∧
      c.leases = x.c.leases.filter (fun l => !l.ended && decide (s'.ck < l.deadline)) ++
        [⟨x.addr 0 / 128, p.pa / 128, s'.ck + (x.a.aux.toNat % 4096 + 1), false, x.u⟩] ∧ x.goesOn t) ∧
  (∀ (x : Ctx) (s s' : State) (p : Xl) (n : Nat), x.ready 0xB4 s = true → x.leases? s p s' → ¬ x.leasesLine s'.ck → x.holdsLines s'.ck n → n < 4 →
    s'.owns x.core (p.pa / 128) = false →
    ∃ t h, exec (.lease x.a) s = .next t ∧ t.mem = s'.mem ∧ x.unitIn t = some h ∧ h.st = .stalled (.owner (p.pa / 128) [p.pa / 128]) ∧
      h.pc = x.h.pc ∧ t.asked x.core (p.pa / 128) true = true) ∧
  (∀ (x : Ctx) (s s' : State) (p : Xl), x.ready 0xB4 s = true → x.leases? s p s' → x.leasesLine s'.ck →
    s'.lineWanted x.k x.u (p.pa / 128) = false →
    ∃ t c, exec (.lease x.a) s = .next t ∧ x.crewIn t = some c ∧ t.mem = s'.mem ∧ x.goesOn t ∧ c.leases = x.c.leases.map fun l =>
      if l.vline = x.addr 0 / 128 ∧ l.ended = false ∧ s'.ck < l.deadline then { l with deadline := s'.ck + (x.a.aux.toNat % 4096 + 1) } else l) ∧
  (∀ (x : Ctx) (s s' : State) (p : Xl), x.ready 0xB4 s = true → x.leases? s p s' → x.leasesLine s'.ck →
    s'.lineWanted x.k x.u (p.pa / 128) = true →
    ∃ t c h, exec (.lease x.a) s = .next t ∧ x.crewIn t = some c ∧ c.units.get? x.u = some h ∧ h.st = .stalled (.line (p.pa / 128)) ∧
      h.pc = x.h.pc ∧ c.leases = x.c.leases.filter fun l => l.vline != x.addr 0 / 128) ∧
  (∀ (x : Ctx) (s s' : State) (p : Xl) (n : Nat), x.ready 0xB4 s = true → x.leases? s p s' → ¬ x.leasesLine s'.ck → x.holdsLines s'.ck n → 4 ≤ n →
    exec (.lease x.a) s = .next (s'.takeTrap x.k x.u x.len { cause := .leaseOverflow, addr := x.addr 0, slot := 2 })) ∧
  Traps 0xB4 .lease (fun x _ => x.c.cap.mode = false ∧ x.c.pieces = [] ∧ 2 ^ 56 ≤ x.addr 0)
    (fun x _ => { cause := .addressRange, addr := x.addr 0, slot := 2 }) ∧
  (∀ (x : Ctx) (s : State), x.ready 0xB5 s = true → x.c.pieces = [] → ∃ t c, exec (.lrel x.a) s = .next t ∧ x.crewIn t = some c ∧
    t.mem = s.mem ∧ x.goesOn t ∧ (x.a.ctl.getLsbD 0 = true → c.leases = []) ∧
    (x.a.ctl.getLsbD 0 = false → ∀ l, l ∈ c.leases ↔ l ∈ x.c.leases ∧ l.vline ≠ x.addr 0 / 128))

/-- CAP.ENTER (R350, R353): a free record is acquired; one whose runner is off its issuer or overdue is adopted, with the checkpoint in s0 to s7
and the way back kept; any other is waited for. All this needs the record's two lines owned, which are asked for first (R345). -/
def Sys2Proof.Machine.CapsuleEntry : Prop :=
  (∀ (x : Ctx) (s s' : State) (l : Launch) (va b : Nat) (w : Xl) (r : CapRecord), x.ready 0xDA s = true → x.mayEnter s l va b →
    x.obtains s va w r s' → recordBad (s'.readRecord w.key w.pa) = false → r.state = 0 → goodTarget (l.code + BitVec.ofNat 64 b) →
    ∃ t c h, exec (.capEnter x.a) s = .next t ∧ x.crewIn t = some c ∧ c.units.get? x.u = some h ∧ h.pc = l.code + BitVec.ofNat 64 b ∧
      c.cap.role = .holder ∧ c.cap.mode = true ∧ c.cap.gen = (r.gen + 1) % 2 ^ 24 ∧ c.cap.step = 0 ∧ c.cap.wbuf = [] ∧
      (x.a.dst.isS = true → x.reads t x.a.dst 0 = x.landed x.a.dst (fun _ => wordOf ((r.gen + 1) % 2 ^ 24)) 0) ∧
      (recordIn t w).state = 1 ∧ (recordIn t w).run = true ∧ (recordIn t w).step = 0 ∧ (recordIn t w).gen = (r.gen + 1) % 2 ^ 24 ∧
      (recordIn t w).ckpt = x.c.s8 ∧ (x.c.index < 2 ^ 32 → (recordIn t w).runner = x.c.index ∧ (recordIn t w).holder = x.c.index)) ∧
  (∀ (x : Ctx) (s s' : State) (l : Launch) (va b : Nat) (w : Xl) (r : CapRecord), x.ready 0xDA s = true → x.mayEnter s l va b →
    x.obtains s va w r s' → recordBad (s'.readRecord w.key w.pa) = false → r.state ≠ 0 → l.imagetag.toNat = r.image → l.part = r.part →
    stepBeyond (s'.readRecord w.key w.pa) l.codesz = false →
    (r.run = false ∨ r.deadline < s'.ck) → goodTarget (l.code + BitVec.ofNat 64 (r.base + 0x200 * r.step)) →
    ∃ t c h, exec (.capEnter x.a) s = .next t ∧ x.crewIn t = some c ∧ c.units.get? x.u = some h ∧
      h.pc = l.code + BitVec.ofNat 64 (r.base + 0x200 * r.step) ∧ c.cap.role = .adopter ∧ c.cap.mode = true ∧ c.cap.step = r.step ∧
      (∀ i < 8, c.sregs.getD i 0 = r.ckpt.getD i 0) ∧ c.cap.stash = x.c.s8 ∧ c.cap.stashPc = x.h.pc ∧
      (recordIn t w).state = 2 ∧ (recordIn t w).gen = (r.gen + 1) % 2 ^ 24 ∧ (recordIn t w).ckpt = r.ckpt ∧
      t.notices.get? s'.nextNotice = some (.adoption r.rlaunch r.runner)) ∧
  (∀ (x : Ctx) (s s' : State) (l : Launch) (va b : Nat) (w : Xl) (r : CapRecord), x.ready 0xDA s = true → x.mayEnter s l va b →
    x.obtains s va w r s' → recordBad (s'.readRecord w.key w.pa) = false → r.state ≠ 0 →
    (l.imagetag.toNat = r.image → l.part = r.part → stepBeyond (s'.readRecord w.key w.pa) l.codesz = false) →
    ¬ (l.imagetag.toNat = r.image ∧ l.part = r.part ∧ (r.run = false ∨ r.deadline < s'.ck)) →
    ∃ t h, exec (.capEnter x.a) s = .next t ∧ x.unitIn t = some h ∧ h.st = .suspended (.record (w.pa / 128) r.deadline) false ∧
      h.pc = x.h.pc ∧ t.mem = s'.mem) ∧
  (∀ (x : Ctx) (s s' : State) (l : Launch) (va b : Nat) (w : Xl), x.ready 0xDA s = true → x.mayEnter s l va b →
    (x.start s).translate x.core (s.partOf x.c) va true false true = .ok (w, s') → s'.owns x.core (w.pa / 128) = false →
    ∃ t h, exec (.capEnter x.a) s = .next t ∧ t.mem = s'.mem ∧ x.unitIn t = some h ∧ h.pc = x.h.pc ∧
      h.st = .stalled (.owner (w.pa / 128) [w.pa / 128, w.pa / 128 + 1]) ∧ t.asked x.core (w.pa / 128) true = true) ∧
  Traps 0xDA .capEnter (fun x s => (x.launchOf s).isSome = true ∧ x.u = 0 ∧ x.c.units.length = 1 ∧ x.c.deferred = [] ∧
      (x.c.cap.role ≠ .none ∨ x.c.cap.rv = true)) (fun x _ => { cause := .capsuleState, addr := (x.dword x.a.in0 true 0).toNat })

/-- CAP.STEP and CAP.END (R358 to R360): while the record still names the runner and its leases stand, the step write buffer and the record
are written together, every buffered byte with them; with a lease ended the step is tried again; a displaced holder reads 1, and a displaced
adopter goes back where it came from. -/
def Sys2Proof.Machine.CapsuleCommit : Prop :=
  (∀ (x : Ctx) (s s' : State) (l : Launch) (w : Xl) (r : CapRecord), x.ready 0xDB s = true → x.c.cap.role ≠ .none →
    x.c.cap.role ≠ .displaced → x.c.cap.adopted = false → x.c.cap.step < 7 → x.launchOf s = some l →
    x.obtains s x.c.cap.record.toNat w r s' → r.mine x.c = true → (∀ e ∈ x.c.leases, e.ended = false ∧ s'.ck < e.deadline) →
    goodTarget (l.code + BitVec.ofNat 64 (r.base + 0x200 * (x.c.cap.step + 1))) →
    ∃ t c h, exec (.capStep x.a) s = .next t ∧ x.crewIn t = some c ∧ c.units.get? x.u = some h ∧
      h.pc = l.code + BitVec.ofNat 64 (r.base + 0x200 * (x.c.cap.step + 1)) ∧ c.cap.step = x.c.cap.step + 1 ∧ c.cap.wbuf = [] ∧ c.leases = [] ∧
      (x.a.dst.isS = true → x.reads t x.a.dst 0 = x.landed x.a.dst (fun _ => 0) 0) ∧
      (recordIn t w).step = x.c.cap.step + 1 ∧ (recordIn t w).ckpt = x.c.s8 ∧ (recordIn t w).run = true ∧ (recordIn t w).gen = r.gen ∧
      (x.buffered s' → x.commits s' t w)) ∧
  (∀ (x : Ctx) (s s' : State) (l : Launch) (w : Xl) (r : CapRecord), x.ready 0xDC s = true → x.c.cap.role = .holder →
    x.c.cap.adopted = false → x.launchOf s = some l →
    x.obtains s x.c.cap.record.toNat w r s' → r.mine x.c = true → (∀ e ∈ x.c.leases, e.ended = false ∧ s'.ck < e.deadline) →
    ∃ t c, exec (.capEnd x.a) s = .next t ∧ x.crewIn t = some c ∧ c.cap.role = .none ∧ c.cap.mode = false ∧ c.cap.wbuf = [] ∧ c.leases = [] ∧
      (x.a.dst.isS = true → x.reads t x.a.dst 0 = x.landed x.a.dst (fun _ => 0) 0) ∧ x.goesOn t ∧
      (recordIn t w).state = 0 ∧ (recordIn t w).run = false ∧ (recordIn t w).step = 0 ∧ (recordIn t w).ckpt = x.c.s8 ∧
      (recordIn t w).result = (if x.a.in1.isS then x.pairAt x.a.in1 else 0) ∧ (x.buffered s' → x.commits s' t w)) ∧
  (∀ (x : Ctx) (s s' : State) (l : Launch) (w : Xl) (r : CapRecord), x.ready 0xDC s = true → x.c.cap.role = .adopter →
    x.c.cap.adopted = false → x.launchOf s = some l →
    x.obtains s x.c.cap.record.toNat w r s' → r.mine x.c = true → (∀ e ∈ x.c.leases, e.ended = false ∧ s'.ck < e.deadline) →
    goodTarget x.c.cap.stashPc →
    ∃ t c h, exec (.capEnd x.a) s = .next t ∧ x.crewIn t = some c ∧ c.units.get? x.u = some h ∧ h.pc = x.c.cap.stashPc ∧
      (∀ i < 8, c.sregs.getD i 0 = x.c.cap.stash.getD i 0) ∧ c.cap.role = .none ∧ c.cap.mode = false ∧ (recordIn t w).state = 0 ∧
      (x.buffered s' → x.commits s' t w) ∧ ∃ id, t.notices.get? id = some (.delivery r.hlaunch r.holder (if x.a.in1.isS then x.pairAt x.a.in1 else 0) (if r.nv then some r.ecnt else none))) ∧
  (∀ p ∈ ([(0xDB, .capStep), (0xDC, .capEnd)] : List (Nat × (Args → Instr))),
    (∀ (x : Ctx) (s : State), x.ready p.1 s = true → x.c.cap.role ≠ .none → x.c.cap.role ≠ .displaced → x.c.cap.adopted = true →
      (p.1 = 0xDB → x.c.cap.step < 7) → (x.c.cap.role = .adopter → goodTarget x.c.cap.stashPc) →
      ∃ t, exec (p.2 x.a) s = .next t ∧ x.isDisplaced t ∧ t.mem = s.mem) ∧
    (∀ (x : Ctx) (s s' : State) (w : Xl) (r : CapRecord), x.ready p.1 s = true → x.c.cap.role ≠ .none → x.c.cap.role ≠ .displaced →
      x.c.cap.adopted = false → (p.1 = 0xDB → x.c.cap.step < 7) → x.obtains s x.c.cap.record.toNat w r s' → r.mine x.c = false →
      (x.c.cap.role = .adopter → goodTarget x.c.cap.stashPc) →
      ∃ t, exec (p.2 x.a) s = .next t ∧ x.isDisplaced t ∧ t.mem = s'.mem) ∧
    (∀ (x : Ctx) (s s' : State) (l : Launch) (w : Xl) (r : CapRecord), x.ready p.1 s = true → x.c.cap.role ≠ .none →
      x.c.cap.role ≠ .displaced → x.c.cap.adopted = false → (p.1 = 0xDB → x.c.cap.step < 7) → x.launchOf s = some l →
      x.obtains s x.c.cap.record.toNat w r s' → r.mine x.c = true → (∃ e ∈ x.c.leases, e.ended = true ∨ e.deadline ≤ s'.ck) →
      goodTarget (l.code + BitVec.ofNat 64 (r.base + 0x200 * x.c.cap.step)) →
      ∃ t c h, exec (p.2 x.a) s = .next t ∧ x.crewIn t = some c ∧ c.units.get? x.u = some h ∧
        h.pc = l.code + BitVec.ofNat 64 (r.base + 0x200 * x.c.cap.step) ∧ (∀ i < 8, c.sregs.getD i 0 = x.c.cap.ckc.getD i 0) ∧
        c.cap.wbuf = [] ∧ c.leases = [] ∧ t.mem = s'.mem) ∧
    Traps p.1 p.2 (fun x _ => x.c.cap.role = .none) (fun x _ => { cause := .capsuleState, addr := x.c.cap.record.toNat }))

/-- CAP.RESULT (R365), and LD and ST inside a step (R355 to R357): bytes of the step write buffer come before those of the line, a store goes
into the buffer alone, and an access outside the lease set traps. -/
def Sys2Proof.Machine.CapsuleAccess : Prop :=
  (∀ (x : Ctx) (s : State), x.ready 0xDD s = true → x.c.cap.rv = true → ∃ t c, exec (.capResult x.a) s = .next t ∧ x.crewIn t = some c ∧
    c.cap.rv = false ∧ c.cap.role = .none ∧ x.goesOn t ∧ ∀ i : Nat, x.a.dst = .s (Fin.ofNat 64 i) → i < 59 →
      c.sregs.getD i 0 = x.c.cap.res.setWidth 32 ∧ c.sregs.getD (i + 1) 0 = (x.c.cap.res >>> 32).setWidth 32) ∧
  (∀ (x : Ctx) (s : State), x.ready 0xDD s = true → x.c.cap.rv = false → x.c.cap.role = .displaced →
    ∃ t h, exec (.capResult x.a) s = .next t ∧ x.unitIn t = some h ∧ h.st = .suspended .result false ∧ h.pc = x.h.pc) ∧
  Traps 0xDD .capResult (fun x _ => x.c.cap.rv = false ∧ x.c.cap.role ≠ .displaced)
    (fun x _ => { cause := .capsuleState, addr := x.c.cap.record.toNat }) ∧
  (∀ (x : Ctx) (s s' : State) (p : Xl), x.ready 0xA0 s = true → x.c.cap.mode = true → x.c.cap.role ≠ .displaced →
    x.addr 0 % sizeBytes x.a.size = 0 → x.addr 0 < 2 ^ 56 → (∃ l ∈ x.c.leases, l.vline = x.addr 0 / 128) →
    (x.start s).translate x.core (s.partOf x.c) (x.addr 0) false false true = .ok (p, s') →
    s'.lineStop x.k x.u (p.pa / 128) (s'.l1Hit x.core (p.pa / 128) false) x.h = false →
    ∃ t, exec (.ld x.a) s = .next t ∧ t.mem = s'.mem ∧ x.loads s t x.a.size fun _ => (List.range (sizeBytes x.a.size)).map fun i =>
      match x.c.cap.wbuf.get? (p.pa + i) with
      | some b => b
      | none => (s'.ownBytes x.c (p.pa + i)).getD (s'.readByte p.key (p.pa + i))) ∧
  (∀ (x : Ctx) (s s' : State) (p : Xl), x.ready 0xA1 s = true → x.c.cap.mode = true → x.c.cap.role ≠ .displaced →
    x.addr 0 % sizeBytes x.a.size = 0 → x.addr 0 < 2 ^ 56 → (∃ l ∈ x.c.leases, l.vline = x.addr 0 / 128) →
    (x.start s).translate x.core (s.partOf x.c) (x.addr 0) true false false = .ok (p, s') →
    ∃ t c, exec (.st x.a) s = .next t ∧ x.crewIn t = some c ∧ t.mem = s'.mem ∧ c.sbuf = x.c.sbuf ∧ ∀ pa, c.cap.wbuf.get? pa =
      if p.pa ≤ pa ∧ pa < p.pa + sizeBytes x.a.size then (x.sourceBytes x.a.in1 x.a.size 0)[pa - p.pa]? else x.c.cap.wbuf.get? pa) ∧
  ∀ p ∈ ([(0xA0, .ld), (0xA1, .st)] : List (Nat × (Args → Instr))),
    Traps p.1 p.2 (fun x _ => x.c.cap.mode = true ∧ x.c.cap.role ≠ .displaced ∧ x.addr 0 % sizeBytes x.a.size = 0 ∧ x.addr 0 < 2 ^ 56 ∧
        ∀ l ∈ x.c.leases, l.vline ≠ x.addr 0 / 128)
      (fun x _ => { cause := .capsuleFault, addr := x.c.cap.record.toNat })

/-- PAIR_ISSUE (R60): both halves read before either writes; here with two fixed-latency integer halves, in vector registers of the pool. -/
def Obligations.PairIssue : Prop :=
  ∀ (p : PairArgs) (s : State) (k u : Nat) (c : Crew) (h : CrewUnit) (fa fb : LaneSem), s.focus = some (k, u) → s.crews.get? k = some c →
    c.units.get? u = some h → s.softErrors = [] → pairFault p = none → c.cap.mode = false → h.debugStops = [] → c.dbg.ctl.getLsbD 1 = false →
    (∀ n < 8, p.wait.getLsbD n = true → c.tokens.getD n 0 = 0) →
    let x : Ctx := ⟨k, u, c, h, { p.a.args with sw := p.sw, wait := p.wait }, 16, 0⟩
    pairRegTrap p x = none → isVariable p.a.opcode.toNat = false → isVariable p.b.opcode.toNat = false →
    laneSem? p.a.opcode.toNat = some fa → laneSem? p.b.opcode.toNat = some fb →
    let s1 := { s with focus := none }
    ∃ t c' h', exec (.pairIssue p) s = .next t ∧ x.crewIn t = some c' ∧ c'.units.get? u = some h' ∧ h'.pc = skipTail (h.pc + 16) ∧
      t.mem = s.mem ∧
      c'.pool = ((((fa (x.half p p.a 0) s1).writes ++ (fb (x.half p p.b 1) s1).writes).foldl
        (fun c w => c.writeReg u w) c).pool) ∧
      c'.fflags = c.fflags ||| (fa (x.half p p.a 0) s1).flags ||| (fb (x.half p p.b 1) s1).flags

/-- The frame of the lane instructions, opcodes 0x20 to 0x9F: when one of them answers a next state, it has changed no byte of memory, no
scratchpad, tile, counter or queue of any core, no other crew, and in its own crew no special register, handler register, store, lease,
token or capsule state (but the count of a step's instructions), no other unit of it, and no general register but those that its destination names; the unit's mask changes only
where s60 to s62 are among them (R89). -/
def Obligations.LaneFrame : Prop :=
  ∀ (x : Ctx) (s : State) (op : Nat) (i : Instr) (t : State), 0x20 ≤ op → op ≤ 0x9F → i.crewOp = some (op, x.a) → x.ready op s = true →
    exec i s = .next t →
    t.mem = s.mem ∧ t.blocks = s.blocks ∧ t.flights = s.flights ∧ t.frames = s.frames ∧ t.ck = s.ck ∧
    (∀ n, (t.core n).tiles = (s.core n).tiles ∧ (t.core n).counters = (s.core n).counters ∧ (t.core n).queues = (s.core n).queues ∧
      (t.core n).port = (s.core n).port) ∧ (∀ k, k ≠ x.k → t.crews.get? k = s.crews.get? k) ∧
    ∃ c, x.crewIn t = some c ∧ c.fenable = x.c.fenable ∧ c.prio = x.c.prio ∧ c.bound = x.c.bound ∧ c.budget = x.c.budget ∧
      c.hpc = x.c.hpc ∧ c.hmask = x.c.hmask ∧ c.hcause = x.c.hcause ∧ c.hstate = x.c.hstate ∧ c.hrec = x.c.hrec ∧ c.sbuf = x.c.sbuf ∧
      c.leases = x.c.leases ∧ c.tokens = x.c.tokens ∧ c.tileModes = x.c.tileModes ∧ c.produce = x.c.produce ∧ c.take = x.c.take ∧
      c.slots = x.c.slots ∧ { c.cap with count := x.c.cap.count } = x.c.cap ∧ c.fflags &&& x.c.fflags = x.c.fflags ∧
      (∀ r, (∀ o ∈ writeRegs op x.a, ∀ n : Fin 256, o = .v n → n.val ≠ r) → c.pool? r = x.c.pool? r) ∧
      (∀ r, (∀ o ∈ writeRegs op x.a, ∀ n : Fin 64, o = .s n → n.val ≠ r) → c.sregs.getD r 0 = x.c.sregs.getD r 0) ∧
      (∀ r, (∀ o ∈ writeRegs op x.a, ∀ n : Fin 8, o = .o n → n.val ≠ r) → c.oregs.getD r [] = x.c.oregs.getD r []) ∧
      (∀ u, u ≠ x.u → c.units.get? u = x.c.units.get? u) ∧
      ∃ h, c.units.get? x.u = some h ∧ h.dom = x.h.dom ∧ h.joinId = x.h.joinId ∧ h.owner = x.h.owner ∧ h.opens = x.h.opens ∧
        ((∀ o ∈ writeRegs op x.a, ∀ n : Fin 64, o = .s n → n.val < 60 ∨ n.val = 63) → h.mask = x.h.mask)

/-! ## The device's own steps (R62, R83, R91, R174, R184, R218 to R247, R249, R302 to R344, R367 to R462) -/

/-- Issue, results, markers and wakes (R62, R63, R83, R91, R109, R184, R224, R227, R436). When a result of variable latency returns is the
model's choice (log 11), and so is that an event which is not enabled leaves the state as it is (log 12). -/
def Obligations.UnitSteps : Prop :=
  (∀ (s : State) (core iss : Nat) (x y : Nat × Nat × Nat), s.chosen core iss = some x → y ∈ s.candidates core iss →
    x ∈ s.candidates core iss ∧ s.classOf y.1 y.2.2 ≤ s.classOf x.1 x.2.2 ∧
      (s.classOf y.1 y.2.2 = s.classOf x.1 x.2.2 → y.2.2 ≤ x.2.2 ∧ (y.2.2 = x.2.2 → x.1 ≤ y.1))) ∧
  (∀ (s : State) (core iss : Nat) (x : Nat × Nat × Nat), s.ungated core = true → s.hasIssued (4 * core + iss) = false →
    s.chosen core iss = some x →
    ∃ t, exec (.issueCycle core iss) s = .next t ∧ t.focus = some (x.1, x.2.1) ∧ t.crews = s.crews ∧ t.mem = s.mem) ∧
  (∀ (s : State) (core iss : Nat), (s.ungated core = false ∨ s.hasIssued (4 * core + iss) = true) → exec (.issueCycle core iss) s = .next s) ∧
  (∀ (s : State) (k id : Nat) (c : Crew) (r : Result), s.crews.get? k = some c → c.out.find? (fun r => r.id == id) = some r → r.parts = 0 →
    r.due ≤ s.ck → (∀ h, c.units.get? r.unit = some h → ∀ d k, h.st ≠ .faulting d k) → ∃ t c', exec (.resultReturn k id) s = .next t ∧ t.crews.get? k = some c' ∧ t.mem = s.mem ∧
      c'.pool = (r.writes.foldl (fun c w => c.writeReg r.unit w) c).pool ∧ c'.sregs = (r.writes.foldl (fun c w => c.writeReg r.unit w) c).sregs ∧
      c'.oregs = (r.writes.foldl (fun c w => c.writeReg r.unit w) c).oregs ∧ c'.fflags = c.fflags ||| r.flags ∧
      c'.out.map (·.id) = (c.out.filter fun x => x.id != id).map (·.id) ∧ (∀ n, r.tok = some n → c'.tokens.getD n 0 = c.tokens.getD n 0 - 1) ∧
      (∀ h, c.units.get? r.unit = some h → h.st = .marked → (∀ x ∈ c.out, x.id ≠ id → x.unit ≠ r.unit) →
        ∃ h', c'.units.get? r.unit = some h' ∧ h'.st = .ready ∧ h'.stop = true ∧ c'.last = noLast)) ∧
  (∀ (s : State) (k id : Nat) (c : Crew) (r : Result), s.crews.get? k = some c → c.out.find? (fun r => r.id == id) = some r →
    (r.parts ≠ 0 ∨ s.ck < r.due) → exec (.resultReturn k id) s = .next s) ∧
  (∀ (s : State) (k u : Nat) (c : Crew) (h : CrewUnit), s.has k u c h → h.st = .limited →
    ∃ t c' h', exec (.runLimit k u) s = .next t ∧ t.has k u c' h' ∧ h'.st = (if c.waiting u then .marked else .ready) ∧ c'.last = noLast) ∧
  (∀ (s : State) (k u : Nat) (c : Crew) (h : CrewUnit) (l : Launch) (rec_ : BitVec 512) (pc : Dword), s.has k u c h →
    c.nextEntry = some u → h.st = .entering rec_ pc → s.launches.get? c.launch = some l →
    ∃ t c' h', exec (.trapEntry k u) s = .next t ∧ t.has k u c' h' ∧ h'.st = .ready ∧ h'.pc = l.code + BitVec.ofNat 64 l.trapoff ∧
      h'.mask = h.mask ∧ c'.hpc = pc ∧ c'.hmask = h.mask ∧ c'.hrec = rec_ ∧ c'.hcause = rec_.extractLsb' 248 8 ∧
      c'.hstate = BitVec.ofNat 6 (1 + 2 * u)) ∧
  (∀ (s : State) (k u n : Nat) (c : Crew) (h : CrewUnit), s.has k u c h → h.st = .dozing n →
    ∃ t c' h', exec (.dozeEnd k u) s = .next t ∧ t.has k u c' h' ∧ h'.st = (if n ≤ s.ck ∧ c.waiting u = false then .ready else .dozing n) ∧ h'.pc = h.pc) ∧
  (∀ (s : State) (k u : Nat) (w : Wake) (c : Crew) (h : CrewUnit), s.has k u c h → h.st = .suspended w true →
    ∃ t c' h', exec (.unitWake k u) s = .next t ∧ t.has k u c' h' ∧ h'.st = .ready ∧ h'.pc = h.pc ∧ c'.last = noLast) ∧
  (∀ (s : State) (k u n e kind : Nat) (hz : Hazard) (c : Crew) (h : CrewUnit), s.has k u c h → h.st = .stalled hz →
    hz.limited = some (n, kind, e) → h.since + 1048576 ≤ s.ck → s.clear k u c h hz = false →
    exec (.tileStall k u) s = .next (s.takeTrap k u 16 { cause := .tileStall, slot := n, ixkind := kind, index := e })) ∧
  (∀ (s : State) (k u : Nat) (hz : Hazard) (c : Crew) (h : CrewUnit), s.has k u c h → h.st = .stalled hz →
    (hz.limited = none ∨ s.ck < h.since + 1048576 ∨ s.clear k u c h hz = true) → exec (.tileStall k u) s = .next s) ∧
  (∀ (s : State) (k u n home : Nat) (acq : Bool) (c : Crew) (h : CrewUnit) (d : Chute), s.has k u c h → h.st = .stalled (.chute n acq) →
    h.since + 64 ≤ s.ck → s.inst? (coreOf k) n = some (home, d) →
    ∃ t c' h' d' w, exec (.chuteWaitSuspend k u) s = .next t ∧ t.has k u c' h' ∧ h'.st = .suspended (.chute n acq) w ∧
      chuteIn t home n = some d' ∧ (c.name, u) ∈ (if acq then d'.acqList else d'.takeList)) ∧
  (∀ (s : State) (id : Nat) (x : Credit) (d : Chute), s.credits.get? id = some x → chuteIn s x.target x.chute = some d →
    ∃ t d', exec (.creditNotification id) s = .next t ∧ t.credits.get? id = none ∧ chuteIn t x.target x.chute = some d' ∧
      ∀ j < 4, d'.credit.getD j 0 = if j = x.from_ then min (d.credit.getD j 0 + 1) (d.nslots + 1) else d.credit.getD j 0)

/-- The hoist engines and the task scheduler (R226, R247, R249, R251, R252, R262, R274). -/
def Obligations.EngineSteps : Prop :=
  (∀ (s s' : State) (core q id : Nat) (h : Hoist) (p : Piece) (x : Xl) (b : Block), s.hoist? core q id = some h → s.hoistMayRun core q h = true →
    s.ungated core = true → (h.kind = .lane ∨ h.kind = .tensor) → (h.tgt = 0 ∨ h.tgt = 1) → h.landings = [] → h.piece? = some p →
    h.readBytes? p = none → s.translate core (match s.launches.get? h.launch with | some l => l.part | none => 0) p.va false false true = .ok (x, s') →
    s.windowGone core h = none → s'.lineHeld (x.pa / 128) none = false → s'.hoistQueued (x.pa / 128) h = false → s'.homeTakes core (x.pa / 128) = true → s'.softErrors = [] → s'.peerBlock core h.launch p.win = some b →
    let w := windowPlace core p.win
    ∃ t b' h', exec (.hoistLanding core q id 1) s = .next t ∧ t.blocks.get? (blockKey w.core w.bslot) = some b' ∧
      (∀ i, b'.mem.byte i = if w.offset ≤ i ∧ i < w.offset + p.len then s'.readByte x.key (x.pa + (i - w.offset)) else b.mem.byte i) ∧
      t.hoist? core q id = some h' ∧ h'.cursor = p.next ∧ h'.started = true ∧ t.mem = s'.mem) ∧
  (∀ (s : State) (core q id : Nat) (h : Hoist) (p : Piece) (bs : List Byte) (b : Block), s.hoist? core q id = some h →
    s.hoistMayRun core q h = true → s.ungated core = true → (h.tgt = 0 ∨ h.tgt = 1) → h.landings = [] → h.piece? = some p →
    h.readBytes? p = some bs → s.windowGone core h = none → s.softErrors = [] → s.peerBlock core h.launch p.win = some b →
    let w := windowPlace core p.win
    ∃ t b' h', exec (.hoistLanding core q id 1) s = .next t ∧ t.blocks.get? (blockKey w.core w.bslot) = some b' ∧
      (∀ i, b'.mem.byte i = if w.offset ≤ i then (match bs[i - w.offset]? with | some y => y | none => b.mem.byte i) else b.mem.byte i) ∧
      t.hoist? core q id = some h' ∧ h'.cursor = p.next ∧ h'.started = true ∧ t.mem = s.mem) ∧
  (∀ (s : State) (core q id : Nat) (h : Hoist) (p : Piece) (x : Trap), s.hoist? core q id = some h → s.hoistMayRun core q h = true →
    h.piece? = some p → s.landPiece core h p = .error (.fault x) →
    ∃ t h', exec (.hoistFault core q id) s = .next t ∧ t.hoist? core q id = some h' ∧ h'.held = true ∧ h'.cursor = p.cur ∧ t.mem = s.mem) ∧
  (∀ (s : State) (core q id : Nat) (h : Hoist), s.hoist? core q id = some h → s.hoistDone core q h = true → h.tgt = 0 →
    s.settled h.launch h.name → ∃ t, exec (.hoistComplete core q id) s = .next t ∧ t.hoist? core q id = none ∧ t.mem = s.mem ∧
      ∀ k c, s.findCrew h.launch h.name = some k → s.crews.get? k = some c → ∀ n, h.tok = some n →
        ∃ c', t.crews.get? k = some c' ∧ c'.tokens.getD n 0 = c.tokens.getD n 0 - 1) ∧
  (∀ (s : State) (core q id : Nat) (h : Hoist), s.hoist? core q id = some h → s.hoistDone core q h = false →
    exec (.hoistComplete core q id) s = .next s) ∧
  (∀ (s : State) (core q id : Nat) (t : Task), s.task? core q id = some t → s.taskMayStart core q t = true → s.ungated core = true → t.kind ≠ 2 →
    t.id = id → ∃ s' t', exec (.taskStart core q id) s = .next s' ∧ s'.task? core q id = some t' ∧ t'.started = true ∧ t'.since = s.ck ∧
      t'.op = t.op ∧ s'.blocks = s.blocks) ∧
  (∀ (s : State) (core q id : Nat) (t : Task) (d : Chute) (x : TileEntry), s.task? core q id = some t → s.taskMayStart core q t = true →
    s.ungated core = true → t.kind = 2 → t.id = id → (s.core core).chutes.get? t.chute = some d →
    s.tile? core (d.first + (if t.op = 0xCF then d.tail else d.head)) = some x →
    ∃ s' t' x', exec (.taskStart core q id) s = .next s' ∧ s'.task? core q id = some t' ∧ t'.started = true ∧
      t'.entry = some (d.first + (if t.op = 0xCF then d.tail else d.head)) ∧
      s'.tile? core (d.first + (if t.op = 0xCF then d.tail else d.head)) = some x' ∧ x'.state = (if t.op = 0xCF then 1 else 3)) ∧
  (∀ (s : State) (core q id : Nat) (t : Task), s.task? core q id = some t → s.taskMayStart core q t = false →
    exec (.taskStart core q id) s = .next s) ∧
  (∀ (s : State) (core q id : Nat) (t : Task), s.task? core q id = some t → (t.started = false ∨ s.ck ≤ t.since ∨ t.entryMoved core s = true) →
    exec (.taskComplete core q id) s = .next s)

/-- Stores on their way, walkers, probes, banks, memory controllers, key sweeps, retention (R302, R303, R325, R330 to R334, R340 to R344).
That a store is performed at its first acknowledgement, and that one frame moves a step, is the model's choice (log 4, log 22). -/
def Sys2Proof.Machine.MemorySteps : Prop :=
  (∀ (s : State) (k i : Nat) (c : Crew) (e : StoreEntry), s.crews.get? k = some c → c.sbuf[i]? = some e → s.maySend c i e = true →
    s.findCrew c.launch c.name = some k →
    ∃ t f, exec (.storeSend k i) s = .next t ∧ t.flights.get? s.nextFlight = some f ∧ f.entry = e ∧ f.performed = false ∧ t.mem = s.mem ∧
      f.launch = c.launch ∧ f.name = c.name) ∧
  (∀ (s : State) (k i : Nat) (c : Crew) (e : StoreEntry), s.crews.get? k = some c → c.sbuf[i]? = some e → s.maySend c i e = false →
    exec (.storeSend k i) s = .next s) ∧
  (∀ (s : State) (id scope : Nat) (f : Flight), s.flights.get? id = some f → f.acks.head? = some scope → f.performed = false →
    s.mayPerform id f = true → s.keyed f.entry.key (f.entry.line * 128) = true → (∀ i < 128, s.fixed (f.entry.line * 128 + i) = false) →
    (f.entry.bytes.map (·.1)).Nodup →
    ∃ t, exec (.storeAck id scope) s = .next t ∧ ∀ e ∈ f.entry.bytes, e.1 < 128 → t.mem.byte (f.entry.line * 128 + e.1) = e.2) ∧
  (∀ (s : State) (id scope : Nat) (f : Flight), s.flights.get? id = some f → f.acks.head? = some scope → f.performed = false →
    s.mayPerform id f = false → exec (.storeAck id scope) s = .next (s.seekOwner f)) ∧
  (∀ (s s' : State) (core p : Nat) (va : BitVec 64) (wr : Bool) (x : Xl), (s.cluster (clusterOf core)).holder = some p →
    s.translate core p va.toNat wr false false = .ok (x, s') → exec (.tableWalk core va wr) s = .next s') ∧
  (∀ (s : State) (core line id : Nat) (p : Probe), s.probes.find? (fun e => e.2.core == core && e.2.line == line && !e.2.supplied) = some (id, p) →
    (∃ j < 4, (s.core (4 * p.target + j)).l1.get? line = some .shared) →
    ∃ t, exec (.peerProbe core line) s = .next t ∧ t.probes.get? id = some { p with supplied := true } ∧ t.mem = s.mem) ∧
  (∀ (s : State) (id : Nat) (p : Probe), s.probes.get? id = some p → p.supplied = true → s.lineHeld p.line none = false →
    (s.core p.core).l1.length < l1Lines →
    ∃ t, exec (.probeRelay id) s = .next t ∧ t.probes.get? id = none ∧ ((t.core p.core).l1.get? p.line).isSome = true ∧ t.mem = s.mem) ∧
  (∀ (s : State) (bank : Nat) (r : BankReq), s.bankTurn bank r → bankOf (r.line * 128) = bank → s.lineHeld r.line none = false →
    s.lineQueued r.line = false → s.l2Room r.line = true → (r.own = true ∨ s.l2.get? r.line ≠ some r.key) →
    ∃ t, exec (.bankAccept bank) s = .next t ∧ (t.line r.line).locked = true ∧ (t.bank bank).ptr = (r.input + 1) % 12 ∧
      r ∈ (t.bank bank).active ∧ t.mem = s.mem) ∧
  (∀ (s : State) (bank : Nat) (r : BankReq), s.bankTurn bank r → bankOf (r.line * 128) = bank →
    (s.lineHeld r.line none = true ∨ s.lineQueued r.line = true ∨ s.l2Room r.line = false) →
    ∃ t, exec (.bankAccept bank) s = .next t ∧ (t.bank bank).conflict = [{ r with since := s.ck }] ∧ (t.bank bank).ptr = (r.input + 1) % 12 ∧
      t.mem = s.mem) ∧
  (∀ (s : State) (bank : Nat) (r : BankReq), s.bankTurn bank r → bankOf (r.line * 128) ≠ bank →
    ∃ t, exec (.bankAccept bank) s = .next t ∧ { r with input := linkInput (bank / 64) (bankOf (r.line * 128) / 64) } ∈
      (t.bank (bankOf (r.line * 128))).inputs ∧ t.mem = s.mem) ∧
  (∀ (s : State) (line : Nat) (r : BankReq), (s.bank (bankOf (line * 128))).active.find? (fun r => r.line == line) = some r → r.own = true →
    (s.core r.core).l1.length < l1Lines → s.l2Room line = true →
    (∀ e ∈ s.flights, e.2.performed = true ∨ e.2.home = true ∨ coreOf e.2.crew ≠ r.core ∨ e.2.entry.line ≠ line) →
    ∃ t, exec (.ownershipGrant line) s = .next t ∧ t.line line = { owner := some r.core, sharers := 0, locked := false } ∧
      (t.core r.core).l1.get? line = some .exclusive ∧ (∀ n, n ≠ r.core → (t.core n).l1.get? line = none) ∧ t.mem = s.mem) ∧
  (∀ (s : State) (line id : Nat) (r : BankReq) (f : Flight), (s.bank (bankOf (line * 128))).active.find? (fun r => r.line == line) = some r →
    r.own = true → (s.core r.core).l1.length < l1Lines → s.l2Room line = true → s.flights = [(id, f)] → f.performed = false → f.home = false →
    coreOf f.crew = r.core → f.entry.line = line → s.leased line none = false →
    (∀ e ∈ s.crews, ∀ u ∈ e.2.units, ∀ n ls, u.2.st = .stalled (.owner n ls) → ls.contains line = false) →
    s.keyed f.entry.key (line * 128) = true → (∀ i < 128, s.fixed (line * 128 + i) = false) → (f.entry.bytes.map (·.1)).Nodup →
    ∃ t, exec (.ownershipGrant line) s = .next t ∧ t.flights.get? id = some { f with performed := true } ∧
      (t.core r.core).l1.get? line = some .modified ∧ ∀ e ∈ f.entry.bytes, e.1 < 128 → t.mem.byte (line * 128 + e.1) = e.2) ∧
  (∀ (s : State) (line key : Nat), s.backed (line * 128) = true → s.l2Room line = true →
    ∃ t, exec (.memoryRead line key) s = .next t ∧ t.l2.get? line = some key ∧ t.mem = s.mem) ∧
  (∀ (s : State) (line key : Nat) (data : BitVec 1024), s.backed (line * 128) = true → s.keyed key (line * 128) = true →
    s.guarded line = false →
    ∃ t, exec (.memoryWrite line key data) s = .next t ∧ ∀ i < 128, t.mem.byte (line * 128 + i) = data.extractLsb' (8 * i) 8) ∧
  (∀ (s : State) (line key : Nat) (data : BitVec 1024), s.backed (line * 128) = true → s.keyed key (line * 128) = false →
    ∃ t, exec (.memoryWrite line key data) s = .next t ∧ t.mem = s.mem) ∧
  (∀ (s : State) (slot : Nat), s.keys.get? slot = some .discarded →
    ∃ t, exec (.keySweepDone slot) s = .next t ∧ t.keys.get? slot = none ∧ ∀ n f, t.frames.get? n = some f → f.key = slot → f.cleared = true) ∧
  (∀ (s : State) (group : Nat) (r : Retention), s.retention.get? group = some r → r.en = true → r.state = 0 → r.lastAccess + r.window ≤ s.ck →
    ∃ t, exec (.retentionEntry group) s = .next t ∧ t.retention.get? group = some { r with state := 1, moved := 0, recent := [] } ∧ t.mem = s.mem) ∧
  (∀ (s : State) (group : Nat) (r : Retention), s.retention.get? group = some r → r.state = 1 → s.frameHeld group r.moved = false →
    ∃ t, exec (.retentionEntry group) s = .next t ∧ t.mem = s.mem ∧ t.retention.get? group =
      some (if r.moved + 1 < groupFrames then { r with moved := r.moved + 1 } else { r with state := 2, moved := groupFrames })) ∧
  (∀ (s : State) (group : Nat) (r : Retention), s.retention.get? group = some r → r.state = 2 →
    ∃ t, exec (.retentionExit group) s = .next t ∧ t.mem = s.mem ∧
      t.retention.get? group = some (if r.wakes s.ck then { r with state := 3 } else r)) ∧
  (∀ (s : State) (group : Nat) (r : Retention), s.retention.get? group = some r → r.state = 3 → s.frameHeld group (r.moved - 1) = false →
    ∃ t, exec (.retentionExit group) s = .next t ∧ t.mem = s.mem ∧ t.retention.get? group =
      some (if 1 < r.moved then { r with moved := r.moved - 1 } else { r with state := 0, moved := 0, recent := [], lastAccess := s.ck }))

/-- The ends of leases, and what capsules send to other crews (R348, R351, R356, R357, R360). -/
def Sys2Proof.Machine.CapsuleSteps : Prop :=
  (∀ (s : State) (k line : Nat) (c : Crew), s.crews.get? k = some c →
    ∃ t c', exec (.leaseExpire k line) s = .next t ∧ t.crews.get? k = some c' ∧ t.mem = s.mem ∧
      (c.cap.mode = false → ∀ l, l ∈ c'.leases ↔ l ∈ c.leases ∧ ¬ (l.line = line ∧ l.deadline ≤ s.ck)) ∧
      (c.cap.mode = true → c'.leases = c.leases.map fun l => if l.line = line ∧ l.deadline ≤ s.ck then { l with ended := true } else l) ∧
      ∀ l, l ∈ c'.cap.recLeases ↔ l ∈ c.cap.recLeases ∧ ¬ (l.line = line ∧ l.deadline ≤ s.ck)) ∧
  (∀ (s s' : State) (k : Nat) (c : Crew) (h : CrewUnit) (w : Xl), s.crews.get? k = some c → c.units.get? 0 = some h → c.cap.mode = true →
    c.cap.descheduled = false → (∃ v b, h.st = .suspended v b) →
    s.translate (coreOf k) (s.partOf c) c.cap.record.toNat true false false = .ok (w, s') →
    (s'.owns (coreOf k) (w.pa / 128) = true → s'.lineHeld (w.pa / 128) (some k) = false →
      ∃ t c', exec (.capsuleDeschedule k) s = .next t ∧ t.crews.get? k = some c' ∧ c'.cap.descheduled = true ∧ c'.cap.wbuf = [] ∧
        c'.leases = [] ∧ c'.cap.recLeases = [] ∧
        (w.pa % 256 = 0 → s'.guarded (w.pa / 128) = false → s'.keyed w.key w.pa = true →
          let r := CapRecord.read (s'.readRecord w.key w.pa)
          recordIn t w = if r.gen = c.cap.gen ∧ r.runner = c.index ∧ r.rlaunch = c.launch then { r with run := false } else r)) ∧
    (s'.owns (coreOf k) (w.pa / 128) = false → ∃ t c', exec (.capsuleDeschedule k) s = .next t ∧ t.crews.get? k = some c' ∧ c'.cap = c.cap ∧
      t.mem = s.mem ∧ t.asked (coreOf k) (w.pa / 128) true = true)) ∧
  (∀ (s : State) (k u : Nat) (c : Crew) (h : CrewUnit), s.crews.get? k = some c → c.units = [(u, h)] → c.cap.mode = false →
    h.st = .ready → s.halted k h = true → ∃ t c', exec (.capsuleDeschedule k) s = .next t ∧ t.crews.get? k = some c' ∧
      ∀ l, l ∈ c'.leases ↔ l ∈ c.leases ∧ l.unit ≠ u) ∧
  (∀ (s : State) (id launch index k : Nat) (c : Crew), s.notices.get? id = some (.adoption launch index) →
    s.findCrew launch (s.crewNamed launch index) = some k → s.crews.get? k = some c →
    ∃ t c', exec (.adoptionNotice id) s = .next t ∧ t.notices.get? id = none ∧ t.crews.get? k = some c' ∧ c'.cap = { c.cap with adopted := true }) ∧
  (∀ (s : State) (id launch index k : Nat) (res : Dword) (c : Crew), s.notices.get? id = some (.delivery launch index res none) →
    s.findCrew launch (s.crewNamed launch index) = some k → s.crews.get? k = some c →
    ∃ t c', exec (.capsuleDelivery id) s = .next t ∧ t.notices.get? id = none ∧ t.crews.get? k = some c' ∧ c'.cap.res = res ∧ c'.cap.rv = true ∧
      ∀ u h, c.units.get? u = some h → h.st = .suspended .result false → ∃ h', c'.units.get? u = some h' ∧ h'.st = .suspended .result true) ∧
  ∀ (s : State) (id launch index k e key : Nat) (res : Dword) (c : Crew) (b : Block) (n : Counter),
    s.notices.get? id = some (.delivery launch index res (some e)) → s.findCrew launch (s.crewNamed launch index) = some k →
    s.crews.get? k = some c → s.blocks = [(key, b)] → b.launch = launch → b.number = c.block → b.chute = false →
    (s.core (key / 16)).counters.get? e = some n → n.owner = key % 16 →
    ∃ t c', exec (.capsuleDelivery id) s = .next t ∧ t.notices.get? id = none ∧ t.crews.get? k = some c' ∧ c'.cap.res = res ∧ c'.cap.rv = true ∧
      (t.core (key / 16)).counters.get? e = some (n.add 1)

/-! ## Packets and commands (R367 to R376, R385, R386, R391, R395, R396, R482) -/

/-- Reading, starting and completing packets (R367, R370 to R375, R382): a packet that was read ahead is not read again, and one of a queue
whose reference is void ends with CAPABILITY. A completion is the record, ctail and the signal word, written in this order through the
partition's tables; one that faults stays first with its queue paused. What a check finds first beyond R371 to R374 is the model's choice (log 20, log 25). -/
def Sys2Proof.Machine.PacketSteps : Prop :=
  (∀ (s : State) (queue i : Nat) (c : Nat → Instr) (mine : BitVec 512 → Bool) (q : Queue) (p : BitVec 512), packetCtors[i]? = some c →
    (packetOf p)[i]? = some mine → s.queues.get? queue = some q → (s.startable queue q = none ∨ (s.startable queue q = some p ∧ mine p = false)) →
    exec (c queue) s = .next s) ∧
  (∀ (s s0 s1 : State) (queue n : Nat) (q : Queue), s.atTail queue n q s0 s1 → q.entries < since32 n q.head →
    ∃ t q', exec (.queueTailWrite queue) s = .next t ∧ t.queues.get? queue = some q' ∧ q'.stopped = true ∧ q'.tail = n ∧ q'.head = q.head ∧
      q'.ctail = (q.ctail + 1) % 2 ^ 32) ∧
  (∀ (s s0 s1 s2 : State) (queue n : Nat) (q : Queue) (bs : List Byte), s.atTail queue n q s0 s1 → since32 n q.head ≤ q.entries →
    (n = q.tail → q.unlanded = none) → q.head ≠ n → q.current = none → q.ahead.get? q.head = none →
    (s1.modQueue queue fun q => { q with tail := n, scan := q.scan || n != q.tail }).vread q.part (q.pbase.toNat + 64 * (q.head % q.entries)) 64 =
      .ok (bs, s2) →
    pktSeq (BitVec.ofNat 512 (leNat bs)) = q.head % 65536 → badPacket (BitVec.ofNat 512 (leNat bs)) = none →
    ∃ t q', exec (.queueTailWrite queue) s = .next t ∧ t.queues.get? queue = some q' ∧ q'.tail = n ∧
      q'.current = some (BitVec.ofNat 512 (leNat bs)) ∧ q'.head = q.head) ∧
  (∀ (s s0 s1 : State) (queue n : Nat) (q : Queue) (a : Ahead), s.atTail queue n q s0 s1 → since32 n q.head ≤ q.entries →
    (n = q.tail → q.unlanded = none) → q.head ≠ n → q.current = none → q.ahead.get? q.head = some a → badPacket a.packet = none →
    ∃ t q', exec (.queueTailWrite queue) s = .next t ∧ t.queues.get? queue = some q' ∧ q'.tail = n ∧ q'.current = some a.packet ∧
      q'.head = q.head) ∧
  (∀ (s s1 : State) (queue first last : Nat) (q : Queue) (bs : List Byte), s.queues.get? queue = some q → q.unlanded = some (first, last) →
    s.served queue q = true → last + 256 ≤ s.ck → q.current = none → q.head ≠ q.tail → q.ahead.get? q.head = none →
    s.vread q.part (q.pbase.toNat + 64 * (q.head % q.entries)) 64 = .ok (bs, s1) →
    ∃ t q', exec (.packetReread queue) s = .next t ∧ t.queues.get? queue = some q' ∧ q'.head = q.head ∧
      (pktSeq (BitVec.ofNat 512 (leNat bs)) = q.head % 65536 → q'.current = some (BitVec.ofNat 512 (leNat bs)) ∧ q'.unlanded = none) ∧
      (pktSeq (BitVec.ofNat 512 (leNat bs)) ≠ q.head % 65536 → q'.current = none ∧ q'.unlanded = some (first, s.ck))) ∧
  (∀ (s : State) (queue first last : Nat) (q : Queue), s.queues.get? queue = some q → q.unlanded = some (first, last) →
    s.served queue q = true → first + 1048576 ≤ s.ck → s.ringRoom q = true →
    ∃ t q', exec (.packetLandTimeout queue) s = .next t ∧ t.queues.get? queue = some q' ∧ q'.head = (q.head + 1) % 2 ^ 32 ∧
      q'.unlanded = none ∧ q'.ctail = (q.ctail + 1) % 2 ^ 32) ∧
  (∀ (s : State) (queue : Nat) (q : Queue), s.queues.get? queue = some q → q.unlanded = none →
    exec (.packetReread queue) s = .next s ∧ exec (.packetLandTimeout queue) s = .next s) ∧
  (∀ (s : State) (queue : Nat) (q : Queue) (p : BitVec 512), s.queues.get? queue = some q → s.startable queue q = some p → s.refLive q = false →
    pktKind p = 3 → ∃ t, exec (.signal queue) s = .next t ∧ readyWith t queue q.head stCapability 0) ∧
  PacketDoes .signal (fun p => pktKind p = 3) 24 [] (fun _ _ _ => True) (fun n q _ s t => okFor n q t ∧ t.mem = s.mem) ∧
  PacketDoes .timestamp (fun p => pktKind p = 4) 24 [(24, 8)] (fun q p _ => q.grants (pkt p 24 8) 8 false true false = true)
    (fun n q p s t => okFor n q t ∧ t.mem = (s.cpWrite n [⟨BitVec.ofNat 64 (pkt p 24 8), leBytes 8 s.ck, 0⟩]).mem) ∧
  PacketDoes .timestamp (fun p => pktKind p = 4) 24 [(24, 8)] (fun q p _ => q.grants (pkt p 24 8) 8 false true false = false)
    (fun n q _ s t => readyWith t n q.head stCapability 24 ∧ t.mem = s.mem) ∧
  PacketDoes .depend (fun p => pktKind p = 2) 24 [(24, 32)]
    (fun q p _ => q.grants (pkt p 24 8) 8 true false false = true ∧ (pkt p 40 8 = 0 ∨ q.grants (pkt p 40 8) 8 true false false = true))
    (fun n _ _ s t => t.mem = s.mem ∧ ∃ q', t.queues.get? n = some q' ∧ q'.depend = true) ∧
  (∀ (s s1 : State) (queue : Nat) (q : Queue) (x : Started), s.queues.get? queue = some q → q.depend = true → s.served queue q = true →
    q.started.find? (fun x => pktKind x.packet == 2 && !x.ready) = some x → s.dependHolds q.part x.packet = some (true, s1) →
    ∃ t q', exec (.dependSatisfied queue) s = .next t ∧ t.queues.get? queue = some q' ∧ q'.depend = false ∧ readyWith t queue x.index stOk 0) ∧
  (∀ (s : State) (queue index : Nat) (q : Queue) (x : Started), s.completing queue index q x →
    (pktKind x.packet ≠ 6 → x.ready = true) → (pktKind x.packet = 1 → s.launchStores x.launch = false) →
    (pktKind x.packet = 6 → pkt x.packet 24 2 ∉ [2, 4, 8] ∧ (x.ready = true ∨ s.commandEnds x)) →
    ∃ t q', exec (.packetComplete queue index) s = .next t ∧ t.queues.get? queue = some q' ∧ q'.started = (q.ended x).started ∧
      q'.ctail = (q.ended x).ctail ∧
      t.mem = (State.cpWrite { s with queues := s.queues.put queue (q.ended x) } queue (q.endWrites x s.ck)).mem) ∧
  (∀ (s : State) (queue index : Nat) (q : Queue) (x : Started), s.completing queue index q x → pktKind x.packet = 6 →
    (pkt x.packet 24 2 = 4 ∧ (∀ l, s.launches.get? (pkt x.packet 32 4) = some l → l.st ≠ .halting) ∨
      pkt x.packet 24 2 = 8 ∧ ∀ p ∈ x.waits, s.partStores p = false) →
    ∃ t q', exec (.packetComplete queue index) s = .next t ∧ t.queues.get? queue = some q' ∧ q'.started = (q.ended x).started ∧
      q'.ctail = (q.ended x).ctail) ∧
  (∀ (s : State) (queue index id : Nat) (q o : Queue) (x : Started), s.completing queue index q x → pktKind x.packet = 6 →
    pkt x.packet 24 2 = 2 → s.queues.get? id = some o → o.destroy = some (queue, index) →
    (∀ e ∈ s.queues, e.2.destroy = some (queue, index) → e = (id, o)) →
    (∀ y ∈ o.started, id = queue ∧ y.index = index) →
    ∃ t, exec (.packetComplete queue index) s = .next t ∧ t.queues.get? id = none) ∧
  (∀ (s s1 : State) (queue : Nat) (q : Queue) (w : CpWrite) (ws : List CpWrite), s.queues.get? queue = some q →
    (s.vwrite q.part w.va.toNat w.data = .ok s1 → s.makeWrites queue (w :: ws) = s1.makeWrites queue ws) ∧
    ∀ f va, s.vwrite q.part w.va.toNat w.data = .error (.fault f va) →
      ∃ q', (s.makeWrites queue (w :: ws)).queues.get? queue = some q' ∧ q'.writes = w :: ws ∧ q'.paused = true ∧
        (s.makeWrites queue (w :: ws)).mem = s.mem) ∧
  (∀ (s s1 : State) (part va : Nat) (bs : List Byte) (x : Xl), bs ≠ [] → va % 128 + bs.length ≤ 128 → s.devXlate part va true false = .ok (x, s1) →
    s1.keyed x.key x.pa = true → (∀ i < bs.length, s1.fixed (x.pa + i) = false) →
    ∃ t, s.vwrite part va bs = .ok t ∧
      ∀ a, t.readByte x.key a = if x.pa ≤ a ∧ a < x.pa + bs.length then bs.getD (a - x.pa) 0 else s1.readByte x.key a)

/-- LAUNCH, not read ahead, and the end of its wait for a chute index (R372, R377 to R381, R218). The launch's number and its place are the
model's choice (log 20). -/
def Sys2Proof.Machine.LaunchSteps : Prop :=
  PacketDoes .launch (fun p => pktKind p = 1) 64 [] (fun q p _ => q.grants (pkt p 24 8) (pkt p 32 4) true false false = false)
    (fun n q _ s t => readyWith t n q.head stCapability 24 ∧ t.launches = s.launches) ∧
  (∀ (s s1 s2 s3 : State) (queue : Nat) (q : Queue) (p : BitVec 512) (data xmap : List Byte), s.offers queue q p → pktKind p = 1 →
    q.ahead.get? q.head = none →
    q.grants (pkt p 24 8) (pkt p 32 4) true false false = true →
    (pkt p 48 8 = 0 ∨ q.grants (pkt p 40 8) (pkt p 48 8) true true false = true) → 64 ≤ pkt p 32 4 → pkt p 32 4 ≤ 65536 →
    (s.begin queue p).vread q.part (pkt p 24 8) (pkt p 32 4) = .ok (data, s1) → arrayOutside (blockWord data 0 64) (pkt p 32 4) = none →
    q.grants (bits (blockWord data 0 64) 0 64) (bits (blockWord data 0 64) 160 32) false false true = true →
    q.grants (bits (blockWord data 0 64) 64 64) ((bits (blockWord data 0 64) 160 32 + 255) / 256) false false true = true →
    launchStray p = none →
    let gs := (parseBlock data).groups.map
      (memberSpans (bits (blockWord data 0 64) 288 32 * (kernelRegion (blockWord data 0 64)).shape.crews))
    s1.refuses (parseBlock data) q p gs = none →
    s1.vread q.part (bits (blockWord data 0 64) 64 64) ((bits (blockWord data 0 64) 160 32 + 255) / 256) = .ok (xmap, s2) →
    s2.accept s2.nextLaunch (launchOf (parseBlock data) q p queue xmap gs) = .ok s3 →
    ∃ t q' x, exec (.launch queue) s = .next t ∧ t.launches = s3.launches ∧ t.nextLaunch = s2.nextLaunch + 1 ∧ t.queues.get? queue = some q' ∧
      x ∈ q'.started ∧ x.index = q.head ∧ x.launch = s2.nextLaunch) ∧
  (∀ (s s1 : State) (queue : Nat) (q : Queue) (p : BitVec 512) (data : List Byte), s.offers queue q p → pktKind p = 1 →
    q.ahead.get? q.head = none → q.grants (pkt p 24 8) (pkt p 32 4) true false false = true →
    (pkt p 48 8 = 0 ∨ q.grants (pkt p 40 8) (pkt p 48 8) true true false = true) →
    (s.begin queue p).vread q.part (pkt p 24 8) (min (pkt p 32 4) 131072) = .ok (data, s1) → launchStray p = none →
    ∀ status detail, (pkt p 32 4 < 64 ∧ (status, detail) = (stLimit, 32) ∨
      q.blockOutside (blockWord data 0 64) (pkt p 32 4) = none ∧ 65536 < pkt p 32 4 ∧
        (status, detail) = (match (parseBlock data).format.min? with | some i => (stFormat, 0x1000 + i) | none => (stLimit, 32)) ∨
      q.blockOutside (blockWord data 0 64) (pkt p 32 4) = none ∧ 64 ≤ pkt p 32 4 ∧ pkt p 32 4 ≤ 65536 ∧
        s1.refuses (parseBlock data) q p ((parseBlock data).groups.map (memberSpans (bits (blockWord data 0 64) 288 32 *
          (kernelRegion (blockWord data 0 64)).shape.crews))) = some (status, detail)) →
    ∃ t, exec (.launch queue) s = .next t ∧ readyWith t queue q.head status detail ∧ t.launches = s.launches) ∧
  (∀ (s s1 : State) (launch : Nat) (l : Launch), s.launches.get? launch = some l → l.st = .waiting → s.accept launch l = .ok s1 →
    exec (.admissionResume launch) s = .next s1) ∧
  (∀ (s : State) (launch : Nat) (l : Launch), s.launches.get? launch = some l → l.st ≠ .waiting → exec (.admissionResume launch) s = .next s) ∧
  (∀ (s s1 : State) (launch : Nat) (l : Launch), s.chuteBusy l = none → l.chutes = [] → s.accept launch l = .ok s1 →
    ∃ l', s1.launches.get? launch = some l' ∧ l'.st = .running ∧ l'.nblocks = l.nblocks ∧ l'.shape = l.shape ∧
      l'.nextRebal = s.ck + 1900 * l.rebal)

/-- Commands on queues and launches (R244, R245, R367, R369, R385, R386, R391, R395, R396). Where R395 and R482 give no status or byte of a
rejection, or no order of the checks, they are the model's choice (log 25). -/
def Obligations.CommandSteps : Prop :=
  CommandDoes .createQueue 0x01 1 (fun _ => True) [(32, 10)] mayCreate
    (fun n q p s t => okFor n q t ∧ ∃ id q', s.queues.get? id = none ∧ t.queues.get? id = some q' ∧ q'.record.toNat = pkt p 32 8 ∧
      q'.tenant = (createFor q p).1 ∧ q'.part = (createFor q p).2 ∧ q'.priv ≤ q.priv ∧
      (q'.slot = none → q'.mappedAt = 0 → 0 < s.ck → q'.head = 0 ∧ q'.tail = 0 ∧ q'.ctail = 0 ∧ q'.started = [])) ∧
  CommandDoes .destroyQueue 0x02 1 (fun _ => True) [(32, 8)]
    (fun q p s => q.grants (pkt p 32 8) 64 true true false = true ∧ ∃ id o, s.queueAt q.part (pkt p 32 8) = some (id, o) ∧ o.destroy = none)
    (fun n q p s t => ∀ id o, s.queueAt q.part (pkt p 32 8) = some (id, o) →
      ∃ o', t.queues.get? id = some o' ∧ o'.destroy = some (n, q.head)) ∧
  CommandDoes .preempt 0x03 1 (fun _ => True) [(32, 4), (40, 4)]
    (fun q p s => 1024 ≤ pkt p 40 4 ∧ pkt p 40 4 ≤ 4194304 ∧ ∃ l, named q p s l)
    (fun _ _ p s t => t.crews = s.crews ∧ ∀ k b, s.blocks.get? k = some b → b.launch = pkt p 32 4 → b.chute = false →
      ∃ b', t.blocks.get? k = some b' ∧ b'.strategy ≠ 0 ∧ (b.strategy = 0 → b'.limit = s.ck + pkt p 40 4)) ∧
  CommandDoes .halt 0x04 1 (fun _ => True) [(32, 4)]
    (fun q p s => ∃ l, named q p s l ∧ l.st = .running ∧ s.haltBytes (pkt p 32 4) ≤ l.saveLen - l.saveUsed)
    (fun _ _ p s t => (∀ l', t.launches.get? (pkt p 32 4) = some l' → l'.st = .halting ∨ l'.st = .halted) ∧
      (s.blocksOf (pkt p 32 4) false ≠ [] → (t.launches.get? (pkt p 32 4)).isSome = true)) ∧
  CommandDoes .halt 0x04 1 (fun _ => True) [(32, 4)]
    (fun q p s => ∃ l, named q p s l ∧ l.st = .running ∧ l.saveLen - l.saveUsed < s.haltBytes (pkt p 32 4))
    (fun n q _ s t => readyWith t n q.head stLimit 48 ∧ t.launches = s.launches) ∧
  CommandDoes .resume 0x05 1 (fun _ => True) [(32, 4), (40, 1)]
    (fun q p s => ∃ l x m, named q p s l ∧ l.st = .halted ∧ s.part? (pkt p 40 1) = some x ∧ x.tenant = l.tenant ∧ x.resetting = false ∧
      (s.clusters.any fun c => c.2.granted.any fun g => g.launch == pkt p 32 4) = false ∧
      s.matchClusters (pkt p 32 4) l (pkt p 40 1) l.imageClusters (s.clustersOf (pkt p 40 1)) = some m)
    (fun _ _ p _ t => ∃ l', t.launches.get? (pkt p 32 4) = some l' ∧ l'.part = pkt p 40 1) ∧
  CommandDoes .resume 0x05 1 (fun _ => True) [(32, 4), (40, 1)]
    (fun q p s => ∃ l x, named q p s l ∧ l.st = .halted ∧ s.part? (pkt p 40 1) = some x ∧ x.tenant = l.tenant ∧ x.resetting = false ∧
      (s.clusters.any fun c => c.2.granted.any fun g => g.launch == pkt p 32 4) = false ∧
      s.matchClusters (pkt p 32 4) l (pkt p 40 1) l.imageClusters (s.clustersOf (pkt p 40 1)) = none)
    (fun n q _ s t => readyWith t n q.head stResume 0 ∧ t.launches = s.launches) ∧
  CommandDoes .abort 0x06 1 (fun _ => True) [(32, 4)] (fun q p s => ∃ l, named q p s l)
    (fun _ _ p s t => (∀ l', t.launches.get? (pkt p 32 4) = some l' → l'.st = .aborted ∧ l'.saved = []) ∧
      ∀ k b, s.blocks.get? k = some b → b.launch = pkt p 32 4 → b.chute = false →
        ∃ b', t.blocks.get? k = some b' ∧ b'.strategy = 3 ∧ b'.limit = s.ck) ∧
  DebugSets .setDebugAccess 0 ∧ DebugSets .setDebugTracing 1 ∧ DebugSets .setDebugTraceBuffer 2 ∧ DebugSets .setDebugCounters 3

/-- Commands on translation, keys, frames and partitions (R20, R293, R319, R327, R338, R339, R341, R342, R395, R397, R459). The order of the
checks and their details are the model's choice (log 25). RESET.PART waits while a line of a completion that it writes is held. -/
def Obligations.SystemCommands : Prop :=
  CommandDoes .setRoot 0x07 1 (fun p => pkt p 32 1 = 1) [(32, 2), (40, 8)]
    (fun q p s => pkt p 40 8 % 2 ^ 18 = 0 ∧ pkt p 40 8 < 2 ^ 48 ∧ ∃ x, s.part? (pkt p 33 1) = some x ∧ (q.priv < 2 → x.tenant = q.tenant))
    (fun n q p s t => okFor n q t ∧ ∀ x, s.part? (pkt p 33 1) = some x →
      t.part? (pkt p 33 1) = some { x with root1 := some (pkt p 40 8) }) ∧
  CommandDoes .setRoot 0x07 1 (fun p => pkt p 32 1 = 2) [(32, 2), (40, 8)]
    (fun q p _ => 2 ≤ q.priv ∧ pkt p 33 1 ≤ 15 ∧ pkt p 40 8 % 2 ^ 10 = 0 ∧ pkt p 40 8 < 2 ^ 48)
    (fun n q p s t => okFor n q t ∧ t.tenant (pkt p 33 1) = { s.tenant (pkt p 33 1) with root2 := some (pkt p 40 8) }) ∧
  CommandDoes .invalidate 0x08 1 (fun p => pkt p 33 1 = 0) [(32, 4), (40, 16)]
    (fun q p s => (pkt p 32 1 = 1 ∨ pkt p 32 1 = 2 ∧ 2 ≤ q.priv) ∧ pkt p 34 1 ≤ 15 ∧ (q.priv < 2 → pkt p 34 1 = q.tenant) ∧
      ∃ y, s.part? (pkt p 35 1) = some y ∧ y.tenant = pkt p 34 1)
    (fun _ _ p s t => t.mem = s.mem ∧ ∀ e, e ∈ t.tlb ↔ e ∈ s.tlb ∧ ¬ (e.part = pkt p 35 1 ∧ (pkt p 32 1 = 2 ∨ pkt p 48 8 = 0 ∨
      (pkt p 40 8 < e.vbase + 2 ^ e.bits ∧ e.vbase < pkt p 40 8 + pkt p 48 8)))) ∧
  CommandDoes .invalidate 0x08 1 (fun p => pkt p 33 1 = 0 ∧ pkt p 32 1 = 1) [(32, 4), (40, 16)]
    (fun q p s => q.priv < 2 ∧ pkt p 34 1 ≤ 15 ∧ pkt p 34 1 = q.tenant ∧ ∃ y, s.part? (pkt p 35 1) = some y ∧ y.tenant ≠ q.tenant)
    (fun n q _ s t => readyWith t n q.head stCapability 35 ∧ t.tlb = s.tlb) ∧
  CommandDoes .invalidate 0x08 1 (fun p => pkt p 33 1 = 1) [(32, 4), (40, 16)]
    (fun q p _ => (pkt p 32 1 = 1 ∨ pkt p 32 1 = 2 ∧ 2 ≤ q.priv) ∧ pkt p 34 1 ≤ 15 ∧ (q.priv < 2 → pkt p 34 1 = q.tenant) ∧ pkt p 35 1 = 0)
    (fun _ _ p s t => t.mem = s.mem ∧ ∀ e, e ∈ t.tlb ↔ e ∈ s.tlb ∧ ¬ (e.part ∈ s.partsOf (pkt p 34 1) ∧ (pkt p 32 1 = 2 ∨ pkt p 48 8 = 0 ∨
      (pkt p 40 8 < e.vbase + 2 ^ e.bits ∧ e.vbase < pkt p 40 8 + pkt p 48 8)))) ∧
  CommandDoes .setGrant 0x09 2 (fun _ => True) [(32, 1), (36, 4)] (fun _ p _ => pkt p 32 1 ≤ 15)
    (fun n q p s t => okFor n q t ∧ t.tenant (pkt p 32 1) = { s.tenant (pkt p 32 1) with grant := BitVec.ofNat 3 (pkt p 36 4) }) ∧
  CommandDoes .keyLive 0x0A 2 (fun p => pkt p 33 1 = 0) [(32, 2)] (fun _ p s => pkt p 32 1 ≤ 63 ∧ s.keys.get? (pkt p 32 1) = none)
    (fun n q p s t => okFor n q t ∧ t.mem = s.mem ∧ ∃ key, t.keys.get? (pkt p 32 1) = some (.live key)) ∧
  CommandDoes .keyDiscard 0x0A 2 (fun p => pkt p 33 1 = 1) [(32, 2)] (fun _ p s => pkt p 32 1 ≤ 63 ∧ s.keyLive (pkt p 32 1) = true)
    (fun n q p s t => okFor n q t ∧ t.keys.get? (pkt p 32 1) = some .discarded ∧
      ∀ a, t.mem.byte a = if s.lineOfKey (pkt p 32 1) (a / 128) = true then 0 else s.mem.byte a) ∧
  CommandDoes .frame 0x0B 2 (fun _ => True) [(32, 18)]
    (fun _ p _ => pkt p 32 8 % 32768 = 0 ∧ isFrame (pkt p 32 8 / 32768) = true ∧ pkt p 40 8 ≠ 0 ∧
      isFrame (pkt p 32 8 / 32768 + pkt p 40 8 - 1) = true ∧ inHbm (pkt p 32 8) = inHbm (pkt p 32 8 + 32768 * (pkt p 40 8 - 1)) ∧
      pkt p 48 1 ≤ 63 ∧ pkt p 49 1 ≤ 1)
    (fun n q p _ t => okFor n q t ∧ (∀ i < pkt p 40 8, t.frames.get? (pkt p 32 8 / 32768 + i) =
      some { cleared := pkt p 49 1 == 1, key := pkt p 48 1 }) ∧
      (pkt p 49 1 = 1 → ∀ a, pkt p 32 8 ≤ a → a < pkt p 32 8 + 32768 * pkt p 40 8 → t.mem.byte a = 0)) ∧
  CommandDoes .retain 0x0C 2 (fun _ => True) [(32, 1), (40, 8)]
    (fun _ p s => pkt p 32 1 ≤ 31 ∧ bits (pkt p 40 8) 30 10 ≤ 1000 ∧ (bits (pkt p 40 8) 0 1 = 1 →
      bits (pkt p 40 8) 40 24 * 2 ^ 24 % 2 ^ 34 = 0 ∧ inCapacity (bits (pkt p 40 8) 40 24 * 2 ^ 24) = true ∧
      homeDie (bits (pkt p 40 8) 40 24 * 2 ^ 24) = pkt p 32 1 / 8) ∧
      let r := s.retention.getD (pkt p 32 1) Retention.reset
      (r.state = 0 ∨ r.reserve.toNat = bits (pkt p 40 8) 40 24))
    (fun n q p s t => okFor n q t ∧ ∃ r, t.retention.get? (pkt p 32 1) = some r ∧ r.idle = bits (pkt p 40 8) 30 10 ∧
      r.wake = bits (pkt p 40 8) 10 20 ∧ r.en = (bits (pkt p 40 8) 0 1 == 1) ∧ r.state = (s.retention.getD (pkt p 32 1) Retention.reset).state ∧
      r.reserve.toNat = bits (pkt p 40 8) 40 24) ∧
  CommandDoes .retain 0x0C 2 (fun _ => True) [(32, 1), (40, 8)]
    (fun _ p s => pkt p 32 1 ≤ 31 ∧ bits (pkt p 40 8) 30 10 ≤ 1000 ∧ (bits (pkt p 40 8) 0 1 = 1 →
      bits (pkt p 40 8) 40 24 * 2 ^ 24 % 2 ^ 34 = 0 ∧ inCapacity (bits (pkt p 40 8) 40 24 * 2 ^ 24) = true ∧
      homeDie (bits (pkt p 40 8) 40 24 * 2 ^ 24) = pkt p 32 1 / 8) ∧
      let r := s.retention.getD (pkt p 32 1) Retention.reset
      r.state ≠ 0 ∧ r.reserve.toNat ≠ bits (pkt p 40 8) 40 24)
    (fun n q _ s t => okFor n q t ∧ t.retention = s.retention) ∧
  CommandDoes .partition 0x0D 2 (fun p => pkt p 36 4 ≠ 0) [(32, 2), (36, 4)]
    (fun _ p s => pkt p 32 1 ≤ 15 ∧ pkt p 33 1 ≤ 15 ∧ s.part? (pkt p 32 1) = none ∧
      (∀ e ∈ s.parts, e.2.clusters &&& BitVec.ofNat 32 (pkt p 36 4) = 0) ∧ ∀ n < 32, (pkt p 36 4).testBit n = true → (s.cluster n).shared = false)
    (fun n q p _ t => okFor n q t ∧ t.part? (pkt p 32 1) =
        some { tenant := pkt p 33 1, clusters := BitVec.ofNat 32 (pkt p 36 4), root1 := none, power := 1, resetting := false } ∧
      ∀ n < 32, (pkt p 36 4).testBit n = true → (t.cluster n).holder = some (pkt p 32 1)) ∧
  CommandDoes .partition 0x0D 2 (fun p => pkt p 36 4 = 0) [(32, 2), (36, 4)]
    (fun _ p s => pkt p 32 1 ≤ 15 ∧ pkt p 33 1 ≤ 15 ∧ ∃ x, s.part? (pkt p 32 1) = some x ∧ x.resetting = false)
    (fun _ _ p _ t => t.part? (pkt p 32 1) = none ∧ (∀ e ∈ t.tlb, e.part ≠ pkt p 32 1) ∧
      ∀ id y, t.queues.get? id = some y → y.part ≠ pkt p 32 1) ∧
  (let reset (p : BitVec 512) (t : State) : Prop := (∃ x, t.part? (pkt p 32 1) = some x ∧ x.resetting = true) ∧
      (∀ id y, t.queues.get? id = some y → y.part = pkt p 32 1 → y.stopped = true ∧ y.current = none) ∧
      (∀ id l, t.launches.get? id = some l → l.part ≠ pkt p 32 1) ∧
      ∀ a, ringBase (pkt p 32 1) ≤ a → a < ringBase (pkt p 32 1) + 0x8000 → t.mem.byte a = 0
   CommandDoes .resetPart 0x0E 2 (fun _ => True) [(32, 1)]
      (fun _ p s => (s.part? (pkt p 32 1)).isSome = true ∧ ∀ e ∈ s.launches, e.2.part ≠ pkt p 32 1) (fun _ _ p _ t => reset p t) ∧
   CommandDoes .resetPart 0x0E 2 (fun _ => True) [(32, 1)] (fun _ p s => (s.part? (pkt p 32 1)).isSome = true)
      (fun n _ p _ t => reset p t ∨ ∃ q', t.queues.get? n = some q' ∧ q'.current = some p)) ∧
  (∀ (s : State) (part : Nat) (x : Part), s.part? part = some x → x.resetting = true →
    ∃ t, exec (.clusterWipe part) s = .next t ∧ t.part? part = some { x with resetting := false } ∧ t.mem = s.mem ∧
      ∀ core, (s.cluster (core / 4)).holder = some part → t.core core = (s.core core).wiped) ∧
  (∀ (s : State) (part : Nat) (x : Part), s.part? part = some x → x.resetting = false → exec (.clusterWipe part) s = .next s)

/-- POLICY.LOAD and its companions (R400, R405, R414, R415, R427). -/
def Obligations.PolicyPackets : Prop :=
  PacketDoes .policyLoad (fun p => pktKind p = 5 ∧ pkt p 24 1 = 0) 24 [(24, 4), (32, 24)]
    (fun q p s => aims q p s ∧ loadLimits q p s ∧ countOk p ∧ s.loadCheck q p = some none)
    (fun n q p s t => okFor n q t ∧ ∀ e ∈ s.aimEngines p, ∃ r, (t.cluster e).routines.get? (aimKey p) = some r ∧
      some r.words = s.loadWords q p ∧ r.wlen = pkt p 52 4 ∧ r.allowance = loadAllowance p ∧ r.part = pkt p 27 1) ∧
  PacketDoes .policyLoad (fun p => pktKind p = 5 ∧ pkt p 24 1 = 0) 24 [(24, 4), (32, 24)]
    (fun q p s => aims q p s ∧ loadLimits q p s ∧ countOk p ∧ ∃ d, s.loadCheck q p = some (some d))
    (fun n q p s t => t.clusters = s.clusters ∧ ∀ d, s.loadCheck q p = some (some d) → readyWith t n q.head stPolicy d) ∧
  PacketDoes .policyLoad (fun p => pktKind p = 5 ∧ pkt p 24 1 = 0) 24 [(24, 4), (32, 24)]
    (fun q p s => aims q p s ∧ loadLimits q p s ∧ ¬ countOk p ∧ s.policyWindowOk q p)
    (fun n q p s t => t.clusters = s.clusters ∧ readyWith t n q.head stPolicy (4 * pkt p 40 2)) ∧
  (∀ c ∈ ([(.policyLoad, 0, [(24, 4), (32, 24)]), (.policyUnload, 1, [(24, 4)])] : List ((Nat → Instr) × Nat × List (Nat × Nat))),
    PacketDoes c.1 (fun p => pktKind p = 5 ∧ pkt p 24 1 = c.2.1) 24 c.2.2
      (fun q p s => pkt p 26 1 = 0 ∧ 1 ≤ q.priv ∧ pkt p 25 1 ≤ 6 ∧ ∃ x, s.part? (pkt p 27 1) = some x ∧ x.tenant ≠ q.tenant)
      (fun n q _ s t => t.clusters = s.clusters ∧ readyWith t n q.head stCapability 27)) ∧
  PacketDoes .policyUnload (fun p => pktKind p = 5 ∧ pkt p 24 1 = 1) 24 [(24, 4)] aims
    (fun n q p s t => okFor n q t ∧ ∀ e ∈ s.aimEngines p, (t.cluster e).routines.get? (aimKey p) = none) ∧
  PacketDoes .budget (fun p => pktKind p = 5 ∧ pkt p 24 1 = 2) 24 [(24, 3), (32, 26)]
    (fun q p _ => 2 ≤ q.priv ∧ pkt p 25 1 ≤ 15 ∧ pkt p 26 1 ≤ 1 ∧ pkt p 32 8 < 2 ^ 40 ∧ pkt p 40 8 < 2 ^ 40 ∧ pkt p 48 8 < 2 ^ 40 ∧
      64 ≤ pkt p 56 2 ∧ pkt p 56 2 ≤ 16384)
    (fun n q p s t => okFor n q t ∧ (t.tenant (pkt p 25 1)).enf = (pkt p 26 1 == 1) ∧ (t.tenant (pkt p 25 1)).rate = pkt p 32 8 ∧
      (t.tenant (pkt p 25 1)).cap = pkt p 40 8 ∧ (t.tenant (pkt p 25 1)).bcap = pkt p 48 8 ∧ (t.tenant (pkt p 25 1)).alim = pkt p 56 2 ∧
      (t.tenant (pkt p 25 1)).level = (s.tenant (pkt p 25 1)).level ∧ (t.tenant (pkt p 25 1)).debt = (s.tenant (pkt p 25 1)).debt) ∧
  PacketDoes .share (fun p => pktKind p = 5 ∧ pkt p 24 1 = 3) 24 [(24, 2), (32, 4)]
    (fun q p s => 2 ≤ q.priv ∧ pkt p 25 1 ≤ 31 ∧ (s.cluster (pkt p 25 1)).holder.isSome = true ∧ (shareList p).Nodup ∧
      (∀ x ∈ shareList p, (s.part? x).isSome = true) ∧ ∀ e ∈ s.launches, e.2.benches = [])
    (fun n q p _ t => okFor n q t ∧ (t.cluster (pkt p 25 1)).holders = shareList p) ∧
  PacketDoes .param (fun p => pktKind p = 5 ∧ pkt p 24 1 = 4) 24 [(24, 1), (32, 12)]
    (fun q p _ => 2 ≤ q.priv ∧ 100000 ≤ pkt p 32 8 ∧ pkt p 32 8 ≤ 10000000 ∧ 10 ≤ pkt p 40 4 ∧ pkt p 40 4 ≤ 10000)
    (fun n q p _ t => okFor n q t ∧ t.floor = pkt p 32 8 ∧ t.period = pkt p 40 4) ∧
  PacketDoes .param (fun p => pktKind p = 5 ∧ pkt p 24 1 = 4) 24 [(24, 1), (32, 12)] (fun q _ _ => q.priv < 2)
    (fun n q _ s t => readyWith t n q.head stDenied 24 ∧ t.floor = s.floor ∧ t.period = s.period)

/-! ## Dispatch, budgets and decision points (R78, R79, R236 to R240, R384 to R428) -/

/-- Blocks are placed, started, saved, flushed and restored (R78, R79, R384, R388, R390, R391, R393). A saved image is read back before its
block returns; one that is refused writes a completion with RESTORE and ends the launch, whose packet completes with ABORTED (log 74). Which slots a block takes, what a save waits for, where an image
stands and which of its changed sections are refused are the model's choices (logs 16, 20, 21, 31). -/
def Obligations.BlockSteps : Prop :=
  (∀ (s : State) (launch block core : Nat) (l : Launch) (f : Fit), s.placing launch core l → l.benches = [] →
    s.grant? core launch block false = true → s.fit core l.shape = some f →
    ∃ t, exec (.blockPlace launch block core) s = .next t ∧ placedAs t launch block core l.shape f) ∧
  (∀ (s : State) (launch core b : Nat) (l : Launch) (f : Fit), s.placing launch core l → l.benches ≠ [] → l.mustRestore = false →
    l.benchOn core = some b → s.fit core (l.shapeOf b) = some f →
    ∃ t l', exec (.blockPlace launch l.nextBlock core) s = .next t ∧ placedAs t launch l.nextBlock core (l.shapeOf b) f ∧
      t.launches.get? launch = some l' ∧ l'.nextBlock = l.nextBlock + 1) ∧
  (∀ (s : State) (core bslot : Nat) (b : Block) (l : Launch), s.blocks.get? (blockKey core bslot) = some b → b.chute = false →
    s.launches.get? b.launch = some l → l.benches = [] → (∀ k ∈ b.crews, ∃ c, s.crews.get? k = some c ∧ c.launch = b.launch ∧ c.units = []) →
    ∃ t b', exec (.crewStart core bslot) s = .next t ∧ t.blocks.get? (blockKey core bslot) = some b' ∧ b'.mem = [] ∧
      ∀ k ∈ b.crews, ∀ c, s.crews.get? k = some c → ∃ c' h, t.crews.get? k = some c' ∧ c'.units = [(0, h)] ∧ h.st = .ready ∧
        h.pc = l.code + BitVec.ofNat 64 l.shape.entry ∧ h.mask = BitVec.allOnes 96 ∧ h.dom = BitVec.allOnes 96 ∧ c'.pool = c.pool ∧
        (l.parlen = 0 → c'.sregs = c.sregs) ∧
        (l.parlen ≠ 0 → c'.readPair h 0 = l.paramAddr ∧ ∀ i, 2 ≤ i → c'.sregs.get? i = c.sregs.get? i)) ∧
  (∀ (s : State) (core bslot : Nat) (b : Block) (x y : Nat × Nat), s.blocks.get? (blockKey core bslot) = some b → b.strategy = 1 →
    s.blockRetiring b = false →
    ((s.strategies (blockKey core bslot)).filter fun x => x.1 != 1).find? (fun x => x.1 == 2) = some x → b.limit - s.ck < x.2 →
    cheapest ((s.strategies (blockKey core bslot)).filter fun x => x.1 != 1) = some y →
    ∃ t, exec (.drainToSave core bslot) s = .next t ∧ t.blocks.get? (blockKey core bslot) = some { b with strategy := y.1 } ∧ t.crews = s.crews) ∧
  (∀ (s : State) (core bslot : Nat) (b : Block) (l : Launch), bslot < 16 → s.blocks.get? (blockKey core bslot) = some b → b.chute = false →
    s.launches.get? b.launch = some l → b.strategy = 2 →
    (∀ k ∈ b.crews, ∃ c, s.crews.get? k = some c ∧ c.stopped (s.waitingResults k c) = true ∧ c.onIssue = false ∧ c.units ≠ []) →
    s.itemsSavable core b.launch b.number = true → s.foreignWindow (blockKey core bslot) b = false →
    l.saveUsed + s.contextBytes (blockKey core bslot) ≤ l.saveLen → s.linesFree →
    (s.descheduleAll b.crews).2 = true →
    ∃ t l' v, exec (.blockSave core bslot) s = .next t ∧ t.blocks.get? (blockKey core bslot) = none ∧ (∀ k ∈ b.crews, t.crews.get? k = none) ∧
      t.launches.get? b.launch = some l' ∧ l'.saved.get? b.number = some v ∧ v.core = core ∧ v.bslot = bslot ∧ v.crews.length = b.crews.length) ∧
  (∀ (s : State) (core bslot : Nat) (b : Block) (l : Launch), s.blocks.get? (blockKey core bslot) = some b → b.chute = false →
    s.launches.get? b.launch = some l → l.st = .running → b.strategy = 3 → s.blockItems (blockKey core bslot) = [] →
    s.foreignWindow (blockKey core bslot) b = false → (s.descheduleAll b.crews).2 = true →
    ∃ t l', exec (.blockFlush core bslot) s = .next t ∧ t.blocks.get? (blockKey core bslot) = none ∧ (∀ k ∈ b.crews, t.crews.get? k = none) ∧
      t.launches.get? b.launch = some l' ∧ (b.number, clusterOf core) ∈ l'.requeue) ∧
  (∀ (s s1 : State) (launch block core : Nat) (l : Launch) (was v : Saved) (f : Fit), s.returning launch block core l was →
    s.readImage l was = .ok (v, s1) → s1.fitSaved core v (if l.st = .halted then some v.bslot else none) = some f →
    ∃ t b, exec (.blockRestore launch block core) s = .next t ∧ (∀ w, ¬ t.savedAt launch block w) ∧
      t.blocks.get? (blockKey core f.bslot) = some b ∧ b.launch = v.block.launch ∧ b.number = v.block.number ∧ b.mem = v.block.mem ∧
      b.crews = f.slots ∧ ∀ (i k : Nat) (c : Crew), f.slots[i]? = some k → v.crews[i]? = some c → c.cap.mode = false → f.slots.Nodup →
        ∃ c', t.crews.get? k = some c' ∧ c'.launch = c.launch ∧ c'.index = c.index ∧ c'.pool = c.pool ∧ c'.sregs = c.sregs ∧
          c'.oregs = c.oregs ∧ c'.tokens = c.tokens ∧ c'.fflags = c.fflags) ∧
  (∀ (s : State) (launch block core at_ : Nat) (l : Launch) (v : Saved), s.returning launch block core l v →
    s.readImage l v = .error (.refused at_) →
    ∃ t, exec (.blockRestore launch block core) s = .next t ∧
      (t.launches.get? launch = none ∨ ∃ l', t.launches.get? launch = some l' ∧ l'.st = .aborted ∧ l'.saved = []) ∧
      ∀ (q : Queue) (p : Started), s.queues.get? l.queue = some q → q.started.find? (fun y => y.index == l.packet) = some p → p.ready = false →
        (∃ q', t.queues.get? l.queue = some q' ∧ q'.ctail = (q.ctail + 1) % 2 ^ 32 ∧
          (t.launches.get? launch = none → ∃ p' ∈ q'.started, p'.index = l.packet ∧ p'.ready = true ∧ p'.status = stAborted)) ∧
        ((∀ r ∈ s.migRing, ∀ m ∈ r.2, m.launch ≠ launch) → t.mem =
          (State.cpWrite { s with queues := s.queues.put l.queue { q with ctail := (q.ctail + 1) % 2 ^ 32 } } l.queue
            [⟨BitVec.ofNat 64 (q.cbase.toNat + 32 * (q.ctail % q.entries)),
              completionBytes launch stRestore (pktSeq p.packet) at_ (pkt p.packet 0 4) s.ck, launch⟩,
             ⟨q.record + 32, leBytes 4 ((q.ctail + 1) % 2 ^ 32), launch⟩]).mem)) ∧
  (∀ (s : State) (launch block core n : Nat) (l : Launch) (v : Saved), s.returning launch block core l v →
    s.readImage l v = .error (.waits n) → exec (.blockRestore launch block core) s = .next s) ∧
  (∀ (s : State) (launch block : Nat) (v : Saved), s.savedAt launch block v → v.runnable = false → s.couldGoOn launch v = true →
    ∃ t, exec (.savedBlockRunnable launch block) s = .next t ∧ t.savedAt launch block { v with runnable := true }) ∧
  (∀ (s : State) (launch block : Nat) (v : Saved), s.savedAt launch block v → v.runnable = false → s.couldGoOn launch v = false →
    exec (.savedBlockRunnable launch block) s = .next s)

/-- Charges, draws, periods and rebalancing (R240, R241, R399 to R403). A charge takes the crew-cycles that were counted, ck by ck, since the
last; then tenants draw from the pool in turn. Without a routine a rebalance makes the moves of the default rule, the first eight of which an
interval takes (log 24). -/
def Sys2Proof.Machine.BudgetSteps : Prop :=
  (∀ s : State, s.nextCharge ≤ s.ck → ∃ (t : State) (pool : Nat → Int), exec .budgetCharge s = .next t ∧ t.nextCharge = s.nextCharge + 64 ∧
    pool 0 = s.pool ∧ t.pool = pool 16 ∧ ∀ n < 16, let x := s.tenant n
      let level : Int := if x.enf = true then max (x.level - (x.used : Int)) (-(2 ^ 47)) else x.level
      let drawn : Int := if x.enf = true ∧ level ≤ 0 then
        max 0 (min (pool n) (min (max 1 ((x.rate / 8 : Nat) : Int)) ((x.bcap : Int) - (x.debt : Int)))) else 0
      pool (n + 1) = pool n - drawn ∧ (t.tenant n).level = level + drawn ∧ ((t.tenant n).debt : Int) = x.debt + drawn ∧ (t.tenant n).used = 0 ∧
      ((t.tenant n).exh = true ↔ x.enf = true ∧ (t.tenant n).level ≤ 0 ∧ (x.exh = true ∨
        min t.pool (min (max 1 ((x.rate / 8 : Nat) : Int)) ((x.bcap : Int) - ((t.tenant n).debt : Int))) ≤ 0))) ∧
  (∀ s : State, s.ck < s.nextCharge → exec .budgetCharge s = .next s) ∧
  (∀ s : State, s.nextPeriod ≤ s.ck → ∃ t, exec .budgetPeriod s = .next t ∧ t.nextPeriod = s.nextPeriod + 1900 * s.period ∧
    t.pool = ((List.range 16).map fun n => if (s.tenant n).enf = true then max 0 ((s.tenant n).level +
      (((s.tenant n).rate - min (s.tenant n).debt (s.tenant n).rate : Nat) : Int) - (s.tenant n).cap) else 0).sum ∧
    ∀ n < 16, (s.tenant n).enf = true →
      (t.tenant n).debt = (s.tenant n).debt - min (s.tenant n).debt (s.tenant n).rate ∧
      (t.tenant n).level = min ((s.tenant n).level + (((s.tenant n).rate - min (s.tenant n).debt (s.tenant n).rate : Nat) : Int)) (s.tenant n).cap) ∧
  (∀ s : State, s.ck < s.nextPeriod → exec .budgetPeriod s = .next s) ∧
  (∀ (s : State) (launch : Nat) (l : Launch), s.launches.get? launch = some l → l.benches ≠ [] → l.st = .running → l.nextRebal ≤ s.ck →
    s.clustersOf l.part = [] → ∃ t l', exec (.rebalance launch) s = .next t ∧ t.launches.get? launch = some l' ∧
      l'.nextRebal = l.nextRebal + 1900 * l.rebal) ∧
  (∀ (s : State) (launch n : Nat) (l : Launch), s.launches.get? launch = some l → l.benches ≠ [] → l.st = .running → l.nextRebal ≤ s.ck →
    (s.clustersOf l.part).head? = some n → (s.cluster n).routines.get? (routineKey pointRebalance 0 l.part) ≠ none →
    ∃ t, exec (.rebalance launch) s = .next t ∧ ∃ i ∈ (t.cluster n).pending, i.point = pointRebalance ∧ i.launch = launch) ∧
  (∀ (s : State) (launch : Nat) (l : Launch), s.launches.get? launch = some l → (l.benches = [] ∨ s.ck < l.nextRebal) →
    exec (.rebalance launch) s = .next s) ∧
  (∀ (s s1 : State) (launch n : Nat) (l : Launch), s.launches.get? launch = some l → l.benches ≠ [] → l.benches.length ≤ 8 → l.st = .running →
    l.nextRebal ≤ s.ck → (s.clustersOf l.part).head? = some n → (s.cluster n).routines.get? (routineKey pointRebalance 0 l.part) = none →
    s1 = s.modLaunch launch (fun l => { l with nextRebal := l.nextRebal + 1900 * l.rebal }) →
    exec (.rebalance launch) s = .next (((s1.rebalanceMoves launch).take 8).foldl (fun s m => s.moveCore launch m.1 m.2) s1)) ∧
  (∀ (s : State) (launch : Nat) (l : Launch), s.launches.get? launch = some l →
    let c := (s.coresOf l.part).length - l.closingCores
    let ts := allot c (c + 1) (l.shares fun _ b => s.benchWeight launch b)
    (s.rebalanceMoves launch).length ≤ (c + 15) / 16 ∧ (0 < c → (s.rebalanceMoves launch).head? = s.nextMove l ts)) ∧
  (∀ (s : State) (l : Launch) (ts : List Share) (core b : Nat), s.nextMove l ts = some (core, b) → ts.Pairwise (fun x y => x.bench < y.bench) →
    ∃ x ∈ ts, x.bench = b ∧ l.coresHeld b < x.target ∧
      (∀ y ∈ ts, (y.target - l.coresHeld y.bench < x.target - l.coresHeld b) ∨
        (y.target - l.coresHeld y.bench = x.target - l.coresHeld b ∧ b ≤ y.bench)) ∧
      let idle := (s.coresOf l.part).filter fun k => (l.assign.get? k).isNone
      ((idle ≠ [] → core ∈ idle ∧ ∀ k ∈ idle, k ≤ core) ∧
       (idle = [] → ∃ d ∈ ts, d.target < l.coresHeld d.bench ∧
        (∀ y ∈ ts, (l.coresHeld y.bench - y.target < l.coresHeld d.bench - d.target) ∨
          (l.coresHeld y.bench - y.target = l.coresHeld d.bench - d.target ∧ d.bench ≤ y.bench)) ∧
        let its := (s.coresOf l.part).filter fun k => l.assign.get? k == some d.bench && (l.moving.get? k).isNone
        core ∈ its ∧ ∀ k ∈ its, k ≤ core))) ∧
  (allot 16 17 [⟨0, 74575, 2, 4⟩, ⟨1, 353894, 2, 12⟩, ⟨2, 262144, 2, 8⟩]).map (·.target) = [3, 7, 6]

/-- Decision points and the engines (R384, R405 to R407, R419 to R421, R423, R425, R428). Among entries that fit nowhere, and picks that name
none, the model chooses (logs 20, 24); when a partition is overdue is R428's, how long it has waited log 35's. -/
def Sys2Proof.Machine.DecisionSteps : Prop :=
  (∀ (s s1 : State) (n launch block : Nat) (l : Launch) (saved : Bool), s.launches.get? launch = some l → l.st = .running →
    s.enqueueSource n launch block l = some (saved, s1) → s.defaults n pointEnqueue l.part →
    (∀ e ∈ (s.cluster n).runq, ¬ (e.launch = launch ∧ e.block = block)) →
    ∃ t, exec (.enqueue n launch block) s = .next t ∧ queuedAt t n launch block 0 saved ∧ t.crews = s.crews) ∧
  (∀ (s s1 : State) (n launch block : Nat) (l : Launch) (saved : Bool), s.launches.get? launch = some l → l.st = .running →
    s.enqueueSource n launch block l = some (saved, s1) → (s.cluster n).routines.get? (routineKey pointEnqueue 0 l.part) ≠ none →
    ∃ t, exec (.enqueue n launch block) s = .next t ∧ queuedAt t n launch block 0 saved ∧
      ∃ i ∈ (t.cluster n).pending, i.point = pointEnqueue ∧ i.launch = launch ∧ i.block = block) ∧
  (∀ (s : State) (n core p : Nat) (e : RunEntry × Nat), (s.cluster n).holder = some p → s.mayPlace n p = true → core / 4 = n →
    s.defaults n pointPick p → (s.queuedFor n p).any (fun e => s.entryFits core e) = true →
    roundRobin (s.cluster n).lastPicked (s.takeable n p) = some e →
    ∃ t, exec (.pick n core) s = .next t ∧ (t.cluster n).lastPicked = e.1.launch ∧
      (∃ g ∈ (t.cluster n).granted, g.launch = e.1.launch ∧ g.block = e.1.block ∧ g.saved = e.1.saved) ∧
      ∀ x ∈ (t.cluster n).runq, ¬ (x.launch = e.1.launch ∧ x.block = e.1.block)) ∧
  (∀ (s : State) (n core : Nat), (s.cluster n).holder = none → exec (.pick n core) s = .next s) ∧
  (∀ (s : State) (n : Nat), (s.cluster n).nextTick ≤ s.ck → (s.cluster n).shared = false →
    ∃ t, exec (.tick n) s = .next t ∧ (t.cluster n).nextTick = (s.ck / 19000 + 1) * 19000 ∧ t.crews = s.crews ∧
      (t.cluster n).misses = (s.cluster n).missNow ∧ (t.cluster n).l2misses = (s.cluster n).l2Now ∧ (t.cluster n).missNow = 0 ∧
      (t.cluster n).l2Now = 0) ∧
  (∀ (s : State) (n p : Nat) (before after : List Nat), (s.cluster n).nextTick ≤ s.ck → (s.cluster n).holders = before ++ p :: after →
    p ∉ before → (s.cluster n).holder = some p → (s.cluster n).change = none →
    (s.cluster n).routines.get? (routineKey pointTick 1 0) = none → (∀ i ∈ (s.cluster n).pending, i.point ≠ pointTick) →
    ∃ t, exec (.tick n) s = .next t ∧ (t.cluster n).nextTick = (s.ck / 19000 + 1) * 19000 ∧
      ((∀ q ∈ after ++ before, s.queuedFor n q = []) → (t.cluster n).change = none) ∧
      ∀ xs q ys, after ++ before = xs ++ q :: ys → (∀ z ∈ xs, s.queuedFor n z = []) → s.queuedFor n q ≠ [] → q ≠ p → q ≠ 0xFF →
        (t.cluster n).change = some (q, false) ∧ ∀ k b, s.blocks.get? k = some b → k ∈ s.blocksOfPart n p →
          ∃ b', t.blocks.get? k = some b' ∧ b'.strategy ≠ 0) ∧
  (∀ (s : State) (n : Nat), s.ck < (s.cluster n).nextTick → exec (.tick n) s = .next s) ∧
  (∀ (s : State) (core bslot : Nat) (b : Block) (l : Launch), s.blocks.get? (blockKey core bslot) = some b → b.chute = false → b.strategy = 0 →
    s.blockIdle b = true → s.launches.get? b.launch = some l → s.defaults (clusterOf core) pointBlock l.part →
    ∃ t, exec (.block core bslot) s = .next t ∧ t.blocks.get? (blockKey core bslot) = some { b with idleSince := some s.ck } ∧ t.crews = s.crews) ∧
  (∀ (s : State) (n launch block : Nat) (l : Launch) (v : Saved), s.launches.get? launch = some l → l.st = .running →
    l.saved.get? block = some v → v.runnable = true → v.fromSave = false → v.queued = false → v.core / 4 = n → s.defaults n pointWake l.part →
    ∃ t, exec (.wake n launch block) s = .next t ∧ queuedAt t n launch block 0 true) ∧
  (∀ (s : State) (n : Nat) (i : Invocation) (r : Routine), (s.cluster n).running = none → (s.cluster n).nextInvocation = some i →
    (s.cluster n).routines.get? (routineKey i.point i.layer i.part) = some r →
    ∃ t, exec (.routineInvoke n) s = .next t ∧ (t.cluster n).running = some i ∧ (t.cluster n).code = r ∧ (t.cluster n).word = 0 ∧
      (t.cluster n).regs = [] ∧ (t.cluster n).loops = [] ∧ (t.cluster n).cycles = 0 ∧ (t.cluster n).started = s.ck ∧
      (∀ j < 18, ∃ d, (t.cluster n).decisions.get? j = some d) ∧ t.mem = s.mem) ∧
  (∀ (s : State) (n t0 : Nat) (i : Invocation), (s.cluster n).running = some i → (s.cluster n).ended = some t0 →
    (s.ck ≤ t0 → exec (.routineInvoke n) s = .next s) ∧
    (t0 < s.ck → ∃ s1 : State, exec (.routineInvoke n) s = .next (s1.apply n i (s.cluster n).decisions) ∧ s1.cluster n = (s.cluster n).idle ∧
      (∀ m, m ≠ n → s1.cluster m = s.cluster m) ∧ s1.mem = s.mem ∧ s1.crews = s.crews ∧ s1.blocks = s.blocks ∧ s1.launches = s.launches)) ∧
  (∀ (s : State) (n : Nat) (i : Invocation), (s.cluster n).running = some i → (s.cluster n).ended = none →
    (s.cluster n).code.allowance < (s.cluster n).cycles →
    ∃ s1 : State, exec (.routineOverrun n) s = .next (s1.applyDefault n i) ∧ (s1.cluster n).running = none ∧ s1.crews = s.crews ∧
      (s1.cluster n).overruns.getD (routineKey i.point i.layer i.part) 0 =
        (s.cluster n).overruns.getD (routineKey i.point i.layer i.part) 0 + 1) ∧
  (∀ (s : State) (n : Nat) (i : Invocation), (s.cluster n).running = some i → (s.cluster n).cycles ≤ (s.cluster n).code.allowance →
    exec (.routineOverrun n) s = .next s) ∧
  (∀ (s : State) (n q : Nat) (forced : Bool), (s.cluster n).change = some (q, forced) →
    (∀ p, (s.cluster n).holder = some p → s.blocksOfPart n p = [] ∧ ∀ x, s.part? p = some x → x.resetting = false) → (∀ e ∈ s.launches, e.2.benches = []) → s.linesFree →
    ∃ t, exec (.holderChange n) s = .next t ∧ (t.cluster n).holder = some q ∧ (t.cluster n).change = none) ∧
  (∀ (s : State) (n : Nat), (s.cluster n).change = none → exec (.holderChange n) s = .next s) ∧
  (∀ (s : State) (n : Nat), (s.cluster n).change = none → (s.cluster n).shared = true →
    (∃ p < 16, (s.cluster n).holders.contains p = true ∧ s.overdue n p = true) →
    ∃ t p, exec (.floorOverdue n) s = .next t ∧ (t.cluster n).change = some (p, true) ∧ s.overdue n p = true ∧
      ∀ q < 16, (s.cluster n).holders.contains q = true → s.overdue n q = true →
        s.servedAge n q < s.servedAge n p ∨ (s.servedAge n q = s.servedAge n p ∧ p ≤ q)) ∧
  (∀ (s : State) (die n : Nat) (m : Migrant) (rest : List Migrant), s.migRing.getD die [] = m :: rest →
    s.roomiest ((s.clustersOf m.part).filter fun n => n / 8 == die) = some n → s.launches.get? m.launch = none →
    ∃ t, exec (.migrationTake die) s = .next t ∧ t.migRing.getD die [] = rest ∧ t.clusters = s.clusters) ∧
  (∀ (s : State) (die n : Nat) (m : Migrant) (rest : List Migrant) (l : Launch), s.migRing.getD die [] = m :: rest →
    s.roomiest ((s.clustersOf m.part).filter fun n => n / 8 == die) = some n → s.launches.get? m.launch = some l →
    (s.cluster n).routines.get? (routineKey pointEnqueue 0 l.part) ≠ none →
    ∃ t, exec (.migrationTake die) s = .next t ∧ t.migRing.getD die [] = rest ∧ queuedAt t n m.launch m.block m.prio m.saved)

/-! ## Policy operations (R408 to R412, R420) -/

/-- Each operation of a policy engine (R408, R409, R411, R412). A poisoned window gives a load no stated value (log 14), and a window outside
the engine's die takes the far latency (log 37). -/
def Sys2Proof.Machine.PolicyOperations : Prop :=
  ∀ (d a b : Fin 16) (imm : BitVec 18) (n6 : BitVec 6) (n12 : BitVec 12) (n5 : BitVec 5),
  (∀ e ∈ ([(.policyAdd d a b, 1, fun x y => x + y), (.policySub d a b, 1, fun x y => x - y), (.policyMul d a b, 2, fun x y => x * y),
      (.policyDivu d a b, 24, fun x y => if y = 0 then BitVec.allOnes 64 else x / y), (.policyRemu d a b, 24, fun x y => if y = 0 then x else x % y),
      (.policyAnd d a b, 1, fun x y => x &&& y), (.policyOr d a b, 1, fun x y => x ||| y), (.policyXor d a b, 1, fun x y => x ^^^ y),
      (.policyShl d a b, 1, fun x y => x <<< (y.toNat % 64)), (.policyShru d a b, 1, fun x y => x >>> (y.toNat % 64)),
      (.policyShrs d a b, 1, fun x y => BitVec.ofInt 64 (x.toInt / 2 ^ (y.toNat % 64))),
      (.policyMin d a b, 1, fun x y => BitVec.ofInt 64 (min x.toInt y.toInt)), (.policyMax d a b, 1, fun x y => BitVec.ofInt 64 (max x.toInt y.toInt)),
      (.policyMinu d a b, 1, fun x y => BitVec.ofNat 64 (min x.toNat y.toNat)), (.policyMaxu d a b, 1, fun x y => BitVec.ofNat 64 (max x.toNat y.toNat)),
      (.policySlt d a b, 1, fun x y => if x.toInt < y.toInt then 1 else 0), (.policySltu d a b, 1, fun x y => if x.toNat < y.toNat then 1 else 0),
      (.policySeq d a b, 1, fun x y => if x = y then 1 else 0)] : List (Instr × Nat × (Dword → Dword → Dword))),
    PolicyGives e.1 e.2.1 d fun c => e.2.2 (c.reg a) (c.reg b)) ∧
  (∀ e ∈ ([(.policyAddi d a imm, fun x => BitVec.ofInt 64 (x.toInt + imm.toInt)), (.policyAndi d a imm, fun x => BitVec.ofNat 64 (x.toNat &&& imm.toNat)),
      (.policyOri d a imm, fun x => BitVec.ofNat 64 (x.toNat ||| imm.toNat)), (.policyXori d a imm, fun x => BitVec.ofNat 64 (x.toNat ^^^ imm.toNat)),
      (.policyShli d a n6, fun x => x <<< n6.toNat), (.policyShrui d a n6, fun x => x >>> n6.toNat),
      (.policyShrsi d a n6, fun x => BitVec.ofInt 64 (x.toInt / 2 ^ n6.toNat))] : List (Instr × (Dword → Dword))),
    PolicyGives e.1 1 d fun c => e.2 (c.reg a)) ∧
  PolicyGives (.policyLi d imm) 1 d (fun _ => BitVec.ofInt 64 imm.toInt) ∧
  PolicyGives (.policyLcat d imm) 1 d (fun c => BitVec.ofNat 64 ((c.reg d).toNat * 2 ^ 18 + imm.toNat)) ∧
  PolicyGives (.policyIter d) 1 d (fun c => match c.loops with | l :: _ => BitVec.ofNat 64 l.iter | [] => 0) ∧
  PolicyGoes (.policyBeq d a imm) imm (fun c => c.reg d == c.reg a) ∧ PolicyGoes (.policyBne d a imm) imm (fun c => c.reg d != c.reg a) ∧
  PolicyGoes (.policyBlt d a imm) imm (fun c => decide ((c.reg d).toInt < (c.reg a).toInt)) ∧
  PolicyGoes (.policyBltu d a imm) imm (fun c => decide ((c.reg d).toNat < (c.reg a).toNat)) ∧
  PolicyGoes (.policyJmp imm) imm (fun _ => true) ∧
  PolicyLoops (.policyLoopi imm) (fun _ => imm.toNat) ∧ PolicyLoops (.policyLoopr a) (fun c => min (c.reg a).toNat 256) ∧
  (∀ (s : State) (n : Nat) (l : Loop) (rest : List Loop), s.engineOf = some n → (s.cluster n).loops = l :: rest →
    ∃ t, exec .policyEndl s = .next t ∧ (t.cluster n).regs = (s.cluster n).regs ∧ (t.cluster n).cycles = (s.cluster n).cycles + 1 ∧
      (1 < l.remaining → (t.cluster n).word = l.start ∧
        (t.cluster n).loops = { l with remaining := l.remaining - 1, iter := l.iter + 1 } :: rest) ∧
      (l.remaining ≤ 1 → (t.cluster n).word = (s.cluster n).word + 1 ∧ (t.cluster n).loops = rest)) ∧
  (∀ (s : State) (n : Nat), s.engineOf = some n → (s.cluster n).loops = [] →
    ∃ t, exec .policyEndl s = .next t ∧ policyDone s t n 1 ((s.cluster n).word + 1) (s.cluster n).regs) ∧
  PolicyLoads (.policyLd d a imm) 8 d a imm ∧ PolicyLoads (.policyLdw d a imm) 4 d a imm ∧
  PolicyStores (.policySt d a imm) 8 d a imm ∧ PolicyStores (.policyStw d a imm) 4 d a imm ∧
  PolicyWaits (.policyLd d a imm) 8 a imm ∧ PolicyWaits (.policyLdw d a imm) 4 a imm ∧
  PolicyWaits (.policySt d a imm) 8 a imm ∧ PolicyWaits (.policyStw d a imm) 4 a imm ∧
  (∀ (s : State) (n : Nat) (i : Invocation), s.engineOf = some n → (s.cluster n).running = some i →
    ∃ t : State, exec (.policyRdc d n12) s = .next t ∧
      policyDone s t n 4 ((s.cluster n).word + 1) ((s.cluster n).regs.put d.val (BitVec.ofNat 64 (s.counter n i n12.toNat)))) ∧
  (∀ (s : State) (n : Nat) (i : Invocation), s.engineOf = some n → (s.cluster n).running = some i →
    ∃ t : State, exec (.policyRdcx d a n12) s = .next t ∧ policyDone s t n 4 ((s.cluster n).word + 1) ((s.cluster n).regs.put d.val
      (BitVec.ofNat 64 (s.counter n i ((n12.toNat + ((s.cluster n).reg a).toNat) % 2 ^ 64))))) ∧
  (∀ (s : State) (n num : Nat) (i : Invocation), (num = 0 → s.counter n i num = s.ck) ∧ (0x217 ≤ num → s.counter n i num = 0) ∧
    (num = 1 → s.counter n i num = i.point) ∧ (num = 2 → s.counter n i num = n) ∧ (num = 3 → s.counter n i num = i.part) ∧
    (num = 0x18 → s.counter n i num = (s.cluster n).misses) ∧ (num = 0x19 → s.counter n i num = (s.cluster n).l2misses) ∧
    (∀ j < 4, (num = 0x08 + j → s.counter n i num = s.freeCrewSlots (4 * n + j)) ∧
      (num = 0x10 + j → s.counter n i num = s.freeScratch (4 * n + j))) ∧
    (∀ j < 16, num = 0x100 + j → i.layer = 1 → (s.counter n i num : Int) = (s.tenant j).level % 2 ^ 64)) ∧
  (∀ (s : State) (n : Nat), s.engineOf = some n → ∃ t, exec (.policySetd a n5) s = .next t ∧ t.mem = s.mem ∧
    (t.cluster n).decisions = (s.cluster n).decisions.put n5.toNat ((s.cluster n).reg a) ∧ (t.cluster n).regs = (s.cluster n).regs ∧
    (t.cluster n).word = (s.cluster n).word + 1) ∧
  (∀ (s : State) (n : Nat) (i : Invocation), s.engineOf = some n → (s.cluster n).running = some i → n5 = 2 →
    ∃ t, exec (.policySetd a n5) s = .next t ∧
      (t.cluster n).named = ((s.queuedFor n i.part)[((s.cluster n).reg a).toNat]?).map fun e => (e.launch, e.block)) ∧
  (∀ (s : State) (n : Nat) (i : Invocation), s.engineOf = some n → (s.cluster n).running = some i →
    ∃ t, exec .policyEnd s = .next t ∧ t.mem = s.mem ∧ t.crews = s.crews ∧ t.blocks = s.blocks ∧ t.launches = s.launches ∧
      t.cluster n = { s.cluster n with
        word := (s.cluster n).word + 1, cycles := (s.cluster n).cycles + 1
        ended := if (s.cluster n).code.allowance < (s.cluster n).cycles + 1 then (s.cluster n).ended else some s.ck } ∧
      ∀ m, m ≠ n → t.cluster m = s.cluster m)

/-- A decision of the block point, applied after END, takes its block away; one of a tick changes nothing (R407, R409, R420). -/
def Sys2Proof.Machine.PolicyDecisions : Prop :=
  (∀ (s : State) (n key t0 : Nat) (i : Invocation) (b : Block), (s.cluster n).running = some i → (s.cluster n).ended = some t0 → t0 < s.ck →
    i.layer = 0 → i.point = pointBlock →
    s.blocks.find? (fun b => b.2.launch == i.launch && b.2.number == i.block && !b.2.chute) = some (key, b) → s.blocks.get? key = some b →
    b.strategy = 0 → ∃ t b', exec (.routineInvoke n) s = .next t ∧ t.blocks.get? key = some b' ∧ (t.cluster n).running = none ∧
      (((s.cluster n).decisions.getD 6 0).toNat = 1 → b'.strategy ≠ 0) ∧ (((s.cluster n).decisions.getD 6 0).toNat ≠ 1 → b' = b)) ∧
  (∀ (s : State) (n t0 : Nat) (i : Invocation), (s.cluster n).running = some i → (s.cluster n).ended = some t0 → t0 < s.ck → i.layer = 0 →
    i.point = pointTick →
    ∃ t, exec (.routineInvoke n) s = .next t ∧ (t.cluster n).running = none ∧ t.crews = s.crews ∧ t.blocks = s.blocks ∧ t.mem = s.mem)

/-! ## Fault rings, errors, boot, resets, power, ports (R305, R437 to R462) -/

/-- Records are written in the order of their faults, and passed with a disposition (R437 to R441, R444). A poisoned head is reported once
(log 14). -/
def Sys2Proof.Machine.FaultRings : Prop :=
  (∀ (s : State) (ring : Nat) (x : FaultRec) (rest : List FaultRec), ring ≤ 16 → s.boot = .running → (s.ring ring).waiting = x :: rest →
    x.time < s.ck → s.faultAhead ring x = false → since32 (s.ring ring).tail (s.ring ring).head ≠ 511 →
    s.ringOpen [recordAt ring (s.ring ring).tail, ringBase ring] = true →
    ∃ t, exec (.faultRecordWrite ring) s = .next t ∧ (t.ring ring).waiting = rest ∧ (t.ring ring).tail = ((s.ring ring).tail + 1) % 2 ^ 32 ∧
      (∀ i < 64, t.mem.byte (recordAt ring (s.ring ring).tail + i) =
        (x.record ||| BitVec.ofNat 512 (placeField ((s.ring ring).tail % 65536) 160)).extractLsb' (8 * i) 8) ∧
      leNat (t.readBytes 0 (ringBase ring + 4) 4) = ((s.ring ring).tail + 1) % 2 ^ 32 ∧
      ∀ a, ¬ (recordAt ring (s.ring ring).tail ≤ a ∧ a < recordAt ring (s.ring ring).tail + 64) →
        ¬ (ringBase ring + 4 ≤ a ∧ a < ringBase ring + 8) → t.mem.byte a = s.mem.byte a) ∧
  (∀ (s : State) (ring : Nat), ((s.ring ring).waiting = [] ∨ ∃ x rest, (s.ring ring).waiting = x :: rest ∧ s.ck ≤ x.time) →
    exec (.faultRecordWrite ring) s = .next s) ∧
  (∀ (s : State) (ring : Nat), ring ≤ 16 → s.boot = .running → s.poisoned 0 (ringBase ring) = true → (s.ring ring).bad = false →
    ∃ t, exec (.faultRingHead ring) s = .next t ∧ (t.ring ring).bad = true ∧ (t.ring ring).head = (s.ring ring).head ∧ t.mem = s.mem ∧
      (s.ring hypervisorRing).waiting.length < (t.ring hypervisorRing).waiting.length) ∧
  (∀ (s : State) (ring : Nat), s.poisoned 0 (ringBase ring) = false → (s.ring ring).bad = false →
    since32 (leNat (s.readBytes 0 (ringBase ring) 4)) (s.ring ring).head = 0 →
    exec (.faultRingHead ring) s = .next s) ∧
  (∀ (s : State) (ring : Nat), s.poisoned 0 (ringBase ring) = false → (s.ring ring).bad = false →
    since32 (s.ring ring).tail (s.ring ring).head < since32 (leNat (s.readBytes 0 (ringBase ring) 4)) (s.ring ring).head →
    exec (.faultRingHead ring) s = .next s) ∧
  (∀ (s : State) (ring disp launch k u serial : Nat) (n : CrewName) (r : FaultRec) (c : Crew) (h : CrewUnit) (x : Hold), s.passes ring r disp →
    r.target = .unit launch n u serial → s.heldAt launch n k u c h x → x.serial = serial → x.capsule = false → x.cause ≠ Cause.flag.code →
    (r.restartable = true → disp ≤ 2 → ∃ t c' h', exec (.faultRingHead ring) s = .next t ∧ t.has k u c' h' ∧ h'.st = .ready ∧ h'.pc = h.pc) ∧
    (r.restartable = false → x.dbg ≠ .none → disp = 2 → ∃ t c' h', exec (.faultRingHead ring) s = .next t ∧ t.has k u c' h' ∧
      h'.st = .ready ∧ h'.pc = h.pc) ∧
    (r.restartable = false → x.dbg = .none → x.length ≠ 0 → disp = 2 →
      ∃ t c' h', exec (.faultRingHead ring) s = .next t ∧ t.has k u c' h' ∧ h'.st = .ready ∧
        h'.pc = skipTail (h.pc + BitVec.ofNat 64 x.length)) ∧
    ((3 ≤ disp ∨ r.restartable = false ∧ (disp ≤ 1 ∨ x.length = 0 ∧ x.dbg = .none)) → ∃ t, exec (.faultRingHead ring) s = .next t ∧
      ∀ l, t.launches.get? launch = some l → l.st = .aborted)) ∧
  (∀ (s : State) (ring disp launch k u serial : Nat) (n : CrewName) (r : FaultRec) (c : Crew) (h : CrewUnit) (x : Hold), s.passes ring r disp →
    r.target = .unit launch n u serial → s.heldAt launch n k u c h x → x.serial = serial → x.capsule = false → x.cause = Cause.flag.code →
    x.length ≠ 0 → x.dbg = .none → r.restartable = false → disp = 2 → ∃ t c' h', exec (.faultRingHead ring) s = .next t ∧ t.has k u c' h' ∧
      h'.st = .ready ∧ h'.pc = h.pc ∧ c'.fflags = c.fflags &&& ~~~c.fenable) ∧
  (∀ (s : State) (ring disp launch k u serial : Nat) (n : CrewName) (r : FaultRec) (c : Crew) (h : CrewUnit) (x : Hold), s.passes ring r disp →
    r.target = .unit launch n u serial → s.heldAt launch n k u c h x → x.serial ≠ serial →
    ∃ t, exec (.faultRingHead ring) s = .next t ∧ t.has k u c h ∧ t.launches = s.launches)

/-- Storage errors and their summary (R442 to R446). The step's codes 12 to 15, of copies that are fetched again, are the model's (log 78). -/
def Sys2Proof.Machine.StorageErrors : Prop :=
  (∀ (s : State) (code owner index : Nat), 1 ≤ code → code ≤ 6 → code ≠ 5 → s.softWord code owner index = true →
    s.softErrors.contains (code, owner, index) = false →
    exec (.softError code owner index) s = .next { s with softErrors := s.softErrors ++ [(code, owner, index)] }) ∧
  (∀ (s : State) (owner index : Nat) (p : Partial), ((s.core (owner / 2)).partials.filter fun p => p.queue == owner % 2)[index / 2 ^ 14]? = some p →
    index % 2 ^ 14 / 128 < 96 → p.bad.contains (index % 2 ^ 14) = false →
    ∃ t, exec (.softError 5 owner index) s = .next t ∧ { p with bad := p.bad ++ [index % 2 ^ 14] } ∈ (t.core (owner / 2)).partials ∧
      t.mem = s.mem) ∧
  (∀ (s : State) (code owner index : Nat), 9 ≤ code → code ≤ 11 → structureCode (index * 128) = code →
    (inHbm (index * 128) || inCapacity (index * 128) || inMailbox (index * 128)) = true →
    ∃ t, exec (.softError code owner index) s = .next t ∧ t.poison.contains index = true ∧ t.mem = s.mem) ∧
  (∀ (s : State) (owner index : Nat), (inHbm (index * 128) || inCapacity (index * 128) || inMailbox (index * 128)) = true →
    (∀ m, (s.core owner).l1.get? index = some m → ∃ t, exec (.softError 7 owner index) s = .next t ∧ t.mem = s.mem ∧
      (m = .modified → t.poison.contains index = true) ∧
      (m ≠ .modified → t.poison = s.poison ∧ t.eccCount.getD (owner / 32) 0 = s.eccCount.getD (owner / 32) 0 + 1)) ∧
    ((s.l2.get? index).isSome = true → ∃ t, exec (.softError 8 owner index) s = .next t ∧ t.mem = s.mem ∧
      ((s.dirty.get? index).isSome = true → t.poison.contains index = true) ∧
      (s.dirty.get? index = none → t.poison = s.poison ∧
        t.eccCount.getD (homeDie (index * 128)) 0 = s.eccCount.getD (homeDie (index * 128)) 0 + 1))) ∧
  (∀ (s : State) (owner index : Nat),
    (∀ x, s.tlb[index]? = some x → ∃ t, exec (.softError 12 owner index) s = .next t ∧ t.tlb = s.tlb.eraseIdx index ∧
      t.eccCount.getD x.die 0 = s.eccCount.getD x.die 0 + 1) ∧
    (∀ x, s.walks[index]? = some x → ∃ t, exec (.softError 13 owner index) s = .next t ∧ t.walks = s.walks.eraseIdx index ∧
      t.eccCount.getD x.die 0 = s.eccCount.getD x.die 0 + 1) ∧
    (index < (s.core owner).icache.length → ∃ t, exec (.softError 14 owner index) s = .next t ∧
      (t.core owner).icache = (s.core owner).icache.eraseIdx index ∧ t.eccCount.getD (owner / 32) 0 = s.eccCount.getD (owner / 32) 0 + 1) ∧
    (index < (s.core owner).ccache.length → ∃ t, exec (.softError 15 owner index) s = .next t ∧
      (t.core owner).ccache = (s.core owner).ccache.eraseIdx index ∧ t.eccCount.getD (owner / 32) 0 = s.eccCount.getD (owner / 32) 0 + 1)) ∧
  (∀ (s : State) (die : Nat), die < 4 → ∃ t, exec (.eccCorrection die) s = .next t ∧ t.eccCount.getD die 0 = s.eccCount.getD die 0 + 1) ∧
  (∀ (s : State) (die : Nat), die ≤ 3 → s.nextSummary.getD die 19000000 ≤ s.ck →
    ∃ t, exec (.correctedSummary die) s = .next t ∧ t.nextSummary.getD die 19000000 = s.nextSummary.getD die 19000000 +
        19000000 * ((s.ck - s.nextSummary.getD die 19000000) / 19000000 + 1) ∧
      t.eccCount.getD die 0 = 0 ∧ (s.eccCount.getD die 0 = 0 → t.rings = s.rings) ∧
      (s.eccCount.getD die 0 ≠ 0 → (t.ring hypervisorRing).waiting.length = (s.ring hypervisorRing).waiting.length + 1)) ∧
  (∀ (s : State) (die : Nat), s.ck < s.nextSummary.getD die 19000000 → exec (.correctedSummary die) s = .next s)

/-- Firmware crashes and the boot service (R447 to R449, R454 to R456). The numbers of a reply's status, the bytes of the
part number, and those that a second answer repeats, are the model's choices (log 27); what a die reset leaves is log 26's. -/
def Sys2Proof.Machine.BootService : Prop :=
  (∀ (s : State) (die core : Nat) (x : CrashInfo), die ≤ 3 → core ≤ 7 → s.boot = .running → s.cpDown.contains (8 * die + core) = false →
    ∃ t, exec (.firmwareCrash die core x) s = .next t ∧ t.cpDown.contains (8 * die + core) = true ∧
      t.spoil.get? s.spoilNext = some (crashRecord s die core x false) ∧ t.spoilNext = (if s.spoilNext = 255 then 1 else s.spoilNext + 1) ∧
      (t.ring hypervisorRing).waiting.length = (s.ring hypervisorRing).waiting.length + 1 ∧ t.mem = s.mem ∧
      ∀ id q, s.queues.get? id = some q → q.slot.isSome = true → s.cpCore id q = 8 * die + core →
        t.queues.get? id = some { q with current := none, ahead := [] }) ∧
  (∀ (s : State) (die core : Nat) (x : CrashInfo), die ≤ 3 → core ≤ 7 → s.boot = .running → s.cpDown.contains (8 * die + core) = true →
    ∃ t, exec (.firmwareCrash die core x) s = .next t ∧ t.resets = s.resets + 1 ∧ t.cpDown.contains (8 * die + core) = false ∧
      t.spoil.get? s.spoilNext = some (crashRecord s die core x true) ∧ t.keys = [] ∧ t.frames = []) ∧
  (∀ (s : State) (die core : Nat) (x : CrashInfo), 3 < die ∨ 7 < core ∨ s.boot ≠ .running →
    exec (.firmwareCrash die core x) s = .next s) ∧
  (∀ (s : State) (die core : Nat), ∃ t, exec (.firmwareRestart die core) s = .next t ∧ t.cpDown.contains (8 * die + core) = false ∧ t.mem = s.mem) ∧
  (∀ s : State, s.port0Up → ∃ t, exec .identify s = .next t ∧ answered t 0x01 0 ([0x4F, 0x43, 0x4D, 0x2D, 0x43, 0x33, 0x41, 0] ++
    leBytes 16 Config.serial.toNat ++ leBytes 1 s.lifeCycle ++ leBytes 4 Config.romVersion.toNat ++ leBytes 1 s.boot.code)) ∧
  (∀ (s : State) (offset : Nat) (chunk : List Byte), s.port0Up → s.boot ≠ .running → s.boot ≠ .verifying → chunk.length = 1024 →
    offset + 1024 ≤ firmwareBytes → ∃ t, exec (.bootLoad offset chunk) s = .next t ∧ t.boot = .loading ∧ answered t 0x02 0 [] ∧
      ∀ i < 1024, Table.get? t.imageStore (offset + i) = chunk[i]?) ∧
  (∀ (s : State) (offset : Nat) (chunk : List Byte), s.port0Up →
    (s.boot = .running ∨ s.boot = .verifying ∨ chunk.length ≠ 1024 ∨ firmwareBytes < offset + 1024) →
    ∃ t, exec (.bootLoad offset chunk) s = .next t ∧ t.boot = s.boot ∧ t.imageStore = s.imageStore ∧ answered t 0x02 1 []) ∧
  (∀ (s : State) (w : Requester), s.port0Up → s.boot ≠ .running → s.boot ≠ .verifying →
    ∃ t, exec (.start w) s = .next t ∧ t.boot = .verifying ∧ answered t 0x03 2 (leBytes 16 w.addr.toNat ++ leBytes 2 w.port)) ∧
  (∀ (s : State) (w : Requester), s.port0Up → (s.boot = .running ∨ s.boot = .verifying) →
    ∃ t, exec (.start w) s = .next t ∧ t.boot = s.boot ∧ answered t 0x03 1 (leBytes 16 w.addr.toNat ++ leBytes 2 w.port)) ∧
  (∀ s : State, s.boot = .verifying → ∃ t, exec .verificationEnd s = .next t ∧
    (Config.imageVerifies s.imageStore = true → t.boot = .running ∧ t.firmware = s.imageStore ∧ (s.port0Up → ∃ r, t.replies = s.replies ++ [r] ∧
      r.code = 0x03 ∧ r.status = 0)) ∧
    (Config.imageVerifies s.imageStore = false → t.boot = .refused ∧ t.imageStore = [] ∧ t.firmware = s.firmware ∧
      (s.port0Up → ∃ r, t.replies = s.replies ++ [r] ∧ r.code = 0x03 ∧ r.status = 1)) ∧
    (s.portsDown.contains 0 = true → t.replies = s.replies)) ∧
  (∀ s : State, s.boot ≠ .verifying → exec .verificationEnd s = .next s) ∧
  (∀ (s : State) (nonce : BitVec 256), s.port0Up → s.lifeCycle = 2 → ∃ t, exec (.attest nonce) s = .next t ∧
    answered t 0x04 0 (leBytes 128 (attestBody s nonce).toNat ++ leBytes 1280 (Config.attestSignature (attestBody s nonce)).toNat)) ∧
  (∀ (s : State) (nonce : BitVec 256), s.port0Up → s.lifeCycle ≠ 2 → ∃ t, exec (.attest nonce) s = .next t ∧ answered t 0x04 1 []) ∧
  (∀ (s : State) (index : Nat), s.port0Up → index ≤ 255 → ∃ t, exec (.spoilRead index) s = .next t ∧
    answered t 0x05 0 (leBytes 256 (s.spoilRecord index)) ∧ t.spoil = s.spoil) ∧
  (∀ (s : State) (index : Nat), s.port0Up → 255 < index → ∃ t, exec (.spoilRead index) s = .next t ∧ answered t 0x05 1 []) ∧
  (∀ s : State, s.portsDown.contains 0 = true → exec .identify s = .next s ∧ exec .reset s = .next s ∧ (∀ n, exec (.attest n) s = .next s) ∧
    (∀ o c, exec (.bootLoad o c) s = .next s) ∧ (∀ w, exec (.start w) s = .next s) ∧ (∀ i, exec (.spoilRead i) s = .next s) ∧
    ∀ l g, exec (.lifeCycleChange l g) s = .next s)

/-- Resets, the life cycle, power and links (R448, R450, R457, R458, R460 to R462). What dies ask for, what cores draw, and how a
core's part and a cap's excess are taken (log 10), the code
under which a life-cycle change answers (log 27), the step that writes the power register (log 47) and values that the manual gives no
reset for (log 15) are the model's choices. -/
def Sys2Proof.Machine.ResetsAndPower : Prop :=
  (∀ s : State, s.port0Up → ∃ t, exec .reset s = .next t ∧ t.blank ∧ t.spoil = s.spoil ∧ t.lifeCycle = s.lifeCycle ∧ t.resets = s.resets + 1 ∧
    answered t 0x06 0 []) ∧
  (∀ s : State, ∃ t, exec .moduleReset s = .next t ∧ t.blank ∧ t.spoil = s.spoil ∧ t.spoilNext = s.spoilNext ∧ t.lifeCycle = s.lifeCycle ∧
    t.resets = s.resets + 1) ∧
  (∀ s : State, ∃ t, exec .powerOnReset s = .next t ∧ t.blank ∧ t.spoil = [] ∧ t.power = true ∧ t.lifeCycle = s.lifeCycle ∧ t.boots = s.boots + 1) ∧
  (∀ s : State, ∃ t, exec .powerLoss s = .next t ∧ t.blank ∧ t.spoil = [] ∧ t.power = false ∧ t.lifeCycle = s.lifeCycle) ∧
  (∀ (s : State) (die : Nat), ∃ t, exec (.ckResync die) s = .next t ∧ t.ckSkew.contains die = false ∧ t.ck = s.ck) ∧
  (∀ (s : State) (target : Nat) (sig : BitVec 64), s.port0Up → s.boot ≠ .running → s.lifeCycle < target → target ≤ 3 →
    ∃ t, exec (.lifeCycleChange target sig) s = .next t ∧ t.ck = s.ck ∧
      (Config.lifeCycleSigned target sig = true → t.lifeCycle = target ∧ t.mem = [] ∧ t.keys = [] ∧ t.spoil = [] ∧ t.imageStore = [] ∧
        t.boot = .empty ∧ answered t 0x07 0 []) ∧
      (Config.lifeCycleSigned target sig = false → t.lifeCycle = s.lifeCycle ∧ t.mem = s.mem ∧ t.spoil = s.spoil ∧ t.keys = s.keys ∧
        answered t 0x07 1 [])) ∧
  (∀ (s : State) (target : Nat) (sig : BitVec 64), s.port0Up → (s.boot = .running ∨ target ≤ s.lifeCycle ∨ 3 < target) →
    ∃ t, exec (.lifeCycleChange target sig) s = .next t ∧ t.lifeCycle = s.lifeCycle ∧ t.mem = s.mem ∧ t.spoil = s.spoil ∧ t.keys = s.keys ∧
      answered t 0x07 1 []) ∧
  (∀ s : State, s.nextPower ≤ s.ck → ∃ t, exec .powerArbiter s = .next t ∧ t.nextPower = s.nextPower + 19000 ∧
    ∀ n < 128, 1 ≤ (t.core n).gateNew ∧ (t.core n).gateNew ≤ 64 ∧ (t.core n).gateAt = (s.ck / 64 + 1) * 64 ∧
      let fits (g : Nat) : Prop := Config.corePower (s.nextPower / 19000) n g ≤ s.clusterPower (s.nextPower / 19000) (n / 4) / 4
      (∀ g, 1 ≤ g → g ≤ 64 → fits g → g ≤ (t.core n).gateNew) ∧
      (fits (t.core n).gateNew ∨ ((t.core n).gateNew = 1 ∧ ∀ g, 1 ≤ g → g ≤ 64 → ¬ fits g))) ∧
  (∀ (s : State) (interval : Nat),
    ((List.range 4).map (diePower interval)).sum ≤ 2400000 - Config.otherDraw interval ∧
    (∀ die < 4, ((List.range 8).map fun i => s.clusterShare interval (8 * die + i)).sum ≤ diePower interval die) ∧
    ∀ p x, s.part? p = some x → 1000 * (x.power.toNat / 2 ^ 20) ≠ 0 →
      (((List.range 32).filter fun m => (s.cluster m).holder == some p).map (s.clusterPower interval)).sum ≤ 1000 * (x.power.toNat / 2 ^ 20)) ∧
  (∀ s : State, s.ck < s.nextPower → exec .powerArbiter s = .next s) ∧
  (∀ (s : State) (die : Nat), die < 4 → ∃ t, exec (.overcurrent die) s = .next t ∧
    ∀ n < 128, if n / 32 = die then (t.core n).gateNew = 16 ∧ (t.core n).gateAt = (s.ck / 64 + 1) * 64 else t.core n = s.core n) ∧
  (∀ (s : State) (die : Nat), 4 ≤ die → exec (.overcurrent die) s = .next s) ∧
  (∀ (s : State) (part : Nat) (v : BitVec 32) (x : Part), s.part? part = some x → ∃ t, exec (.registerWrite part v) s = .next t ∧
    t.part? part = some { x with power := v &&& 0xFFF000FF } ∧ t.mem = s.mem ∧ t.crews = s.crews) ∧
  (∀ (s : State) (part : Nat) (v : BitVec 32), s.part? part = none → exec (.registerWrite part v) s = .next s) ∧
  (∀ (s : State) (port : Nat), port ≤ 7 → ∃ t, exec (.linkDown port) s = .next t ∧ t.portsDown.contains port = true ∧ t.mem = s.mem ∧
    t.crews = s.crews) ∧
  (∀ (s : State) (port : Nat), 7 < port → exec (.linkDown port) s = .next s) ∧
  (∀ (s : State) (port : Nat), ∃ t, exec (.linkUp port) s = .next t ∧ t.portsDown.contains port = false ∧ t.mem = s.mem ∧ t.crews = s.crews)

/-- RDMA and Grenone at the ports (R305, R450 to R453). What a status says, which elements of a message are this module's and where its
result goes are the model's choices (logs 27, 28), as is that only the first operation of a queue pair waits for its fault (log 41). -/
def Obligations.PortSteps : Prop :=
  (∀ (s s1 : State) (op : RdmaOp) (q : QueuePair), s.accepts op op.data.length (·.wr) q → s.vwrite q.part op.va.toNat op.data = .ok s1 →
    (∃ t, exec (.rdmaWrite op) s = .next t ∧ t.mem = s1.mem ∧ t.portHeld.get? op.qp = none ∧ answered t 0x80 0 []) ∧
    ∀ s2, s1.portRecord q.part (rdmaNote op 3) = .ok s2 →
      ∃ t, exec (.rdmaWriteWithImmediate op) s = .next t ∧ t.mem = s2.mem ∧ t.portHeld.get? op.qp = none ∧ answered t 0x80 0 []) ∧
  (∀ (s s1 s2 : State) (op : RdmaOp) (q : QueuePair), s.takesSend op q → s.vwrite q.part q.recv.toNat op.data = .ok s1 →
    ∀ p ∈ ([(.rdmaSend, 0), (.rdmaSendWithImmediate, 1)] : List ((RdmaOp → Instr) × Nat)), s1.portRecord q.part (rdmaNote op p.2) = .ok s2 →
      ∃ t, exec (p.1 op) s = .next t ∧ t.mem = s2.mem ∧ t.portHeld.get? op.qp = none ∧ answered t 0x80 0 []) ∧
  (∀ (s s1 : State) (part : Nat) (ring : PortRing) (r : PortNote), s.portRings.get? part = some ring →
    State.vwrite { s with fresh := s.fresh + 1 } part (ring.base.toNat + 32 * (ring.written % max ring.entries 1)) (r.bytes s.fresh) = .ok s1 →
    ∃ t, s.portRecord part r = .ok t ∧ t.mem = s1.mem ∧ t.portRings.get? part = some { ring with written := ring.written + 1 }) ∧
  (∀ (s s1 : State) (op : RdmaOp) (q : QueuePair) (bs : List Byte), s.accepts op op.length (·.rd) q →
    s.vread q.part op.va.toNat op.length = .ok (bs, s1) →
    ∃ t, exec (.rdmaRead op) s = .next t ∧ t.mem = s1.mem ∧ t.portHeld.get? op.qp = none ∧ answered t 0x80 0 bs) ∧
  (∀ (s s1 s2 : State) (op : RdmaOp) (q : QueuePair) (bs : List Byte), op.va.toNat % 8 = 0 → s.accepts op 8 (·.atom) q →
    s.vread q.part op.va.toNat 8 = .ok (bs, s1) →
    s1.vwrite q.part op.va.toNat (leBytes 8 (if leNat bs = op.compare.toNat then op.operand.toNat else leNat bs)) = .ok s2 →
    ∃ t, exec (.compareAndSwap op) s = .next t ∧ t.mem = s2.mem ∧ answered t 0x80 0 bs) ∧
  (∀ (s s1 s2 : State) (op : RdmaOp) (q : QueuePair) (bs : List Byte), op.va.toNat % 8 = 0 → s.accepts op 8 (·.atom) q →
    s.vread q.part op.va.toNat 8 = .ok (bs, s1) →
    s1.vwrite q.part op.va.toNat (leBytes 8 ((leNat bs + op.operand.toNat) % 2 ^ 64)) = .ok s2 →
    ∃ t, exec (.fetchAndAdd op) s = .next t ∧ t.mem = s2.mem ∧ answered t 0x80 0 bs) ∧
  (∀ (s : State) (op : RdmaOp) (q : QueuePair), s.qps.get? op.qp = some q → q.error = false → s.portsDown.contains q.port = false →
    s.portTurn op.qp (.rdma op) = true → s.region? q op.key op.va.toNat op.length = none →
    ∃ t, exec (.rdmaRead op) s = .next t ∧ t.qps.get? op.qp = some { q with error := true } ∧ answered t 0x80 1 [] ∧ t.mem = s.mem) ∧
  (∀ (s : State) (op : RdmaOp) (q : QueuePair) (f : XlFault) (va : Nat), s.accepts op op.length (·.rd) q → s.portHeld.get? op.qp = none →
    s.vread q.part op.va.toNat op.length = .error (.fault f va) →
    ∃ t, exec (.rdmaRead op) s = .next t ∧ t.mem = s.mem ∧ answered t 0x80 3 [] ∧ t.portHeld.get? op.qp = some { op := .rdma op, told := true }) ∧
  (∀ (s : State) (part : Nat) (wr : WorkRequest), (s.part? part).isSome = true → wr.landed = true →
    ∃ t, exec (.doorbellWrite part wr) s = .next t ∧ t.portWork.get? s.nextNotice = some { id := s.nextNotice, wr := wr }) ∧
  (∀ (s s1 : State) (part : Nat) (wr : WorkRequest), (s.part? part).isSome = true → wr.landed = false →
    s.portRecord part (wrNote wr 1) = .ok s1 → exec (.doorbellWrite part wr) s = .next s1) ∧
  (∀ (s s1 s2 : State) (part id status moved : Nat) (w : PortWork) (q : QueuePair), s.portWork.get? id = some w →
    s.qps.get? w.wr.qp = some q → q.part = part → q.error = false → s.portsDown.contains q.port = false →
    State.portMoves { s with portWork := s.portWork.del id } part status q w.wr = .ok (moved, s1) →
    (∀ status', status' = (match w.wr.counter with
      | some (launch, block, e) => if s.takesIncrement launch block e then moved else 2
      | none => moved) → s1.portRecord part (wrNote w.wr status') = .ok s2) →
    ∃ t, exec (.rdmaCompletion part id status) s = .next t ∧ t.portWork.get? id = none ∧ t.mem = s2.mem ∧
      (w.wr.counter = none → t = s2)) ∧
  (∀ (s s1 : State) (part : Nat) (q : QueuePair) (w : WorkRequest) (bs : List Byte), w.op < 4 → w.length ≠ 0 →
    s.vread part w.va.toNat w.length = .ok (bs, s1) → s.portMoves part 0 q w = .ok (0, s1.reply 0x82 0 bs)) ∧
  (∀ (s : State) (part id status : Nat) (w : PortWork) (q : QueuePair), s.portWork.get? id = some w → s.qps.get? w.wr.qp = some q →
    (q.part ≠ part ∨ q.error = true ∨ s.portsDown.contains q.port = true) → exec (.rdmaCompletion part id status) s = .next s) ∧
  MessageWrites .allReduce 1 id greReduced ∧ MessageWrites .allGather 3 id (fun _ ranks => ranks.flatten) ∧
  MessageWrites .reduceScatter 2 id (fun m ranks => ((greReduced m ranks).drop
    ((greReduced m ranks).length / max (greField m 128 16) 1 * greField m 144 16)).take
      ((greReduced m ranks).length / max (greField m 128 16) 1)) ∧
  MessageWrites .broadcast 4 id (fun m ranks => ranks.getD (greField m 144 16) []) ∧
  MessageWrites .importState 6 (fun m => { m with own := m.ranks.length }) (fun _ ranks => ranks.getD 0 []) ∧
  (∀ (s s1 : State) (m : Grenone) (q : QueuePair) (bs : List Byte), s.takesMessage m q 5 →
    s.vread q.part m.va.toNat (greField m 96 32) = .ok (bs, s1) →
    ∃ t, exec (.exportState m) s = .next t ∧ t.mem = s1.mem ∧ answered t 0x81 0 bs) ∧
  (∀ (s : State) (m : Grenone) (q : QueuePair), s.qps.get? m.qp = some q → q.error = false → s.portsDown.contains q.port = false →
    s.portTurn m.qp (.message m) = true → greReserved m = true →
    ∃ t, exec (.allReduce m) s = .next t ∧ t.mem = s.mem ∧ (t.ring q.part).waiting.length = (s.ring q.part).waiting.length + 1) ∧
  (∀ (m : Grenone) (red : Nat) (x y : Word), greField m 84 4 = 2 → greField m 80 4 = red → red ≤ 2 → greStep m x y = int32Step red x y) ∧
  ∀ (m : Grenone) (r x : List Word), r.length = x.length →
    ∀ i < r.length, (greReduced m [r, x]).getD i 0 = greStep m (r.getD i 0) (x.getD i 0)

/-! ## What these leave unchanged -/

/-- FDIV and the special functions, the event counters, BAR, the operations of a policy engine, and the steps of boot, resets, power and
links: under conditions on the state and the operands alone each completes with its own effect, and leaves all else that is named as it
was (R44, R62, R153, R158, R198, R206, R210 to R214, R410 to R412, R420, R447 to R450, R454 to R458, R460 to R462). SpecialFunctions,
QuotientsAndRoots, CountersAndBarriers, PolicyEngine and BootAndResets have the values. Statuses of replies are log 27's, the step that
writes the power register log 47's. -/
def Obligations.EffectFrames : Prop :=
  (∀ p ∈ ([(0x64, .fdiv), (0x77, .rcp), (0x78, .rsq), (0x79, .sqrt), (0x7A, .exp2), (0x7B, .log2), (0x7C, .sinpi), (0x7D, .cospi),
      (0x7E, .tanh)] : List (Nat × (Args → Instr))), ∀ (x : Ctx) (s : State), x.ready p.1 s = true →
    ∃ t r c, exec (p.2 x.a) s = .next t ∧ x.awaits s t r ∧ x.crewIn t = some c ∧ c.pool = x.c.pool ∧ c.sregs = x.c.sregs ∧
      c.oregs = x.c.oregs ∧ c.fflags = x.c.fflags ∧ c.tokens = x.c.tokens ∧ t.mem = s.mem ∧ t.blocks = s.blocks ∧ x.goesOn t ∧
      ∀ k, k ≠ x.k → t.crews.get? k = s.crews.get? k) ∧
  (∀ (x : Ctx) (s : State) (c : Counter), x.ready 0xD5 s = true → x.scopeOk s = true → x.eventOwned s c → x.releases s →
    ∃ t c', exec (.evAdd x.a) s = .next t ∧ x.goesOn t ∧ t.mem = s.mem ∧ t.blocks = s.blocks ∧
      (t.core x.eventCore).counters.get? x.eventNamed = some c' ∧ c'.owner = c.owner ∧ c'.target = c.target ∧ c'.bytes = c.bytes ∧
      ((x.word x.a.in0 0).toNat = 0 → c.target = 0 → c.count < 2 ^ 32 → c' = c)) ∧
  (∀ (x : Ctx) (s : State), x.ready 0xD6 s = true → x.eventNamed ≤ 2047 →
    (∀ c, (s.core x.core).counters.get? x.eventNamed = some c → c.owner = s.bslotOf x.k ∧ s.counterBusy x.core x.eventNamed = false) →
    ∃ t, exec (.evSet x.a) s = .next t ∧ x.goesOn t ∧ t.mem = s.mem ∧ t.blocks = s.blocks ∧
      ((t.core x.core).counters.get? x.eventNamed).isSome = !x.a.ctl.getLsbD 2 ∧
      ∀ core e, (core, e) ≠ (x.core, x.eventNamed) → (t.core core).counters.get? e = (s.core core).counters.get? e) ∧
  (∀ (x : Ctx) (s : State) (c : Counter), x.ready 0xD7 s = true → x.eventOwned s c →
    (x.a.ctl.getLsbD 4 = true ∨ c.owner = s.bslotOf x.k ∨ (x.a.ctl.toNat / 4) % 4 = 3) →
    ∃ t, exec (.evRd x.a) s = .next t ∧ x.goesOn t ∧ t.mem = s.mem ∧ t.blocks = s.blocks ∧
      ∀ core, (t.core core).counters = (s.core core).counters) ∧
  (∀ (x : Ctx) (s : State) (l : Launch) (b : Barrier), x.ready 0xD8 s = true → x.member s l b → x.h.barEpoch = none →
    x.a.ctl.getLsbD 0 = false → x.pends b = false → x.releases s →
    ∃ t l', exec (.bar x.a) s = .next t ∧ t.mem = s.mem ∧ t.blocks = s.blocks ∧ t.launches.get? x.c.launch = some l' ∧
      (∀ g, g ≠ x.a.aux.toNat → l'.barriers.get? g = l.barriers.get? g) ∧ (b.members ≤ b.arrived + 1 → x.goesOn t)) ∧
  (∀ (d a b : Fin 16) (imm : BitVec 18) (n6 : BitVec 6) (n12 : BitVec 12) (n5 : BitVec 5),
    (∀ i ∈ ([.policyAdd d a b, .policySub d a b, .policyAnd d a b, .policyOr d a b, .policyXor d a b, .policyShl d a b, .policyShru d a b,
        .policyShrs d a b, .policyMin d a b, .policyMax d a b, .policyMinu d a b, .policyMaxu d a b, .policySlt d a b, .policySltu d a b,
        .policySeq d a b, .policyAddi d a imm, .policyAndi d a imm, .policyOri d a imm, .policyXori d a imm, .policyShli d a n6,
        .policyShrui d a n6, .policyShrsi d a n6, .policyLi d imm, .policyLcat d imm, .policyIter d] : List Instr), PolicyKeeps i 1 [d.val]) ∧
    PolicyKeeps (.policyMul d a b) 2 [d.val] ∧ PolicyKeeps (.policyDivu d a b) 24 [d.val] ∧ PolicyKeeps (.policyRemu d a b) 24 [d.val] ∧
    PolicyKeeps (.policyRdc d n12) 4 [d.val] ∧ PolicyKeeps (.policyRdcx d a n12) 4 [d.val] ∧
    (∀ i ∈ ([.policyBeq d a imm, .policyBne d a imm, .policyBlt d a imm, .policyBltu d a imm, .policyJmp imm, .policyLoopi imm, .policyLoopr a,
        .policyEndl, .policySetd a n5] : List Instr), PolicyKeeps i 1 []) ∧
    WindowKeeps (.policyLd d a imm) 8 a imm [d.val] ∧ WindowKeeps (.policyLdw d a imm) 4 a imm [d.val] ∧
    WindowKeeps (.policySt d a imm) 8 a imm [] ∧ WindowKeeps (.policyStw d a imm) 4 a imm []) ∧
  PolicyKeeps .policyEnd 1 [] ∧
  (∀ (s : State) (n t0 : Nat) (i : Invocation), (s.cluster n).running = some i → (s.cluster n).ended = some t0 → t0 < s.ck → i.layer = 0 →
    i.point ≠ pointRebalance →
    ∃ t, exec (.routineInvoke n) s = .next t ∧ (t.cluster n).running = none ∧ t.crews = s.crews ∧ t.queues = s.queues ∧
      (∀ a, inDeviceRegion a = false → t.mem.byte a = s.mem.byte a) ∧ (i.point ≠ pointWake → i.point ≠ pointMigrate → t.mem = s.mem)) ∧
  (∀ s : State, s.port0Up →
    (∃ r, exec .identify s = .next { s with replies := s.replies ++ [r] }) ∧
    (∀ nonce, ∃ r, exec (.attest nonce) s = .next { s with replies := s.replies ++ [r] }) ∧
    (∀ n, ∃ r, exec (.spoilRead n) s = .next { s with replies := s.replies ++ [r] }) ∧
    (s.boot ≠ .running → s.boot ≠ .verifying → ∀ w, ∃ r, exec (.start w) s =
      .next { s with boot := .verifying, replies := s.replies ++ [r] }) ∧
    (s.boot ≠ .running → s.boot ≠ .verifying → ∀ (offset : Nat) (chunk : List Byte), chunk.length = 1024 → offset + 1024 ≤ firmwareBytes →
      ∃ r store, exec (.bootLoad offset chunk) s = .next { s with boot := .loading, imageStore := store, replies := s.replies ++ [r] } ∧
        ∀ a, (a < offset ∨ offset + 1024 ≤ a) → Table.get? store a = Table.get? s.imageStore a) ∧
    (∃ t, exec .reset s = .next t ∧ t.lifeCycle = s.lifeCycle ∧ t.boots = s.boots ∧ t.spoil = s.spoil ∧ t.portsDown = s.portsDown) ∧
    (s.boot ≠ .running → ∀ (target : Nat) (sig : BitVec 64), s.lifeCycle < target → target ≤ 3 →
      ∃ t, exec (.lifeCycleChange target sig) s = .next t ∧ t.boots = s.boots ∧ t.resets = s.resets ∧
        (Config.lifeCycleSigned target sig = true → t.lifeCycle = target))) ∧
  (∀ s : State, s.boot = .verifying → ∃ t, exec .verificationEnd s = .next t ∧ t.boot ≠ .verifying ∧ t.mem = s.mem ∧ t.crews = s.crews ∧
    t.queues = s.queues ∧ t.spoil = s.spoil ∧ t.lifeCycle = s.lifeCycle) ∧
  (∀ (s : State) (die core : Nat) (x : CrashInfo), die ≤ 3 → core ≤ 7 → s.boot = .running → s.cpDown.contains (8 * die + core) = false →
    ∃ t, exec (.firmwareCrash die core x) s = .next t ∧ t.cpDown = s.cpDown ++ [8 * die + core] ∧ t.mem = s.mem ∧ t.crews = s.crews ∧
      t.launches = s.launches ∧ t.keys = s.keys ∧ t.boot = s.boot ∧
      ∀ id q, s.queues.get? id = some q → (q.slot = none ∨ s.cpCore id q ≠ 8 * die + core) → t.queues.get? id = some q) ∧
  (∀ (s : State) (die core : Nat), exec (.firmwareRestart die core) s = .next { s with cpDown := s.cpDown.filter (· != 8 * die + core) }) ∧
  (∀ s : State, ∃ t, exec .powerOnReset s = .next t ∧ t.boots = s.boots + 1 ∧ t.lifeCycle = s.lifeCycle ∧ t.power = true) ∧
  (∀ s : State, ∃ t, exec .moduleReset s = .next t ∧ t.boots = s.boots ∧ t.lifeCycle = s.lifeCycle ∧ t.spoil = s.spoil) ∧
  (∀ s : State, ∃ t, exec .powerLoss s = .next t ∧ t.power = false ∧ t.boots = s.boots ∧ t.lifeCycle = s.lifeCycle) ∧
  (∀ (s : State) (die : Nat), exec (.ckResync die) s = .next { s with ckSkew := s.ckSkew.filter (· != die) }) ∧
  (∀ s : State, s.nextPower ≤ s.ck → ∃ t, exec .powerArbiter s = .next t ∧ t.nextPower = s.nextPower + 19000 ∧ t.mem = s.mem ∧
    t.crews = s.crews ∧ t.blocks = s.blocks ∧ t.launches = s.launches ∧ ∀ n, (t.core n).queues = (s.core n).queues) ∧
  (∀ (s : State) (die : Nat), die < 4 → ∃ t, exec (.overcurrent die) s = .next t ∧ t.mem = s.mem ∧ t.crews = s.crews ∧
    t.nextPower = s.nextPower ∧ ∀ n, n / 32 ≠ die → t.core n = s.core n) ∧
  (∀ (s : State) (part : Nat) (v : BitVec 32) (x : Part), s.part? part = some x → ∃ t, exec (.registerWrite part v) s = .next t ∧
    (∀ p, p ≠ part → t.part? p = s.part? p) ∧ { t with parts := s.parts } = s) ∧
  (∀ (s : State) (port : Nat), port ≤ 7 → ∃ t, exec (.linkDown port) s = .next t ∧ { t with portsDown := s.portsDown } = s ∧
    ∀ p, p ≠ port → t.portsDown.contains p = s.portsDown.contains p) ∧
  ∀ (s : State) (port : Nat), exec (.linkUp port) s = .next { s with portsDown := s.portsDown.filter (· != port) }

/-! ## Statements made of several -/

/-- Decoding the word of a well-formed pair gives both halves back (R59, R60). Decoding the word of a well-formed policy operation gives it
back (R410, R411). -/
def Obligations.OtherRoundTrips : Prop := PairRoundTrip ∧ PolicyRoundTrip

/-- IADD, ISUB, IMUL, IMULH, IMAD, IADD3, IMIN, IMAX, IABS, INEG, ISAD, IDOT4, IAVG and CLAMP give the value of R133 and R135, narrowed as
R131 says. SAT is raised by active lanes only, or once by a scalar-shaped instruction, and no other flag changes (R131). -/
def Obligations.IntegerSums : Prop := IntegerArithmetic ∧ IntegerSaturation

/-- SHL, SHR, SAR, ROL, FSHL and FSHR (R137). BFX, BFI, BREV, POPC, CLZ, CTZ, BPERM, SEXT, ZEXT, BITSET, BITCLR and BITTST (R138 to R142);
those that take no u or sat have no legal form with one. -/
def Obligations.IntegerBitwise : Prop := IntegerShifts ∧ IntegerBits

/-- The ICMP relations, SEL and MOV (R143, R144). LANEID and CREWIX (R145, R146): indices in the block's shape (R77) and the crew's own. -/
def Obligations.IntegerTests : Prop := IntegerComparison ∧ IntegerIndices

/-- MAND, MOR, MXOR and MNOT on masks in three registers, MPOPC and MFFS (R147). LEA and the 64-bit instructions write their pair (R130,
R148, R149); IADD64, ISUB64 and IMADW set SAT where a sum lies outside the 64-bit bounds, and no other flag changes (R131). -/
def Obligations.MasksAndPairs : Prop := MaskInstructions ∧ IntegerPairs

/-- FMIN, FMAX, FAMAX, FCLMP and FCPYS choose an operand's bits (R153, R154). FRINT, FFRAC, FSCALE, FGETX and FCLASS (R155). The FCMP
relations (R156). -/
def Obligations.FloatTests : Prop := FloatSelection ∧ FloatParts ∧ FloatComparison

/-- The conversions (R34, R159, R160). TUNPK writes the five trits of the selected byte as bytes, or zeros and TC for a reserved code (R28,
R161). -/
def Obligations.FormatConversions : Prop := Conversions ∧ TernaryUnpack

/-- VGET, VROT, VSLIDE and VBCAST read lanes of x, and VPUT and VSQZ place them (R164, R165, R168). VOTE, BALLOT and VMATCH fold the active
lanes; a scalar destination is written whatever the mask (R162, R166). -/
def Obligations.CrossLane : Prop := CrossLaneMoves ∧ CrossLaneVotes

/-- LRED folds the active lanes into one result with its flags (R166). The sign of a sum that is zero is log 7's. SCAN gives each active
lane the sum or maximum over the active lanes up to it, each rounded or narrowed on its own (R167). The sign of a sum that is zero is
log 7's. -/
def Obligations.CrossLaneSums : Prop := CrossLaneReductions ∧ CrossLaneScans

/-- MFC and MTC, number by number: which are read, which are written, and how (R106, R127 to R129, R435). DBGRD, DBGWR, CLKRD, PMRD, TMARK,
GRPQ, SPALLQ, IPREF and ICINV (R107, R108, R111 to R118). That CLKRD gives a free value while its die's counter is out of step (log 9),
that PMRD does not count itself (log 43), and what TMARK does where its buffer faults (log 18), is the model's choice. -/
def Obligations.ControlState : Prop := ControlRegisters ∧ QueriesAndDebug

/-- TRAP, TRAPC and BKPT (R104): the user trap enters the handler, to resume at the next instruction, or goes to the supervisor, as a
breakpoint always does, once the unit's results have returned; TRAPC with a zero condition does nothing. The address recorded is log
51's reading. TRET (R105, R436) resumes at the recorded address with the recorded mask, within the unit's domain, and leaves the
handler; outside one it raises handler-state, and a bad resumption address traps first (R97). -/
def Obligations.TrapsAndReturns : Prop := TrapInstructions ∧ HandlerReturn

/-- BRX (R85, R86, R88, R99): all lanes taken, none, a split into disjoint masks of which the smaller detaches, a deferral, an overflow.
Where deferred lanes stand and what is tested first are the model's readings (logs 33, 55). JOIN (R87, R88, R63): a spall waits as
JOINED, with a switch marker once its results have returned; the merger waits while its count is not zero, else takes the masks and
domains of its JOINED spalls and goes on; with a deferred record it first runs the deferred lanes; a unit that is neither traps. -/
def Obligations.BranchesAndJoins : Prop := Divergence ∧ Joining

/-- After an instruction without a transfer the unit stands at the next address, past the last word of a fetch block (R50), its run one
longer; at a switch marker it parks until its results have returned, or starts a new run, and the last-result files are invalid (R63).
No byte of memory, no other crew and no launch changes. NOP, YIELD, PRIO, TWAIT, DOZE, SUSPEND, SETBND and EXIT: their effects, waits
and traps (R58, R91, R94, R100 to R103, R109, R110). -/
def Obligations.InstructionCourse : Prop := InstructionEnds ∧ WaitsAndEnds

/-- LD, LD.ACQ and LDB: LDB reads lane after lane from one address (R308). LDC reads a line that the core's constant cache holds for the
launch from there, and another from memory, which the cache then holds (R309). -/
def Obligations.GlobalLoads : Prop := Loads ∧ ConstantLoads

/-- The store buffer is full, or pieces of an earlier store wait: a store waits, and so does every access, fence and cache operation (R302).
Scope, alignment and range traps of the accesses, and their order (R294, R307, R318). -/
def Obligations.MemoryTrapsAndStalls : Prop := StoreBufferFull ∧ MemoryTraps

/-- ATOM, ATOM.CAS, ATOM.F, MRED and MRED.F: with their lines owned they are performed; otherwise they ask for the first line that the core
does not own (R311, R312, R345). One read-modify-write: the element takes the new value where the frame's key admits the request, every
other byte keeps its own, and the old value is returned (R311, R340). Lines of fault rings and of trace headers, some of whose bytes no
store changes (R5), are apart. -/
def Obligations.GlobalAtomics : Prop := Atomics ∧ AtomicElement

/-- FENCE and FENCE.ALL wait until what they cover is complete, and then change nothing (R181, R303, R313, R314); an acquire kind waits for
scratchpad accesses alone, since a load's value is fixed when it issues (log 3). The word that WAITADDR reads, and whether it lets the
unit go on (R315). -/
def Obligations.FencesAndWaits : Prop := Fences ∧ AddressWait

/-- SPLD, SPST, SPATOM and SPATOM.CAS on the own allocation (R187 to R191). SPLDP, SPSTP and the peer forms of SPATOM and SPATOM.CAS (R177,
R189 to R191), where all lanes name blocks of one core. TLD reads an entry that is READY or DRAINING, TST fills one that is FILLING, at
offsets within its region (R192). -/
def Obligations.ScratchpadAndTiles : Prop := ScratchpadAccess ∧ PeerAccess ∧ TileAccess

/-- Misaligned offsets and offsets beyond the allocation trap, alignment first, over all lanes (R187, R195). A tile instruction on an entry
in another state, or on one that has changed its state in this ck, stalls on it (R184, R185); an index above 511, an entry that is not
defined, and one of another block or of a chute trap (R186, R188, R195). -/
def Obligations.ScratchpadStops : Prop := ScratchpadTraps ∧ TileStallsAndTraps

/-- EV.ADD, EV.SET and EV.RD (R197, R198, R210 to R213), of the own core or, with p, of another core of the cluster: the count, its wrap
into the epoch, the waiters that it wakes, the epoch returned, a counter set or undefined, the field read; and the waits and traps of
each. BAR and BAR.ARV (R205 to R207, R214): an arrival is counted; the last one completes the phase, wakes its waiters and goes on; any
other waiter suspends with the instruction as its continuation, and so does a crew that waits for its earlier arrival or for an epoch
that it names; executed again, the instruction tests its epoch and makes no second arrival. BAR.ARV returns the epoch that the phase
completes with, and never waits. -/
def Obligations.CountersAndBarriers : Prop := EventCounters ∧ GroupBarriers

/-- CH.ACQ, CH.TAKE and their TRY forms (R222, R231, R232), with their waits, a second transition of the slot in one ck among them (R185),
and traps (R229, R230). CH.PUT and CH.FREE (R233): the slot becomes READY with its item and mark, or EMPTY, once no task works on it
(R279); a crew that does not hold it traps. -/
def Obligations.Chutes : Prop := ChuteSlots ∧ ChuteReturns

/-- The MMA family enters its task queue, with a weight entry of the form that it multiplies by (R269, R273, R276, R281, R282). WLOAD,
TSACC, TSACC.I, TOPK and the ACC instructions enter their task queue (R276, R280, R283 to R287). -/
def Obligations.TaskEntries : Prop := MatrixTasks ∧ AccumulatorTasks

/-- One cell of the array: row m of the source bytes against column n of the weight lines, for every form (R33, R36 to R39, R281, R282).
That no rounding takes place where a product is infinite or invalid is the model's reading (log 81). What tasks leave at their
completion (R40, R41, R276, R277, R283, R284, R285, R287): an MMA's partial in the buffer, or added to its tile in the tile's mode;
TSACC's partial scaled and added, TSACC.I's added, and the credit returned; ACC.RD's columns and TOPK's first k candidates in the lanes
active at issue; ACC.CLR's zeros. WLOAD copies its region's bytes into the weight lines of each engine of its mask, and no other line
changes (R280); ACC.ST writes the elements of its tile, converted, where R286 places them, the later one in row-major order over the
earlier, and no other byte (R279, R286). -/
def Obligations.TaskEffects : Prop := MatrixCells ∧ TaskResults ∧ TaskStores

/-- CAP.ENTER (R350, R353): a free record is acquired; one whose runner is off its issuer or overdue is adopted, with the checkpoint in s0
to s7 and the way back kept; any other is waited for. All this needs the record's two lines owned, which are asked for first (R345).
CAP.STEP and CAP.END (R358 to R360): while the record still names the runner and its leases stand, the step write buffer and the record
are written together, every buffered byte with them; with a lease ended the step is tried again; a displaced holder reads 1, and a
displaced adopter goes back where it came from. CAP.RESULT (R365), and LD and ST inside a step (R355 to R357): bytes of the step write
buffer come before those of the line, a store goes into the buffer alone, and an access outside the lease set traps. The ends of leases,
and what capsules send to other crews (R348, R351, R356, R357, R360). -/
def Obligations.Capsules : Prop := CapsuleEntry ∧ CapsuleCommit ∧ CapsuleAccess ∧ CapsuleSteps

/-- PREF, CFLUSH and CINV reach the lines that translate, skip the others, and change no byte that a load returns; a deep CFLUSH writes its
lines to the memory device, from whichever L1 holds them modified, once no other agent holds them (R307, R309, R310). Translation for a
core whose TLBs and walk caches hold nothing for the address: both stages of tables give the physical address, the key slot and the
ordering attribute, with the flag bits of the last leaf set, or the fault of the stage and level that stops it; and a TLB entry that
permits the access gives its own (R319 to R324). The entries' bytes are read under their frames' keys (log 17). Stores on their way,
walkers, probes, banks, memory controllers, key sweeps, retention (R302, R303, R325, R330 to R334, R340 to R344). That a store is
performed at its first acknowledgement, and that one frame moves a step, is the model's choice (log 4, log 22). -/
def Obligations.CachesAndMemory : Prop := CacheOperations ∧ Translation ∧ MemorySteps

/-- Reading, starting and completing packets (R367, R370 to R375, R382): a packet that was read ahead is not read again, and one of a queue
whose reference is void ends with CAPABILITY. A completion is the record, ctail and the signal word, written in this order through the
partition's tables; one that faults stays first with its queue paused. What a check finds first beyond R371 to R374 is the model's
choice (log 20, log 25). LAUNCH, not read ahead, and the end of its wait for a chute index (R372, R377 to R381, R218). The launch's
number and its place are the model's choice (log 20). -/
def Obligations.QueuesAndLaunches : Prop := PacketSteps ∧ LaunchSteps

/-- Charges, draws, periods and rebalancing (R240, R241, R399 to R403). A charge takes the crew-cycles that were counted, ck by ck, since
the last; then tenants draw from the pool in turn. Without a routine a rebalance makes the moves of the default rule, the first eight of
which an interval takes (log 24). Decision points and the engines (R384, R405 to R407, R419 to R421, R423, R425, R428). Among entries
that fit nowhere, and picks that name none, the model chooses (logs 20, 24); when a partition is overdue is R428's, how long it has
waited log 35's. -/
def Obligations.BudgetsAndDecisions : Prop := BudgetSteps ∧ DecisionSteps

/-- Each operation of a policy engine (R408, R409, R411, R412). A poisoned window gives a load no stated value (log 14), and a window
outside the engine's die takes the far latency (log 37). A decision of the block point, applied after END, takes its block away; one of
a tick changes nothing (R407, R409, R420). -/
def Obligations.PolicyEngine : Prop := PolicyOperations ∧ PolicyDecisions

/-- Records are written in the order of their faults, and passed with a disposition (R437 to R441, R444). A poisoned head is reported once
(log 14). Storage errors and their summary (R442 to R446). The step's codes 12 to 15, of copies that are fetched again, are the model's
(log 78). -/
def Obligations.FaultsAndErrors : Prop := FaultRings ∧ StorageErrors

/-- Firmware crashes and the boot service (R447 to R449, R454 to R456). The numbers of a reply's status, the bytes of the part number, and
those that a second answer repeats, are the model's choices (log 27); what a die reset leaves is log 26's. Resets, the life cycle, power
and links (R448, R450, R457, R458, R460 to R462). What dies ask for, what cores draw, and how a core's part and a cap's excess are taken
(log 10), the code under which a life-cycle change answers (log 27), the step that writes the power register (log 47) and values that
the manual gives no reset for (log 15) are the model's choices. -/
def Obligations.BootAndResets : Prop := BootService ∧ ResetsAndPower
end

