-- ==== Sys2Proof/Laws/Table.lean ====
section
/-! SUPPORT. Laws of sparse tables and of byte memories: a read after a write, and the canonical form that every memory operation
keeps. -/

namespace Sys2Proof.Machine

namespace Table
variable {β : Type}

@[simp] theorem get?_nil (a : Nat) : get? ([] : Table β) a = none := rfl

theorem get?_cons (e : Nat × β) (t : Table β) (a : Nat) : get? (e :: t) a = if e.1 = a then some e.2 else get? t a := rfl

/-- Replacing an entry makes it the entry. -/
@[simp] theorem get?_put_self (t : Table β) (a : Nat) (y : β) : get? (put t a y) a = some y := by
  induction t with
  | nil => simp [put, get?]
  | cons e t ih =>
    obtain ⟨k, x⟩ := e
    unfold put
    split_ifs with h1 h2
    · simp [get?]
    · simp [get?]
    · simp [get?, ih, Ne.symm h2]

/-- Replacing an entry leaves the others. -/
theorem get?_put_of_ne (t : Table β) {a b : Nat} (y : β) (h : b ≠ a) : get? (put t a y) b = get? t b := by
  induction t with
  | nil => simp [put, get?, h.symm]
  | cons e t ih =>
    obtain ⟨k, x⟩ := e
    unfold put
    split_ifs with h1 h2
    · simp [get?, h.symm]
    · subst h2; simp [get?, h.symm]
    · simp [get?, ih]

theorem get?_put (t : Table β) (a b : Nat) (y : β) : get? (put t a y) b = if b = a then some y else get? t b := by
  split_ifs with h
  · rw [h, get?_put_self]
  · exact get?_put_of_ne t y h

theorem get?_filter (t : Table β) (p : Nat → Bool) (a : Nat) : get? (t.filter fun e => p e.1) a = if p a then get? t a else none := by
  induction t with
  | nil => simp
  | cons e t ih =>
    by_cases hk : e.1 = a
    · subst hk; by_cases hp : p e.1 <;> simp_all [get?_cons]
    · by_cases hp : p e.1 <;> simp [hp, get?_cons, hk, ih]

theorem get?_del (t : Table β) (a b : Nat) : get? (del t a) b = if b = a then none else get? t b := by
  unfold del; rw [get?_filter t (fun k => k != a)]; by_cases h : b = a <;> simp [h]

theorem getD_put (t : Table β) (a b : Nat) (y d : β) : getD (put t a y) b d = if b = a then y else getD t b d := by
  unfold getD; rw [get?_put]; split_ifs <;> rfl

/-- What `put` lists: the new entry and old ones. -/
theorem mem_put {t : Table β} {a : Nat} {y : β} {e : Nat × β} (h : e ∈ put t a y) : e = (a, y) ∨ e ∈ t := by
  induction t with
  | nil => simp_all [put]
  | cons f t ih =>
    obtain ⟨k, x⟩ := f
    unfold put at h
    split_ifs at h <;> simp_all <;> tauto

/-- `put` keeps ascending order. -/
theorem sorted_put {t : Table β} (h : t.Sorted) (a : Nat) (y : β) : Sorted (put t a y) := by
  unfold Sorted at *
  induction t with
  | nil => simp [put]
  | cons e t ih =>
    obtain ⟨k, x⟩ := e
    rw [List.pairwise_cons] at h
    unfold put
    split_ifs with h1 h2
    · refine List.pairwise_cons.2 ⟨?_, List.pairwise_cons.2 h⟩
      intro f hf
      rcases List.mem_cons.1 hf with rfl | hf
      · exact h1
      · exact lt_trans h1 (h.1 f hf)
    · subst h2; exact List.pairwise_cons.2 h
    · refine List.pairwise_cons.2 ⟨?_, ih h.2⟩
      intro f hf
      rcases mem_put hf with rfl | hf
      · simp only; omega
      · exact h.1 f hf

theorem sorted_filter {t : Table β} (h : t.Sorted) (p : Nat × β → Bool) : Sorted (t.filter p) := List.Pairwise.filter p h

end Table

namespace Memory

/-- The canonical form, said over the whole list. -/
theorem wf_iff (m : Memory) : wf m = true ↔ Table.Sorted m ∧ ∀ c ∈ m, c.2 ≠ 0 := by
  unfold Table.Sorted
  induction m with
  | nil => simp [wf]
  | cons c m ih =>
    obtain ⟨k, b⟩ := c
    cases m with
    | nil => simp [wf]
    | cons d m =>
      obtain ⟨l, e⟩ := d
      simp only [wf, Bool.and_eq_true, bne_iff_ne, decide_eq_true_eq, ih, List.pairwise_cons, List.mem_cons, forall_eq_or_imp]
      constructor
      · rintro ⟨⟨hb, hkl⟩, ⟨h1, h2⟩, he, h3⟩
        exact ⟨⟨⟨hkl, fun c hc => lt_trans hkl (h1 c hc)⟩, h1, h2⟩, hb, he, h3⟩
      · rintro ⟨⟨⟨hkl, -⟩, h1, h2⟩, hb, he, h3⟩
        exact ⟨⟨hb, hkl⟩, ⟨h1, h2⟩, he, h3⟩

/-- Storing a byte keeps the canonical form. -/
theorem wf_store {m : Memory} (h : wf m = true) (a : Nat) (b : Byte) : wf (m.store a b) = true := by
  rw [wf_iff] at *
  unfold store
  split_ifs with hb
  · exact ⟨Table.sorted_filter h.1 _, fun c hc => h.2 c (List.mem_filter.1 hc).1⟩
  · refine ⟨Table.sorted_put h.1 a b, fun c hc => ?_⟩
    rcases Table.mem_put hc with rfl | hc
    · exact hb
    · exact h.2 c hc

/-- So does storing consecutive bytes. -/
theorem wf_storeBytes {m : Memory} (h : wf m = true) (a : Nat) (bs : List Byte) : wf (m.storeBytes a bs) = true := by
  induction bs generalizing m a with
  | nil => exact h
  | cons b bs ih => exact ih (wf_store h a b) (a + 1)

/-- So does dropping the bytes of some addresses. -/
theorem wf_keep {m : Memory} (h : wf m = true) (p : Nat → Bool) : wf (m.keep p) = true := by
  rw [wf_iff] at *
  exact ⟨Table.sorted_filter h.1 _, fun c hc => h.2 c (List.mem_filter.1 hc).1⟩

/-- So does storing the bytes of a list of offsets. -/
theorem wf_foldl_store {α : Type} {m : Memory} (h : wf m = true) (es : List α) (f : α → Nat) (g : α → Byte) :
    wf (es.foldl (fun m e => m.store (f e) (g e)) m) = true := by
  induction es generalizing m with
  | nil => exact h
  | cons e es ih => exact ih (wf_store h _ _)

/-- A read after a store of one byte. -/
theorem byte_store (m : Memory) (a : Nat) (b : Byte) (c : Nat) : (m.store a b).byte c = if c = a then b else m.byte c := by
  unfold byte store
  split_ifs with hb hc hc
  · unfold Table.getD; rw [Table.get?_del]; simp [hc, hb]
  · unfold Table.getD; rw [Table.get?_del]; simp [hc]
  · rw [Table.getD_put]; simp [hc]
  · rw [Table.getD_put]; simp [hc]

/-- A read after a store of consecutive bytes. -/
theorem byte_storeBytes (m : Memory) (a : Nat) (bs : List Byte) (c : Nat) :
    (m.storeBytes a bs).byte c = if a ≤ c ∧ c < a + bs.length then bs.getD (c - a) 0 else m.byte c := by
  induction bs generalizing m a with
  | nil =>
    have h : ¬ (a ≤ c ∧ c < a + ([] : List Byte).length) := by simp
    rw [if_neg h]; rfl
  | cons b bs ih =>
    simp only [storeBytes, List.length_cons]
    rw [ih, byte_store]
    by_cases h1 : c = a
    · subst h1
      have hn : ¬ (c + 1 ≤ c ∧ c < c + 1 + bs.length) := by omega
      have hy : c ≤ c ∧ c < c + (bs.length + 1) := by omega
      rw [if_neg hn, if_pos rfl, if_pos hy]; simp
    · by_cases h2 : a + 1 ≤ c ∧ c < a + 1 + bs.length
      · have hy : a ≤ c ∧ c < a + (bs.length + 1) := by omega
        rw [if_pos h2, if_pos hy]
        obtain ⟨j, hj⟩ : ∃ j, c - a = j + 1 := ⟨c - a - 1, by omega⟩
        have : c - (a + 1) = j := by omega
        rw [this, hj]; simp
      · have hn : ¬ (a ≤ c ∧ c < a + (bs.length + 1)) := by omega
        rw [if_neg h2, if_neg h1, if_neg hn]

/-- A read after some addresses were dropped. -/
theorem byte_keep (m : Memory) (p : Nat → Bool) (c : Nat) : (m.keep p).byte c = if p c then m.byte c else 0 := by
  unfold byte keep Table.getD; rw [Table.get?_filter]; split_ifs <;> rfl

end Memory

/-- The bytes of a number give it back, modulo their width (R4). -/
theorem leNat_leBytes (n x : Nat) : leNat (leBytes n x) = x % 256 ^ n := by
  induction n generalizing x with
  | zero => simp [leBytes, leNat, Nat.mod_one]
  | succ n ih =>
    have h : 256 ^ (n + 1) = 256 * 256 ^ n := by ring
    simp only [leBytes, leNat, ih, BitVec.toNat_ofNat, h]
    rw [show (2 : Nat) ^ 8 = 256 from rfl, ← Nat.mod_mul]

@[simp] theorem leBytes_length (n x : Nat) : (leBytes n x).length = n := by
  induction n generalizing x with
  | zero => rfl
  | succ n ih => simp [leBytes, ih]

end Sys2Proof.Machine
end

