-- ==== Sys2Proof/Laws/State.lean ====
section
/-! SUPPORT. What each update of the state leaves, field by field, and what the updated part reads afterwards. -/

namespace Sys2Proof.Machine

/-! ## State.setCore -/

@[simp] theorem State.setCore_ck (s : State) (n : Nat) (c : Core) : (s.setCore n c).ck = s.ck := rfl
@[simp] theorem State.setCore_power (s : State) (n : Nat) (c : Core) : (s.setCore n c).power = s.power := rfl
@[simp] theorem State.setCore_agenda (s : State) (n : Nat) (c : Core) : (s.setCore n c).agenda = s.agenda := rfl
@[simp] theorem State.setCore_focus (s : State) (n : Nat) (c : Core) : (s.setCore n c).focus = s.focus := rfl
@[simp] theorem State.setCore_phase (s : State) (n : Nat) (c : Core) : (s.setCore n c).phase = s.phase := rfl
@[simp] theorem State.setCore_place (s : State) (n : Nat) (c : Core) : (s.setCore n c).place = s.place := rfl
@[simp] theorem State.setCore_spent (s : State) (n : Nat) (c : Core) : (s.setCore n c).spent = s.spent := rfl
@[simp] theorem State.setCore_accepted (s : State) (n : Nat) (c : Core) : (s.setCore n c).accepted = s.accepted := rfl
@[simp] theorem State.setCore_moved (s : State) (n : Nat) (c : Core) : (s.setCore n c).moved = s.moved := rfl
@[simp] theorem State.setCore_banked (s : State) (n : Nat) (c : Core) : (s.setCore n c).banked = s.banked := rfl
@[simp] theorem State.setCore_fresh (s : State) (n : Nat) (c : Core) : (s.setCore n c).fresh = s.fresh := rfl
@[simp] theorem State.setCore_mem (s : State) (n : Nat) (c : Core) : (s.setCore n c).mem = s.mem := rfl
@[simp] theorem State.setCore_heads (s : State) (n : Nat) (c : Core) : (s.setCore n c).heads = s.heads := rfl
@[simp] theorem State.setCore_traces (s : State) (n : Nat) (c : Core) : (s.setCore n c).traces = s.traces := rfl
@[simp] theorem State.setCore_poison (s : State) (n : Nat) (c : Core) : (s.setCore n c).poison = s.poison := rfl
@[simp] theorem State.setCore_poisonIn (s : State) (n : Nat) (c : Core) : (s.setCore n c).poisonIn = s.poisonIn := rfl
@[simp] theorem State.setCore_dirty (s : State) (n : Nat) (c : Core) : (s.setCore n c).dirty = s.dirty := rfl
@[simp] theorem State.setCore_frames (s : State) (n : Nat) (c : Core) : (s.setCore n c).frames = s.frames := rfl
@[simp] theorem State.setCore_keys (s : State) (n : Nat) (c : Core) : (s.setCore n c).keys = s.keys := rfl
@[simp] theorem State.setCore_dropCount (s : State) (n : Nat) (c : Core) : (s.setCore n c).dropCount = s.dropCount := rfl
@[simp] theorem State.setCore_retention (s : State) (n : Nat) (c : Core) : (s.setCore n c).retention = s.retention := rfl
@[simp] theorem State.setCore_hotEvents (s : State) (n : Nat) (c : Core) : (s.setCore n c).hotEvents = s.hotEvents := rfl
@[simp] theorem State.setCore_tlb (s : State) (n : Nat) (c : Core) : (s.setCore n c).tlb = s.tlb := rfl
@[simp] theorem State.setCore_walks (s : State) (n : Nat) (c : Core) : (s.setCore n c).walks = s.walks := rfl
@[simp] theorem State.setCore_dir (s : State) (n : Nat) (c : Core) : (s.setCore n c).dir = s.dir := rfl
@[simp] theorem State.setCore_l2 (s : State) (n : Nat) (c : Core) : (s.setCore n c).l2 = s.l2 := rfl
@[simp] theorem State.setCore_banks (s : State) (n : Nat) (c : Core) : (s.setCore n c).banks = s.banks := rfl
@[simp] theorem State.setCore_probes (s : State) (n : Nat) (c : Core) : (s.setCore n c).probes = s.probes := rfl
@[simp] theorem State.setCore_flights (s : State) (n : Nat) (c : Core) : (s.setCore n c).flights = s.flights := rfl
@[simp] theorem State.setCore_nextFlight (s : State) (n : Nat) (c : Core) : (s.setCore n c).nextFlight = s.nextFlight := rfl
@[simp] theorem State.setCore_nextItem (s : State) (n : Nat) (c : Core) : (s.setCore n c).nextItem = s.nextItem := rfl
@[simp] theorem State.setCore_blocks (s : State) (n : Nat) (c : Core) : (s.setCore n c).blocks = s.blocks := rfl
@[simp] theorem State.setCore_crews (s : State) (n : Nat) (c : Core) : (s.setCore n c).crews = s.crews := rfl
@[simp] theorem State.setCore_launches (s : State) (n : Nat) (c : Core) : (s.setCore n c).launches = s.launches := rfl
@[simp] theorem State.setCore_nextLaunch (s : State) (n : Nat) (c : Core) : (s.setCore n c).nextLaunch = s.nextLaunch := rfl
@[simp] theorem State.setCore_queues (s : State) (n : Nat) (c : Core) : (s.setCore n c).queues = s.queues := rfl
@[simp] theorem State.setCore_references (s : State) (n : Nat) (c : Core) : (s.setCore n c).references = s.references := rfl
@[simp] theorem State.setCore_slotGens (s : State) (n : Nat) (c : Core) : (s.setCore n c).slotGens = s.slotGens := rfl
@[simp] theorem State.setCore_parts (s : State) (n : Nat) (c : Core) : (s.setCore n c).parts = s.parts := rfl
@[simp] theorem State.setCore_tenants (s : State) (n : Nat) (c : Core) : (s.setCore n c).tenants = s.tenants := rfl
@[simp] theorem State.setCore_clusters (s : State) (n : Nat) (c : Core) : (s.setCore n c).clusters = s.clusters := rfl
@[simp] theorem State.setCore_floor (s : State) (n : Nat) (c : Core) : (s.setCore n c).floor = s.floor := rfl
@[simp] theorem State.setCore_period (s : State) (n : Nat) (c : Core) : (s.setCore n c).period = s.period := rfl
@[simp] theorem State.setCore_pool (s : State) (n : Nat) (c : Core) : (s.setCore n c).pool = s.pool := rfl
@[simp] theorem State.setCore_nextCharge (s : State) (n : Nat) (c : Core) : (s.setCore n c).nextCharge = s.nextCharge := rfl
@[simp] theorem State.setCore_nextPeriod (s : State) (n : Nat) (c : Core) : (s.setCore n c).nextPeriod = s.nextPeriod := rfl
@[simp] theorem State.setCore_nextPower (s : State) (n : Nat) (c : Core) : (s.setCore n c).nextPower = s.nextPower := rfl
@[simp] theorem State.setCore_nextSummary (s : State) (n : Nat) (c : Core) : (s.setCore n c).nextSummary = s.nextSummary := rfl
@[simp] theorem State.setCore_eccCount (s : State) (n : Nat) (c : Core) : (s.setCore n c).eccCount = s.eccCount := rfl
@[simp] theorem State.setCore_softErrors (s : State) (n : Nat) (c : Core) : (s.setCore n c).softErrors = s.softErrors := rfl
@[simp] theorem State.setCore_rings (s : State) (n : Nat) (c : Core) : (s.setCore n c).rings = s.rings := rfl
@[simp] theorem State.setCore_nextHold (s : State) (n : Nat) (c : Core) : (s.setCore n c).nextHold = s.nextHold := rfl
@[simp] theorem State.setCore_policyLog (s : State) (n : Nat) (c : Core) : (s.setCore n c).policyLog = s.policyLog := rfl
@[simp] theorem State.setCore_migRing (s : State) (n : Nat) (c : Core) : (s.setCore n c).migRing = s.migRing := rfl
@[simp] theorem State.setCore_migNext (s : State) (n : Nat) (c : Core) : (s.setCore n c).migNext = s.migNext := rfl
@[simp] theorem State.setCore_credits (s : State) (n : Nat) (c : Core) : (s.setCore n c).credits = s.credits := rfl
@[simp] theorem State.setCore_notices (s : State) (n : Nat) (c : Core) : (s.setCore n c).notices = s.notices := rfl
@[simp] theorem State.setCore_nextNotice (s : State) (n : Nat) (c : Core) : (s.setCore n c).nextNotice = s.nextNotice := rfl
@[simp] theorem State.setCore_spoil (s : State) (n : Nat) (c : Core) : (s.setCore n c).spoil = s.spoil := rfl
@[simp] theorem State.setCore_spoilNext (s : State) (n : Nat) (c : Core) : (s.setCore n c).spoilNext = s.spoilNext := rfl
@[simp] theorem State.setCore_spoilWritten (s : State) (n : Nat) (c : Core) : (s.setCore n c).spoilWritten = s.spoilWritten := rfl
@[simp] theorem State.setCore_cpDown (s : State) (n : Nat) (c : Core) : (s.setCore n c).cpDown = s.cpDown := rfl
@[simp] theorem State.setCore_boot (s : State) (n : Nat) (c : Core) : (s.setCore n c).boot = s.boot := rfl
@[simp] theorem State.setCore_imageStore (s : State) (n : Nat) (c : Core) : (s.setCore n c).imageStore = s.imageStore := rfl
@[simp] theorem State.setCore_firmware (s : State) (n : Nat) (c : Core) : (s.setCore n c).firmware = s.firmware := rfl
@[simp] theorem State.setCore_lifeCycle (s : State) (n : Nat) (c : Core) : (s.setCore n c).lifeCycle = s.lifeCycle := rfl
@[simp] theorem State.setCore_boots (s : State) (n : Nat) (c : Core) : (s.setCore n c).boots = s.boots := rfl
@[simp] theorem State.setCore_resets (s : State) (n : Nat) (c : Core) : (s.setCore n c).resets = s.resets := rfl
@[simp] theorem State.setCore_ckSkew (s : State) (n : Nat) (c : Core) : (s.setCore n c).ckSkew = s.ckSkew := rfl
@[simp] theorem State.setCore_portsDown (s : State) (n : Nat) (c : Core) : (s.setCore n c).portsDown = s.portsDown := rfl
@[simp] theorem State.setCore_qps (s : State) (n : Nat) (c : Core) : (s.setCore n c).qps = s.qps := rfl
@[simp] theorem State.setCore_regions (s : State) (n : Nat) (c : Core) : (s.setCore n c).regions = s.regions := rfl
@[simp] theorem State.setCore_portWork (s : State) (n : Nat) (c : Core) : (s.setCore n c).portWork = s.portWork := rfl
@[simp] theorem State.setCore_portRings (s : State) (n : Nat) (c : Core) : (s.setCore n c).portRings = s.portRings := rfl
@[simp] theorem State.setCore_portHeld (s : State) (n : Nat) (c : Core) : (s.setCore n c).portHeld = s.portHeld := rfl
@[simp] theorem State.setCore_replies (s : State) (n : Nat) (c : Core) : (s.setCore n c).replies = s.replies := rfl

/-! ## State.modCore -/

@[simp] theorem State.modCore_ck (s : State) (n : Nat) (f : Core → Core) : (s.modCore n f).ck = s.ck := rfl
@[simp] theorem State.modCore_power (s : State) (n : Nat) (f : Core → Core) : (s.modCore n f).power = s.power := rfl
@[simp] theorem State.modCore_agenda (s : State) (n : Nat) (f : Core → Core) : (s.modCore n f).agenda = s.agenda := rfl
@[simp] theorem State.modCore_focus (s : State) (n : Nat) (f : Core → Core) : (s.modCore n f).focus = s.focus := rfl
@[simp] theorem State.modCore_phase (s : State) (n : Nat) (f : Core → Core) : (s.modCore n f).phase = s.phase := rfl
@[simp] theorem State.modCore_place (s : State) (n : Nat) (f : Core → Core) : (s.modCore n f).place = s.place := rfl
@[simp] theorem State.modCore_spent (s : State) (n : Nat) (f : Core → Core) : (s.modCore n f).spent = s.spent := rfl
@[simp] theorem State.modCore_accepted (s : State) (n : Nat) (f : Core → Core) : (s.modCore n f).accepted = s.accepted := rfl
@[simp] theorem State.modCore_moved (s : State) (n : Nat) (f : Core → Core) : (s.modCore n f).moved = s.moved := rfl
@[simp] theorem State.modCore_banked (s : State) (n : Nat) (f : Core → Core) : (s.modCore n f).banked = s.banked := rfl
@[simp] theorem State.modCore_fresh (s : State) (n : Nat) (f : Core → Core) : (s.modCore n f).fresh = s.fresh := rfl
@[simp] theorem State.modCore_mem (s : State) (n : Nat) (f : Core → Core) : (s.modCore n f).mem = s.mem := rfl
@[simp] theorem State.modCore_heads (s : State) (n : Nat) (f : Core → Core) : (s.modCore n f).heads = s.heads := rfl
@[simp] theorem State.modCore_traces (s : State) (n : Nat) (f : Core → Core) : (s.modCore n f).traces = s.traces := rfl
@[simp] theorem State.modCore_poison (s : State) (n : Nat) (f : Core → Core) : (s.modCore n f).poison = s.poison := rfl
@[simp] theorem State.modCore_poisonIn (s : State) (n : Nat) (f : Core → Core) : (s.modCore n f).poisonIn = s.poisonIn := rfl
@[simp] theorem State.modCore_dirty (s : State) (n : Nat) (f : Core → Core) : (s.modCore n f).dirty = s.dirty := rfl
@[simp] theorem State.modCore_frames (s : State) (n : Nat) (f : Core → Core) : (s.modCore n f).frames = s.frames := rfl
@[simp] theorem State.modCore_keys (s : State) (n : Nat) (f : Core → Core) : (s.modCore n f).keys = s.keys := rfl
@[simp] theorem State.modCore_dropCount (s : State) (n : Nat) (f : Core → Core) : (s.modCore n f).dropCount = s.dropCount := rfl
@[simp] theorem State.modCore_retention (s : State) (n : Nat) (f : Core → Core) : (s.modCore n f).retention = s.retention := rfl
@[simp] theorem State.modCore_hotEvents (s : State) (n : Nat) (f : Core → Core) : (s.modCore n f).hotEvents = s.hotEvents := rfl
@[simp] theorem State.modCore_tlb (s : State) (n : Nat) (f : Core → Core) : (s.modCore n f).tlb = s.tlb := rfl
@[simp] theorem State.modCore_walks (s : State) (n : Nat) (f : Core → Core) : (s.modCore n f).walks = s.walks := rfl
@[simp] theorem State.modCore_dir (s : State) (n : Nat) (f : Core → Core) : (s.modCore n f).dir = s.dir := rfl
@[simp] theorem State.modCore_l2 (s : State) (n : Nat) (f : Core → Core) : (s.modCore n f).l2 = s.l2 := rfl
@[simp] theorem State.modCore_banks (s : State) (n : Nat) (f : Core → Core) : (s.modCore n f).banks = s.banks := rfl
@[simp] theorem State.modCore_probes (s : State) (n : Nat) (f : Core → Core) : (s.modCore n f).probes = s.probes := rfl
@[simp] theorem State.modCore_flights (s : State) (n : Nat) (f : Core → Core) : (s.modCore n f).flights = s.flights := rfl
@[simp] theorem State.modCore_nextFlight (s : State) (n : Nat) (f : Core → Core) : (s.modCore n f).nextFlight = s.nextFlight := rfl
@[simp] theorem State.modCore_nextItem (s : State) (n : Nat) (f : Core → Core) : (s.modCore n f).nextItem = s.nextItem := rfl
@[simp] theorem State.modCore_blocks (s : State) (n : Nat) (f : Core → Core) : (s.modCore n f).blocks = s.blocks := rfl
@[simp] theorem State.modCore_crews (s : State) (n : Nat) (f : Core → Core) : (s.modCore n f).crews = s.crews := rfl
@[simp] theorem State.modCore_launches (s : State) (n : Nat) (f : Core → Core) : (s.modCore n f).launches = s.launches := rfl
@[simp] theorem State.modCore_nextLaunch (s : State) (n : Nat) (f : Core → Core) : (s.modCore n f).nextLaunch = s.nextLaunch := rfl
@[simp] theorem State.modCore_queues (s : State) (n : Nat) (f : Core → Core) : (s.modCore n f).queues = s.queues := rfl
@[simp] theorem State.modCore_references (s : State) (n : Nat) (f : Core → Core) : (s.modCore n f).references = s.references := rfl
@[simp] theorem State.modCore_slotGens (s : State) (n : Nat) (f : Core → Core) : (s.modCore n f).slotGens = s.slotGens := rfl
@[simp] theorem State.modCore_parts (s : State) (n : Nat) (f : Core → Core) : (s.modCore n f).parts = s.parts := rfl
@[simp] theorem State.modCore_tenants (s : State) (n : Nat) (f : Core → Core) : (s.modCore n f).tenants = s.tenants := rfl
@[simp] theorem State.modCore_clusters (s : State) (n : Nat) (f : Core → Core) : (s.modCore n f).clusters = s.clusters := rfl
@[simp] theorem State.modCore_floor (s : State) (n : Nat) (f : Core → Core) : (s.modCore n f).floor = s.floor := rfl
@[simp] theorem State.modCore_period (s : State) (n : Nat) (f : Core → Core) : (s.modCore n f).period = s.period := rfl
@[simp] theorem State.modCore_pool (s : State) (n : Nat) (f : Core → Core) : (s.modCore n f).pool = s.pool := rfl
@[simp] theorem State.modCore_nextCharge (s : State) (n : Nat) (f : Core → Core) : (s.modCore n f).nextCharge = s.nextCharge := rfl
@[simp] theorem State.modCore_nextPeriod (s : State) (n : Nat) (f : Core → Core) : (s.modCore n f).nextPeriod = s.nextPeriod := rfl
@[simp] theorem State.modCore_nextPower (s : State) (n : Nat) (f : Core → Core) : (s.modCore n f).nextPower = s.nextPower := rfl
@[simp] theorem State.modCore_nextSummary (s : State) (n : Nat) (f : Core → Core) : (s.modCore n f).nextSummary = s.nextSummary := rfl
@[simp] theorem State.modCore_eccCount (s : State) (n : Nat) (f : Core → Core) : (s.modCore n f).eccCount = s.eccCount := rfl
@[simp] theorem State.modCore_softErrors (s : State) (n : Nat) (f : Core → Core) : (s.modCore n f).softErrors = s.softErrors := rfl
@[simp] theorem State.modCore_rings (s : State) (n : Nat) (f : Core → Core) : (s.modCore n f).rings = s.rings := rfl
@[simp] theorem State.modCore_nextHold (s : State) (n : Nat) (f : Core → Core) : (s.modCore n f).nextHold = s.nextHold := rfl
@[simp] theorem State.modCore_policyLog (s : State) (n : Nat) (f : Core → Core) : (s.modCore n f).policyLog = s.policyLog := rfl
@[simp] theorem State.modCore_migRing (s : State) (n : Nat) (f : Core → Core) : (s.modCore n f).migRing = s.migRing := rfl
@[simp] theorem State.modCore_migNext (s : State) (n : Nat) (f : Core → Core) : (s.modCore n f).migNext = s.migNext := rfl
@[simp] theorem State.modCore_credits (s : State) (n : Nat) (f : Core → Core) : (s.modCore n f).credits = s.credits := rfl
@[simp] theorem State.modCore_notices (s : State) (n : Nat) (f : Core → Core) : (s.modCore n f).notices = s.notices := rfl
@[simp] theorem State.modCore_nextNotice (s : State) (n : Nat) (f : Core → Core) : (s.modCore n f).nextNotice = s.nextNotice := rfl
@[simp] theorem State.modCore_spoil (s : State) (n : Nat) (f : Core → Core) : (s.modCore n f).spoil = s.spoil := rfl
@[simp] theorem State.modCore_spoilNext (s : State) (n : Nat) (f : Core → Core) : (s.modCore n f).spoilNext = s.spoilNext := rfl
@[simp] theorem State.modCore_spoilWritten (s : State) (n : Nat) (f : Core → Core) : (s.modCore n f).spoilWritten = s.spoilWritten := rfl
@[simp] theorem State.modCore_cpDown (s : State) (n : Nat) (f : Core → Core) : (s.modCore n f).cpDown = s.cpDown := rfl
@[simp] theorem State.modCore_boot (s : State) (n : Nat) (f : Core → Core) : (s.modCore n f).boot = s.boot := rfl
@[simp] theorem State.modCore_imageStore (s : State) (n : Nat) (f : Core → Core) : (s.modCore n f).imageStore = s.imageStore := rfl
@[simp] theorem State.modCore_firmware (s : State) (n : Nat) (f : Core → Core) : (s.modCore n f).firmware = s.firmware := rfl
@[simp] theorem State.modCore_lifeCycle (s : State) (n : Nat) (f : Core → Core) : (s.modCore n f).lifeCycle = s.lifeCycle := rfl
@[simp] theorem State.modCore_boots (s : State) (n : Nat) (f : Core → Core) : (s.modCore n f).boots = s.boots := rfl
@[simp] theorem State.modCore_resets (s : State) (n : Nat) (f : Core → Core) : (s.modCore n f).resets = s.resets := rfl
@[simp] theorem State.modCore_ckSkew (s : State) (n : Nat) (f : Core → Core) : (s.modCore n f).ckSkew = s.ckSkew := rfl
@[simp] theorem State.modCore_portsDown (s : State) (n : Nat) (f : Core → Core) : (s.modCore n f).portsDown = s.portsDown := rfl
@[simp] theorem State.modCore_qps (s : State) (n : Nat) (f : Core → Core) : (s.modCore n f).qps = s.qps := rfl
@[simp] theorem State.modCore_regions (s : State) (n : Nat) (f : Core → Core) : (s.modCore n f).regions = s.regions := rfl
@[simp] theorem State.modCore_portWork (s : State) (n : Nat) (f : Core → Core) : (s.modCore n f).portWork = s.portWork := rfl
@[simp] theorem State.modCore_portRings (s : State) (n : Nat) (f : Core → Core) : (s.modCore n f).portRings = s.portRings := rfl
@[simp] theorem State.modCore_portHeld (s : State) (n : Nat) (f : Core → Core) : (s.modCore n f).portHeld = s.portHeld := rfl
@[simp] theorem State.modCore_replies (s : State) (n : Nat) (f : Core → Core) : (s.modCore n f).replies = s.replies := rfl

/-! ## State.setCrew -/

@[simp] theorem State.setCrew_ck (s : State) (k : Nat) (c : Crew) : (s.setCrew k c).ck = s.ck := rfl
@[simp] theorem State.setCrew_power (s : State) (k : Nat) (c : Crew) : (s.setCrew k c).power = s.power := rfl
@[simp] theorem State.setCrew_agenda (s : State) (k : Nat) (c : Crew) : (s.setCrew k c).agenda = s.agenda := rfl
@[simp] theorem State.setCrew_focus (s : State) (k : Nat) (c : Crew) : (s.setCrew k c).focus = s.focus := rfl
@[simp] theorem State.setCrew_phase (s : State) (k : Nat) (c : Crew) : (s.setCrew k c).phase = s.phase := rfl
@[simp] theorem State.setCrew_place (s : State) (k : Nat) (c : Crew) : (s.setCrew k c).place = s.place := rfl
@[simp] theorem State.setCrew_spent (s : State) (k : Nat) (c : Crew) : (s.setCrew k c).spent = s.spent := rfl
@[simp] theorem State.setCrew_accepted (s : State) (k : Nat) (c : Crew) : (s.setCrew k c).accepted = s.accepted := rfl
@[simp] theorem State.setCrew_moved (s : State) (k : Nat) (c : Crew) : (s.setCrew k c).moved = s.moved := rfl
@[simp] theorem State.setCrew_banked (s : State) (k : Nat) (c : Crew) : (s.setCrew k c).banked = s.banked := rfl
@[simp] theorem State.setCrew_fresh (s : State) (k : Nat) (c : Crew) : (s.setCrew k c).fresh = s.fresh := rfl
@[simp] theorem State.setCrew_mem (s : State) (k : Nat) (c : Crew) : (s.setCrew k c).mem = s.mem := rfl
@[simp] theorem State.setCrew_heads (s : State) (k : Nat) (c : Crew) : (s.setCrew k c).heads = s.heads := rfl
@[simp] theorem State.setCrew_traces (s : State) (k : Nat) (c : Crew) : (s.setCrew k c).traces = s.traces := rfl
@[simp] theorem State.setCrew_poison (s : State) (k : Nat) (c : Crew) : (s.setCrew k c).poison = s.poison := rfl
@[simp] theorem State.setCrew_poisonIn (s : State) (k : Nat) (c : Crew) : (s.setCrew k c).poisonIn = s.poisonIn := rfl
@[simp] theorem State.setCrew_dirty (s : State) (k : Nat) (c : Crew) : (s.setCrew k c).dirty = s.dirty := rfl
@[simp] theorem State.setCrew_frames (s : State) (k : Nat) (c : Crew) : (s.setCrew k c).frames = s.frames := rfl
@[simp] theorem State.setCrew_keys (s : State) (k : Nat) (c : Crew) : (s.setCrew k c).keys = s.keys := rfl
@[simp] theorem State.setCrew_dropCount (s : State) (k : Nat) (c : Crew) : (s.setCrew k c).dropCount = s.dropCount := rfl
@[simp] theorem State.setCrew_retention (s : State) (k : Nat) (c : Crew) : (s.setCrew k c).retention = s.retention := rfl
@[simp] theorem State.setCrew_hotEvents (s : State) (k : Nat) (c : Crew) : (s.setCrew k c).hotEvents = s.hotEvents := rfl
@[simp] theorem State.setCrew_tlb (s : State) (k : Nat) (c : Crew) : (s.setCrew k c).tlb = s.tlb := rfl
@[simp] theorem State.setCrew_walks (s : State) (k : Nat) (c : Crew) : (s.setCrew k c).walks = s.walks := rfl
@[simp] theorem State.setCrew_dir (s : State) (k : Nat) (c : Crew) : (s.setCrew k c).dir = s.dir := rfl
@[simp] theorem State.setCrew_l2 (s : State) (k : Nat) (c : Crew) : (s.setCrew k c).l2 = s.l2 := rfl
@[simp] theorem State.setCrew_banks (s : State) (k : Nat) (c : Crew) : (s.setCrew k c).banks = s.banks := rfl
@[simp] theorem State.setCrew_probes (s : State) (k : Nat) (c : Crew) : (s.setCrew k c).probes = s.probes := rfl
@[simp] theorem State.setCrew_flights (s : State) (k : Nat) (c : Crew) : (s.setCrew k c).flights = s.flights := rfl
@[simp] theorem State.setCrew_nextFlight (s : State) (k : Nat) (c : Crew) : (s.setCrew k c).nextFlight = s.nextFlight := rfl
@[simp] theorem State.setCrew_nextItem (s : State) (k : Nat) (c : Crew) : (s.setCrew k c).nextItem = s.nextItem := rfl
@[simp] theorem State.setCrew_cores (s : State) (k : Nat) (c : Crew) : (s.setCrew k c).cores = s.cores := rfl
@[simp] theorem State.setCrew_blocks (s : State) (k : Nat) (c : Crew) : (s.setCrew k c).blocks = s.blocks := rfl
@[simp] theorem State.setCrew_launches (s : State) (k : Nat) (c : Crew) : (s.setCrew k c).launches = s.launches := rfl
@[simp] theorem State.setCrew_nextLaunch (s : State) (k : Nat) (c : Crew) : (s.setCrew k c).nextLaunch = s.nextLaunch := rfl
@[simp] theorem State.setCrew_queues (s : State) (k : Nat) (c : Crew) : (s.setCrew k c).queues = s.queues := rfl
@[simp] theorem State.setCrew_references (s : State) (k : Nat) (c : Crew) : (s.setCrew k c).references = s.references := rfl
@[simp] theorem State.setCrew_slotGens (s : State) (k : Nat) (c : Crew) : (s.setCrew k c).slotGens = s.slotGens := rfl
@[simp] theorem State.setCrew_parts (s : State) (k : Nat) (c : Crew) : (s.setCrew k c).parts = s.parts := rfl
@[simp] theorem State.setCrew_tenants (s : State) (k : Nat) (c : Crew) : (s.setCrew k c).tenants = s.tenants := rfl
@[simp] theorem State.setCrew_clusters (s : State) (k : Nat) (c : Crew) : (s.setCrew k c).clusters = s.clusters := rfl
@[simp] theorem State.setCrew_floor (s : State) (k : Nat) (c : Crew) : (s.setCrew k c).floor = s.floor := rfl
@[simp] theorem State.setCrew_period (s : State) (k : Nat) (c : Crew) : (s.setCrew k c).period = s.period := rfl
@[simp] theorem State.setCrew_pool (s : State) (k : Nat) (c : Crew) : (s.setCrew k c).pool = s.pool := rfl
@[simp] theorem State.setCrew_nextCharge (s : State) (k : Nat) (c : Crew) : (s.setCrew k c).nextCharge = s.nextCharge := rfl
@[simp] theorem State.setCrew_nextPeriod (s : State) (k : Nat) (c : Crew) : (s.setCrew k c).nextPeriod = s.nextPeriod := rfl
@[simp] theorem State.setCrew_nextPower (s : State) (k : Nat) (c : Crew) : (s.setCrew k c).nextPower = s.nextPower := rfl
@[simp] theorem State.setCrew_nextSummary (s : State) (k : Nat) (c : Crew) : (s.setCrew k c).nextSummary = s.nextSummary := rfl
@[simp] theorem State.setCrew_eccCount (s : State) (k : Nat) (c : Crew) : (s.setCrew k c).eccCount = s.eccCount := rfl
@[simp] theorem State.setCrew_softErrors (s : State) (k : Nat) (c : Crew) : (s.setCrew k c).softErrors = s.softErrors := rfl
@[simp] theorem State.setCrew_rings (s : State) (k : Nat) (c : Crew) : (s.setCrew k c).rings = s.rings := rfl
@[simp] theorem State.setCrew_nextHold (s : State) (k : Nat) (c : Crew) : (s.setCrew k c).nextHold = s.nextHold := rfl
@[simp] theorem State.setCrew_policyLog (s : State) (k : Nat) (c : Crew) : (s.setCrew k c).policyLog = s.policyLog := rfl
@[simp] theorem State.setCrew_migRing (s : State) (k : Nat) (c : Crew) : (s.setCrew k c).migRing = s.migRing := rfl
@[simp] theorem State.setCrew_migNext (s : State) (k : Nat) (c : Crew) : (s.setCrew k c).migNext = s.migNext := rfl
@[simp] theorem State.setCrew_credits (s : State) (k : Nat) (c : Crew) : (s.setCrew k c).credits = s.credits := rfl
@[simp] theorem State.setCrew_notices (s : State) (k : Nat) (c : Crew) : (s.setCrew k c).notices = s.notices := rfl
@[simp] theorem State.setCrew_nextNotice (s : State) (k : Nat) (c : Crew) : (s.setCrew k c).nextNotice = s.nextNotice := rfl
@[simp] theorem State.setCrew_spoil (s : State) (k : Nat) (c : Crew) : (s.setCrew k c).spoil = s.spoil := rfl
@[simp] theorem State.setCrew_spoilNext (s : State) (k : Nat) (c : Crew) : (s.setCrew k c).spoilNext = s.spoilNext := rfl
@[simp] theorem State.setCrew_spoilWritten (s : State) (k : Nat) (c : Crew) : (s.setCrew k c).spoilWritten = s.spoilWritten := rfl
@[simp] theorem State.setCrew_cpDown (s : State) (k : Nat) (c : Crew) : (s.setCrew k c).cpDown = s.cpDown := rfl
@[simp] theorem State.setCrew_boot (s : State) (k : Nat) (c : Crew) : (s.setCrew k c).boot = s.boot := rfl
@[simp] theorem State.setCrew_imageStore (s : State) (k : Nat) (c : Crew) : (s.setCrew k c).imageStore = s.imageStore := rfl
@[simp] theorem State.setCrew_firmware (s : State) (k : Nat) (c : Crew) : (s.setCrew k c).firmware = s.firmware := rfl
@[simp] theorem State.setCrew_lifeCycle (s : State) (k : Nat) (c : Crew) : (s.setCrew k c).lifeCycle = s.lifeCycle := rfl
@[simp] theorem State.setCrew_boots (s : State) (k : Nat) (c : Crew) : (s.setCrew k c).boots = s.boots := rfl
@[simp] theorem State.setCrew_resets (s : State) (k : Nat) (c : Crew) : (s.setCrew k c).resets = s.resets := rfl
@[simp] theorem State.setCrew_ckSkew (s : State) (k : Nat) (c : Crew) : (s.setCrew k c).ckSkew = s.ckSkew := rfl
@[simp] theorem State.setCrew_portsDown (s : State) (k : Nat) (c : Crew) : (s.setCrew k c).portsDown = s.portsDown := rfl
@[simp] theorem State.setCrew_qps (s : State) (k : Nat) (c : Crew) : (s.setCrew k c).qps = s.qps := rfl
@[simp] theorem State.setCrew_regions (s : State) (k : Nat) (c : Crew) : (s.setCrew k c).regions = s.regions := rfl
@[simp] theorem State.setCrew_portWork (s : State) (k : Nat) (c : Crew) : (s.setCrew k c).portWork = s.portWork := rfl
@[simp] theorem State.setCrew_portRings (s : State) (k : Nat) (c : Crew) : (s.setCrew k c).portRings = s.portRings := rfl
@[simp] theorem State.setCrew_portHeld (s : State) (k : Nat) (c : Crew) : (s.setCrew k c).portHeld = s.portHeld := rfl
@[simp] theorem State.setCrew_replies (s : State) (k : Nat) (c : Crew) : (s.setCrew k c).replies = s.replies := rfl

/-! ## State.modCrew -/

@[simp] theorem State.modCrew_ck (s : State) (k : Nat) (f : Crew → Crew) : (s.modCrew k f).ck = s.ck := by unfold State.modCrew; split <;> rfl
@[simp] theorem State.modCrew_power (s : State) (k : Nat) (f : Crew → Crew) : (s.modCrew k f).power = s.power := by unfold State.modCrew; split <;> rfl
@[simp] theorem State.modCrew_agenda (s : State) (k : Nat) (f : Crew → Crew) : (s.modCrew k f).agenda = s.agenda := by unfold State.modCrew; split <;> rfl
@[simp] theorem State.modCrew_focus (s : State) (k : Nat) (f : Crew → Crew) : (s.modCrew k f).focus = s.focus := by unfold State.modCrew; split <;> rfl
@[simp] theorem State.modCrew_phase (s : State) (k : Nat) (f : Crew → Crew) : (s.modCrew k f).phase = s.phase := by unfold State.modCrew; split <;> rfl
@[simp] theorem State.modCrew_place (s : State) (k : Nat) (f : Crew → Crew) : (s.modCrew k f).place = s.place := by unfold State.modCrew; split <;> rfl
@[simp] theorem State.modCrew_spent (s : State) (k : Nat) (f : Crew → Crew) : (s.modCrew k f).spent = s.spent := by unfold State.modCrew; split <;> rfl
@[simp] theorem State.modCrew_accepted (s : State) (k : Nat) (f : Crew → Crew) : (s.modCrew k f).accepted = s.accepted := by unfold State.modCrew; split <;> rfl
@[simp] theorem State.modCrew_moved (s : State) (k : Nat) (f : Crew → Crew) : (s.modCrew k f).moved = s.moved := by unfold State.modCrew; split <;> rfl
@[simp] theorem State.modCrew_banked (s : State) (k : Nat) (f : Crew → Crew) : (s.modCrew k f).banked = s.banked := by unfold State.modCrew; split <;> rfl
@[simp] theorem State.modCrew_fresh (s : State) (k : Nat) (f : Crew → Crew) : (s.modCrew k f).fresh = s.fresh := by unfold State.modCrew; split <;> rfl
@[simp] theorem State.modCrew_mem (s : State) (k : Nat) (f : Crew → Crew) : (s.modCrew k f).mem = s.mem := by unfold State.modCrew; split <;> rfl
@[simp] theorem State.modCrew_heads (s : State) (k : Nat) (f : Crew → Crew) : (s.modCrew k f).heads = s.heads := by unfold State.modCrew; split <;> rfl
@[simp] theorem State.modCrew_traces (s : State) (k : Nat) (f : Crew → Crew) : (s.modCrew k f).traces = s.traces := by unfold State.modCrew; split <;> rfl
@[simp] theorem State.modCrew_poison (s : State) (k : Nat) (f : Crew → Crew) : (s.modCrew k f).poison = s.poison := by unfold State.modCrew; split <;> rfl
@[simp] theorem State.modCrew_poisonIn (s : State) (k : Nat) (f : Crew → Crew) : (s.modCrew k f).poisonIn = s.poisonIn := by unfold State.modCrew; split <;> rfl
@[simp] theorem State.modCrew_dirty (s : State) (k : Nat) (f : Crew → Crew) : (s.modCrew k f).dirty = s.dirty := by unfold State.modCrew; split <;> rfl
@[simp] theorem State.modCrew_frames (s : State) (k : Nat) (f : Crew → Crew) : (s.modCrew k f).frames = s.frames := by unfold State.modCrew; split <;> rfl
@[simp] theorem State.modCrew_keys (s : State) (k : Nat) (f : Crew → Crew) : (s.modCrew k f).keys = s.keys := by unfold State.modCrew; split <;> rfl
@[simp] theorem State.modCrew_dropCount (s : State) (k : Nat) (f : Crew → Crew) : (s.modCrew k f).dropCount = s.dropCount := by unfold State.modCrew; split <;> rfl
@[simp] theorem State.modCrew_retention (s : State) (k : Nat) (f : Crew → Crew) : (s.modCrew k f).retention = s.retention := by unfold State.modCrew; split <;> rfl
@[simp] theorem State.modCrew_hotEvents (s : State) (k : Nat) (f : Crew → Crew) : (s.modCrew k f).hotEvents = s.hotEvents := by unfold State.modCrew; split <;> rfl
@[simp] theorem State.modCrew_tlb (s : State) (k : Nat) (f : Crew → Crew) : (s.modCrew k f).tlb = s.tlb := by unfold State.modCrew; split <;> rfl
@[simp] theorem State.modCrew_walks (s : State) (k : Nat) (f : Crew → Crew) : (s.modCrew k f).walks = s.walks := by unfold State.modCrew; split <;> rfl
@[simp] theorem State.modCrew_dir (s : State) (k : Nat) (f : Crew → Crew) : (s.modCrew k f).dir = s.dir := by unfold State.modCrew; split <;> rfl
@[simp] theorem State.modCrew_l2 (s : State) (k : Nat) (f : Crew → Crew) : (s.modCrew k f).l2 = s.l2 := by unfold State.modCrew; split <;> rfl
@[simp] theorem State.modCrew_banks (s : State) (k : Nat) (f : Crew → Crew) : (s.modCrew k f).banks = s.banks := by unfold State.modCrew; split <;> rfl
@[simp] theorem State.modCrew_probes (s : State) (k : Nat) (f : Crew → Crew) : (s.modCrew k f).probes = s.probes := by unfold State.modCrew; split <;> rfl
@[simp] theorem State.modCrew_flights (s : State) (k : Nat) (f : Crew → Crew) : (s.modCrew k f).flights = s.flights := by unfold State.modCrew; split <;> rfl
@[simp] theorem State.modCrew_nextFlight (s : State) (k : Nat) (f : Crew → Crew) : (s.modCrew k f).nextFlight = s.nextFlight := by unfold State.modCrew; split <;> rfl
@[simp] theorem State.modCrew_nextItem (s : State) (k : Nat) (f : Crew → Crew) : (s.modCrew k f).nextItem = s.nextItem := by unfold State.modCrew; split <;> rfl
@[simp] theorem State.modCrew_cores (s : State) (k : Nat) (f : Crew → Crew) : (s.modCrew k f).cores = s.cores := by unfold State.modCrew; split <;> rfl
@[simp] theorem State.modCrew_blocks (s : State) (k : Nat) (f : Crew → Crew) : (s.modCrew k f).blocks = s.blocks := by unfold State.modCrew; split <;> rfl
@[simp] theorem State.modCrew_launches (s : State) (k : Nat) (f : Crew → Crew) : (s.modCrew k f).launches = s.launches := by unfold State.modCrew; split <;> rfl
@[simp] theorem State.modCrew_nextLaunch (s : State) (k : Nat) (f : Crew → Crew) : (s.modCrew k f).nextLaunch = s.nextLaunch := by unfold State.modCrew; split <;> rfl
@[simp] theorem State.modCrew_queues (s : State) (k : Nat) (f : Crew → Crew) : (s.modCrew k f).queues = s.queues := by unfold State.modCrew; split <;> rfl
@[simp] theorem State.modCrew_references (s : State) (k : Nat) (f : Crew → Crew) : (s.modCrew k f).references = s.references := by unfold State.modCrew; split <;> rfl
@[simp] theorem State.modCrew_slotGens (s : State) (k : Nat) (f : Crew → Crew) : (s.modCrew k f).slotGens = s.slotGens := by unfold State.modCrew; split <;> rfl
@[simp] theorem State.modCrew_parts (s : State) (k : Nat) (f : Crew → Crew) : (s.modCrew k f).parts = s.parts := by unfold State.modCrew; split <;> rfl
@[simp] theorem State.modCrew_tenants (s : State) (k : Nat) (f : Crew → Crew) : (s.modCrew k f).tenants = s.tenants := by unfold State.modCrew; split <;> rfl
@[simp] theorem State.modCrew_clusters (s : State) (k : Nat) (f : Crew → Crew) : (s.modCrew k f).clusters = s.clusters := by unfold State.modCrew; split <;> rfl
@[simp] theorem State.modCrew_floor (s : State) (k : Nat) (f : Crew → Crew) : (s.modCrew k f).floor = s.floor := by unfold State.modCrew; split <;> rfl
@[simp] theorem State.modCrew_period (s : State) (k : Nat) (f : Crew → Crew) : (s.modCrew k f).period = s.period := by unfold State.modCrew; split <;> rfl
@[simp] theorem State.modCrew_pool (s : State) (k : Nat) (f : Crew → Crew) : (s.modCrew k f).pool = s.pool := by unfold State.modCrew; split <;> rfl
@[simp] theorem State.modCrew_nextCharge (s : State) (k : Nat) (f : Crew → Crew) : (s.modCrew k f).nextCharge = s.nextCharge := by unfold State.modCrew; split <;> rfl
@[simp] theorem State.modCrew_nextPeriod (s : State) (k : Nat) (f : Crew → Crew) : (s.modCrew k f).nextPeriod = s.nextPeriod := by unfold State.modCrew; split <;> rfl
@[simp] theorem State.modCrew_nextPower (s : State) (k : Nat) (f : Crew → Crew) : (s.modCrew k f).nextPower = s.nextPower := by unfold State.modCrew; split <;> rfl
@[simp] theorem State.modCrew_nextSummary (s : State) (k : Nat) (f : Crew → Crew) : (s.modCrew k f).nextSummary = s.nextSummary := by unfold State.modCrew; split <;> rfl
@[simp] theorem State.modCrew_eccCount (s : State) (k : Nat) (f : Crew → Crew) : (s.modCrew k f).eccCount = s.eccCount := by unfold State.modCrew; split <;> rfl
@[simp] theorem State.modCrew_softErrors (s : State) (k : Nat) (f : Crew → Crew) : (s.modCrew k f).softErrors = s.softErrors := by unfold State.modCrew; split <;> rfl
@[simp] theorem State.modCrew_rings (s : State) (k : Nat) (f : Crew → Crew) : (s.modCrew k f).rings = s.rings := by unfold State.modCrew; split <;> rfl
@[simp] theorem State.modCrew_nextHold (s : State) (k : Nat) (f : Crew → Crew) : (s.modCrew k f).nextHold = s.nextHold := by unfold State.modCrew; split <;> rfl
@[simp] theorem State.modCrew_policyLog (s : State) (k : Nat) (f : Crew → Crew) : (s.modCrew k f).policyLog = s.policyLog := by unfold State.modCrew; split <;> rfl
@[simp] theorem State.modCrew_migRing (s : State) (k : Nat) (f : Crew → Crew) : (s.modCrew k f).migRing = s.migRing := by unfold State.modCrew; split <;> rfl
@[simp] theorem State.modCrew_migNext (s : State) (k : Nat) (f : Crew → Crew) : (s.modCrew k f).migNext = s.migNext := by unfold State.modCrew; split <;> rfl
@[simp] theorem State.modCrew_credits (s : State) (k : Nat) (f : Crew → Crew) : (s.modCrew k f).credits = s.credits := by unfold State.modCrew; split <;> rfl
@[simp] theorem State.modCrew_notices (s : State) (k : Nat) (f : Crew → Crew) : (s.modCrew k f).notices = s.notices := by unfold State.modCrew; split <;> rfl
@[simp] theorem State.modCrew_nextNotice (s : State) (k : Nat) (f : Crew → Crew) : (s.modCrew k f).nextNotice = s.nextNotice := by unfold State.modCrew; split <;> rfl
@[simp] theorem State.modCrew_spoil (s : State) (k : Nat) (f : Crew → Crew) : (s.modCrew k f).spoil = s.spoil := by unfold State.modCrew; split <;> rfl
@[simp] theorem State.modCrew_spoilNext (s : State) (k : Nat) (f : Crew → Crew) : (s.modCrew k f).spoilNext = s.spoilNext := by unfold State.modCrew; split <;> rfl
@[simp] theorem State.modCrew_spoilWritten (s : State) (k : Nat) (f : Crew → Crew) : (s.modCrew k f).spoilWritten = s.spoilWritten := by unfold State.modCrew; split <;> rfl
@[simp] theorem State.modCrew_cpDown (s : State) (k : Nat) (f : Crew → Crew) : (s.modCrew k f).cpDown = s.cpDown := by unfold State.modCrew; split <;> rfl
@[simp] theorem State.modCrew_boot (s : State) (k : Nat) (f : Crew → Crew) : (s.modCrew k f).boot = s.boot := by unfold State.modCrew; split <;> rfl
@[simp] theorem State.modCrew_imageStore (s : State) (k : Nat) (f : Crew → Crew) : (s.modCrew k f).imageStore = s.imageStore := by unfold State.modCrew; split <;> rfl
@[simp] theorem State.modCrew_firmware (s : State) (k : Nat) (f : Crew → Crew) : (s.modCrew k f).firmware = s.firmware := by unfold State.modCrew; split <;> rfl
@[simp] theorem State.modCrew_lifeCycle (s : State) (k : Nat) (f : Crew → Crew) : (s.modCrew k f).lifeCycle = s.lifeCycle := by unfold State.modCrew; split <;> rfl
@[simp] theorem State.modCrew_boots (s : State) (k : Nat) (f : Crew → Crew) : (s.modCrew k f).boots = s.boots := by unfold State.modCrew; split <;> rfl
@[simp] theorem State.modCrew_resets (s : State) (k : Nat) (f : Crew → Crew) : (s.modCrew k f).resets = s.resets := by unfold State.modCrew; split <;> rfl
@[simp] theorem State.modCrew_ckSkew (s : State) (k : Nat) (f : Crew → Crew) : (s.modCrew k f).ckSkew = s.ckSkew := by unfold State.modCrew; split <;> rfl
@[simp] theorem State.modCrew_portsDown (s : State) (k : Nat) (f : Crew → Crew) : (s.modCrew k f).portsDown = s.portsDown := by unfold State.modCrew; split <;> rfl
@[simp] theorem State.modCrew_qps (s : State) (k : Nat) (f : Crew → Crew) : (s.modCrew k f).qps = s.qps := by unfold State.modCrew; split <;> rfl
@[simp] theorem State.modCrew_regions (s : State) (k : Nat) (f : Crew → Crew) : (s.modCrew k f).regions = s.regions := by unfold State.modCrew; split <;> rfl
@[simp] theorem State.modCrew_portWork (s : State) (k : Nat) (f : Crew → Crew) : (s.modCrew k f).portWork = s.portWork := by unfold State.modCrew; split <;> rfl
@[simp] theorem State.modCrew_portRings (s : State) (k : Nat) (f : Crew → Crew) : (s.modCrew k f).portRings = s.portRings := by unfold State.modCrew; split <;> rfl
@[simp] theorem State.modCrew_portHeld (s : State) (k : Nat) (f : Crew → Crew) : (s.modCrew k f).portHeld = s.portHeld := by unfold State.modCrew; split <;> rfl
@[simp] theorem State.modCrew_replies (s : State) (k : Nat) (f : Crew → Crew) : (s.modCrew k f).replies = s.replies := by unfold State.modCrew; split <;> rfl

/-! ## State.modLaunch -/

@[simp] theorem State.modLaunch_ck (s : State) (l : Nat) (f : Launch → Launch) : (s.modLaunch l f).ck = s.ck := by unfold State.modLaunch; split <;> rfl
@[simp] theorem State.modLaunch_power (s : State) (l : Nat) (f : Launch → Launch) : (s.modLaunch l f).power = s.power := by unfold State.modLaunch; split <;> rfl
@[simp] theorem State.modLaunch_agenda (s : State) (l : Nat) (f : Launch → Launch) : (s.modLaunch l f).agenda = s.agenda := by unfold State.modLaunch; split <;> rfl
@[simp] theorem State.modLaunch_focus (s : State) (l : Nat) (f : Launch → Launch) : (s.modLaunch l f).focus = s.focus := by unfold State.modLaunch; split <;> rfl
@[simp] theorem State.modLaunch_phase (s : State) (l : Nat) (f : Launch → Launch) : (s.modLaunch l f).phase = s.phase := by unfold State.modLaunch; split <;> rfl
@[simp] theorem State.modLaunch_place (s : State) (l : Nat) (f : Launch → Launch) : (s.modLaunch l f).place = s.place := by unfold State.modLaunch; split <;> rfl
@[simp] theorem State.modLaunch_spent (s : State) (l : Nat) (f : Launch → Launch) : (s.modLaunch l f).spent = s.spent := by unfold State.modLaunch; split <;> rfl
@[simp] theorem State.modLaunch_accepted (s : State) (l : Nat) (f : Launch → Launch) : (s.modLaunch l f).accepted = s.accepted := by unfold State.modLaunch; split <;> rfl
@[simp] theorem State.modLaunch_moved (s : State) (l : Nat) (f : Launch → Launch) : (s.modLaunch l f).moved = s.moved := by unfold State.modLaunch; split <;> rfl
@[simp] theorem State.modLaunch_banked (s : State) (l : Nat) (f : Launch → Launch) : (s.modLaunch l f).banked = s.banked := by unfold State.modLaunch; split <;> rfl
@[simp] theorem State.modLaunch_fresh (s : State) (l : Nat) (f : Launch → Launch) : (s.modLaunch l f).fresh = s.fresh := by unfold State.modLaunch; split <;> rfl
@[simp] theorem State.modLaunch_mem (s : State) (l : Nat) (f : Launch → Launch) : (s.modLaunch l f).mem = s.mem := by unfold State.modLaunch; split <;> rfl
@[simp] theorem State.modLaunch_heads (s : State) (l : Nat) (f : Launch → Launch) : (s.modLaunch l f).heads = s.heads := by unfold State.modLaunch; split <;> rfl
@[simp] theorem State.modLaunch_traces (s : State) (l : Nat) (f : Launch → Launch) : (s.modLaunch l f).traces = s.traces := by unfold State.modLaunch; split <;> rfl
@[simp] theorem State.modLaunch_poison (s : State) (l : Nat) (f : Launch → Launch) : (s.modLaunch l f).poison = s.poison := by unfold State.modLaunch; split <;> rfl
@[simp] theorem State.modLaunch_poisonIn (s : State) (l : Nat) (f : Launch → Launch) : (s.modLaunch l f).poisonIn = s.poisonIn := by unfold State.modLaunch; split <;> rfl
@[simp] theorem State.modLaunch_dirty (s : State) (l : Nat) (f : Launch → Launch) : (s.modLaunch l f).dirty = s.dirty := by unfold State.modLaunch; split <;> rfl
@[simp] theorem State.modLaunch_frames (s : State) (l : Nat) (f : Launch → Launch) : (s.modLaunch l f).frames = s.frames := by unfold State.modLaunch; split <;> rfl
@[simp] theorem State.modLaunch_keys (s : State) (l : Nat) (f : Launch → Launch) : (s.modLaunch l f).keys = s.keys := by unfold State.modLaunch; split <;> rfl
@[simp] theorem State.modLaunch_dropCount (s : State) (l : Nat) (f : Launch → Launch) : (s.modLaunch l f).dropCount = s.dropCount := by unfold State.modLaunch; split <;> rfl
@[simp] theorem State.modLaunch_retention (s : State) (l : Nat) (f : Launch → Launch) : (s.modLaunch l f).retention = s.retention := by unfold State.modLaunch; split <;> rfl
@[simp] theorem State.modLaunch_hotEvents (s : State) (l : Nat) (f : Launch → Launch) : (s.modLaunch l f).hotEvents = s.hotEvents := by unfold State.modLaunch; split <;> rfl
@[simp] theorem State.modLaunch_tlb (s : State) (l : Nat) (f : Launch → Launch) : (s.modLaunch l f).tlb = s.tlb := by unfold State.modLaunch; split <;> rfl
@[simp] theorem State.modLaunch_walks (s : State) (l : Nat) (f : Launch → Launch) : (s.modLaunch l f).walks = s.walks := by unfold State.modLaunch; split <;> rfl
@[simp] theorem State.modLaunch_dir (s : State) (l : Nat) (f : Launch → Launch) : (s.modLaunch l f).dir = s.dir := by unfold State.modLaunch; split <;> rfl
@[simp] theorem State.modLaunch_l2 (s : State) (l : Nat) (f : Launch → Launch) : (s.modLaunch l f).l2 = s.l2 := by unfold State.modLaunch; split <;> rfl
@[simp] theorem State.modLaunch_banks (s : State) (l : Nat) (f : Launch → Launch) : (s.modLaunch l f).banks = s.banks := by unfold State.modLaunch; split <;> rfl
@[simp] theorem State.modLaunch_probes (s : State) (l : Nat) (f : Launch → Launch) : (s.modLaunch l f).probes = s.probes := by unfold State.modLaunch; split <;> rfl
@[simp] theorem State.modLaunch_flights (s : State) (l : Nat) (f : Launch → Launch) : (s.modLaunch l f).flights = s.flights := by unfold State.modLaunch; split <;> rfl
@[simp] theorem State.modLaunch_nextFlight (s : State) (l : Nat) (f : Launch → Launch) : (s.modLaunch l f).nextFlight = s.nextFlight := by unfold State.modLaunch; split <;> rfl
@[simp] theorem State.modLaunch_nextItem (s : State) (l : Nat) (f : Launch → Launch) : (s.modLaunch l f).nextItem = s.nextItem := by unfold State.modLaunch; split <;> rfl
@[simp] theorem State.modLaunch_cores (s : State) (l : Nat) (f : Launch → Launch) : (s.modLaunch l f).cores = s.cores := by unfold State.modLaunch; split <;> rfl
@[simp] theorem State.modLaunch_blocks (s : State) (l : Nat) (f : Launch → Launch) : (s.modLaunch l f).blocks = s.blocks := by unfold State.modLaunch; split <;> rfl
@[simp] theorem State.modLaunch_crews (s : State) (l : Nat) (f : Launch → Launch) : (s.modLaunch l f).crews = s.crews := by unfold State.modLaunch; split <;> rfl
@[simp] theorem State.modLaunch_nextLaunch (s : State) (l : Nat) (f : Launch → Launch) : (s.modLaunch l f).nextLaunch = s.nextLaunch := by unfold State.modLaunch; split <;> rfl
@[simp] theorem State.modLaunch_queues (s : State) (l : Nat) (f : Launch → Launch) : (s.modLaunch l f).queues = s.queues := by unfold State.modLaunch; split <;> rfl
@[simp] theorem State.modLaunch_references (s : State) (l : Nat) (f : Launch → Launch) : (s.modLaunch l f).references = s.references := by unfold State.modLaunch; split <;> rfl
@[simp] theorem State.modLaunch_slotGens (s : State) (l : Nat) (f : Launch → Launch) : (s.modLaunch l f).slotGens = s.slotGens := by unfold State.modLaunch; split <;> rfl
@[simp] theorem State.modLaunch_parts (s : State) (l : Nat) (f : Launch → Launch) : (s.modLaunch l f).parts = s.parts := by unfold State.modLaunch; split <;> rfl
@[simp] theorem State.modLaunch_tenants (s : State) (l : Nat) (f : Launch → Launch) : (s.modLaunch l f).tenants = s.tenants := by unfold State.modLaunch; split <;> rfl
@[simp] theorem State.modLaunch_clusters (s : State) (l : Nat) (f : Launch → Launch) : (s.modLaunch l f).clusters = s.clusters := by unfold State.modLaunch; split <;> rfl
@[simp] theorem State.modLaunch_floor (s : State) (l : Nat) (f : Launch → Launch) : (s.modLaunch l f).floor = s.floor := by unfold State.modLaunch; split <;> rfl
@[simp] theorem State.modLaunch_period (s : State) (l : Nat) (f : Launch → Launch) : (s.modLaunch l f).period = s.period := by unfold State.modLaunch; split <;> rfl
@[simp] theorem State.modLaunch_pool (s : State) (l : Nat) (f : Launch → Launch) : (s.modLaunch l f).pool = s.pool := by unfold State.modLaunch; split <;> rfl
@[simp] theorem State.modLaunch_nextCharge (s : State) (l : Nat) (f : Launch → Launch) : (s.modLaunch l f).nextCharge = s.nextCharge := by unfold State.modLaunch; split <;> rfl
@[simp] theorem State.modLaunch_nextPeriod (s : State) (l : Nat) (f : Launch → Launch) : (s.modLaunch l f).nextPeriod = s.nextPeriod := by unfold State.modLaunch; split <;> rfl
@[simp] theorem State.modLaunch_nextPower (s : State) (l : Nat) (f : Launch → Launch) : (s.modLaunch l f).nextPower = s.nextPower := by unfold State.modLaunch; split <;> rfl
@[simp] theorem State.modLaunch_nextSummary (s : State) (l : Nat) (f : Launch → Launch) : (s.modLaunch l f).nextSummary = s.nextSummary := by unfold State.modLaunch; split <;> rfl
@[simp] theorem State.modLaunch_eccCount (s : State) (l : Nat) (f : Launch → Launch) : (s.modLaunch l f).eccCount = s.eccCount := by unfold State.modLaunch; split <;> rfl
@[simp] theorem State.modLaunch_softErrors (s : State) (l : Nat) (f : Launch → Launch) : (s.modLaunch l f).softErrors = s.softErrors := by unfold State.modLaunch; split <;> rfl
@[simp] theorem State.modLaunch_rings (s : State) (l : Nat) (f : Launch → Launch) : (s.modLaunch l f).rings = s.rings := by unfold State.modLaunch; split <;> rfl
@[simp] theorem State.modLaunch_nextHold (s : State) (l : Nat) (f : Launch → Launch) : (s.modLaunch l f).nextHold = s.nextHold := by unfold State.modLaunch; split <;> rfl
@[simp] theorem State.modLaunch_policyLog (s : State) (l : Nat) (f : Launch → Launch) : (s.modLaunch l f).policyLog = s.policyLog := by unfold State.modLaunch; split <;> rfl
@[simp] theorem State.modLaunch_migRing (s : State) (l : Nat) (f : Launch → Launch) : (s.modLaunch l f).migRing = s.migRing := by unfold State.modLaunch; split <;> rfl
@[simp] theorem State.modLaunch_migNext (s : State) (l : Nat) (f : Launch → Launch) : (s.modLaunch l f).migNext = s.migNext := by unfold State.modLaunch; split <;> rfl
@[simp] theorem State.modLaunch_credits (s : State) (l : Nat) (f : Launch → Launch) : (s.modLaunch l f).credits = s.credits := by unfold State.modLaunch; split <;> rfl
@[simp] theorem State.modLaunch_notices (s : State) (l : Nat) (f : Launch → Launch) : (s.modLaunch l f).notices = s.notices := by unfold State.modLaunch; split <;> rfl
@[simp] theorem State.modLaunch_nextNotice (s : State) (l : Nat) (f : Launch → Launch) : (s.modLaunch l f).nextNotice = s.nextNotice := by unfold State.modLaunch; split <;> rfl
@[simp] theorem State.modLaunch_spoil (s : State) (l : Nat) (f : Launch → Launch) : (s.modLaunch l f).spoil = s.spoil := by unfold State.modLaunch; split <;> rfl
@[simp] theorem State.modLaunch_spoilNext (s : State) (l : Nat) (f : Launch → Launch) : (s.modLaunch l f).spoilNext = s.spoilNext := by unfold State.modLaunch; split <;> rfl
@[simp] theorem State.modLaunch_spoilWritten (s : State) (l : Nat) (f : Launch → Launch) : (s.modLaunch l f).spoilWritten = s.spoilWritten := by unfold State.modLaunch; split <;> rfl
@[simp] theorem State.modLaunch_cpDown (s : State) (l : Nat) (f : Launch → Launch) : (s.modLaunch l f).cpDown = s.cpDown := by unfold State.modLaunch; split <;> rfl
@[simp] theorem State.modLaunch_boot (s : State) (l : Nat) (f : Launch → Launch) : (s.modLaunch l f).boot = s.boot := by unfold State.modLaunch; split <;> rfl
@[simp] theorem State.modLaunch_imageStore (s : State) (l : Nat) (f : Launch → Launch) : (s.modLaunch l f).imageStore = s.imageStore := by unfold State.modLaunch; split <;> rfl
@[simp] theorem State.modLaunch_firmware (s : State) (l : Nat) (f : Launch → Launch) : (s.modLaunch l f).firmware = s.firmware := by unfold State.modLaunch; split <;> rfl
@[simp] theorem State.modLaunch_lifeCycle (s : State) (l : Nat) (f : Launch → Launch) : (s.modLaunch l f).lifeCycle = s.lifeCycle := by unfold State.modLaunch; split <;> rfl
@[simp] theorem State.modLaunch_boots (s : State) (l : Nat) (f : Launch → Launch) : (s.modLaunch l f).boots = s.boots := by unfold State.modLaunch; split <;> rfl
@[simp] theorem State.modLaunch_resets (s : State) (l : Nat) (f : Launch → Launch) : (s.modLaunch l f).resets = s.resets := by unfold State.modLaunch; split <;> rfl
@[simp] theorem State.modLaunch_ckSkew (s : State) (l : Nat) (f : Launch → Launch) : (s.modLaunch l f).ckSkew = s.ckSkew := by unfold State.modLaunch; split <;> rfl
@[simp] theorem State.modLaunch_portsDown (s : State) (l : Nat) (f : Launch → Launch) : (s.modLaunch l f).portsDown = s.portsDown := by unfold State.modLaunch; split <;> rfl
@[simp] theorem State.modLaunch_qps (s : State) (l : Nat) (f : Launch → Launch) : (s.modLaunch l f).qps = s.qps := by unfold State.modLaunch; split <;> rfl
@[simp] theorem State.modLaunch_regions (s : State) (l : Nat) (f : Launch → Launch) : (s.modLaunch l f).regions = s.regions := by unfold State.modLaunch; split <;> rfl
@[simp] theorem State.modLaunch_portWork (s : State) (l : Nat) (f : Launch → Launch) : (s.modLaunch l f).portWork = s.portWork := by unfold State.modLaunch; split <;> rfl
@[simp] theorem State.modLaunch_portRings (s : State) (l : Nat) (f : Launch → Launch) : (s.modLaunch l f).portRings = s.portRings := by unfold State.modLaunch; split <;> rfl
@[simp] theorem State.modLaunch_portHeld (s : State) (l : Nat) (f : Launch → Launch) : (s.modLaunch l f).portHeld = s.portHeld := by unfold State.modLaunch; split <;> rfl
@[simp] theorem State.modLaunch_replies (s : State) (l : Nat) (f : Launch → Launch) : (s.modLaunch l f).replies = s.replies := by unfold State.modLaunch; split <;> rfl

/-! ## State.modBlock -/

@[simp] theorem State.modBlock_ck (s : State) (b : Nat) (f : Block → Block) : (s.modBlock b f).ck = s.ck := by unfold State.modBlock; split <;> rfl
@[simp] theorem State.modBlock_power (s : State) (b : Nat) (f : Block → Block) : (s.modBlock b f).power = s.power := by unfold State.modBlock; split <;> rfl
@[simp] theorem State.modBlock_agenda (s : State) (b : Nat) (f : Block → Block) : (s.modBlock b f).agenda = s.agenda := by unfold State.modBlock; split <;> rfl
@[simp] theorem State.modBlock_focus (s : State) (b : Nat) (f : Block → Block) : (s.modBlock b f).focus = s.focus := by unfold State.modBlock; split <;> rfl
@[simp] theorem State.modBlock_phase (s : State) (b : Nat) (f : Block → Block) : (s.modBlock b f).phase = s.phase := by unfold State.modBlock; split <;> rfl
@[simp] theorem State.modBlock_place (s : State) (b : Nat) (f : Block → Block) : (s.modBlock b f).place = s.place := by unfold State.modBlock; split <;> rfl
@[simp] theorem State.modBlock_spent (s : State) (b : Nat) (f : Block → Block) : (s.modBlock b f).spent = s.spent := by unfold State.modBlock; split <;> rfl
@[simp] theorem State.modBlock_accepted (s : State) (b : Nat) (f : Block → Block) : (s.modBlock b f).accepted = s.accepted := by unfold State.modBlock; split <;> rfl
@[simp] theorem State.modBlock_moved (s : State) (b : Nat) (f : Block → Block) : (s.modBlock b f).moved = s.moved := by unfold State.modBlock; split <;> rfl
@[simp] theorem State.modBlock_banked (s : State) (b : Nat) (f : Block → Block) : (s.modBlock b f).banked = s.banked := by unfold State.modBlock; split <;> rfl
@[simp] theorem State.modBlock_fresh (s : State) (b : Nat) (f : Block → Block) : (s.modBlock b f).fresh = s.fresh := by unfold State.modBlock; split <;> rfl
@[simp] theorem State.modBlock_mem (s : State) (b : Nat) (f : Block → Block) : (s.modBlock b f).mem = s.mem := by unfold State.modBlock; split <;> rfl
@[simp] theorem State.modBlock_heads (s : State) (b : Nat) (f : Block → Block) : (s.modBlock b f).heads = s.heads := by unfold State.modBlock; split <;> rfl
@[simp] theorem State.modBlock_traces (s : State) (b : Nat) (f : Block → Block) : (s.modBlock b f).traces = s.traces := by unfold State.modBlock; split <;> rfl
@[simp] theorem State.modBlock_poison (s : State) (b : Nat) (f : Block → Block) : (s.modBlock b f).poison = s.poison := by unfold State.modBlock; split <;> rfl
@[simp] theorem State.modBlock_poisonIn (s : State) (b : Nat) (f : Block → Block) : (s.modBlock b f).poisonIn = s.poisonIn := by unfold State.modBlock; split <;> rfl
@[simp] theorem State.modBlock_dirty (s : State) (b : Nat) (f : Block → Block) : (s.modBlock b f).dirty = s.dirty := by unfold State.modBlock; split <;> rfl
@[simp] theorem State.modBlock_frames (s : State) (b : Nat) (f : Block → Block) : (s.modBlock b f).frames = s.frames := by unfold State.modBlock; split <;> rfl
@[simp] theorem State.modBlock_keys (s : State) (b : Nat) (f : Block → Block) : (s.modBlock b f).keys = s.keys := by unfold State.modBlock; split <;> rfl
@[simp] theorem State.modBlock_dropCount (s : State) (b : Nat) (f : Block → Block) : (s.modBlock b f).dropCount = s.dropCount := by unfold State.modBlock; split <;> rfl
@[simp] theorem State.modBlock_retention (s : State) (b : Nat) (f : Block → Block) : (s.modBlock b f).retention = s.retention := by unfold State.modBlock; split <;> rfl
@[simp] theorem State.modBlock_hotEvents (s : State) (b : Nat) (f : Block → Block) : (s.modBlock b f).hotEvents = s.hotEvents := by unfold State.modBlock; split <;> rfl
@[simp] theorem State.modBlock_tlb (s : State) (b : Nat) (f : Block → Block) : (s.modBlock b f).tlb = s.tlb := by unfold State.modBlock; split <;> rfl
@[simp] theorem State.modBlock_walks (s : State) (b : Nat) (f : Block → Block) : (s.modBlock b f).walks = s.walks := by unfold State.modBlock; split <;> rfl
@[simp] theorem State.modBlock_dir (s : State) (b : Nat) (f : Block → Block) : (s.modBlock b f).dir = s.dir := by unfold State.modBlock; split <;> rfl
@[simp] theorem State.modBlock_l2 (s : State) (b : Nat) (f : Block → Block) : (s.modBlock b f).l2 = s.l2 := by unfold State.modBlock; split <;> rfl
@[simp] theorem State.modBlock_banks (s : State) (b : Nat) (f : Block → Block) : (s.modBlock b f).banks = s.banks := by unfold State.modBlock; split <;> rfl
@[simp] theorem State.modBlock_probes (s : State) (b : Nat) (f : Block → Block) : (s.modBlock b f).probes = s.probes := by unfold State.modBlock; split <;> rfl
@[simp] theorem State.modBlock_flights (s : State) (b : Nat) (f : Block → Block) : (s.modBlock b f).flights = s.flights := by unfold State.modBlock; split <;> rfl
@[simp] theorem State.modBlock_nextFlight (s : State) (b : Nat) (f : Block → Block) : (s.modBlock b f).nextFlight = s.nextFlight := by unfold State.modBlock; split <;> rfl
@[simp] theorem State.modBlock_nextItem (s : State) (b : Nat) (f : Block → Block) : (s.modBlock b f).nextItem = s.nextItem := by unfold State.modBlock; split <;> rfl
@[simp] theorem State.modBlock_cores (s : State) (b : Nat) (f : Block → Block) : (s.modBlock b f).cores = s.cores := by unfold State.modBlock; split <;> rfl
@[simp] theorem State.modBlock_crews (s : State) (b : Nat) (f : Block → Block) : (s.modBlock b f).crews = s.crews := by unfold State.modBlock; split <;> rfl
@[simp] theorem State.modBlock_launches (s : State) (b : Nat) (f : Block → Block) : (s.modBlock b f).launches = s.launches := by unfold State.modBlock; split <;> rfl
@[simp] theorem State.modBlock_nextLaunch (s : State) (b : Nat) (f : Block → Block) : (s.modBlock b f).nextLaunch = s.nextLaunch := by unfold State.modBlock; split <;> rfl
@[simp] theorem State.modBlock_queues (s : State) (b : Nat) (f : Block → Block) : (s.modBlock b f).queues = s.queues := by unfold State.modBlock; split <;> rfl
@[simp] theorem State.modBlock_references (s : State) (b : Nat) (f : Block → Block) : (s.modBlock b f).references = s.references := by unfold State.modBlock; split <;> rfl
@[simp] theorem State.modBlock_slotGens (s : State) (b : Nat) (f : Block → Block) : (s.modBlock b f).slotGens = s.slotGens := by unfold State.modBlock; split <;> rfl
@[simp] theorem State.modBlock_parts (s : State) (b : Nat) (f : Block → Block) : (s.modBlock b f).parts = s.parts := by unfold State.modBlock; split <;> rfl
@[simp] theorem State.modBlock_tenants (s : State) (b : Nat) (f : Block → Block) : (s.modBlock b f).tenants = s.tenants := by unfold State.modBlock; split <;> rfl
@[simp] theorem State.modBlock_clusters (s : State) (b : Nat) (f : Block → Block) : (s.modBlock b f).clusters = s.clusters := by unfold State.modBlock; split <;> rfl
@[simp] theorem State.modBlock_floor (s : State) (b : Nat) (f : Block → Block) : (s.modBlock b f).floor = s.floor := by unfold State.modBlock; split <;> rfl
@[simp] theorem State.modBlock_period (s : State) (b : Nat) (f : Block → Block) : (s.modBlock b f).period = s.period := by unfold State.modBlock; split <;> rfl
@[simp] theorem State.modBlock_pool (s : State) (b : Nat) (f : Block → Block) : (s.modBlock b f).pool = s.pool := by unfold State.modBlock; split <;> rfl
@[simp] theorem State.modBlock_nextCharge (s : State) (b : Nat) (f : Block → Block) : (s.modBlock b f).nextCharge = s.nextCharge := by unfold State.modBlock; split <;> rfl
@[simp] theorem State.modBlock_nextPeriod (s : State) (b : Nat) (f : Block → Block) : (s.modBlock b f).nextPeriod = s.nextPeriod := by unfold State.modBlock; split <;> rfl
@[simp] theorem State.modBlock_nextPower (s : State) (b : Nat) (f : Block → Block) : (s.modBlock b f).nextPower = s.nextPower := by unfold State.modBlock; split <;> rfl
@[simp] theorem State.modBlock_nextSummary (s : State) (b : Nat) (f : Block → Block) : (s.modBlock b f).nextSummary = s.nextSummary := by unfold State.modBlock; split <;> rfl
@[simp] theorem State.modBlock_eccCount (s : State) (b : Nat) (f : Block → Block) : (s.modBlock b f).eccCount = s.eccCount := by unfold State.modBlock; split <;> rfl
@[simp] theorem State.modBlock_softErrors (s : State) (b : Nat) (f : Block → Block) : (s.modBlock b f).softErrors = s.softErrors := by unfold State.modBlock; split <;> rfl
@[simp] theorem State.modBlock_rings (s : State) (b : Nat) (f : Block → Block) : (s.modBlock b f).rings = s.rings := by unfold State.modBlock; split <;> rfl
@[simp] theorem State.modBlock_nextHold (s : State) (b : Nat) (f : Block → Block) : (s.modBlock b f).nextHold = s.nextHold := by unfold State.modBlock; split <;> rfl
@[simp] theorem State.modBlock_policyLog (s : State) (b : Nat) (f : Block → Block) : (s.modBlock b f).policyLog = s.policyLog := by unfold State.modBlock; split <;> rfl
@[simp] theorem State.modBlock_migRing (s : State) (b : Nat) (f : Block → Block) : (s.modBlock b f).migRing = s.migRing := by unfold State.modBlock; split <;> rfl
@[simp] theorem State.modBlock_migNext (s : State) (b : Nat) (f : Block → Block) : (s.modBlock b f).migNext = s.migNext := by unfold State.modBlock; split <;> rfl
@[simp] theorem State.modBlock_credits (s : State) (b : Nat) (f : Block → Block) : (s.modBlock b f).credits = s.credits := by unfold State.modBlock; split <;> rfl
@[simp] theorem State.modBlock_notices (s : State) (b : Nat) (f : Block → Block) : (s.modBlock b f).notices = s.notices := by unfold State.modBlock; split <;> rfl
@[simp] theorem State.modBlock_nextNotice (s : State) (b : Nat) (f : Block → Block) : (s.modBlock b f).nextNotice = s.nextNotice := by unfold State.modBlock; split <;> rfl
@[simp] theorem State.modBlock_spoil (s : State) (b : Nat) (f : Block → Block) : (s.modBlock b f).spoil = s.spoil := by unfold State.modBlock; split <;> rfl
@[simp] theorem State.modBlock_spoilNext (s : State) (b : Nat) (f : Block → Block) : (s.modBlock b f).spoilNext = s.spoilNext := by unfold State.modBlock; split <;> rfl
@[simp] theorem State.modBlock_spoilWritten (s : State) (b : Nat) (f : Block → Block) : (s.modBlock b f).spoilWritten = s.spoilWritten := by unfold State.modBlock; split <;> rfl
@[simp] theorem State.modBlock_cpDown (s : State) (b : Nat) (f : Block → Block) : (s.modBlock b f).cpDown = s.cpDown := by unfold State.modBlock; split <;> rfl
@[simp] theorem State.modBlock_boot (s : State) (b : Nat) (f : Block → Block) : (s.modBlock b f).boot = s.boot := by unfold State.modBlock; split <;> rfl
@[simp] theorem State.modBlock_imageStore (s : State) (b : Nat) (f : Block → Block) : (s.modBlock b f).imageStore = s.imageStore := by unfold State.modBlock; split <;> rfl
@[simp] theorem State.modBlock_firmware (s : State) (b : Nat) (f : Block → Block) : (s.modBlock b f).firmware = s.firmware := by unfold State.modBlock; split <;> rfl
@[simp] theorem State.modBlock_lifeCycle (s : State) (b : Nat) (f : Block → Block) : (s.modBlock b f).lifeCycle = s.lifeCycle := by unfold State.modBlock; split <;> rfl
@[simp] theorem State.modBlock_boots (s : State) (b : Nat) (f : Block → Block) : (s.modBlock b f).boots = s.boots := by unfold State.modBlock; split <;> rfl
@[simp] theorem State.modBlock_resets (s : State) (b : Nat) (f : Block → Block) : (s.modBlock b f).resets = s.resets := by unfold State.modBlock; split <;> rfl
@[simp] theorem State.modBlock_ckSkew (s : State) (b : Nat) (f : Block → Block) : (s.modBlock b f).ckSkew = s.ckSkew := by unfold State.modBlock; split <;> rfl
@[simp] theorem State.modBlock_portsDown (s : State) (b : Nat) (f : Block → Block) : (s.modBlock b f).portsDown = s.portsDown := by unfold State.modBlock; split <;> rfl
@[simp] theorem State.modBlock_qps (s : State) (b : Nat) (f : Block → Block) : (s.modBlock b f).qps = s.qps := by unfold State.modBlock; split <;> rfl
@[simp] theorem State.modBlock_regions (s : State) (b : Nat) (f : Block → Block) : (s.modBlock b f).regions = s.regions := by unfold State.modBlock; split <;> rfl
@[simp] theorem State.modBlock_portWork (s : State) (b : Nat) (f : Block → Block) : (s.modBlock b f).portWork = s.portWork := by unfold State.modBlock; split <;> rfl
@[simp] theorem State.modBlock_portRings (s : State) (b : Nat) (f : Block → Block) : (s.modBlock b f).portRings = s.portRings := by unfold State.modBlock; split <;> rfl
@[simp] theorem State.modBlock_portHeld (s : State) (b : Nat) (f : Block → Block) : (s.modBlock b f).portHeld = s.portHeld := by unfold State.modBlock; split <;> rfl
@[simp] theorem State.modBlock_replies (s : State) (b : Nat) (f : Block → Block) : (s.modBlock b f).replies = s.replies := by unfold State.modBlock; split <;> rfl

/-! ## State.modQueue -/

@[simp] theorem State.modQueue_ck (s : State) (q : Nat) (f : Queue → Queue) : (s.modQueue q f).ck = s.ck := by unfold State.modQueue; split <;> rfl
@[simp] theorem State.modQueue_power (s : State) (q : Nat) (f : Queue → Queue) : (s.modQueue q f).power = s.power := by unfold State.modQueue; split <;> rfl
@[simp] theorem State.modQueue_agenda (s : State) (q : Nat) (f : Queue → Queue) : (s.modQueue q f).agenda = s.agenda := by unfold State.modQueue; split <;> rfl
@[simp] theorem State.modQueue_focus (s : State) (q : Nat) (f : Queue → Queue) : (s.modQueue q f).focus = s.focus := by unfold State.modQueue; split <;> rfl
@[simp] theorem State.modQueue_phase (s : State) (q : Nat) (f : Queue → Queue) : (s.modQueue q f).phase = s.phase := by unfold State.modQueue; split <;> rfl
@[simp] theorem State.modQueue_place (s : State) (q : Nat) (f : Queue → Queue) : (s.modQueue q f).place = s.place := by unfold State.modQueue; split <;> rfl
@[simp] theorem State.modQueue_spent (s : State) (q : Nat) (f : Queue → Queue) : (s.modQueue q f).spent = s.spent := by unfold State.modQueue; split <;> rfl
@[simp] theorem State.modQueue_accepted (s : State) (q : Nat) (f : Queue → Queue) : (s.modQueue q f).accepted = s.accepted := by unfold State.modQueue; split <;> rfl
@[simp] theorem State.modQueue_moved (s : State) (q : Nat) (f : Queue → Queue) : (s.modQueue q f).moved = s.moved := by unfold State.modQueue; split <;> rfl
@[simp] theorem State.modQueue_banked (s : State) (q : Nat) (f : Queue → Queue) : (s.modQueue q f).banked = s.banked := by unfold State.modQueue; split <;> rfl
@[simp] theorem State.modQueue_fresh (s : State) (q : Nat) (f : Queue → Queue) : (s.modQueue q f).fresh = s.fresh := by unfold State.modQueue; split <;> rfl
@[simp] theorem State.modQueue_mem (s : State) (q : Nat) (f : Queue → Queue) : (s.modQueue q f).mem = s.mem := by unfold State.modQueue; split <;> rfl
@[simp] theorem State.modQueue_heads (s : State) (q : Nat) (f : Queue → Queue) : (s.modQueue q f).heads = s.heads := by unfold State.modQueue; split <;> rfl
@[simp] theorem State.modQueue_traces (s : State) (q : Nat) (f : Queue → Queue) : (s.modQueue q f).traces = s.traces := by unfold State.modQueue; split <;> rfl
@[simp] theorem State.modQueue_poison (s : State) (q : Nat) (f : Queue → Queue) : (s.modQueue q f).poison = s.poison := by unfold State.modQueue; split <;> rfl
@[simp] theorem State.modQueue_poisonIn (s : State) (q : Nat) (f : Queue → Queue) : (s.modQueue q f).poisonIn = s.poisonIn := by unfold State.modQueue; split <;> rfl
@[simp] theorem State.modQueue_dirty (s : State) (q : Nat) (f : Queue → Queue) : (s.modQueue q f).dirty = s.dirty := by unfold State.modQueue; split <;> rfl
@[simp] theorem State.modQueue_frames (s : State) (q : Nat) (f : Queue → Queue) : (s.modQueue q f).frames = s.frames := by unfold State.modQueue; split <;> rfl
@[simp] theorem State.modQueue_keys (s : State) (q : Nat) (f : Queue → Queue) : (s.modQueue q f).keys = s.keys := by unfold State.modQueue; split <;> rfl
@[simp] theorem State.modQueue_dropCount (s : State) (q : Nat) (f : Queue → Queue) : (s.modQueue q f).dropCount = s.dropCount := by unfold State.modQueue; split <;> rfl
@[simp] theorem State.modQueue_retention (s : State) (q : Nat) (f : Queue → Queue) : (s.modQueue q f).retention = s.retention := by unfold State.modQueue; split <;> rfl
@[simp] theorem State.modQueue_hotEvents (s : State) (q : Nat) (f : Queue → Queue) : (s.modQueue q f).hotEvents = s.hotEvents := by unfold State.modQueue; split <;> rfl
@[simp] theorem State.modQueue_tlb (s : State) (q : Nat) (f : Queue → Queue) : (s.modQueue q f).tlb = s.tlb := by unfold State.modQueue; split <;> rfl
@[simp] theorem State.modQueue_walks (s : State) (q : Nat) (f : Queue → Queue) : (s.modQueue q f).walks = s.walks := by unfold State.modQueue; split <;> rfl
@[simp] theorem State.modQueue_dir (s : State) (q : Nat) (f : Queue → Queue) : (s.modQueue q f).dir = s.dir := by unfold State.modQueue; split <;> rfl
@[simp] theorem State.modQueue_l2 (s : State) (q : Nat) (f : Queue → Queue) : (s.modQueue q f).l2 = s.l2 := by unfold State.modQueue; split <;> rfl
@[simp] theorem State.modQueue_banks (s : State) (q : Nat) (f : Queue → Queue) : (s.modQueue q f).banks = s.banks := by unfold State.modQueue; split <;> rfl
@[simp] theorem State.modQueue_probes (s : State) (q : Nat) (f : Queue → Queue) : (s.modQueue q f).probes = s.probes := by unfold State.modQueue; split <;> rfl
@[simp] theorem State.modQueue_flights (s : State) (q : Nat) (f : Queue → Queue) : (s.modQueue q f).flights = s.flights := by unfold State.modQueue; split <;> rfl
@[simp] theorem State.modQueue_nextFlight (s : State) (q : Nat) (f : Queue → Queue) : (s.modQueue q f).nextFlight = s.nextFlight := by unfold State.modQueue; split <;> rfl
@[simp] theorem State.modQueue_nextItem (s : State) (q : Nat) (f : Queue → Queue) : (s.modQueue q f).nextItem = s.nextItem := by unfold State.modQueue; split <;> rfl
@[simp] theorem State.modQueue_cores (s : State) (q : Nat) (f : Queue → Queue) : (s.modQueue q f).cores = s.cores := by unfold State.modQueue; split <;> rfl
@[simp] theorem State.modQueue_blocks (s : State) (q : Nat) (f : Queue → Queue) : (s.modQueue q f).blocks = s.blocks := by unfold State.modQueue; split <;> rfl
@[simp] theorem State.modQueue_crews (s : State) (q : Nat) (f : Queue → Queue) : (s.modQueue q f).crews = s.crews := by unfold State.modQueue; split <;> rfl
@[simp] theorem State.modQueue_launches (s : State) (q : Nat) (f : Queue → Queue) : (s.modQueue q f).launches = s.launches := by unfold State.modQueue; split <;> rfl
@[simp] theorem State.modQueue_nextLaunch (s : State) (q : Nat) (f : Queue → Queue) : (s.modQueue q f).nextLaunch = s.nextLaunch := by unfold State.modQueue; split <;> rfl
@[simp] theorem State.modQueue_references (s : State) (q : Nat) (f : Queue → Queue) : (s.modQueue q f).references = s.references := by unfold State.modQueue; split <;> rfl
@[simp] theorem State.modQueue_slotGens (s : State) (q : Nat) (f : Queue → Queue) : (s.modQueue q f).slotGens = s.slotGens := by unfold State.modQueue; split <;> rfl
@[simp] theorem State.modQueue_parts (s : State) (q : Nat) (f : Queue → Queue) : (s.modQueue q f).parts = s.parts := by unfold State.modQueue; split <;> rfl
@[simp] theorem State.modQueue_tenants (s : State) (q : Nat) (f : Queue → Queue) : (s.modQueue q f).tenants = s.tenants := by unfold State.modQueue; split <;> rfl
@[simp] theorem State.modQueue_clusters (s : State) (q : Nat) (f : Queue → Queue) : (s.modQueue q f).clusters = s.clusters := by unfold State.modQueue; split <;> rfl
@[simp] theorem State.modQueue_floor (s : State) (q : Nat) (f : Queue → Queue) : (s.modQueue q f).floor = s.floor := by unfold State.modQueue; split <;> rfl
@[simp] theorem State.modQueue_period (s : State) (q : Nat) (f : Queue → Queue) : (s.modQueue q f).period = s.period := by unfold State.modQueue; split <;> rfl
@[simp] theorem State.modQueue_pool (s : State) (q : Nat) (f : Queue → Queue) : (s.modQueue q f).pool = s.pool := by unfold State.modQueue; split <;> rfl
@[simp] theorem State.modQueue_nextCharge (s : State) (q : Nat) (f : Queue → Queue) : (s.modQueue q f).nextCharge = s.nextCharge := by unfold State.modQueue; split <;> rfl
@[simp] theorem State.modQueue_nextPeriod (s : State) (q : Nat) (f : Queue → Queue) : (s.modQueue q f).nextPeriod = s.nextPeriod := by unfold State.modQueue; split <;> rfl
@[simp] theorem State.modQueue_nextPower (s : State) (q : Nat) (f : Queue → Queue) : (s.modQueue q f).nextPower = s.nextPower := by unfold State.modQueue; split <;> rfl
@[simp] theorem State.modQueue_nextSummary (s : State) (q : Nat) (f : Queue → Queue) : (s.modQueue q f).nextSummary = s.nextSummary := by unfold State.modQueue; split <;> rfl
@[simp] theorem State.modQueue_eccCount (s : State) (q : Nat) (f : Queue → Queue) : (s.modQueue q f).eccCount = s.eccCount := by unfold State.modQueue; split <;> rfl
@[simp] theorem State.modQueue_softErrors (s : State) (q : Nat) (f : Queue → Queue) : (s.modQueue q f).softErrors = s.softErrors := by unfold State.modQueue; split <;> rfl
@[simp] theorem State.modQueue_rings (s : State) (q : Nat) (f : Queue → Queue) : (s.modQueue q f).rings = s.rings := by unfold State.modQueue; split <;> rfl
@[simp] theorem State.modQueue_nextHold (s : State) (q : Nat) (f : Queue → Queue) : (s.modQueue q f).nextHold = s.nextHold := by unfold State.modQueue; split <;> rfl
@[simp] theorem State.modQueue_policyLog (s : State) (q : Nat) (f : Queue → Queue) : (s.modQueue q f).policyLog = s.policyLog := by unfold State.modQueue; split <;> rfl
@[simp] theorem State.modQueue_migRing (s : State) (q : Nat) (f : Queue → Queue) : (s.modQueue q f).migRing = s.migRing := by unfold State.modQueue; split <;> rfl
@[simp] theorem State.modQueue_migNext (s : State) (q : Nat) (f : Queue → Queue) : (s.modQueue q f).migNext = s.migNext := by unfold State.modQueue; split <;> rfl
@[simp] theorem State.modQueue_credits (s : State) (q : Nat) (f : Queue → Queue) : (s.modQueue q f).credits = s.credits := by unfold State.modQueue; split <;> rfl
@[simp] theorem State.modQueue_notices (s : State) (q : Nat) (f : Queue → Queue) : (s.modQueue q f).notices = s.notices := by unfold State.modQueue; split <;> rfl
@[simp] theorem State.modQueue_nextNotice (s : State) (q : Nat) (f : Queue → Queue) : (s.modQueue q f).nextNotice = s.nextNotice := by unfold State.modQueue; split <;> rfl
@[simp] theorem State.modQueue_spoil (s : State) (q : Nat) (f : Queue → Queue) : (s.modQueue q f).spoil = s.spoil := by unfold State.modQueue; split <;> rfl
@[simp] theorem State.modQueue_spoilNext (s : State) (q : Nat) (f : Queue → Queue) : (s.modQueue q f).spoilNext = s.spoilNext := by unfold State.modQueue; split <;> rfl
@[simp] theorem State.modQueue_spoilWritten (s : State) (q : Nat) (f : Queue → Queue) : (s.modQueue q f).spoilWritten = s.spoilWritten := by unfold State.modQueue; split <;> rfl
@[simp] theorem State.modQueue_cpDown (s : State) (q : Nat) (f : Queue → Queue) : (s.modQueue q f).cpDown = s.cpDown := by unfold State.modQueue; split <;> rfl
@[simp] theorem State.modQueue_boot (s : State) (q : Nat) (f : Queue → Queue) : (s.modQueue q f).boot = s.boot := by unfold State.modQueue; split <;> rfl
@[simp] theorem State.modQueue_imageStore (s : State) (q : Nat) (f : Queue → Queue) : (s.modQueue q f).imageStore = s.imageStore := by unfold State.modQueue; split <;> rfl
@[simp] theorem State.modQueue_firmware (s : State) (q : Nat) (f : Queue → Queue) : (s.modQueue q f).firmware = s.firmware := by unfold State.modQueue; split <;> rfl
@[simp] theorem State.modQueue_lifeCycle (s : State) (q : Nat) (f : Queue → Queue) : (s.modQueue q f).lifeCycle = s.lifeCycle := by unfold State.modQueue; split <;> rfl
@[simp] theorem State.modQueue_boots (s : State) (q : Nat) (f : Queue → Queue) : (s.modQueue q f).boots = s.boots := by unfold State.modQueue; split <;> rfl
@[simp] theorem State.modQueue_resets (s : State) (q : Nat) (f : Queue → Queue) : (s.modQueue q f).resets = s.resets := by unfold State.modQueue; split <;> rfl
@[simp] theorem State.modQueue_ckSkew (s : State) (q : Nat) (f : Queue → Queue) : (s.modQueue q f).ckSkew = s.ckSkew := by unfold State.modQueue; split <;> rfl
@[simp] theorem State.modQueue_portsDown (s : State) (q : Nat) (f : Queue → Queue) : (s.modQueue q f).portsDown = s.portsDown := by unfold State.modQueue; split <;> rfl
@[simp] theorem State.modQueue_qps (s : State) (q : Nat) (f : Queue → Queue) : (s.modQueue q f).qps = s.qps := by unfold State.modQueue; split <;> rfl
@[simp] theorem State.modQueue_regions (s : State) (q : Nat) (f : Queue → Queue) : (s.modQueue q f).regions = s.regions := by unfold State.modQueue; split <;> rfl
@[simp] theorem State.modQueue_portWork (s : State) (q : Nat) (f : Queue → Queue) : (s.modQueue q f).portWork = s.portWork := by unfold State.modQueue; split <;> rfl
@[simp] theorem State.modQueue_portRings (s : State) (q : Nat) (f : Queue → Queue) : (s.modQueue q f).portRings = s.portRings := by unfold State.modQueue; split <;> rfl
@[simp] theorem State.modQueue_portHeld (s : State) (q : Nat) (f : Queue → Queue) : (s.modQueue q f).portHeld = s.portHeld := by unfold State.modQueue; split <;> rfl
@[simp] theorem State.modQueue_replies (s : State) (q : Nat) (f : Queue → Queue) : (s.modQueue q f).replies = s.replies := by unfold State.modQueue; split <;> rfl

/-! ## State.modCluster -/

@[simp] theorem State.modCluster_ck (s : State) (n : Nat) (f : Cluster → Cluster) : (s.modCluster n f).ck = s.ck := rfl
@[simp] theorem State.modCluster_power (s : State) (n : Nat) (f : Cluster → Cluster) : (s.modCluster n f).power = s.power := rfl
@[simp] theorem State.modCluster_agenda (s : State) (n : Nat) (f : Cluster → Cluster) : (s.modCluster n f).agenda = s.agenda := rfl
@[simp] theorem State.modCluster_focus (s : State) (n : Nat) (f : Cluster → Cluster) : (s.modCluster n f).focus = s.focus := rfl
@[simp] theorem State.modCluster_phase (s : State) (n : Nat) (f : Cluster → Cluster) : (s.modCluster n f).phase = s.phase := rfl
@[simp] theorem State.modCluster_place (s : State) (n : Nat) (f : Cluster → Cluster) : (s.modCluster n f).place = s.place := rfl
@[simp] theorem State.modCluster_spent (s : State) (n : Nat) (f : Cluster → Cluster) : (s.modCluster n f).spent = s.spent := rfl
@[simp] theorem State.modCluster_accepted (s : State) (n : Nat) (f : Cluster → Cluster) : (s.modCluster n f).accepted = s.accepted := rfl
@[simp] theorem State.modCluster_moved (s : State) (n : Nat) (f : Cluster → Cluster) : (s.modCluster n f).moved = s.moved := rfl
@[simp] theorem State.modCluster_banked (s : State) (n : Nat) (f : Cluster → Cluster) : (s.modCluster n f).banked = s.banked := rfl
@[simp] theorem State.modCluster_fresh (s : State) (n : Nat) (f : Cluster → Cluster) : (s.modCluster n f).fresh = s.fresh := rfl
@[simp] theorem State.modCluster_mem (s : State) (n : Nat) (f : Cluster → Cluster) : (s.modCluster n f).mem = s.mem := rfl
@[simp] theorem State.modCluster_heads (s : State) (n : Nat) (f : Cluster → Cluster) : (s.modCluster n f).heads = s.heads := rfl
@[simp] theorem State.modCluster_traces (s : State) (n : Nat) (f : Cluster → Cluster) : (s.modCluster n f).traces = s.traces := rfl
@[simp] theorem State.modCluster_poison (s : State) (n : Nat) (f : Cluster → Cluster) : (s.modCluster n f).poison = s.poison := rfl
@[simp] theorem State.modCluster_poisonIn (s : State) (n : Nat) (f : Cluster → Cluster) : (s.modCluster n f).poisonIn = s.poisonIn := rfl
@[simp] theorem State.modCluster_dirty (s : State) (n : Nat) (f : Cluster → Cluster) : (s.modCluster n f).dirty = s.dirty := rfl
@[simp] theorem State.modCluster_frames (s : State) (n : Nat) (f : Cluster → Cluster) : (s.modCluster n f).frames = s.frames := rfl
@[simp] theorem State.modCluster_keys (s : State) (n : Nat) (f : Cluster → Cluster) : (s.modCluster n f).keys = s.keys := rfl
@[simp] theorem State.modCluster_dropCount (s : State) (n : Nat) (f : Cluster → Cluster) : (s.modCluster n f).dropCount = s.dropCount := rfl
@[simp] theorem State.modCluster_retention (s : State) (n : Nat) (f : Cluster → Cluster) : (s.modCluster n f).retention = s.retention := rfl
@[simp] theorem State.modCluster_hotEvents (s : State) (n : Nat) (f : Cluster → Cluster) : (s.modCluster n f).hotEvents = s.hotEvents := rfl
@[simp] theorem State.modCluster_tlb (s : State) (n : Nat) (f : Cluster → Cluster) : (s.modCluster n f).tlb = s.tlb := rfl
@[simp] theorem State.modCluster_walks (s : State) (n : Nat) (f : Cluster → Cluster) : (s.modCluster n f).walks = s.walks := rfl
@[simp] theorem State.modCluster_dir (s : State) (n : Nat) (f : Cluster → Cluster) : (s.modCluster n f).dir = s.dir := rfl
@[simp] theorem State.modCluster_l2 (s : State) (n : Nat) (f : Cluster → Cluster) : (s.modCluster n f).l2 = s.l2 := rfl
@[simp] theorem State.modCluster_banks (s : State) (n : Nat) (f : Cluster → Cluster) : (s.modCluster n f).banks = s.banks := rfl
@[simp] theorem State.modCluster_probes (s : State) (n : Nat) (f : Cluster → Cluster) : (s.modCluster n f).probes = s.probes := rfl
@[simp] theorem State.modCluster_flights (s : State) (n : Nat) (f : Cluster → Cluster) : (s.modCluster n f).flights = s.flights := rfl
@[simp] theorem State.modCluster_nextFlight (s : State) (n : Nat) (f : Cluster → Cluster) : (s.modCluster n f).nextFlight = s.nextFlight := rfl
@[simp] theorem State.modCluster_nextItem (s : State) (n : Nat) (f : Cluster → Cluster) : (s.modCluster n f).nextItem = s.nextItem := rfl
@[simp] theorem State.modCluster_cores (s : State) (n : Nat) (f : Cluster → Cluster) : (s.modCluster n f).cores = s.cores := rfl
@[simp] theorem State.modCluster_blocks (s : State) (n : Nat) (f : Cluster → Cluster) : (s.modCluster n f).blocks = s.blocks := rfl
@[simp] theorem State.modCluster_crews (s : State) (n : Nat) (f : Cluster → Cluster) : (s.modCluster n f).crews = s.crews := rfl
@[simp] theorem State.modCluster_launches (s : State) (n : Nat) (f : Cluster → Cluster) : (s.modCluster n f).launches = s.launches := rfl
@[simp] theorem State.modCluster_nextLaunch (s : State) (n : Nat) (f : Cluster → Cluster) : (s.modCluster n f).nextLaunch = s.nextLaunch := rfl
@[simp] theorem State.modCluster_queues (s : State) (n : Nat) (f : Cluster → Cluster) : (s.modCluster n f).queues = s.queues := rfl
@[simp] theorem State.modCluster_references (s : State) (n : Nat) (f : Cluster → Cluster) : (s.modCluster n f).references = s.references := rfl
@[simp] theorem State.modCluster_slotGens (s : State) (n : Nat) (f : Cluster → Cluster) : (s.modCluster n f).slotGens = s.slotGens := rfl
@[simp] theorem State.modCluster_parts (s : State) (n : Nat) (f : Cluster → Cluster) : (s.modCluster n f).parts = s.parts := rfl
@[simp] theorem State.modCluster_tenants (s : State) (n : Nat) (f : Cluster → Cluster) : (s.modCluster n f).tenants = s.tenants := rfl
@[simp] theorem State.modCluster_floor (s : State) (n : Nat) (f : Cluster → Cluster) : (s.modCluster n f).floor = s.floor := rfl
@[simp] theorem State.modCluster_period (s : State) (n : Nat) (f : Cluster → Cluster) : (s.modCluster n f).period = s.period := rfl
@[simp] theorem State.modCluster_pool (s : State) (n : Nat) (f : Cluster → Cluster) : (s.modCluster n f).pool = s.pool := rfl
@[simp] theorem State.modCluster_nextCharge (s : State) (n : Nat) (f : Cluster → Cluster) : (s.modCluster n f).nextCharge = s.nextCharge := rfl
@[simp] theorem State.modCluster_nextPeriod (s : State) (n : Nat) (f : Cluster → Cluster) : (s.modCluster n f).nextPeriod = s.nextPeriod := rfl
@[simp] theorem State.modCluster_nextPower (s : State) (n : Nat) (f : Cluster → Cluster) : (s.modCluster n f).nextPower = s.nextPower := rfl
@[simp] theorem State.modCluster_nextSummary (s : State) (n : Nat) (f : Cluster → Cluster) : (s.modCluster n f).nextSummary = s.nextSummary := rfl
@[simp] theorem State.modCluster_eccCount (s : State) (n : Nat) (f : Cluster → Cluster) : (s.modCluster n f).eccCount = s.eccCount := rfl
@[simp] theorem State.modCluster_softErrors (s : State) (n : Nat) (f : Cluster → Cluster) : (s.modCluster n f).softErrors = s.softErrors := rfl
@[simp] theorem State.modCluster_rings (s : State) (n : Nat) (f : Cluster → Cluster) : (s.modCluster n f).rings = s.rings := rfl
@[simp] theorem State.modCluster_nextHold (s : State) (n : Nat) (f : Cluster → Cluster) : (s.modCluster n f).nextHold = s.nextHold := rfl
@[simp] theorem State.modCluster_policyLog (s : State) (n : Nat) (f : Cluster → Cluster) : (s.modCluster n f).policyLog = s.policyLog := rfl
@[simp] theorem State.modCluster_migRing (s : State) (n : Nat) (f : Cluster → Cluster) : (s.modCluster n f).migRing = s.migRing := rfl
@[simp] theorem State.modCluster_migNext (s : State) (n : Nat) (f : Cluster → Cluster) : (s.modCluster n f).migNext = s.migNext := rfl
@[simp] theorem State.modCluster_credits (s : State) (n : Nat) (f : Cluster → Cluster) : (s.modCluster n f).credits = s.credits := rfl
@[simp] theorem State.modCluster_notices (s : State) (n : Nat) (f : Cluster → Cluster) : (s.modCluster n f).notices = s.notices := rfl
@[simp] theorem State.modCluster_nextNotice (s : State) (n : Nat) (f : Cluster → Cluster) : (s.modCluster n f).nextNotice = s.nextNotice := rfl
@[simp] theorem State.modCluster_spoil (s : State) (n : Nat) (f : Cluster → Cluster) : (s.modCluster n f).spoil = s.spoil := rfl
@[simp] theorem State.modCluster_spoilNext (s : State) (n : Nat) (f : Cluster → Cluster) : (s.modCluster n f).spoilNext = s.spoilNext := rfl
@[simp] theorem State.modCluster_spoilWritten (s : State) (n : Nat) (f : Cluster → Cluster) : (s.modCluster n f).spoilWritten = s.spoilWritten := rfl
@[simp] theorem State.modCluster_cpDown (s : State) (n : Nat) (f : Cluster → Cluster) : (s.modCluster n f).cpDown = s.cpDown := rfl
@[simp] theorem State.modCluster_boot (s : State) (n : Nat) (f : Cluster → Cluster) : (s.modCluster n f).boot = s.boot := rfl
@[simp] theorem State.modCluster_imageStore (s : State) (n : Nat) (f : Cluster → Cluster) : (s.modCluster n f).imageStore = s.imageStore := rfl
@[simp] theorem State.modCluster_firmware (s : State) (n : Nat) (f : Cluster → Cluster) : (s.modCluster n f).firmware = s.firmware := rfl
@[simp] theorem State.modCluster_lifeCycle (s : State) (n : Nat) (f : Cluster → Cluster) : (s.modCluster n f).lifeCycle = s.lifeCycle := rfl
@[simp] theorem State.modCluster_boots (s : State) (n : Nat) (f : Cluster → Cluster) : (s.modCluster n f).boots = s.boots := rfl
@[simp] theorem State.modCluster_resets (s : State) (n : Nat) (f : Cluster → Cluster) : (s.modCluster n f).resets = s.resets := rfl
@[simp] theorem State.modCluster_ckSkew (s : State) (n : Nat) (f : Cluster → Cluster) : (s.modCluster n f).ckSkew = s.ckSkew := rfl
@[simp] theorem State.modCluster_portsDown (s : State) (n : Nat) (f : Cluster → Cluster) : (s.modCluster n f).portsDown = s.portsDown := rfl
@[simp] theorem State.modCluster_qps (s : State) (n : Nat) (f : Cluster → Cluster) : (s.modCluster n f).qps = s.qps := rfl
@[simp] theorem State.modCluster_regions (s : State) (n : Nat) (f : Cluster → Cluster) : (s.modCluster n f).regions = s.regions := rfl
@[simp] theorem State.modCluster_portWork (s : State) (n : Nat) (f : Cluster → Cluster) : (s.modCluster n f).portWork = s.portWork := rfl
@[simp] theorem State.modCluster_portRings (s : State) (n : Nat) (f : Cluster → Cluster) : (s.modCluster n f).portRings = s.portRings := rfl
@[simp] theorem State.modCluster_portHeld (s : State) (n : Nat) (f : Cluster → Cluster) : (s.modCluster n f).portHeld = s.portHeld := rfl
@[simp] theorem State.modCluster_replies (s : State) (n : Nat) (f : Cluster → Cluster) : (s.modCluster n f).replies = s.replies := rfl

/-! ## State.modTenant -/

@[simp] theorem State.modTenant_ck (s : State) (n : Nat) (f : Tenant → Tenant) : (s.modTenant n f).ck = s.ck := rfl
@[simp] theorem State.modTenant_power (s : State) (n : Nat) (f : Tenant → Tenant) : (s.modTenant n f).power = s.power := rfl
@[simp] theorem State.modTenant_agenda (s : State) (n : Nat) (f : Tenant → Tenant) : (s.modTenant n f).agenda = s.agenda := rfl
@[simp] theorem State.modTenant_focus (s : State) (n : Nat) (f : Tenant → Tenant) : (s.modTenant n f).focus = s.focus := rfl
@[simp] theorem State.modTenant_phase (s : State) (n : Nat) (f : Tenant → Tenant) : (s.modTenant n f).phase = s.phase := rfl
@[simp] theorem State.modTenant_place (s : State) (n : Nat) (f : Tenant → Tenant) : (s.modTenant n f).place = s.place := rfl
@[simp] theorem State.modTenant_spent (s : State) (n : Nat) (f : Tenant → Tenant) : (s.modTenant n f).spent = s.spent := rfl
@[simp] theorem State.modTenant_accepted (s : State) (n : Nat) (f : Tenant → Tenant) : (s.modTenant n f).accepted = s.accepted := rfl
@[simp] theorem State.modTenant_moved (s : State) (n : Nat) (f : Tenant → Tenant) : (s.modTenant n f).moved = s.moved := rfl
@[simp] theorem State.modTenant_banked (s : State) (n : Nat) (f : Tenant → Tenant) : (s.modTenant n f).banked = s.banked := rfl
@[simp] theorem State.modTenant_fresh (s : State) (n : Nat) (f : Tenant → Tenant) : (s.modTenant n f).fresh = s.fresh := rfl
@[simp] theorem State.modTenant_mem (s : State) (n : Nat) (f : Tenant → Tenant) : (s.modTenant n f).mem = s.mem := rfl
@[simp] theorem State.modTenant_heads (s : State) (n : Nat) (f : Tenant → Tenant) : (s.modTenant n f).heads = s.heads := rfl
@[simp] theorem State.modTenant_traces (s : State) (n : Nat) (f : Tenant → Tenant) : (s.modTenant n f).traces = s.traces := rfl
@[simp] theorem State.modTenant_poison (s : State) (n : Nat) (f : Tenant → Tenant) : (s.modTenant n f).poison = s.poison := rfl
@[simp] theorem State.modTenant_poisonIn (s : State) (n : Nat) (f : Tenant → Tenant) : (s.modTenant n f).poisonIn = s.poisonIn := rfl
@[simp] theorem State.modTenant_dirty (s : State) (n : Nat) (f : Tenant → Tenant) : (s.modTenant n f).dirty = s.dirty := rfl
@[simp] theorem State.modTenant_frames (s : State) (n : Nat) (f : Tenant → Tenant) : (s.modTenant n f).frames = s.frames := rfl
@[simp] theorem State.modTenant_keys (s : State) (n : Nat) (f : Tenant → Tenant) : (s.modTenant n f).keys = s.keys := rfl
@[simp] theorem State.modTenant_dropCount (s : State) (n : Nat) (f : Tenant → Tenant) : (s.modTenant n f).dropCount = s.dropCount := rfl
@[simp] theorem State.modTenant_retention (s : State) (n : Nat) (f : Tenant → Tenant) : (s.modTenant n f).retention = s.retention := rfl
@[simp] theorem State.modTenant_hotEvents (s : State) (n : Nat) (f : Tenant → Tenant) : (s.modTenant n f).hotEvents = s.hotEvents := rfl
@[simp] theorem State.modTenant_tlb (s : State) (n : Nat) (f : Tenant → Tenant) : (s.modTenant n f).tlb = s.tlb := rfl
@[simp] theorem State.modTenant_walks (s : State) (n : Nat) (f : Tenant → Tenant) : (s.modTenant n f).walks = s.walks := rfl
@[simp] theorem State.modTenant_dir (s : State) (n : Nat) (f : Tenant → Tenant) : (s.modTenant n f).dir = s.dir := rfl
@[simp] theorem State.modTenant_l2 (s : State) (n : Nat) (f : Tenant → Tenant) : (s.modTenant n f).l2 = s.l2 := rfl
@[simp] theorem State.modTenant_banks (s : State) (n : Nat) (f : Tenant → Tenant) : (s.modTenant n f).banks = s.banks := rfl
@[simp] theorem State.modTenant_probes (s : State) (n : Nat) (f : Tenant → Tenant) : (s.modTenant n f).probes = s.probes := rfl
@[simp] theorem State.modTenant_flights (s : State) (n : Nat) (f : Tenant → Tenant) : (s.modTenant n f).flights = s.flights := rfl
@[simp] theorem State.modTenant_nextFlight (s : State) (n : Nat) (f : Tenant → Tenant) : (s.modTenant n f).nextFlight = s.nextFlight := rfl
@[simp] theorem State.modTenant_nextItem (s : State) (n : Nat) (f : Tenant → Tenant) : (s.modTenant n f).nextItem = s.nextItem := rfl
@[simp] theorem State.modTenant_cores (s : State) (n : Nat) (f : Tenant → Tenant) : (s.modTenant n f).cores = s.cores := rfl
@[simp] theorem State.modTenant_blocks (s : State) (n : Nat) (f : Tenant → Tenant) : (s.modTenant n f).blocks = s.blocks := rfl
@[simp] theorem State.modTenant_crews (s : State) (n : Nat) (f : Tenant → Tenant) : (s.modTenant n f).crews = s.crews := rfl
@[simp] theorem State.modTenant_launches (s : State) (n : Nat) (f : Tenant → Tenant) : (s.modTenant n f).launches = s.launches := rfl
@[simp] theorem State.modTenant_nextLaunch (s : State) (n : Nat) (f : Tenant → Tenant) : (s.modTenant n f).nextLaunch = s.nextLaunch := rfl
@[simp] theorem State.modTenant_queues (s : State) (n : Nat) (f : Tenant → Tenant) : (s.modTenant n f).queues = s.queues := rfl
@[simp] theorem State.modTenant_references (s : State) (n : Nat) (f : Tenant → Tenant) : (s.modTenant n f).references = s.references := rfl
@[simp] theorem State.modTenant_slotGens (s : State) (n : Nat) (f : Tenant → Tenant) : (s.modTenant n f).slotGens = s.slotGens := rfl
@[simp] theorem State.modTenant_parts (s : State) (n : Nat) (f : Tenant → Tenant) : (s.modTenant n f).parts = s.parts := rfl
@[simp] theorem State.modTenant_clusters (s : State) (n : Nat) (f : Tenant → Tenant) : (s.modTenant n f).clusters = s.clusters := rfl
@[simp] theorem State.modTenant_floor (s : State) (n : Nat) (f : Tenant → Tenant) : (s.modTenant n f).floor = s.floor := rfl
@[simp] theorem State.modTenant_period (s : State) (n : Nat) (f : Tenant → Tenant) : (s.modTenant n f).period = s.period := rfl
@[simp] theorem State.modTenant_pool (s : State) (n : Nat) (f : Tenant → Tenant) : (s.modTenant n f).pool = s.pool := rfl
@[simp] theorem State.modTenant_nextCharge (s : State) (n : Nat) (f : Tenant → Tenant) : (s.modTenant n f).nextCharge = s.nextCharge := rfl
@[simp] theorem State.modTenant_nextPeriod (s : State) (n : Nat) (f : Tenant → Tenant) : (s.modTenant n f).nextPeriod = s.nextPeriod := rfl
@[simp] theorem State.modTenant_nextPower (s : State) (n : Nat) (f : Tenant → Tenant) : (s.modTenant n f).nextPower = s.nextPower := rfl
@[simp] theorem State.modTenant_nextSummary (s : State) (n : Nat) (f : Tenant → Tenant) : (s.modTenant n f).nextSummary = s.nextSummary := rfl
@[simp] theorem State.modTenant_eccCount (s : State) (n : Nat) (f : Tenant → Tenant) : (s.modTenant n f).eccCount = s.eccCount := rfl
@[simp] theorem State.modTenant_softErrors (s : State) (n : Nat) (f : Tenant → Tenant) : (s.modTenant n f).softErrors = s.softErrors := rfl
@[simp] theorem State.modTenant_rings (s : State) (n : Nat) (f : Tenant → Tenant) : (s.modTenant n f).rings = s.rings := rfl
@[simp] theorem State.modTenant_nextHold (s : State) (n : Nat) (f : Tenant → Tenant) : (s.modTenant n f).nextHold = s.nextHold := rfl
@[simp] theorem State.modTenant_policyLog (s : State) (n : Nat) (f : Tenant → Tenant) : (s.modTenant n f).policyLog = s.policyLog := rfl
@[simp] theorem State.modTenant_migRing (s : State) (n : Nat) (f : Tenant → Tenant) : (s.modTenant n f).migRing = s.migRing := rfl
@[simp] theorem State.modTenant_migNext (s : State) (n : Nat) (f : Tenant → Tenant) : (s.modTenant n f).migNext = s.migNext := rfl
@[simp] theorem State.modTenant_credits (s : State) (n : Nat) (f : Tenant → Tenant) : (s.modTenant n f).credits = s.credits := rfl
@[simp] theorem State.modTenant_notices (s : State) (n : Nat) (f : Tenant → Tenant) : (s.modTenant n f).notices = s.notices := rfl
@[simp] theorem State.modTenant_nextNotice (s : State) (n : Nat) (f : Tenant → Tenant) : (s.modTenant n f).nextNotice = s.nextNotice := rfl
@[simp] theorem State.modTenant_spoil (s : State) (n : Nat) (f : Tenant → Tenant) : (s.modTenant n f).spoil = s.spoil := rfl
@[simp] theorem State.modTenant_spoilNext (s : State) (n : Nat) (f : Tenant → Tenant) : (s.modTenant n f).spoilNext = s.spoilNext := rfl
@[simp] theorem State.modTenant_spoilWritten (s : State) (n : Nat) (f : Tenant → Tenant) : (s.modTenant n f).spoilWritten = s.spoilWritten := rfl
@[simp] theorem State.modTenant_cpDown (s : State) (n : Nat) (f : Tenant → Tenant) : (s.modTenant n f).cpDown = s.cpDown := rfl
@[simp] theorem State.modTenant_boot (s : State) (n : Nat) (f : Tenant → Tenant) : (s.modTenant n f).boot = s.boot := rfl
@[simp] theorem State.modTenant_imageStore (s : State) (n : Nat) (f : Tenant → Tenant) : (s.modTenant n f).imageStore = s.imageStore := rfl
@[simp] theorem State.modTenant_firmware (s : State) (n : Nat) (f : Tenant → Tenant) : (s.modTenant n f).firmware = s.firmware := rfl
@[simp] theorem State.modTenant_lifeCycle (s : State) (n : Nat) (f : Tenant → Tenant) : (s.modTenant n f).lifeCycle = s.lifeCycle := rfl
@[simp] theorem State.modTenant_boots (s : State) (n : Nat) (f : Tenant → Tenant) : (s.modTenant n f).boots = s.boots := rfl
@[simp] theorem State.modTenant_resets (s : State) (n : Nat) (f : Tenant → Tenant) : (s.modTenant n f).resets = s.resets := rfl
@[simp] theorem State.modTenant_ckSkew (s : State) (n : Nat) (f : Tenant → Tenant) : (s.modTenant n f).ckSkew = s.ckSkew := rfl
@[simp] theorem State.modTenant_portsDown (s : State) (n : Nat) (f : Tenant → Tenant) : (s.modTenant n f).portsDown = s.portsDown := rfl
@[simp] theorem State.modTenant_qps (s : State) (n : Nat) (f : Tenant → Tenant) : (s.modTenant n f).qps = s.qps := rfl
@[simp] theorem State.modTenant_regions (s : State) (n : Nat) (f : Tenant → Tenant) : (s.modTenant n f).regions = s.regions := rfl
@[simp] theorem State.modTenant_portWork (s : State) (n : Nat) (f : Tenant → Tenant) : (s.modTenant n f).portWork = s.portWork := rfl
@[simp] theorem State.modTenant_portRings (s : State) (n : Nat) (f : Tenant → Tenant) : (s.modTenant n f).portRings = s.portRings := rfl
@[simp] theorem State.modTenant_portHeld (s : State) (n : Nat) (f : Tenant → Tenant) : (s.modTenant n f).portHeld = s.portHeld := rfl
@[simp] theorem State.modTenant_replies (s : State) (n : Nat) (f : Tenant → Tenant) : (s.modTenant n f).replies = s.replies := rfl

/-! ## State.modRing -/

@[simp] theorem State.modRing_ck (s : State) (n : Nat) (f : Ring → Ring) : (s.modRing n f).ck = s.ck := rfl
@[simp] theorem State.modRing_power (s : State) (n : Nat) (f : Ring → Ring) : (s.modRing n f).power = s.power := rfl
@[simp] theorem State.modRing_agenda (s : State) (n : Nat) (f : Ring → Ring) : (s.modRing n f).agenda = s.agenda := rfl
@[simp] theorem State.modRing_focus (s : State) (n : Nat) (f : Ring → Ring) : (s.modRing n f).focus = s.focus := rfl
@[simp] theorem State.modRing_phase (s : State) (n : Nat) (f : Ring → Ring) : (s.modRing n f).phase = s.phase := rfl
@[simp] theorem State.modRing_place (s : State) (n : Nat) (f : Ring → Ring) : (s.modRing n f).place = s.place := rfl
@[simp] theorem State.modRing_spent (s : State) (n : Nat) (f : Ring → Ring) : (s.modRing n f).spent = s.spent := rfl
@[simp] theorem State.modRing_accepted (s : State) (n : Nat) (f : Ring → Ring) : (s.modRing n f).accepted = s.accepted := rfl
@[simp] theorem State.modRing_moved (s : State) (n : Nat) (f : Ring → Ring) : (s.modRing n f).moved = s.moved := rfl
@[simp] theorem State.modRing_banked (s : State) (n : Nat) (f : Ring → Ring) : (s.modRing n f).banked = s.banked := rfl
@[simp] theorem State.modRing_fresh (s : State) (n : Nat) (f : Ring → Ring) : (s.modRing n f).fresh = s.fresh := rfl
@[simp] theorem State.modRing_mem (s : State) (n : Nat) (f : Ring → Ring) : (s.modRing n f).mem = s.mem := rfl
@[simp] theorem State.modRing_heads (s : State) (n : Nat) (f : Ring → Ring) : (s.modRing n f).heads = s.heads := rfl
@[simp] theorem State.modRing_traces (s : State) (n : Nat) (f : Ring → Ring) : (s.modRing n f).traces = s.traces := rfl
@[simp] theorem State.modRing_poison (s : State) (n : Nat) (f : Ring → Ring) : (s.modRing n f).poison = s.poison := rfl
@[simp] theorem State.modRing_poisonIn (s : State) (n : Nat) (f : Ring → Ring) : (s.modRing n f).poisonIn = s.poisonIn := rfl
@[simp] theorem State.modRing_dirty (s : State) (n : Nat) (f : Ring → Ring) : (s.modRing n f).dirty = s.dirty := rfl
@[simp] theorem State.modRing_frames (s : State) (n : Nat) (f : Ring → Ring) : (s.modRing n f).frames = s.frames := rfl
@[simp] theorem State.modRing_keys (s : State) (n : Nat) (f : Ring → Ring) : (s.modRing n f).keys = s.keys := rfl
@[simp] theorem State.modRing_dropCount (s : State) (n : Nat) (f : Ring → Ring) : (s.modRing n f).dropCount = s.dropCount := rfl
@[simp] theorem State.modRing_retention (s : State) (n : Nat) (f : Ring → Ring) : (s.modRing n f).retention = s.retention := rfl
@[simp] theorem State.modRing_hotEvents (s : State) (n : Nat) (f : Ring → Ring) : (s.modRing n f).hotEvents = s.hotEvents := rfl
@[simp] theorem State.modRing_tlb (s : State) (n : Nat) (f : Ring → Ring) : (s.modRing n f).tlb = s.tlb := rfl
@[simp] theorem State.modRing_walks (s : State) (n : Nat) (f : Ring → Ring) : (s.modRing n f).walks = s.walks := rfl
@[simp] theorem State.modRing_dir (s : State) (n : Nat) (f : Ring → Ring) : (s.modRing n f).dir = s.dir := rfl
@[simp] theorem State.modRing_l2 (s : State) (n : Nat) (f : Ring → Ring) : (s.modRing n f).l2 = s.l2 := rfl
@[simp] theorem State.modRing_banks (s : State) (n : Nat) (f : Ring → Ring) : (s.modRing n f).banks = s.banks := rfl
@[simp] theorem State.modRing_probes (s : State) (n : Nat) (f : Ring → Ring) : (s.modRing n f).probes = s.probes := rfl
@[simp] theorem State.modRing_flights (s : State) (n : Nat) (f : Ring → Ring) : (s.modRing n f).flights = s.flights := rfl
@[simp] theorem State.modRing_nextFlight (s : State) (n : Nat) (f : Ring → Ring) : (s.modRing n f).nextFlight = s.nextFlight := rfl
@[simp] theorem State.modRing_nextItem (s : State) (n : Nat) (f : Ring → Ring) : (s.modRing n f).nextItem = s.nextItem := rfl
@[simp] theorem State.modRing_cores (s : State) (n : Nat) (f : Ring → Ring) : (s.modRing n f).cores = s.cores := rfl
@[simp] theorem State.modRing_blocks (s : State) (n : Nat) (f : Ring → Ring) : (s.modRing n f).blocks = s.blocks := rfl
@[simp] theorem State.modRing_crews (s : State) (n : Nat) (f : Ring → Ring) : (s.modRing n f).crews = s.crews := rfl
@[simp] theorem State.modRing_launches (s : State) (n : Nat) (f : Ring → Ring) : (s.modRing n f).launches = s.launches := rfl
@[simp] theorem State.modRing_nextLaunch (s : State) (n : Nat) (f : Ring → Ring) : (s.modRing n f).nextLaunch = s.nextLaunch := rfl
@[simp] theorem State.modRing_queues (s : State) (n : Nat) (f : Ring → Ring) : (s.modRing n f).queues = s.queues := rfl
@[simp] theorem State.modRing_references (s : State) (n : Nat) (f : Ring → Ring) : (s.modRing n f).references = s.references := rfl
@[simp] theorem State.modRing_slotGens (s : State) (n : Nat) (f : Ring → Ring) : (s.modRing n f).slotGens = s.slotGens := rfl
@[simp] theorem State.modRing_parts (s : State) (n : Nat) (f : Ring → Ring) : (s.modRing n f).parts = s.parts := rfl
@[simp] theorem State.modRing_tenants (s : State) (n : Nat) (f : Ring → Ring) : (s.modRing n f).tenants = s.tenants := rfl
@[simp] theorem State.modRing_clusters (s : State) (n : Nat) (f : Ring → Ring) : (s.modRing n f).clusters = s.clusters := rfl
@[simp] theorem State.modRing_floor (s : State) (n : Nat) (f : Ring → Ring) : (s.modRing n f).floor = s.floor := rfl
@[simp] theorem State.modRing_period (s : State) (n : Nat) (f : Ring → Ring) : (s.modRing n f).period = s.period := rfl
@[simp] theorem State.modRing_pool (s : State) (n : Nat) (f : Ring → Ring) : (s.modRing n f).pool = s.pool := rfl
@[simp] theorem State.modRing_nextCharge (s : State) (n : Nat) (f : Ring → Ring) : (s.modRing n f).nextCharge = s.nextCharge := rfl
@[simp] theorem State.modRing_nextPeriod (s : State) (n : Nat) (f : Ring → Ring) : (s.modRing n f).nextPeriod = s.nextPeriod := rfl
@[simp] theorem State.modRing_nextPower (s : State) (n : Nat) (f : Ring → Ring) : (s.modRing n f).nextPower = s.nextPower := rfl
@[simp] theorem State.modRing_nextSummary (s : State) (n : Nat) (f : Ring → Ring) : (s.modRing n f).nextSummary = s.nextSummary := rfl
@[simp] theorem State.modRing_eccCount (s : State) (n : Nat) (f : Ring → Ring) : (s.modRing n f).eccCount = s.eccCount := rfl
@[simp] theorem State.modRing_softErrors (s : State) (n : Nat) (f : Ring → Ring) : (s.modRing n f).softErrors = s.softErrors := rfl
@[simp] theorem State.modRing_nextHold (s : State) (n : Nat) (f : Ring → Ring) : (s.modRing n f).nextHold = s.nextHold := rfl
@[simp] theorem State.modRing_policyLog (s : State) (n : Nat) (f : Ring → Ring) : (s.modRing n f).policyLog = s.policyLog := rfl
@[simp] theorem State.modRing_migRing (s : State) (n : Nat) (f : Ring → Ring) : (s.modRing n f).migRing = s.migRing := rfl
@[simp] theorem State.modRing_migNext (s : State) (n : Nat) (f : Ring → Ring) : (s.modRing n f).migNext = s.migNext := rfl
@[simp] theorem State.modRing_credits (s : State) (n : Nat) (f : Ring → Ring) : (s.modRing n f).credits = s.credits := rfl
@[simp] theorem State.modRing_notices (s : State) (n : Nat) (f : Ring → Ring) : (s.modRing n f).notices = s.notices := rfl
@[simp] theorem State.modRing_nextNotice (s : State) (n : Nat) (f : Ring → Ring) : (s.modRing n f).nextNotice = s.nextNotice := rfl
@[simp] theorem State.modRing_spoil (s : State) (n : Nat) (f : Ring → Ring) : (s.modRing n f).spoil = s.spoil := rfl
@[simp] theorem State.modRing_spoilNext (s : State) (n : Nat) (f : Ring → Ring) : (s.modRing n f).spoilNext = s.spoilNext := rfl
@[simp] theorem State.modRing_spoilWritten (s : State) (n : Nat) (f : Ring → Ring) : (s.modRing n f).spoilWritten = s.spoilWritten := rfl
@[simp] theorem State.modRing_cpDown (s : State) (n : Nat) (f : Ring → Ring) : (s.modRing n f).cpDown = s.cpDown := rfl
@[simp] theorem State.modRing_boot (s : State) (n : Nat) (f : Ring → Ring) : (s.modRing n f).boot = s.boot := rfl
@[simp] theorem State.modRing_imageStore (s : State) (n : Nat) (f : Ring → Ring) : (s.modRing n f).imageStore = s.imageStore := rfl
@[simp] theorem State.modRing_firmware (s : State) (n : Nat) (f : Ring → Ring) : (s.modRing n f).firmware = s.firmware := rfl
@[simp] theorem State.modRing_lifeCycle (s : State) (n : Nat) (f : Ring → Ring) : (s.modRing n f).lifeCycle = s.lifeCycle := rfl
@[simp] theorem State.modRing_boots (s : State) (n : Nat) (f : Ring → Ring) : (s.modRing n f).boots = s.boots := rfl
@[simp] theorem State.modRing_resets (s : State) (n : Nat) (f : Ring → Ring) : (s.modRing n f).resets = s.resets := rfl
@[simp] theorem State.modRing_ckSkew (s : State) (n : Nat) (f : Ring → Ring) : (s.modRing n f).ckSkew = s.ckSkew := rfl
@[simp] theorem State.modRing_portsDown (s : State) (n : Nat) (f : Ring → Ring) : (s.modRing n f).portsDown = s.portsDown := rfl
@[simp] theorem State.modRing_qps (s : State) (n : Nat) (f : Ring → Ring) : (s.modRing n f).qps = s.qps := rfl
@[simp] theorem State.modRing_regions (s : State) (n : Nat) (f : Ring → Ring) : (s.modRing n f).regions = s.regions := rfl
@[simp] theorem State.modRing_portWork (s : State) (n : Nat) (f : Ring → Ring) : (s.modRing n f).portWork = s.portWork := rfl
@[simp] theorem State.modRing_portRings (s : State) (n : Nat) (f : Ring → Ring) : (s.modRing n f).portRings = s.portRings := rfl
@[simp] theorem State.modRing_portHeld (s : State) (n : Nat) (f : Ring → Ring) : (s.modRing n f).portHeld = s.portHeld := rfl
@[simp] theorem State.modRing_replies (s : State) (n : Nat) (f : Ring → Ring) : (s.modRing n f).replies = s.replies := rfl

/-! ## State.mapCrews -/

@[simp] theorem State.mapCrews_ck (s : State) (f : Nat → Crew → Crew) : (s.mapCrews f).ck = s.ck := rfl
@[simp] theorem State.mapCrews_power (s : State) (f : Nat → Crew → Crew) : (s.mapCrews f).power = s.power := rfl
@[simp] theorem State.mapCrews_agenda (s : State) (f : Nat → Crew → Crew) : (s.mapCrews f).agenda = s.agenda := rfl
@[simp] theorem State.mapCrews_focus (s : State) (f : Nat → Crew → Crew) : (s.mapCrews f).focus = s.focus := rfl
@[simp] theorem State.mapCrews_phase (s : State) (f : Nat → Crew → Crew) : (s.mapCrews f).phase = s.phase := rfl
@[simp] theorem State.mapCrews_place (s : State) (f : Nat → Crew → Crew) : (s.mapCrews f).place = s.place := rfl
@[simp] theorem State.mapCrews_spent (s : State) (f : Nat → Crew → Crew) : (s.mapCrews f).spent = s.spent := rfl
@[simp] theorem State.mapCrews_accepted (s : State) (f : Nat → Crew → Crew) : (s.mapCrews f).accepted = s.accepted := rfl
@[simp] theorem State.mapCrews_moved (s : State) (f : Nat → Crew → Crew) : (s.mapCrews f).moved = s.moved := rfl
@[simp] theorem State.mapCrews_banked (s : State) (f : Nat → Crew → Crew) : (s.mapCrews f).banked = s.banked := rfl
@[simp] theorem State.mapCrews_fresh (s : State) (f : Nat → Crew → Crew) : (s.mapCrews f).fresh = s.fresh := rfl
@[simp] theorem State.mapCrews_mem (s : State) (f : Nat → Crew → Crew) : (s.mapCrews f).mem = s.mem := rfl
@[simp] theorem State.mapCrews_heads (s : State) (f : Nat → Crew → Crew) : (s.mapCrews f).heads = s.heads := rfl
@[simp] theorem State.mapCrews_traces (s : State) (f : Nat → Crew → Crew) : (s.mapCrews f).traces = s.traces := rfl
@[simp] theorem State.mapCrews_poison (s : State) (f : Nat → Crew → Crew) : (s.mapCrews f).poison = s.poison := rfl
@[simp] theorem State.mapCrews_poisonIn (s : State) (f : Nat → Crew → Crew) : (s.mapCrews f).poisonIn = s.poisonIn := rfl
@[simp] theorem State.mapCrews_dirty (s : State) (f : Nat → Crew → Crew) : (s.mapCrews f).dirty = s.dirty := rfl
@[simp] theorem State.mapCrews_frames (s : State) (f : Nat → Crew → Crew) : (s.mapCrews f).frames = s.frames := rfl
@[simp] theorem State.mapCrews_keys (s : State) (f : Nat → Crew → Crew) : (s.mapCrews f).keys = s.keys := rfl
@[simp] theorem State.mapCrews_dropCount (s : State) (f : Nat → Crew → Crew) : (s.mapCrews f).dropCount = s.dropCount := rfl
@[simp] theorem State.mapCrews_retention (s : State) (f : Nat → Crew → Crew) : (s.mapCrews f).retention = s.retention := rfl
@[simp] theorem State.mapCrews_hotEvents (s : State) (f : Nat → Crew → Crew) : (s.mapCrews f).hotEvents = s.hotEvents := rfl
@[simp] theorem State.mapCrews_tlb (s : State) (f : Nat → Crew → Crew) : (s.mapCrews f).tlb = s.tlb := rfl
@[simp] theorem State.mapCrews_walks (s : State) (f : Nat → Crew → Crew) : (s.mapCrews f).walks = s.walks := rfl
@[simp] theorem State.mapCrews_dir (s : State) (f : Nat → Crew → Crew) : (s.mapCrews f).dir = s.dir := rfl
@[simp] theorem State.mapCrews_l2 (s : State) (f : Nat → Crew → Crew) : (s.mapCrews f).l2 = s.l2 := rfl
@[simp] theorem State.mapCrews_banks (s : State) (f : Nat → Crew → Crew) : (s.mapCrews f).banks = s.banks := rfl
@[simp] theorem State.mapCrews_probes (s : State) (f : Nat → Crew → Crew) : (s.mapCrews f).probes = s.probes := rfl
@[simp] theorem State.mapCrews_flights (s : State) (f : Nat → Crew → Crew) : (s.mapCrews f).flights = s.flights := rfl
@[simp] theorem State.mapCrews_nextFlight (s : State) (f : Nat → Crew → Crew) : (s.mapCrews f).nextFlight = s.nextFlight := rfl
@[simp] theorem State.mapCrews_nextItem (s : State) (f : Nat → Crew → Crew) : (s.mapCrews f).nextItem = s.nextItem := rfl
@[simp] theorem State.mapCrews_cores (s : State) (f : Nat → Crew → Crew) : (s.mapCrews f).cores = s.cores := rfl
@[simp] theorem State.mapCrews_blocks (s : State) (f : Nat → Crew → Crew) : (s.mapCrews f).blocks = s.blocks := rfl
@[simp] theorem State.mapCrews_launches (s : State) (f : Nat → Crew → Crew) : (s.mapCrews f).launches = s.launches := rfl
@[simp] theorem State.mapCrews_nextLaunch (s : State) (f : Nat → Crew → Crew) : (s.mapCrews f).nextLaunch = s.nextLaunch := rfl
@[simp] theorem State.mapCrews_queues (s : State) (f : Nat → Crew → Crew) : (s.mapCrews f).queues = s.queues := rfl
@[simp] theorem State.mapCrews_references (s : State) (f : Nat → Crew → Crew) : (s.mapCrews f).references = s.references := rfl
@[simp] theorem State.mapCrews_slotGens (s : State) (f : Nat → Crew → Crew) : (s.mapCrews f).slotGens = s.slotGens := rfl
@[simp] theorem State.mapCrews_parts (s : State) (f : Nat → Crew → Crew) : (s.mapCrews f).parts = s.parts := rfl
@[simp] theorem State.mapCrews_tenants (s : State) (f : Nat → Crew → Crew) : (s.mapCrews f).tenants = s.tenants := rfl
@[simp] theorem State.mapCrews_clusters (s : State) (f : Nat → Crew → Crew) : (s.mapCrews f).clusters = s.clusters := rfl
@[simp] theorem State.mapCrews_floor (s : State) (f : Nat → Crew → Crew) : (s.mapCrews f).floor = s.floor := rfl
@[simp] theorem State.mapCrews_period (s : State) (f : Nat → Crew → Crew) : (s.mapCrews f).period = s.period := rfl
@[simp] theorem State.mapCrews_pool (s : State) (f : Nat → Crew → Crew) : (s.mapCrews f).pool = s.pool := rfl
@[simp] theorem State.mapCrews_nextCharge (s : State) (f : Nat → Crew → Crew) : (s.mapCrews f).nextCharge = s.nextCharge := rfl
@[simp] theorem State.mapCrews_nextPeriod (s : State) (f : Nat → Crew → Crew) : (s.mapCrews f).nextPeriod = s.nextPeriod := rfl
@[simp] theorem State.mapCrews_nextPower (s : State) (f : Nat → Crew → Crew) : (s.mapCrews f).nextPower = s.nextPower := rfl
@[simp] theorem State.mapCrews_nextSummary (s : State) (f : Nat → Crew → Crew) : (s.mapCrews f).nextSummary = s.nextSummary := rfl
@[simp] theorem State.mapCrews_eccCount (s : State) (f : Nat → Crew → Crew) : (s.mapCrews f).eccCount = s.eccCount := rfl
@[simp] theorem State.mapCrews_softErrors (s : State) (f : Nat → Crew → Crew) : (s.mapCrews f).softErrors = s.softErrors := rfl
@[simp] theorem State.mapCrews_rings (s : State) (f : Nat → Crew → Crew) : (s.mapCrews f).rings = s.rings := rfl
@[simp] theorem State.mapCrews_nextHold (s : State) (f : Nat → Crew → Crew) : (s.mapCrews f).nextHold = s.nextHold := rfl
@[simp] theorem State.mapCrews_policyLog (s : State) (f : Nat → Crew → Crew) : (s.mapCrews f).policyLog = s.policyLog := rfl
@[simp] theorem State.mapCrews_migRing (s : State) (f : Nat → Crew → Crew) : (s.mapCrews f).migRing = s.migRing := rfl
@[simp] theorem State.mapCrews_migNext (s : State) (f : Nat → Crew → Crew) : (s.mapCrews f).migNext = s.migNext := rfl
@[simp] theorem State.mapCrews_credits (s : State) (f : Nat → Crew → Crew) : (s.mapCrews f).credits = s.credits := rfl
@[simp] theorem State.mapCrews_notices (s : State) (f : Nat → Crew → Crew) : (s.mapCrews f).notices = s.notices := rfl
@[simp] theorem State.mapCrews_nextNotice (s : State) (f : Nat → Crew → Crew) : (s.mapCrews f).nextNotice = s.nextNotice := rfl
@[simp] theorem State.mapCrews_spoil (s : State) (f : Nat → Crew → Crew) : (s.mapCrews f).spoil = s.spoil := rfl
@[simp] theorem State.mapCrews_spoilNext (s : State) (f : Nat → Crew → Crew) : (s.mapCrews f).spoilNext = s.spoilNext := rfl
@[simp] theorem State.mapCrews_spoilWritten (s : State) (f : Nat → Crew → Crew) : (s.mapCrews f).spoilWritten = s.spoilWritten := rfl
@[simp] theorem State.mapCrews_cpDown (s : State) (f : Nat → Crew → Crew) : (s.mapCrews f).cpDown = s.cpDown := rfl
@[simp] theorem State.mapCrews_boot (s : State) (f : Nat → Crew → Crew) : (s.mapCrews f).boot = s.boot := rfl
@[simp] theorem State.mapCrews_imageStore (s : State) (f : Nat → Crew → Crew) : (s.mapCrews f).imageStore = s.imageStore := rfl
@[simp] theorem State.mapCrews_firmware (s : State) (f : Nat → Crew → Crew) : (s.mapCrews f).firmware = s.firmware := rfl
@[simp] theorem State.mapCrews_lifeCycle (s : State) (f : Nat → Crew → Crew) : (s.mapCrews f).lifeCycle = s.lifeCycle := rfl
@[simp] theorem State.mapCrews_boots (s : State) (f : Nat → Crew → Crew) : (s.mapCrews f).boots = s.boots := rfl
@[simp] theorem State.mapCrews_resets (s : State) (f : Nat → Crew → Crew) : (s.mapCrews f).resets = s.resets := rfl
@[simp] theorem State.mapCrews_ckSkew (s : State) (f : Nat → Crew → Crew) : (s.mapCrews f).ckSkew = s.ckSkew := rfl
@[simp] theorem State.mapCrews_portsDown (s : State) (f : Nat → Crew → Crew) : (s.mapCrews f).portsDown = s.portsDown := rfl
@[simp] theorem State.mapCrews_qps (s : State) (f : Nat → Crew → Crew) : (s.mapCrews f).qps = s.qps := rfl
@[simp] theorem State.mapCrews_regions (s : State) (f : Nat → Crew → Crew) : (s.mapCrews f).regions = s.regions := rfl
@[simp] theorem State.mapCrews_portWork (s : State) (f : Nat → Crew → Crew) : (s.mapCrews f).portWork = s.portWork := rfl
@[simp] theorem State.mapCrews_portRings (s : State) (f : Nat → Crew → Crew) : (s.mapCrews f).portRings = s.portRings := rfl
@[simp] theorem State.mapCrews_portHeld (s : State) (f : Nat → Crew → Crew) : (s.mapCrews f).portHeld = s.portHeld := rfl
@[simp] theorem State.mapCrews_replies (s : State) (f : Nat → Crew → Crew) : (s.mapCrews f).replies = s.replies := rfl

/-! ## The updated part -/

@[simp] theorem State.setCrew_crews (s : State) (k : Nat) (c : Crew) : (s.setCrew k c).crews = s.crews.put k c := rfl
@[simp] theorem State.setCore_cores (s : State) (n : Nat) (c : Core) : (s.setCore n c).cores = s.cores.put n c := rfl

/-- A crew after its own update. -/
theorem State.modCrew_get?_self (s : State) (k : Nat) (f : Crew → Crew) :
    (s.modCrew k f).crews.get? k = (s.crews.get? k).map f := by
  unfold State.modCrew
  cases h : s.crews.get? k <;> simp [h]

/-- The other crews after it. -/
theorem State.modCrew_get?_of_ne (s : State) {k j : Nat} (f : Crew → Crew) (h : j ≠ k) :
    (s.modCrew k f).crews.get? j = s.crews.get? j := by
  unfold State.modCrew
  cases s.crews.get? k <;> simp [Table.get?_put_of_ne, h]

theorem State.modCrew_of_some {s : State} {k : Nat} {c : Crew} (f : Crew → Crew) (h : s.crews.get? k = some c) :
    s.modCrew k f = s.setCrew k (f c) := by
  simp [State.modCrew, h]

theorem State.core_setCore (s : State) (n m : Nat) (c : Core) : (s.setCore n c).core m = if m = n then c else s.core m := by
  simp [State.core, Table.getD_put]

theorem State.core_modCore (s : State) (n m : Nat) (f : Core → Core) :
    (s.modCore n f).core m = if m = n then f (s.core n) else s.core m := by
  simp [State.modCore, State.core_setCore]

theorem State.cluster_modCluster (s : State) (n m : Nat) (f : Cluster → Cluster) :
    (s.modCluster n f).cluster m = if m = n then f (s.cluster n) else s.cluster m := by
  simp [State.modCluster, State.cluster, Table.getD_put]

theorem State.tenant_modTenant (s : State) (n m : Nat) (f : Tenant → Tenant) :
    (s.modTenant n f).tenant m = if m = n then f (s.tenant n) else s.tenant m := by
  simp [State.modTenant, State.tenant, Table.getD_put]

theorem State.ring_modRing (s : State) (n m : Nat) (f : Ring → Ring) :
    (s.modRing n f).ring m = if m = n then f (s.ring n) else s.ring m := by
  simp [State.modRing, State.ring, Table.getD_put]

/-- A unit after its own update. -/
theorem Crew.modUnit_get?_self (c : Crew) (u : Nat) (f : CrewUnit → CrewUnit) :
    (c.modUnit u f).units.get? u = (c.units.get? u).map f := by
  unfold Crew.modUnit
  cases h : c.units.get? u <;> simp [h]

/-- The crew's other units after it. -/
theorem Crew.modUnit_get?_of_ne (c : Crew) {u v : Nat} (f : CrewUnit → CrewUnit) (h : v ≠ u) :
    (c.modUnit u f).units.get? v = c.units.get? v := by
  unfold Crew.modUnit
  cases c.units.get? u <;> simp [Table.get?_put_of_ne, h]

/-! ## Crew.modUnit -/

@[simp] theorem Crew.modUnit_launch (c : Crew) (u : Nat) (f : CrewUnit → CrewUnit) : (c.modUnit u f).launch = c.launch := by unfold Crew.modUnit; split <;> rfl
@[simp] theorem Crew.modUnit_block (c : Crew) (u : Nat) (f : CrewUnit → CrewUnit) : (c.modUnit u f).block = c.block := by unfold Crew.modUnit; split <;> rfl
@[simp] theorem Crew.modUnit_index (c : Crew) (u : Nat) (f : CrewUnit → CrewUnit) : (c.modUnit u f).index = c.index := by unfold Crew.modUnit; split <;> rfl
@[simp] theorem Crew.modUnit_bench (c : Crew) (u : Nat) (f : CrewUnit → CrewUnit) : (c.modUnit u f).bench = c.bench := by unfold Crew.modUnit; split <;> rfl
@[simp] theorem Crew.modUnit_placed (c : Crew) (u : Nat) (f : CrewUnit → CrewUnit) : (c.modUnit u f).placed = c.placed := by unfold Crew.modUnit; split <;> rfl
@[simp] theorem Crew.modUnit_ranBefore (c : Crew) (u : Nat) (f : CrewUnit → CrewUnit) : (c.modUnit u f).ranBefore = c.ranBefore := by unfold Crew.modUnit; split <;> rfl
@[simp] theorem Crew.modUnit_budget (c : Crew) (u : Nat) (f : CrewUnit → CrewUnit) : (c.modUnit u f).budget = c.budget := by unfold Crew.modUnit; split <;> rfl
@[simp] theorem Crew.modUnit_bound (c : Crew) (u : Nat) (f : CrewUnit → CrewUnit) : (c.modUnit u f).bound = c.bound := by unfold Crew.modUnit; split <;> rfl
@[simp] theorem Crew.modUnit_pool (c : Crew) (u : Nat) (f : CrewUnit → CrewUnit) : (c.modUnit u f).pool = c.pool := by unfold Crew.modUnit; split <;> rfl
@[simp] theorem Crew.modUnit_oregs (c : Crew) (u : Nat) (f : CrewUnit → CrewUnit) : (c.modUnit u f).oregs = c.oregs := by unfold Crew.modUnit; split <;> rfl
@[simp] theorem Crew.modUnit_sregs (c : Crew) (u : Nat) (f : CrewUnit → CrewUnit) : (c.modUnit u f).sregs = c.sregs := by unfold Crew.modUnit; split <;> rfl
@[simp] theorem Crew.modUnit_last (c : Crew) (u : Nat) (f : CrewUnit → CrewUnit) : (c.modUnit u f).last = c.last := by unfold Crew.modUnit; split <;> rfl
@[simp] theorem Crew.modUnit_fflags (c : Crew) (u : Nat) (f : CrewUnit → CrewUnit) : (c.modUnit u f).fflags = c.fflags := by unfold Crew.modUnit; split <;> rfl
@[simp] theorem Crew.modUnit_fenable (c : Crew) (u : Nat) (f : CrewUnit → CrewUnit) : (c.modUnit u f).fenable = c.fenable := by unfold Crew.modUnit; split <;> rfl
@[simp] theorem Crew.modUnit_prio (c : Crew) (u : Nat) (f : CrewUnit → CrewUnit) : (c.modUnit u f).prio = c.prio := by unfold Crew.modUnit; split <;> rfl
@[simp] theorem Crew.modUnit_tokens (c : Crew) (u : Nat) (f : CrewUnit → CrewUnit) : (c.modUnit u f).tokens = c.tokens := by unfold Crew.modUnit; split <;> rfl
@[simp] theorem Crew.modUnit_deferred (c : Crew) (u : Nat) (f : CrewUnit → CrewUnit) : (c.modUnit u f).deferred = c.deferred := by unfold Crew.modUnit; split <;> rfl
@[simp] theorem Crew.modUnit_out (c : Crew) (u : Nat) (f : CrewUnit → CrewUnit) : (c.modUnit u f).out = c.out := by unfold Crew.modUnit; split <;> rfl
@[simp] theorem Crew.modUnit_nextId (c : Crew) (u : Nat) (f : CrewUnit → CrewUnit) : (c.modUnit u f).nextId = c.nextId := by unfold Crew.modUnit; split <;> rfl
@[simp] theorem Crew.modUnit_hpc (c : Crew) (u : Nat) (f : CrewUnit → CrewUnit) : (c.modUnit u f).hpc = c.hpc := by unfold Crew.modUnit; split <;> rfl
@[simp] theorem Crew.modUnit_hmask (c : Crew) (u : Nat) (f : CrewUnit → CrewUnit) : (c.modUnit u f).hmask = c.hmask := by unfold Crew.modUnit; split <;> rfl
@[simp] theorem Crew.modUnit_hcause (c : Crew) (u : Nat) (f : CrewUnit → CrewUnit) : (c.modUnit u f).hcause = c.hcause := by unfold Crew.modUnit; split <;> rfl
@[simp] theorem Crew.modUnit_hstate (c : Crew) (u : Nat) (f : CrewUnit → CrewUnit) : (c.modUnit u f).hstate = c.hstate := by unfold Crew.modUnit; split <;> rfl
@[simp] theorem Crew.modUnit_hrec (c : Crew) (u : Nat) (f : CrewUnit → CrewUnit) : (c.modUnit u f).hrec = c.hrec := by unfold Crew.modUnit; split <;> rfl
@[simp] theorem Crew.modUnit_dbg (c : Crew) (u : Nat) (f : CrewUnit → CrewUnit) : (c.modUnit u f).dbg = c.dbg := by unfold Crew.modUnit; split <;> rfl
@[simp] theorem Crew.modUnit_arrivals (c : Crew) (u : Nat) (f : CrewUnit → CrewUnit) : (c.modUnit u f).arrivals = c.arrivals := by unfold Crew.modUnit; split <;> rfl
@[simp] theorem Crew.modUnit_cap (c : Crew) (u : Nat) (f : CrewUnit → CrewUnit) : (c.modUnit u f).cap = c.cap := by unfold Crew.modUnit; split <;> rfl
@[simp] theorem Crew.modUnit_leases (c : Crew) (u : Nat) (f : CrewUnit → CrewUnit) : (c.modUnit u f).leases = c.leases := by unfold Crew.modUnit; split <;> rfl
@[simp] theorem Crew.modUnit_sbuf (c : Crew) (u : Nat) (f : CrewUnit → CrewUnit) : (c.modUnit u f).sbuf = c.sbuf := by unfold Crew.modUnit; split <;> rfl
@[simp] theorem Crew.modUnit_pieces (c : Crew) (u : Nat) (f : CrewUnit → CrewUnit) : (c.modUnit u f).pieces = c.pieces := by unfold Crew.modUnit; split <;> rfl
@[simp] theorem Crew.modUnit_unack (c : Crew) (u : Nat) (f : CrewUnit → CrewUnit) : (c.modUnit u f).unack = c.unack := by unfold Crew.modUnit; split <;> rfl
@[simp] theorem Crew.modUnit_storeToks (c : Crew) (u : Nat) (f : CrewUnit → CrewUnit) : (c.modUnit u f).storeToks = c.storeToks := by unfold Crew.modUnit; split <;> rfl
@[simp] theorem Crew.modUnit_slots (c : Crew) (u : Nat) (f : CrewUnit → CrewUnit) : (c.modUnit u f).slots = c.slots := by unfold Crew.modUnit; split <;> rfl
@[simp] theorem Crew.modUnit_tileModes (c : Crew) (u : Nat) (f : CrewUnit → CrewUnit) : (c.modUnit u f).tileModes = c.tileModes := by unfold Crew.modUnit; split <;> rfl
@[simp] theorem Crew.modUnit_steer (c : Crew) (u : Nat) (f : CrewUnit → CrewUnit) : (c.modUnit u f).steer = c.steer := by unfold Crew.modUnit; split <;> rfl
@[simp] theorem Crew.modUnit_produce (c : Crew) (u : Nat) (f : CrewUnit → CrewUnit) : (c.modUnit u f).produce = c.produce := by unfold Crew.modUnit; split <;> rfl
@[simp] theorem Crew.modUnit_take (c : Crew) (u : Nat) (f : CrewUnit → CrewUnit) : (c.modUnit u f).take = c.take := by unfold Crew.modUnit; split <;> rfl

/-! ## Crew.writeS -/

@[simp] theorem Crew.writeS_launch (c : Crew) (u i : Nat) (x : Word) : (c.writeS u i x).launch = c.launch := by unfold Crew.writeS; split_ifs <;> simp
@[simp] theorem Crew.writeS_block (c : Crew) (u i : Nat) (x : Word) : (c.writeS u i x).block = c.block := by unfold Crew.writeS; split_ifs <;> simp
@[simp] theorem Crew.writeS_index (c : Crew) (u i : Nat) (x : Word) : (c.writeS u i x).index = c.index := by unfold Crew.writeS; split_ifs <;> simp
@[simp] theorem Crew.writeS_bench (c : Crew) (u i : Nat) (x : Word) : (c.writeS u i x).bench = c.bench := by unfold Crew.writeS; split_ifs <;> simp
@[simp] theorem Crew.writeS_placed (c : Crew) (u i : Nat) (x : Word) : (c.writeS u i x).placed = c.placed := by unfold Crew.writeS; split_ifs <;> simp
@[simp] theorem Crew.writeS_ranBefore (c : Crew) (u i : Nat) (x : Word) : (c.writeS u i x).ranBefore = c.ranBefore := by unfold Crew.writeS; split_ifs <;> simp
@[simp] theorem Crew.writeS_budget (c : Crew) (u i : Nat) (x : Word) : (c.writeS u i x).budget = c.budget := by unfold Crew.writeS; split_ifs <;> simp
@[simp] theorem Crew.writeS_bound (c : Crew) (u i : Nat) (x : Word) : (c.writeS u i x).bound = c.bound := by unfold Crew.writeS; split_ifs <;> simp
@[simp] theorem Crew.writeS_pool (c : Crew) (u i : Nat) (x : Word) : (c.writeS u i x).pool = c.pool := by unfold Crew.writeS; split_ifs <;> simp
@[simp] theorem Crew.writeS_oregs (c : Crew) (u i : Nat) (x : Word) : (c.writeS u i x).oregs = c.oregs := by unfold Crew.writeS; split_ifs <;> simp
@[simp] theorem Crew.writeS_last (c : Crew) (u i : Nat) (x : Word) : (c.writeS u i x).last = c.last := by unfold Crew.writeS; split_ifs <;> simp
@[simp] theorem Crew.writeS_fflags (c : Crew) (u i : Nat) (x : Word) : (c.writeS u i x).fflags = c.fflags := by unfold Crew.writeS; split_ifs <;> simp
@[simp] theorem Crew.writeS_fenable (c : Crew) (u i : Nat) (x : Word) : (c.writeS u i x).fenable = c.fenable := by unfold Crew.writeS; split_ifs <;> simp
@[simp] theorem Crew.writeS_prio (c : Crew) (u i : Nat) (x : Word) : (c.writeS u i x).prio = c.prio := by unfold Crew.writeS; split_ifs <;> simp
@[simp] theorem Crew.writeS_tokens (c : Crew) (u i : Nat) (x : Word) : (c.writeS u i x).tokens = c.tokens := by unfold Crew.writeS; split_ifs <;> simp
@[simp] theorem Crew.writeS_deferred (c : Crew) (u i : Nat) (x : Word) : (c.writeS u i x).deferred = c.deferred := by unfold Crew.writeS; split_ifs <;> simp
@[simp] theorem Crew.writeS_out (c : Crew) (u i : Nat) (x : Word) : (c.writeS u i x).out = c.out := by unfold Crew.writeS; split_ifs <;> simp
@[simp] theorem Crew.writeS_nextId (c : Crew) (u i : Nat) (x : Word) : (c.writeS u i x).nextId = c.nextId := by unfold Crew.writeS; split_ifs <;> simp
@[simp] theorem Crew.writeS_hpc (c : Crew) (u i : Nat) (x : Word) : (c.writeS u i x).hpc = c.hpc := by unfold Crew.writeS; split_ifs <;> simp
@[simp] theorem Crew.writeS_hmask (c : Crew) (u i : Nat) (x : Word) : (c.writeS u i x).hmask = c.hmask := by unfold Crew.writeS; split_ifs <;> simp
@[simp] theorem Crew.writeS_hcause (c : Crew) (u i : Nat) (x : Word) : (c.writeS u i x).hcause = c.hcause := by unfold Crew.writeS; split_ifs <;> simp
@[simp] theorem Crew.writeS_hstate (c : Crew) (u i : Nat) (x : Word) : (c.writeS u i x).hstate = c.hstate := by unfold Crew.writeS; split_ifs <;> simp
@[simp] theorem Crew.writeS_hrec (c : Crew) (u i : Nat) (x : Word) : (c.writeS u i x).hrec = c.hrec := by unfold Crew.writeS; split_ifs <;> simp
@[simp] theorem Crew.writeS_dbg (c : Crew) (u i : Nat) (x : Word) : (c.writeS u i x).dbg = c.dbg := by unfold Crew.writeS; split_ifs <;> simp
@[simp] theorem Crew.writeS_arrivals (c : Crew) (u i : Nat) (x : Word) : (c.writeS u i x).arrivals = c.arrivals := by unfold Crew.writeS; split_ifs <;> simp
@[simp] theorem Crew.writeS_cap (c : Crew) (u i : Nat) (x : Word) : (c.writeS u i x).cap = c.cap := by unfold Crew.writeS; split_ifs <;> simp
@[simp] theorem Crew.writeS_leases (c : Crew) (u i : Nat) (x : Word) : (c.writeS u i x).leases = c.leases := by unfold Crew.writeS; split_ifs <;> simp
@[simp] theorem Crew.writeS_sbuf (c : Crew) (u i : Nat) (x : Word) : (c.writeS u i x).sbuf = c.sbuf := by unfold Crew.writeS; split_ifs <;> simp
@[simp] theorem Crew.writeS_pieces (c : Crew) (u i : Nat) (x : Word) : (c.writeS u i x).pieces = c.pieces := by unfold Crew.writeS; split_ifs <;> simp
@[simp] theorem Crew.writeS_unack (c : Crew) (u i : Nat) (x : Word) : (c.writeS u i x).unack = c.unack := by unfold Crew.writeS; split_ifs <;> simp
@[simp] theorem Crew.writeS_storeToks (c : Crew) (u i : Nat) (x : Word) : (c.writeS u i x).storeToks = c.storeToks := by unfold Crew.writeS; split_ifs <;> simp
@[simp] theorem Crew.writeS_slots (c : Crew) (u i : Nat) (x : Word) : (c.writeS u i x).slots = c.slots := by unfold Crew.writeS; split_ifs <;> simp
@[simp] theorem Crew.writeS_tileModes (c : Crew) (u i : Nat) (x : Word) : (c.writeS u i x).tileModes = c.tileModes := by unfold Crew.writeS; split_ifs <;> simp
@[simp] theorem Crew.writeS_steer (c : Crew) (u i : Nat) (x : Word) : (c.writeS u i x).steer = c.steer := by unfold Crew.writeS; split_ifs <;> simp
@[simp] theorem Crew.writeS_produce (c : Crew) (u i : Nat) (x : Word) : (c.writeS u i x).produce = c.produce := by unfold Crew.writeS; split_ifs <;> simp
@[simp] theorem Crew.writeS_take (c : Crew) (u i : Nat) (x : Word) : (c.writeS u i x).take = c.take := by unfold Crew.writeS; split_ifs <;> simp

end Sys2Proof.Machine
end

