-- ==== Sys2Proof/Laws/Issue.lean ====
section
/-! SUPPORT. What the frame of the crew instructions does: a ready instruction has its effect and ends; what each shared operation of
the frame leaves unchanged. -/

namespace Sys2Proof.Machine

/-! ## Performance counters -/

theorem State.perf_eq (s : State) (core launch event n : Nat) :
    s.perf core launch event n = s ∨ ∃ f, s.perf core launch event n = s.modCore core f := by
  unfold State.perf; split_ifs
  · exact .inr ⟨_, rfl⟩
  · exact .inl rfl

@[simp] theorem State.perf_crews (s : State) (a b e n : Nat) : (s.perf a b e n).crews = s.crews := by
  unfold State.perf; split_ifs <;> simp
@[simp] theorem State.perf_mem (s : State) (a b e n : Nat) : (s.perf a b e n).mem = s.mem := by unfold State.perf; split_ifs <;> simp
@[simp] theorem State.perf_launches (s : State) (a b e n : Nat) : (s.perf a b e n).launches = s.launches := by
  unfold State.perf; split_ifs <;> simp
@[simp] theorem State.perf_blocks (s : State) (a b e n : Nat) : (s.perf a b e n).blocks = s.blocks := by
  unfold State.perf; split_ifs <;> simp
@[simp] theorem State.perf_softErrors (s : State) (a b e n : Nat) : (s.perf a b e n).softErrors = s.softErrors := by
  unfold State.perf; split_ifs <;> simp
@[simp] theorem State.perf_ck (s : State) (a b e n : Nat) : (s.perf a b e n).ck = s.ck := by unfold State.perf; split_ifs <;> simp
@[simp] theorem State.perf_focus (s : State) (a b e n : Nat) : (s.perf a b e n).focus = s.focus := by
  unfold State.perf; split_ifs <;> simp

/-! ## The start of an effect -/

@[simp] theorem Ctx.start_crews (x : Ctx) (s : State) : (x.start s).crews = s.crews := by simp [Ctx.start]
@[simp] theorem Ctx.start_mem (x : Ctx) (s : State) : (x.start s).mem = s.mem := by simp [Ctx.start]
@[simp] theorem Ctx.start_launches (x : Ctx) (s : State) : (x.start s).launches = s.launches := by simp [Ctx.start]
@[simp] theorem Ctx.start_blocks (x : Ctx) (s : State) : (x.start s).blocks = s.blocks := by simp [Ctx.start]
@[simp] theorem Ctx.start_softErrors (x : Ctx) (s : State) : (x.start s).softErrors = s.softErrors := by simp [Ctx.start]
@[simp] theorem Ctx.start_ck (x : Ctx) (s : State) : (x.start s).ck = s.ck := by simp [Ctx.start]
@[simp] theorem Ctx.start_focus (x : Ctx) (s : State) : (x.start s).focus = none := by simp [Ctx.start]

/-! ## A ready instruction -/

theorem Ctx.ready_at {x : Ctx} {op : Nat} {s : State} (h : x.ready op s = true) :
    s.focus = some (x.k, x.u) ∧ s.crews.get? x.k = some x.c ∧ x.c.units.get? x.u = some x.h ∧ x.len = x.a.form.bytes ∧
      x.pipe = pipeOf op := by
  simp only [Ctx.ready, Ctx.at_, Bool.and_eq_true, beq_iff_eq] at h
  tauto

theorem Ctx.ready_ok {x : Ctx} {op : Nat} {s : State} (h : x.ready op s = true) : x.a.ok op = true := by
  simp only [Ctx.ready, Bool.and_eq_true] at h
  tauto

/-- The stops that stand before an effect depend on no field that choosing a unit changes. -/
theorem debugStop_focus (s : State) (x : Ctx) (f : Option (Nat × Nat)) :
    (debugStop { s with focus := f } x).isNone = (debugStop s x).isNone := by
  unfold debugStop
  cases x.h.debugStops with
  | cons d rest => rfl
  | nil =>
    dsimp only
    cases x.h.debugSkip with
    | true => rfl
    | false =>
      simp only [Bool.false_eq_true, if_false]
      cases x.c.codeBreak (match s.launches.get? x.c.launch with | some l => l.code | none => 0) x.pc <;> rfl

/-- A ready instruction has its effect. -/
theorem issue_ready {x : Ctx} {op : Nat} {s : State} (h : x.ready op s = true) (body : Ctx → State → Res) :
    issue op x.a body s = .next (applyRes x (x.start s) (body x (x.start s))) := by
  obtain ⟨hf, hc, hu, hl, hp⟩ := Ctx.ready_at h
  have hx : (⟨x.k, x.u, x.c, x.h, x.a, x.a.form.bytes, pipeOf op⟩ : Ctx) = x := by
    cases x; simp_all
  simp only [Ctx.ready, Bool.and_eq_true, Bool.not_eq_true', Option.isNone_iff_eq_none] at h
  obtain ⟨⟨⟨⟨⟨⟨⟨⟨-, hd⟩, hok⟩, hw⟩, ht⟩, hr⟩, hs⟩, hcap⟩, hfe⟩ := h
  have hd' : debugStop { s with focus := none } x = none := by
    rw [← Option.isNone_iff_eq_none, debugStop_focus, hd]; rfl
  have hs' : softRegister { s with focus := none } op x = none := hs
  have hrun : runInstr op x body { s with focus := none } = applyRes x (x.start s) (body x (x.start s)) := by
    unfold runInstr
    rw [hd']
    dsimp only
    rw [if_neg (by simp [hok]), if_neg (by rw [hw]; decide), if_neg (by rw [ht]; decide), hr]
    dsimp only
    rw [hs']
    dsimp only
    have key : (isFence op && op != 0x0A && x.c.waiting x.u) = false ∧ (isFence op && op != 0x0A && x.c.flagTest != 0) = false := by
      revert hfe
      cases (isFence op && op != 0x0A) <;> cases x.c.waiting x.u <;> cases (x.c.flagTest != 0) <;> simp
    rw [if_neg (by rw [key.1]; decide), if_neg (by rw [key.2]; decide), if_neg (by rw [hcap]; simp)]
    rfl
  unfold issue
  rw [hf]
  dsimp only
  rw [hc]
  dsimp only
  rw [hu]
  dsimp only
  change Host.Outcome.next (runInstr op (⟨x.k, x.u, x.c, x.h, x.a, x.a.form.bytes, pipeOf op⟩ : Ctx) body _) = _
  rw [hx, hrun]

end Sys2Proof.Machine
end

