-- ==== Sys2Proof/Laws/Lanes.lean ====
section
/-! SUPPORT. What a lane instruction leaves in its destination, and that the end of an instruction changes no register. -/

namespace Sys2Proof.Machine

/-! ## The registers of a unit -/

/-- Registers and mask of a unit. -/
def Crew.view (c : Crew) (u : Nat) : Table (List Word) × Table (List Word) × Table Word × Option Mask :=
  (c.pool, c.oregs, c.sregs, (c.units.get? u).map (·.mask))

/-- The same in a state. -/
def State.view (t : State) (k u : Nat) : Option (Table (List Word) × Table (List Word) × Table Word × Option Mask) :=
  (t.crews.get? k).map fun c => c.view u

theorem Crew.view_modUnit (c : Crew) (u v : Nat) (f : CrewUnit → CrewUnit) (h : ∀ y, (f y).mask = y.mask) :
    (c.modUnit v f).view u = c.view u := by
  unfold Crew.view
  by_cases huv : u = v
  · subst huv
    simp only [Crew.modUnit_pool, Crew.modUnit_oregs, Crew.modUnit_sregs, Crew.modUnit_get?_self, Option.map_map]
    cases c.units.get? u <;> simp [h]
  · simp [Crew.modUnit_get?_of_ne c f huv]

theorem State.view_modCrew (s : State) (k u : Nat) (f : Crew → Crew) (h : ∀ c, (f c).view u = c.view u) :
    (s.modCrew k f).view k u = s.view k u := by
  unfold State.view
  rw [State.modCrew_get?_self]
  cases s.crews.get? k <;> simp [h]

/-- A marker parks the unit; its registers stay (R63). -/
theorem Crew.view_park (c : Crew) (u v : Nat) : (c.park v).view u = c.view u := by
  unfold Crew.park Crew.leaveMarker
  split_ifs
  · exact Crew.view_modUnit c u v _ fun _ => rfl
  · exact Crew.view_modUnit c u v _ fun _ => rfl

theorem Crew.view_issued (c : Crew) (u v : Nat) (step : Bool) : (c.issued v step).view u = c.view u := by
  have e (c' : Crew) (d : Capsule) : (if c'.cap.mode then { c' with cap := d } else c').view u = c'.view u := by split <;> rfl
  exact (e _ _).trans (Crew.view_modUnit c u v _ fun _ => rfl)

/-- The end of an instruction changes no register. -/
theorem State.view_finish (s : State) (x : Ctx) (sw : Bool) : (s.finish x sw).view x.k x.u = s.view x.k x.u := by
  unfold State.finish
  apply State.view_modCrew
  intro c
  dsimp only
  split_ifs
  · rw [Crew.view_park, Crew.view_modUnit, Crew.view_issued]
    exact fun _ => rfl
  · rw [Crew.view_modUnit, Crew.view_issued]
    exact fun _ => rfl

theorem State.view_noteStop (s : State) (x : Ctx) : (s.noteStop x).view x.k x.u = s.view x.k x.u := by
  unfold State.noteStop
  split_ifs
  · unfold State.modUnit
    rw [State.view_modCrew]
    · simp [State.view]
    · intro c
      rw [Crew.view_modUnit]
      exact fun _ => rfl
  · rfl

theorem State.view_perf (s : State) (a b e n k u : Nat) : (s.perf a b e n).view k u = s.view k u := by simp [State.view]

/-- The counts of an issue change no register. -/
theorem State.view_noteIssue (s : State) (x : Ctx) : (s.noteIssue x).view x.k x.u = s.view x.k x.u := by
  rw [← State.view_noteStop s x]
  unfold State.noteIssue
  cases x.isPair <;> simp [State.view]

theorem Ctx.view_ends (x : Ctx) (t : State) : (x.ends t).view x.k x.u = t.view x.k x.u := by
  unfold Ctx.ends; rw [State.view_noteIssue, State.view_finish]

/-- Operands whose value is the registers' alone. -/
def plainOpnd (o : Opnd) : Bool := o.isReg || o == .zero || o == .none

/-- Two states with the same registers of the unit are read alike. -/
theorem Ctx.reads_congr (x : Ctx) {t t' : State} (h : t.view x.k x.u = t'.view x.k x.u) {o : Opnd} (ho : plainOpnd o = true) (l : Nat) :
    x.reads t o l = x.reads t' o l := by
  unfold State.view at h
  unfold Ctx.reads
  cases hc : t.crews.get? x.k with
  | none => cases hc' : t'.crews.get? x.k <;> simp_all
  | some c => cases hc' : t'.crews.get? x.k with
    | none => simp_all
    | some c' =>
      rw [hc, hc'] at h
      simp only [Option.map_some, Option.some.injEq, Crew.view, Prod.mk.injEq] at h
      obtain ⟨hp, ho', hs, hm⟩ := h
      dsimp only
      cases hu : c.units.get? x.u with
      | none => cases hu' : c'.units.get? x.u <;> simp_all
      | some y => cases hu' : c'.units.get? x.u with
        | none => simp_all
        | some y' =>
          rw [hu, hu'] at hm
          simp only [Option.map_some, Option.some.injEq] at hm
          cases o <;> simp_all [Ctx.word, Crew.readVec, Crew.pool?, Crew.readS, plainOpnd, Opnd.isReg, Opnd.isV, Opnd.isS, Opnd.isO]

/-! ## Register writes -/

@[simp] theorem lane_lanesOf (f : Nat → Word) {l : Nat} (h : l < 96) : lane (lanesOf f) l = f l := by
  simp [lane, lanesOf, List.getD_eq_getElem?_getD, h]

@[simp] theorem lane_mergeLanes (old new : List Word) (m : Mask) {l : Nat} (h : l < 96) :
    lane (mergeLanes old new m) l = if m.getLsbD l then lane new l else lane old l := by
  unfold mergeLanes; rw [lane_lanesOf _ h]

/-- Words of a mask put together and taken apart. -/
theorem maskWord_maskOf (a b c : Word) (i : Nat) (h : i < 3) :
    maskWord (maskOf a b c) i = if i = 0 then a else if i = 1 then b else c := by
  interval_cases i
  all_goals
    apply BitVec.eq_of_getLsbD_eq
    intro j hj
    simp only [maskWord, maskOf, BitVec.getLsbD_setWidth, BitVec.getLsbD_ushiftRight, BitVec.getLsbD_append]
    simp only [hj, decide_true, Bool.true_and]
  · simp [hj]
  · have h1 : ¬ 32 + j < 32 := by omega
    simp [hj]
  · simp [show ¬ 64 + j < 32 by omega, show 64 + j - 32 = 32 + j by omega, show ¬ 32 + j < 32 by omega]

theorem maskWord_and (m n : Mask) (i : Nat) : maskWord (m &&& n) i = maskWord m i &&& maskWord n i := by
  unfold maskWord
  apply BitVec.eq_of_getLsbD_eq
  intro j hj
  simp [hj]

theorem maskWord_setMaskWord (m : Mask) (i j : Nat) (w : Word) (hi : i < 3) (hj : j < 3) :
    maskWord (setMaskWord m i w) j = if j = i then w else maskWord m j := by
  unfold setMaskWord
  rw [maskWord_maskOf _ _ _ _ hj]
  interval_cases i <;> interval_cases j <;> simp

/-- Reading a scalar register after writing it. -/
theorem Crew.readS_writeS_self (c : Crew) (u i : Nat) (w : Word) (h h' : CrewUnit) (hi : i < 64)
    (hu : c.units.get? u = some h) (hu' : (c.writeS u i w).units.get? u = some h') :
    (c.writeS u i w).readS h' i = if i = 63 then 0 else if 60 ≤ i then w &&& maskWord h.dom (i - 60) else w := by
  unfold Crew.readS
  split_ifs with h63 h60
  · rfl
  · unfold Crew.writeS at hu'
    rw [if_neg h63, if_pos h60, Crew.modUnit_get?_self, hu] at hu'
    simp only [Option.map_some, Option.some.injEq] at hu'
    subst hu'
    rw [maskWord_and, maskWord_setMaskWord _ _ _ _ (by omega) (by omega), if_pos rfl]
  · unfold Crew.writeS
    rw [if_neg h63, if_neg h60]
    simp [Table.getD_put]

/-! ## The frame of the lane instructions -/

/-- What a crew's registers read after writes. -/
def Crew.wrote (c : Crew) (u : Nat) (ws : List RegWrite) : Crew := ws.foldl (fun c w => c.writeReg u w) c

theorem Crew.view_pushLast (c : Crew) (u p : Nat) (r : Option (List Word)) : (c.pushLast p r).view u = c.view u := by
  unfold Crew.pushLast
  split
  · split_ifs <;> rfl
  · rfl

theorem State.view_clearSoft (s : State) (k u j : Nat) (ws : List RegWrite) : (s.clearSoft k ws).view j u = s.view j u := by
  unfold State.clearSoft
  split_ifs <;> rfl

/-- After a fixed-latency instruction the registers are those after its writes. -/
theorem Ctx.view_fixedLane (x : Ctx) (sem : LaneSem) (s : State) (hc : s.crews.get? x.k = some x.c) :
    (applyRes x s (fixedLane sem x s)).view x.k x.u = some ((x.c.wrote x.u (sem x s).writes).view x.u) := by
  unfold fixedLane
  show ((State.finish _ x x.a.sw).noteIssue x).view x.k x.u = _
  rw [State.view_noteIssue, State.view_finish, State.view_clearSoft]
  unfold State.view
  rw [State.modCrew_get?_self, hc]
  simp only [Option.map_some, Option.some.injEq]
  rw [Crew.view_pushLast]
  rfl

/-- A crew that has been written keeps its unit. -/
theorem Crew.writeReg_units (c : Crew) (u : Nat) (w : RegWrite) (h : (c.units.get? u).isSome) : ((c.writeReg u w).units.get? u).isSome := by
  unfold Crew.writeReg
  split
  · exact h
  · exact h
  · unfold Crew.writeS
    split_ifs
    · exact h
    · rw [Crew.modUnit_get?_self]; simpa using h
    · exact h
  · exact h

theorem Ctx.reads_setCrew (x : Ctx) (s : State) (c : Crew) (o : Opnd) (l : Nat) (h : CrewUnit) (hu : c.units.get? x.u = some h) :
    x.reads (s.setCrew x.k c) o l = ({ x with c := c, h := h } : Ctx).word o l := by
  unfold Ctx.reads; simp [hu]

/-- The same read, of the crew as written. -/
theorem Ctx.reads_fixedLane (x : Ctx) (sem : LaneSem) (s : State) (hc : s.crews.get? x.k = some x.c) {o : Opnd}
    (ho : plainOpnd o = true) (l : Nat) :
    x.reads (applyRes x s (fixedLane sem x s)) o l = x.reads (s.setCrew x.k (x.c.wrote x.u (sem x s).writes)) o l := by
  apply Ctx.reads_congr x _ ho
  rw [Ctx.view_fixedLane x sem s hc]
  simp [State.view]

/-- One register written by a lane instruction: v and o registers in the active lanes, a scalar register under R89. -/
theorem Ctx.reads_writeReg (x : Ctx) (s : State) (o : Opnd) (f : Nat → Word) (hu : x.c.units.get? x.u = some x.h)
    (ho : o.isReg = true) {l : Nat} (hl : l < 96) :
    x.reads (s.setCrew x.k (x.c.writeReg x.u
      (if o.isVec then ⟨o, x.h.mask, lanesOf f⟩ else ⟨o, 0, [f 0]⟩))) o l = x.landed o f l := by
  cases o with
  | v i =>
    rw [Ctx.reads_setCrew _ _ _ _ _ x.h (by simpa [Crew.writeReg, Opnd.isVec, Opnd.isV] using hu)]
    simp [Ctx.word, Crew.readVec, Crew.writeReg, Crew.pool?, Opnd.isVec, Opnd.isV, Table.getD_put, Ctx.landed, hl]
  | o i =>
    rw [Ctx.reads_setCrew _ _ _ _ _ x.h (by simpa [Crew.writeReg, Opnd.isVec, Opnd.isV, Opnd.isO] using hu)]
    simp [Ctx.word, Crew.readVec, Crew.writeReg, Opnd.isVec, Opnd.isV, Opnd.isO, Table.getD_put, Ctx.landed, hl]
  | s i =>
    obtain ⟨h', hu'⟩ := Option.isSome_iff_exists.1 (Crew.writeReg_units x.c x.u ⟨.s i, 0, [f 0]⟩ (by simp [hu]))
    have e : (if (Opnd.s i).isVec then (⟨.s i, x.h.mask, lanesOf f⟩ : RegWrite) else ⟨.s i, 0, [f 0]⟩) = ⟨.s i, 0, [f 0]⟩ := by
      simp [Opnd.isVec, Opnd.isV, Opnd.isO, Opnd.isL]
    rw [e, Ctx.reads_setCrew _ _ _ _ _ h' hu']
    have := Crew.readS_writeS_self x.c x.u i.val (f 0) x.h h' i.isLt hu (by simpa [Crew.writeReg, lane] using hu')
    simpa [Ctx.word, Crew.writeReg, lane, Ctx.landed] using this
  | _ => simp [Opnd.isReg, Opnd.isV, Opnd.isS, Opnd.isO] at ho

/-- The register that a fixed-latency word result is written to reads it, and zero stays zero. -/
theorem Ctx.reads_fixedLane_word (x : Ctx) (f : Ctx → State → Nat → LaneRes) (s : State) (hc : s.crews.get? x.k = some x.c)
    (hu : x.c.units.get? x.u = some x.h) (hd : (x.a.dst.isReg || x.a.dst == .zero) = true) {l : Nat} (hl : l < 96) :
    x.reads (applyRes x s (fixedLane (perLane false f) x s)) x.a.dst l = x.landed x.a.dst (fun l => (f x s l).lo) l := by
  have hp : plainOpnd x.a.dst = true := by revert hd; unfold plainOpnd; cases x.a.dst.isReg <;> simp +contextual
  rw [Ctx.reads_fixedLane x _ s hc hp]
  cases hr : x.a.dst.isReg with
  | false =>
    rw [hr] at hd
    simp only [Bool.false_or, beq_iff_eq] at hd
    have : (perLane false f x s).writes = [] := by
      unfold perLane; rw [hd]; dsimp only; split_ifs <;> simp_all [Opnd.isVec, Opnd.isV, Opnd.isO, Opnd.isL, Opnd.isS]
    rw [this, hd, Ctx.reads_setCrew _ _ _ _ _ x.h (by simpa [Crew.wrote] using hu)]
    simp [Ctx.word, Ctx.landed]
  | true =>
    have : (perLane false f x s).writes =
        [if x.a.dst.isVec then ⟨x.a.dst, x.h.mask, lanesOf fun l => (f x s l).lo⟩ else ⟨x.a.dst, 0, [(f x s 0).lo]⟩] := by
      unfold perLane Ctx.vector vectorShape
      cases hdst : x.a.dst <;> simp_all [Opnd.isVec, Opnd.isV, Opnd.isO, Opnd.isL, Opnd.isS, Opnd.isReg]
    rw [this]
    exact Ctx.reads_writeReg x s x.a.dst (fun l => (f x s l).lo) hu hr hl

/-! ## Pairs -/

theorem plainOpnd_next {o : Opnd} (h : plainOpnd o = true) (n : Nat) : plainOpnd (Opnd.next o n) = true := by
  cases o <;> simp only [Opnd.next] <;> (try split) <;> first | rfl | exact h

/-- A unit after a scalar write: the same domain, and the mask of R89. -/
theorem Crew.writeS_unit (c : Crew) (u i : Nat) (w : Word) (h : CrewUnit) (hu : c.units.get? u = some h) :
    (c.writeS u i w).units.get? u =
      some (if i ≠ 63 ∧ 60 ≤ i then { h with mask := setMaskWord h.mask (i - 60) w &&& h.dom } else h) := by
  unfold Crew.writeS
  by_cases h63 : i = 63
  · simp [h63, hu]
  · by_cases h60 : 60 ≤ i
    · simp [h63, h60, Crew.modUnit_get?_self, hu]
    · simp [h63, h60, hu]

/-- Reading the low register of a pair after both are written. -/
theorem Crew.readS_writePair_low (c : Crew) (u i : Nat) (a b : Word) (h h' : CrewUnit) (hi : i % 2 = 0) (hl : i < 64)
    (hu : c.units.get? u = some h) (hu' : ((c.writeS u i a).writeS u (i + 1) b).units.get? u = some h') :
    ((c.writeS u i a).writeS u (i + 1) b).readS h' i = if 60 ≤ i then a &&& maskWord h.dom (i - 60) else a := by
  have h1 := Crew.writeS_unit c u i a h hu
  have h2 := Crew.writeS_unit _ u (i + 1) b _ h1
  rw [h2] at hu'
  simp only [Option.some.injEq] at hu'
  have hne : i ≠ 63 := by omega
  by_cases h60 : 60 ≤ i
  · have hcase : i = 60 ∨ i = 62 := by omega
    rcases hcase with rfl | rfl
    · subst hu'
      simp [Crew.readS, maskWord_and, maskWord_setMaskWord, BitVec.and_assoc]
    · subst hu'
      simp [Crew.readS, maskWord_and, maskWord_setMaskWord]
  · have h61 : ¬ 60 ≤ i + 1 := by omega
    unfold Crew.readS
    rw [if_neg hne, if_neg h60, if_neg h60]
    simp [Crew.writeS, hne, h60, h61, Table.getD_put, show i + 1 ≠ 63 by omega]

/-- A pair written by a lane instruction, read back. -/
theorem Ctx.reads_writePair (x : Ctx) (s : State) (o : Opnd) (f g : Nat → Word) (hu : x.c.units.get? x.u = some x.h)
    (ho : o.isReg = true) (he : o.even = true) {l : Nat} (hl : l < 96) :
    let ws : List RegWrite := if o.isVec then [⟨o, x.h.mask, lanesOf f⟩, ⟨Opnd.next o 1, x.h.mask, lanesOf g⟩]
      else [⟨o, 0, [f 0]⟩, ⟨Opnd.next o 1, 0, [g 0]⟩]
    x.reads (s.setCrew x.k (x.c.wrote x.u ws)) o l = x.landed o f l ∧
      x.reads (s.setCrew x.k (x.c.wrote x.u ws)) (Opnd.next o 1) l = x.landed (Opnd.next o 1) g l := by
  cases o with
  | v i =>
    have hn : i.val + 1 < 256 := by have := i.isLt; simp [Opnd.even, Opnd.index] at he; omega
    have hne : (i.val + 1) % 256 ≠ i.val := by omega
    have hne' : i.val ≠ (i.val + 1) % 256 := by omega
    simp only [Opnd.isVec, Opnd.isV, Bool.true_or, if_true, Opnd.next, hn]
    constructor
    · rw [Ctx.reads_setCrew _ _ _ _ _ x.h (by simpa [Crew.wrote, Crew.writeReg] using hu)]
      simp [Ctx.word, Crew.readVec, Crew.wrote, Crew.writeReg, Crew.pool?, Table.getD_put, Ctx.landed, hl, Fin.ofNat, hne']
    · rw [Ctx.reads_setCrew _ _ _ _ _ x.h (by simpa [Crew.wrote, Crew.writeReg] using hu)]
      simp [Ctx.word, Crew.readVec, Crew.wrote, Crew.writeReg, Crew.pool?, Table.getD_put, Ctx.landed, hl, Fin.ofNat, hne]
  | o i =>
    have hn : i.val + 1 < 8 := by have := i.isLt; simp [Opnd.even, Opnd.index] at he; omega
    have hne : (i.val + 1) % 8 ≠ i.val := by omega
    have hne' : i.val ≠ (i.val + 1) % 8 := by omega
    simp only [Opnd.isVec, Opnd.isV, Opnd.isO, Bool.or_true, Bool.true_or, if_true, Opnd.next, hn]
    constructor
    · rw [Ctx.reads_setCrew _ _ _ _ _ x.h (by simpa [Crew.wrote, Crew.writeReg] using hu)]
      simp [Ctx.word, Crew.readVec, Crew.wrote, Crew.writeReg, Table.getD_put, Ctx.landed, hl, Fin.ofNat, hne']
    · rw [Ctx.reads_setCrew _ _ _ _ _ x.h (by simpa [Crew.wrote, Crew.writeReg] using hu)]
      simp [Ctx.word, Crew.readVec, Crew.wrote, Crew.writeReg, Table.getD_put, Ctx.landed, hl, Fin.ofNat, hne]
  | s i =>
    have hn : i.val + 1 < 64 := by have := i.isLt; simp [Opnd.even, Opnd.index] at he; omega
    have hmod : (i.val + 1) % 64 = i.val + 1 := Nat.mod_eq_of_lt hn
    have he' : i.val % 2 = 0 := by simpa [Opnd.even, Opnd.index] using he
    have h1 := Crew.writeS_unit x.c x.u i.val (f 0) x.h hu
    have h2 := Crew.writeS_unit _ x.u (i.val + 1) (g 0) _ h1
    have hw : x.c.wrote x.u [⟨.s i, 0, [f 0]⟩, ⟨Opnd.next (.s i) 1, 0, [g 0]⟩] =
        (x.c.writeS x.u i.val (f 0)).writeS x.u (i.val + 1) (g 0) := by
      simp [Crew.wrote, Crew.writeReg, Opnd.next, hn, lane, Fin.ofNat, hmod]
    have hz : (Opnd.s i).isVec = false := rfl
    simp only [hz, Bool.false_eq_true, if_false, hw]
    constructor
    · rw [Ctx.reads_setCrew _ _ _ _ _ _ h2]
      have := Crew.readS_writePair_low x.c x.u i.val (f 0) (g 0) x.h _ he' i.isLt hu h2
      simp only [Ctx.word, Ctx.landed, show i.val ≠ 63 by omega, if_false]
      exact this
    · rw [Ctx.reads_setCrew _ _ _ _ _ _ h2]
      have := Crew.readS_writeS_self (x.c.writeS x.u i.val (f 0)) x.u (i.val + 1) (g 0) _ _ hn h1 h2
      simp only [Ctx.word, Ctx.landed, Opnd.next, hn, if_true, Fin.ofNat, hmod]
      rw [this]
      split_ifs <;> rfl
  | _ => simp [Opnd.isReg, Opnd.isV, Opnd.isS, Opnd.isO] at ho

/-- The pair that a fixed-latency 64-bit result is written to reads it, and zero stays zero. -/
theorem Ctx.reads_fixedLane_pair (x : Ctx) (f : Ctx → State → Nat → LaneRes) (s : State) (hc : s.crews.get? x.k = some x.c)
    (hu : x.c.units.get? x.u = some x.h) (hd : ((x.a.dst.isReg && x.a.dst.even) || x.a.dst == .zero) = true) {l : Nat} (hl : l < 96) :
    x.reads (applyRes x s (fixedLane (perLane true f) x s)) x.a.dst l = x.landed x.a.dst (fun l => (f x s l).lo) l ∧
      x.reads (applyRes x s (fixedLane (perLane true f) x s)) (Opnd.next x.a.dst 1) l =
        x.landed (Opnd.next x.a.dst 1) (fun l => (f x s l).hi) l := by
  cases hr : x.a.dst.isReg with
  | false =>
    rw [hr] at hd
    simp only [Bool.false_and, Bool.false_or, beq_iff_eq] at hd
    have hw : (perLane true f x s).writes = [] := by
      unfold perLane; rw [hd]; dsimp only; split_ifs <;> simp_all [Opnd.isVec, Opnd.isV, Opnd.isO, Opnd.isL, Opnd.isS]
    have hp : plainOpnd (.zero) = true := rfl
    have hn : Opnd.next .zero 1 = .zero := rfl
    rw [hd, hn, Ctx.reads_fixedLane x _ s hc hp, hw, Ctx.reads_setCrew _ _ _ _ _ x.h (by simpa [Crew.wrote] using hu)]
    simp [Ctx.word, Ctx.landed]
  | true =>
    have hne : (x.a.dst == .zero) = false := by cases hz : x.a.dst <;> simp_all [Opnd.isReg, Opnd.isV, Opnd.isS, Opnd.isO]
    rw [hr, hne] at hd
    simp only [Bool.true_and, Bool.or_false] at hd
    have hw : (perLane true f x s).writes =
        if x.a.dst.isVec then [⟨x.a.dst, x.h.mask, lanesOf fun l => (f x s l).lo⟩, ⟨Opnd.next x.a.dst 1, x.h.mask, lanesOf fun l => (f x s l).hi⟩]
        else [⟨x.a.dst, 0, [(f x s 0).lo]⟩, ⟨Opnd.next x.a.dst 1, 0, [(f x s 0).hi]⟩] := by
      unfold perLane Ctx.vector vectorShape
      cases hdst : x.a.dst <;> simp_all [Opnd.isVec, Opnd.isV, Opnd.isO, Opnd.isL, Opnd.isS, Opnd.isReg]
    have hp : plainOpnd x.a.dst = true := by simp [plainOpnd, hr]
    have hp' : plainOpnd (Opnd.next x.a.dst 1) = true := plainOpnd_next hp 1
    rw [Ctx.reads_fixedLane x _ s hc hp, Ctx.reads_fixedLane x _ s hc hp', hw]
    exact Ctx.reads_writePair x s x.a.dst _ _ hu hr hd hl

end Sys2Proof.Machine
end

