-- ==== Sys2Proof/Tests/Slice0.lean ====
section
/-! SUPPORT. Tests: ill-formed terms, words decoded, worked examples of the manual, and for every statement with hypotheses a state and
operands that meet them. -/

namespace Sys2Proof.Machine

set_option Elab.async false

/-! ## Ill-formed terms, one for each check of WellFormed -/

/-- Formats and the fields that a format lacks (R49, R51, R55, R66). -/
theorem illformed_formats :
    (∀ p ∈ ([(0x20, { fields (.v 1) (.v 2) (.v 3) .none with imm := 1 }), (0x20, { fields (.v 1) (.v 2) (.v 3) .none with aux := 1 }),
      (0x20, { fields (.v 1) (.v 2) (.v 3) .none with ctl := 1 }), (0x20, { fields (.v 1) (.v 2) (.v 3) .none with tv := true }),
      (0x20, { fields (.v 1) (.v 2) (.v 3) .none with tok := 1 }), (0x20, { fields (.v 1) (.v 2) (.v 3) .none with scope := 1 }),
      (0x20, { fields (.v 1) (.v 2) (.v 3) .none with form := .f96 }), (0x20, longFields (.v 1) (.v 2) (.v 3) .none),
      (0x20, { fields (.v 1) (.v 2) .imm .none with form := .f96, scope := 1 }), (0x01, fields .none .none .none .none),
      (0xA0, fields (.v 1) (.s 2) .none .none), (0xB1, { longFields .none .none .none .none with imm := 1 }),
      (0x00, { fields (.v 0) (.v 0) (.v 0) (.v 0) with mod := 1 }), (0x00, fields .none .none .none .none),
      (0xE0, fields .none .none .none .none)] : List (Nat × Args)), p.2.ok p.1 = false) := by decide

/-- Operands that a slot does not admit (R52, R53, R96, R130, R147, R188, R253). -/
theorem illformed_operands :
    (∀ p ∈ ([(0x20, fields .none (.v 2) (.v 3) .none), (0x20, fields (.v 1) .none (.v 3) .none), (0x20, fields (.v 1) (.v 2) .imm .none),
      (0x20, fields (.v 1) (.v 2) (.v 3) (.v 4)), (0x20, fields (.s 1) (.v 2) (.s 3) .none), (0x35, fields (.v 1) (.v 2) (.v 3) (.v 4)),
      (0x50, fields (.s 1) .none .none .none), (0x50, fields (.v 1) (.small 5) .none .none), (0x5F, fields (.v 1) (.small 4) .none .none),
      (0x5F, fields (.s 1) (.small 3) .none .none), (0x51, fields (.s 1) (.s 62) (.s 3) .none), (0x57, fields (.v 2) (.v 4) (.v 5) (.small 8)),
      (0x58, fields (.v 3) (.v 4) (.v 6) .none), (0x58, fields (.v 2) (.v 5) (.v 6) .none), (0x8F, fields (.v 1) (.v 2) (.s 3) (.s 4)),
      (0x8B, fields (.v 1) (.v 2) .none .none), (0x84, fields (.v 1) .none (.v 2) .none), (0x06, fields (.s 3) (.s 2) .none .none),
      (0x10, fields (.s 1) .none (.num 0x00D) .none), (0x1D, fields (.s 1) .none (.num 0x014) .none),
      (0xA0, longFields (.v 1) (.s 3) .none .none), (0xA0, longFields .zero (.s 2) .none .none), (0xB3, longFields (.v 4) (.s 2) .none (.s 2)),
      (0xB8, { longFields (.s 4) (.s 2) .none .none with ctl := 4 }), (0xCD, longFields (.s 4) (.s 2) .none .none),
      (0xC1, { longFields .none (.s 4) (.s 12) (.s 56) with tv := true }), (0xDA, longFields (.s 4) (.s 2) (.small (-1)) .none),
      (0xDC, longFields (.s 4) .none (.s 3) .none)] : List (Nat × Args)), p.2.ok p.1 = false) := by decide

/-- Modifier, ctl and aux bits, scopes and tokens beyond a row (R54, R56, R57, R136, R150). -/
theorem illformed_bits :
    (∀ p ∈ ([(0x30, { fields (.v 1) (.v 2) (.v 3) .none with mod := 2 }), (0x23, { fields (.v 1) (.v 2) (.v 3) .none with mod := 1 }),
      (0x65, { fields (.v 1) (.v 2) (.v 3) .none with mod := 1 }), (0xA0, { longFields (.v 1) (.s 2) .none .none with ctl := 8 }),
      (0xB4, { longFields .none (.s 2) .none .none with aux := 0x1000 }), (0xA0, { longFields (.v 1) (.s 2) .none .none with scope := 7 }),
      (0xA6, { longFields (.v 1) (.s 2) .none .none with tv := true }), (0xA0, { longFields (.v 1) (.s 2) .none .none with tok := 1 })]
      : List (Nat × Args)), p.2.ok p.1 = false) := by decide

/-- What an opcode's own rule refuses (R106, R117, R118, R188, R306 to R316, R210, R229, R253, R278, R309, R362, R364). -/
theorem illformed_own :
    (∀ p ∈ ([(0x11, fields .none (.s 2) (.num 0x004) .none), (0x1B, { fields (.s 1) (.s 2) .none .none with mod := 3 }),
      (0x1C, { fields (.s 1) (.s 2) .none .none with mod := 0 }), (0x1C, { fields (.s 1) .none .none .none with mod := 2 }),
      (0xA0, { longFields (.v 1) (.s 2) .none .none with ctl := 7 }), (0xA0, { longFields (.v 1) (.s 2) .none .none with ctl := 5 }),
      (0xA0, { longFields (.v 2) (.s 2) .none .none with ctl := 6 }), (0xA0, longFields (.s 1) (.v 2) .none .none),
      (0xA1, { longFields .none (.s 2) .l0 .none with ctl := 5 }), (0xA5, { longFields .none (.s 2) .none .none with ctl := 3 }),
      (0xA6, longFields (.s 1) (.v 2) .none .none), (0xA7, { longFields .none .none (.v 1) .none with ctl := 7 }),
      (0xAA, { longFields (.v 1) .none (.v 2) .none with ctl := 10 }), (0xAB, longFields (.s 1) (.v 2) (.s 2) (.s 3)),
      (0xAC, { longFields (.v 1) (.s 2) (.v 3) .none with ctl := 9 }), (0xAC, { longFields (.v 1) (.s 2) (.v 4) .none with ctl := 0x10 }),
      (0xAD, { longFields (.v 2) (.s 2) (.v 4) (.v 5) with ctl := 0x10 }), (0xAE, { longFields (.v 1) (.s 2) (.v 3) .none with ctl := 3 }),
      (0xAF, { longFields .none (.s 2) (.v 3) .none with ctl := 8 }), (0xB0, { longFields .none (.s 2) (.v 3) .none with ctl := 3 }),
      (0xB1, { longFields .none .none .none .none with ctl := 3 }), (0xB3, { longFields .zero (.s 2) .none (.s 3) with ctl := 2 }),
      (0xB3, { longFields .zero (.s 2) .none (.s 3) with aux := 1 }), (0xB5, { longFields .none (.s 2) .none .none with ctl := 1 }),
      (0xB7, longFields .none .none .none .none), (0xB5, { longFields .none .none .none .none with ctl := 1, imm := 1 }),
      (0xB8, { longFields (.v 4) (.s 2) .none .none with ctl := 3 }), (0xB9, { longFields (.v 4) .none .none (.s 2) with aux := 1, ctl := 0x100 }),
      (0xBA, longFields .none .none (.v 4) (.s 2)), (0xBB, { longFields .none (.s 2) .none .none with ctl := 0x100 })]
      : List (Nat × Args)), p.2.ok p.1 = false) ∧
    (∀ p ∈ ([(0xC0, { longFields .none (.s 2) (.v 4) .none with ctl := 12, tv := true }), (0xC0, longFields .none (.s 2) (.v 4) .none),
      (0xC1, { longFields .none (.s 4) (.s 12) (.s 16) with ctl := 0x1C0, tv := true }), (0xC1, longFields (.s 1) (.s 4) (.s 12) (.s 16)),
      (0xC1, { longFields .none (.s 4) .imm (.s 16) with tv := true }), (0xC2, longFields .none (.s 4) (.s 12) (.s 16)),
      (0xC3, { longFields .none (.s 4) (.s 6) (.s 56) with tv := true }), (0xC3, { longFields .none (.s 4) (.small 1) .none with ctl := 0x10, tv := true }),
      (0xC4, { longFields .none .none .none .none with ctl := 6, tv := true }), (0xC4, { longFields .none .none .none .none with imm := 64, tv := true }),
      (0xC5, longFields .none (.s 2) .none .none), (0xC5, { longFields .none (.s 2) .none .none with ctl := 6 }),
      (0xC6, { longFields .none .none .none .none with ctl := 3 }), (0xC6, { longFields .none .none .none .none with ctl := 0x08 }),
      (0xCB, { longFields .none (.s 2) (.v 2) .none with ctl := 3 }), (0xCF, { longFields .none (.s 2) .none .none with ctl := 0x30 }),
      (0xD0, { longFields .none .none .none .none with ctl := 0x60 }), (0xD1, longFields (.s 4) .none .none (.s 2)),
      (0xD5, { longFields .none (.s 2) .none .none with ctl := 1 }), (0xD6, { longFields .none (.s 2) .none .none with ctl := 4 }),
      (0xD7, { longFields (.s 4) .none .none .none with ctl := 1 }), (0xD8, { longFields .none .none .none .none with ctl := 1 })]
      : List (Nat × Args)), p.2.ok p.1 = false) := by decide

/-- A half as the pair tests write it. -/
def halfArgs (op : Nat) (d a b c : Opnd) : Half := { opcode := BitVec.ofNat 8 op, mod := 0, dst := d, in0 := a, in1 := b, in2 := c }

def pairOf (a b : Half) : PairArgs := { sw := false, wait := 0, a := a, b := b }

/-- Pairs that R60, R66 or R149 refuse: classes, a half's own fields, scalar or equal destinations, five registers, one bank twice,
and B reading what A writes. -/
theorem illformed_pairs :
    ∀ p ∈ [pairOf (halfArgs 0x82 (.v 1) (.v 2) .none .none) (halfArgs 0x20 (.v 4) (.v 5) (.v 6) .none),
      pairOf (halfArgs 0x20 (.v 1) (.v 2) (.v 3) .none) (halfArgs 0xA0 (.v 4) (.s 2) .none .none),
      pairOf (halfArgs 0x20 (.v 1) (.v 2) .none .none) (halfArgs 0x20 (.v 4) (.v 5) (.v 7) .none),
      pairOf (halfArgs 0x20 (.s 1) (.s 2) (.s 3) .none) (halfArgs 0x20 (.v 4) (.v 5) (.v 6) .none),
      pairOf (halfArgs 0x20 (.v 1) (.v 2) (.v 3) .none) (halfArgs 0x20 (.v 1) (.v 5) (.v 8) .none),
      pairOf (halfArgs 0x24 (.v 1) (.v 2) (.v 3) (.v 4)) (halfArgs 0x20 (.v 9) (.v 5) (.v 6) .none),
      pairOf (halfArgs 0x20 (.v 1) (.v 2) (.v 3) .none) (halfArgs 0x20 (.v 9) (.v 6) (.v 4) .none),
      pairOf (halfArgs 0x20 (.v 4) (.v 2) (.v 3) .none) (halfArgs 0x20 (.v 9) (.v 4) (.v 5) .none)], p.ok = false := by decide

/-- Window offsets of a policy access have sixteen bits (R411). -/
theorem illformed_policy : (Instr.policyLd 1 2 0x10000).wf = false ∧ (Instr.policyLdw 1 2 0x10000).wf = false ∧
    (Instr.policySt 1 2 0x10000).wf = false ∧ (Instr.policyStw 1 2 0x10000).wf = false := by decide

/-- Words that the decoder rejects, each by its name (R67). -/
theorem decode_rejects :
    decode 8 0x700 = .error .illegalOpcode ∧ decode 8 0x100 = .error .illegalField ∧
    decode 16 ((pairOf (halfArgs 0x20 (.v 1) (.v 2) (.v 3) .none) (halfArgs 0x20 (.v 1) (.v 5) (.v 8) .none)).word) = .error .pairRule ∧
    decode 4 0x4C000000 = .error .illegalField ∧ decode 12 0 = .error .illegalField := by decide
/-! ## Words that the manual writes out -/

/-- Control: `brx` of R99's example. -/
theorem decode_brx : decodeTableWord 96 0x0000002017FFFF805FF80019 =
    some (.brx { fields .none (.v 2) .none .none with form := .f96, mod := 2, imm := 0x20 }) := by decide

/-- The all-zero doubleword is a NOP, and the 96-bit NOP is the word 1 (R58). -/
theorem decode_nop : decodeTableWord 64 0 = some (.nop (fields (.v 0) (.v 0) (.v 0) (.v 0))) ∧
    decodeTableWord 96 1 = some (.nop { fields (.v 0) (.v 0) (.v 0) (.v 0) with form := .f96 }) := by decide

/-- Integer: `idot4.i8.sat v7, v2, v3, s9` (R135). -/
theorem decode_idot4 : decodeTableWord 64 0x0A12018040380968 =
    some (.idot4 { fields (.v 7) (.v 2) (.v 3) (.s 9) with wait := 1, mod := 1 }) := by decide

/-- Floating point and conversion: R61's FFMA, R160's CVT and tern_mv's TUNPK. -/
theorem decode_float : decodeTableWord 64 0x4E0681010020131C =
      some (.ffma { fields (.v 4) (.v 8) (.s 2) (.small 3) with sw := true, wait := 2, mod := 9 }) ∧
    decodeTableWord 64 0x0FFE028080480420 = some (.cvtE4m3F32 { fields (.v 9) (.v 4) (.v 5) .none with mod := 1 }) ∧
    decodeTableWord 64 0x07FFFF8100600458 = some (.tunpk (fields (.v 12) (.v 8) .none .none)) := by decide

/-- Cross-lane: `vget v1, v2, v3` put together from R51 and R65: opcode 0x8C << 3, dst 1 << 19, in0 2 << 29, in1 3 << 39, in2 none << 49. -/
theorem decode_vget : decodeTableWord 64 0x07FE018040080460 = some (.vget (fields (.v 1) (.v 2) (.v 3) .none)) := by decide

/-- The pair of R61. -/
theorem decode_pair : decodeTableWord 128 0x0000FFFFF00C0B8207FE010020500307 =
    some (.pairIssue { pairOf (halfArgs 0x60 (.v 10) (.v 1) (.v 2) .none) (halfArgs 0x82 (.v 11) (.v 3) .none .none) with sw := true }) := by decide

/-- Memory: `ld.acq.b64.sys s10, [s8 + 0x40]` (R317), `atom.imin` and `spldp` of the lane programs, WAITADDR of ringsvc. -/
theorem decode_memory : decodeTableWord 128 0x000000400000028607FFFFA108500512 =
      some (.ldAcq { longFields (.s 10) (.s 8) .none .none with scope := 6, ctl := 5, imm := 0x40 }) ∧
    decodeTableWord 128 0x000000000000008007FE090299100562 = some (.atom { longFields .zero (.v 20) (.v 18) .none with ctl := 1 }) ∧
    decodeTableWord 128 0x00000000000000060215FFA0C858059E =
      some (.waitaddr { longFields (.s 11) (.s 6) .none (.s 10) with sw := true, scope := 6 }) := by decide

/-- Scratchpad: `spld.b32 v3, [v8 + 0x40]` (R188) and the first SPLDP of the lane programs. -/
theorem decode_scratch : decodeTableWord 128 0x000000400000020007FFFF8100180532 =
      some (.spld { longFields (.v 3) (.v 8) .none .none with ctl := 4, imm := 0x40 }) ∧
    decodeTableWord 128 0x000000000000020007FFFF8100500542 = some (.spldp { longFields (.v 10) (.v 8) .none .none with ctl := 4 }) := by decide

/-- Events and chutes: `ev.add.cluster s5, e300, 1` (R210) and `ch.take s8, ch2` (R229). -/
theorem decode_events : decodeTableWord 128 0x00000000012C000207FFFFE0282806AA =
      some (.evAdd { longFields (.s 5) (.small 1) .none .none with scope := 2, aux := 0x12C }) ∧
    decodeTableWord 128 0x000000000002000007FFFFFFE840069A = some (.chTake { longFields (.s 8) .none .none .none with aux := 2 }) := by decide

/-- Engines: `hoist.t.ev.block.q2` (R253) and the MMAs of R278 and of gemm3. -/
theorem decode_engines : decodeTableWord 128 0x0000100000092101022086209FF8060A =
      some (.hoistT { longFields .none (.s 4) (.s 12) (.s 16) with scope := 1, ctl := 0x42, aux := 9, imm := 0x1000 }) ∧
    decodeTableWord 128 0x00000000088314D107FFFFFFFFF80632 =
      some (.mmaE4m3 { longFields .none .none .none .none with scope := 1, tv := true, tok := 2, ctl := 0x29, aux := 0x883 }) ∧
    decodeTableWord 128 0x000030000001A0000213FFFFFFF80632 =
      some (.mmaE4m3 { longFields .none .none .none (.s 9) with ctl := 0x140, aux := 1, imm := 0x3000 }) := by decide

/-- Capsules: `cap.enter s10, [s20], 5, cap_add, 2048` (R362). -/
theorem decode_capEnter : decodeTableWord 128 0x0000010007FF000007FF82A2885006D2 =
    some (.capEnter { longFields (.s 10) (.s 20) (.small 5) .none with aux := 0x7FF, imm := 0x100 }) := by decide

/-- The words of the policy example of chapter 21. -/
theorem decode_policy : decodeTableWord 32 0x90400020 = some (.policyRdc 1 0x20) ∧ decodeTableWord 32 0x5444003F = some (.policyAndi 1 1 0x3F) ∧
    decodeTableWord 32 0x60440003 = some (.policyShli 1 1 3) ∧ decodeTableWord 32 0x80840000 = some (.policyLd 2 1 0) ∧
    decodeTableWord 32 0x98080000 = some (.policySetd 2 0) ∧ decodeTableWord 32 0xACD00003 = some (.policyBltu 3 4 3) ∧
    decodeTableWord 32 0x88840000 = some (.policySt 2 1 0) ∧ decodeTableWord 32 0xA1800004 = some (.policyBeq 6 0 4) := by decide
/-! ## Instructions that are ready (R67, R68) -/

/-- A crew of one block whose main unit has been chosen to issue. -/
def base : State := State.reset.placeCrew 0
def crew0 : Crew := (base.crews.get? 0).getD (Crew.seated 1 0 0 0 placedLaunch.shape 0)
def unit0 : CrewUnit := (crew0.units.get? 0).getD (CrewUnit.start placedCode 0)

/-- The context of an instruction of that unit, with the crew changed. -/
def ctxOf (op : Nat) (a : Args) (f : Crew → Crew) (u : Nat) : Ctx :=
  { k := 0, u := u, c := f crew0, h := ((f crew0).units.get? u).getD unit0, a := a, len := a.form.bytes, pipe := pipeOf op }

/-- The state that goes with it. -/
def stateOf (f : Crew → Crew) (u : Nat) (g : State → State) : State := g { base with crews := [(0, f crew0)], focus := some (0, u) }

/-- The instruction is ready there, and a condition holds. -/
abbrev Meets (op : Nat) (a : Args) (f : Crew → Crew) (u : Nat) (g : State → State) (p : Ctx → State → Prop) : Prop :=
  (ctxOf op a f u).ready op (stateOf f u g) = true ∧ p (ctxOf op a f u) (stateOf f u g)

/-- Fields of each opcode that are ready in the state of `base`. -/
def readyControl : List Args := [
  fields (.v 0) (.v 0) (.v 0) (.v 0), { fields .none .none .none .none with form := .f96 }, { fields .none (.s 2) .none .none with form := .f96 }, { fields .none (.v 2) .none .none with form := .f96 },
  fields .none .none .none .none, { fields (.s 4) .none .none .none with form := .f96 }, fields (.s 4) (.s 2) .none .none, fields .none (.s 2) .none .none,
  fields .none (.s 2) .none .none, { fields (.s 4) .none .none .none with form := .f96 }, fields .none .none .none .none, fields .none (.s 2) (.s 2) .none,
  fields .none (.s 2) .none .none, fields .none .none .none .none, fields .none .none .none .none, fields .none (.s 2) .none .none,
  fields (.s 4) .none (.num 0x000) .none, fields .none (.s 2) (.num 0x000) .none, fields (.s 4) .none .none .none, fields .none (.s 2) .none .none,
  fields .none .none .none .none, fields .none (.s 2) .none .none, fields .none (.s 2) (.s 2) .none, { fields .none .none .none .none with form := .f96 },
  fields .none .none .none .none, fields (.s 4) (.s 2) .none .none, fields .none (.s 2) .none .none, fields (.s 4) (.s 2) .none .none,
  fields (.s 4) .none .none .none, fields (.s 4) .none (.num 0x000) .none, fields .none (.s 2) (.num 0x000) .none, fields .none (.s 2) .none .none]

def readyInteger : List Args := [
  fields (.v 4) (.v 2) (.v 2) .none, fields (.v 4) (.v 2) (.v 2) .none, fields (.v 4) (.v 2) (.v 2) .none, fields (.v 4) (.v 2) (.v 2) .none,
  fields (.v 4) (.v 2) (.v 2) (.v 2), fields (.v 4) (.v 2) (.v 2) (.v 2), fields (.v 4) (.v 2) (.v 2) .none, fields (.v 4) (.v 2) (.v 2) .none,
  fields (.v 4) (.v 2) (.v 2) .none, fields (.v 4) (.v 2) (.v 2) .none, fields (.v 4) (.v 2) .none .none, fields (.v 4) (.v 2) .none .none,
  fields (.v 4) (.v 2) (.v 2) (.v 2), fields (.v 4) (.v 2) (.v 2) (.v 2), fields (.v 4) (.v 2) (.v 2) .none, fields (.v 4) (.v 2) (.v 2) (.v 2),
  fields (.v 4) (.v 2) (.v 2) .none, fields (.v 4) (.v 2) (.v 2) .none, fields (.v 4) (.v 2) (.v 2) .none, fields (.v 4) (.v 2) .none .none,
  fields (.v 4) (.v 2) (.v 2) .none, fields (.v 4) (.v 2) (.v 2) (.s 2), fields (.v 4) (.v 2) (.v 2) .none, fields (.v 4) (.v 2) (.v 2) .none,
  fields (.v 4) (.v 2) (.v 2) .none, fields (.v 4) (.v 2) (.v 2) .none, fields (.v 4) (.v 2) (.v 2) (.v 2), fields (.v 4) (.v 2) (.v 2) (.v 2),
  fields (.v 4) (.v 2) (.v 2) (.v 2), fields (.v 4) (.v 2) (.v 2) (.v 2), fields (.v 4) (.v 2) .none .none, fields (.v 4) (.v 2) .none .none]

def readyInteger2 : List Args := [
  fields (.v 4) (.v 2) .none .none, fields (.v 4) (.v 2) .none .none, fields (.v 4) (.v 2) (.v 2) (.v 2), fields (.v 4) (.v 2) (.v 2) .none,
  fields (.v 4) (.v 2) (.v 2) .none, fields (.v 4) (.v 2) (.v 2) .none, fields (.v 4) (.v 2) (.v 2) .none, fields (.v 4) (.v 2) (.v 2) .none,
  fields (.v 4) (.v 2) (.v 2) .none, fields (.v 4) (.v 2) (.v 2) .none, fields (.v 4) (.v 2) (.v 2) .none, fields (.v 4) (.v 2) (.v 2) .none,
  fields (.v 4) (.v 2) (.v 2) .none, fields (.v 4) (.v 2) (.v 2) .none, fields (.v 4) (.v 2) (.v 2) (.v 2), fields (.v 4) (.v 2) .none .none,
  fields (.v 4) .none .none .none, fields (.s 4) (.s 2) (.s 2) .none, fields (.s 4) (.s 2) (.s 2) .none, fields (.s 4) (.s 2) (.s 2) .none,
  fields (.s 4) (.s 2) .none .none, fields (.s 4) (.s 2) .none .none, fields (.s 4) (.s 2) .none .none, fields (.v 4) (.v 2) (.v 2) (.s 2),
  fields (.v 4) (.v 2) (.v 2) .none, fields (.v 4) (.v 2) (.v 2) .none, fields (.v 4) (.v 2) (.v 2) .none, fields (.v 4) (.v 2) (.v 2) (.v 2),
  fields (.v 4) (.v 2) (.v 2) .none, fields (.v 4) (.v 2) (.v 2) .none, fields (.v 4) (.v 2) .none .none, fields (.v 4) (.small 0) .none .none]

def readyFloat : List Args := [
  fields (.v 4) (.v 2) (.v 2) .none, fields (.v 4) (.v 2) (.v 2) .none, fields (.v 4) (.v 2) (.v 2) .none, fields (.v 4) (.v 2) (.v 2) (.v 2),
  fields (.v 4) (.v 2) (.v 2) .none, fields (.v 4) (.v 2) (.v 2) .none, fields (.v 4) (.v 2) (.v 2) .none, fields (.v 4) (.v 2) (.v 2) .none,
  fields (.v 4) (.v 2) (.v 2) (.v 2), fields (.v 4) (.v 2) .none .none, fields (.v 4) (.v 2) .none .none, fields (.v 4) (.v 2) (.v 2) .none,
  fields (.v 4) (.v 2) .none .none, fields (.v 4) (.v 2) .none .none, fields (.v 4) (.v 2) (.v 2) .none, fields (.v 4) (.v 2) (.v 2) .none,
  fields (.v 4) (.v 2) (.v 2) .none, fields (.v 4) (.v 2) (.v 2) .none, fields (.v 4) (.v 2) (.v 2) .none, fields (.v 4) (.v 2) (.v 2) .none,
  fields (.v 4) (.v 2) (.v 2) .none, fields (.v 4) (.v 2) (.v 2) (.v 2), fields (.v 4) (.v 2) (.v 2) .none, fields (.v 4) (.v 2) .none .none,
  fields (.v 4) (.v 2) .none .none, fields (.v 4) (.v 2) .none .none, fields (.v 4) (.v 2) .none .none, fields (.v 4) (.v 2) .none .none,
  fields (.v 4) (.v 2) .none .none, fields (.v 4) (.v 2) .none .none, fields (.v 4) (.v 2) .none .none, fields (.v 4) (.v 2) .none .none]

def readyCross : List Args := [
  fields (.v 4) (.v 2) .none .none, fields (.v 4) (.v 2) .none .none, fields (.v 4) (.v 2) .none .none, fields (.v 4) (.v 2) .none .none,
  fields (.v 4) (.v 2) .none .none, fields (.v 4) (.v 2) .none .none, fields (.v 4) (.v 2) .none .none, fields (.v 4) (.v 2) .none .none,
  fields (.v 4) (.v 2) .none .none, fields (.v 4) (.v 2) .none .none, fields (.v 4) (.v 2) .none .none, fields (.v 4) (.v 2) .none .none,
  fields (.v 4) (.v 2) (.v 2) .none, fields (.v 4) (.v 2) (.v 2) .none, fields (.v 4) (.v 2) (.s 2) .none, fields (.v 4) (.v 2) (.s 2) (.v 2),
  fields (.v 4) (.v 2) (.s 2) .none, fields (.v 4) (.v 2) .none .none, fields (.v 4) (.v 2) .none .none, fields (.s 4) (.v 2) .none .none,
  fields (.v 4) (.v 2) .none .none, fields (.v 4) (.v 2) .none .none, fields (.v 4) (.v 2) .none .none, fields (.v 4) (.v 2) .none .none,
  fields (.v 4) (.v 2) .none .none, fields (.v 4) (.v 2) .none .none, fields (.v 4) (.v 2) .none .none, fields (.v 4) (.v 2) .none .none,
  fields (.v 4) (.v 2) .none .none, fields (.v 4) (.v 2) .none .none, fields (.v 4) (.v 2) .none .none, fields (.v 4) (.v 2) (.v 2) (.v 2)]

def readyMemory : List Args := [
  longFields (.v 4) (.v 2) .none .none, longFields .none (.v 2) (.v 2) .none, longFields (.v 4) (.v 2) .none .none, longFields .none (.v 2) (.v 2) .none,
  longFields (.v 4) (.v 2) .none .none, longFields .none (.v 2) .none .none, longFields (.v 4) .none .none .none, longFields .none .none (.v 2) .none,
  longFields (.v 4) .none .none .none, longFields .none .none (.v 2) .none, longFields (.v 4) .none (.v 2) .none, longFields (.v 4) .none (.v 2) (.v 2),
  longFields (.v 4) (.v 2) (.v 2) .none, longFields (.v 4) (.v 2) (.v 2) (.v 2), longFields (.v 4) (.v 2) (.v 2) .none, longFields .none (.v 2) (.v 2) .none,
  longFields .none (.v 2) (.v 2) .none, longFields .none .none .none .none, longFields .none .none .none .none, longFields (.s 4) (.s 2) .none (.s 2),
  longFields .none (.s 2) .none .none, longFields .none (.s 2) .none .none, longFields .none (.v 2) .none .none, longFields .none (.v 2) .none .none,
  { longFields (.v 4) (.s 2) .none .none with ctl := 4 }, longFields (.v 4) .none .none .none, longFields .none .none (.v 2) .none, longFields .none (.s 2) .none .none,
  longFields .none .none .none .none, longFields .none .none .none .none, longFields .none .none .none .none, longFields .none (.s 2) (.s 2) .none]

def readyEngine : List Args := [
  { longFields .none (.s 2) (.v 4) .none with tv := true }, { longFields .none (.s 4) (.s 12) (.s 16) with tv := true }, { longFields .none (.s 4) (.s 12) (.s 16) with ctl := 4 }, { longFields .none (.s 4) (.s 12) (.s 16) with tv := true },
  longFields .none .none .none .none, { longFields .none (.s 2) .none .none with ctl := 4 }, longFields .none .none .none .none, longFields .none .none .none .none,
  longFields .none .none .none .none, longFields .none .none .none .none, longFields .none .none .none .none, longFields .none (.s 2) (.v 2) .none,
  longFields .none .none .none .none, longFields (.v 4) (.s 2) .none .none, longFields (.v 4) (.s 2) .none .none, longFields .none (.s 2) .none .none,
  longFields .none .none .none .none, longFields (.s 4) .none .none .none, longFields .none (.s 2) .none (.s 2), longFields (.s 4) .none .none .none,
  longFields .none .none .none (.s 2), longFields (.s 4) (.s 2) .none .none, longFields .none .none .none .none, longFields (.s 4) .none .none .none,
  longFields .none .none .none .none, longFields (.s 4) .none .none .none, longFields (.s 4) (.s 2) .none .none, longFields (.s 4) .none .none .none,
  longFields (.s 4) .none (.s 2) .none, longFields (.s 4) .none .none .none, longFields (.s 4) .none .none .none, longFields (.s 4) .none .none .none]

/-! A statement whose hypotheses are that an instruction of an opcode is ready is met by one of these, for each opcode. -/

theorem ready_control : ((readyControl.zipIdx).all fun p => (ctxOf (p.2 + 0x0) p.1 id 0).ready (p.2 + 0x0) (stateOf id 0 id)) = true := by decide +kernel
theorem ready_integer : ((readyInteger.zipIdx).all fun p => (ctxOf (p.2 + 0x20) p.1 id 0).ready (p.2 + 0x20) (stateOf id 0 id)) = true := by decide +kernel
theorem ready_integer2 : ((readyInteger2.zipIdx).all fun p => (ctxOf (p.2 + 0x40) p.1 id 0).ready (p.2 + 0x40) (stateOf id 0 id)) = true := by decide +kernel
theorem ready_float : ((readyFloat.zipIdx).all fun p => (ctxOf (p.2 + 0x60) p.1 id 0).ready (p.2 + 0x60) (stateOf id 0 id)) = true := by decide +kernel
theorem ready_cross : ((readyCross.zipIdx).all fun p => (ctxOf (p.2 + 0x80) p.1 id 0).ready (p.2 + 0x80) (stateOf id 0 id)) = true := by decide +kernel
theorem ready_memory : ((readyMemory.zipIdx).all fun p => (ctxOf (p.2 + 0xA0) p.1 id 0).ready (p.2 + 0xA0) (stateOf id 0 id)) = true := by decide +kernel
theorem ready_engine : ((readyEngine.zipIdx).all fun p => (ctxOf (p.2 + 0xC0) p.1 id 0).ready (p.2 + 0xC0) (stateOf id 0 id)) = true := by decide +kernel
/-! ## Changes of the crew for the witnesses -/

def sRegs (l : Table Word) (c : Crew) : Crew := { c with sregs := l }
def vReg (i : Nat) (w : Word) (c : Crew) : Crew := { c with pool := [(i, List.replicate 96 w)] }
def unitBy (g : CrewUnit → CrewUnit) (c : Crew) : Crew := c.modUnit 0 g
/-- Odd lanes of register i are one. -/
def oddLanes (i : Nat) (c : Crew) : Crew := { c with pool := [(i, (List.range 96).map fun l => BitVec.ofNat 32 (l % 2))] }
/-- Spalls 1 to n, with join id j, owned by unit 0, in a state. -/
def spalls (n j : Nat) (st : UnitState) (c : Crew) : Crew :=
  { c with units := (0, { unit0 with opens := 0xFFFF }) ::
      (List.range n).map fun i => (i + 1, { unit0 with mask := 0, dom := 0, joinId := j, owner := 0, st := st, opens := 0xFFFF }) }
def result0 : Result := { id := 0, due := 0, unit := 0, writes := [], flags := 0, parts := 0, ldc := false, tok := none }

/-! ## Witnesses: control -/

theorem hyps_InstructionCourse_ends : ∃ (x : Ctx) (t : State) (c : Crew) (h : CrewUnit),
    t.crews.get? x.k = some c ∧ c.units.get? x.u = some h ∧ x.h.stop = false :=
  ⟨ctxOf 0 (fields .none .none .none .none) (unitBy fun h => { h with stop := false }) 0, base, crew0, unit0, by decide +kernel⟩

def offArgs (imm : BitVec 32) (d a : Opnd) : Args := { fields d a .none .none with form := .f96, imm := imm }
/-- The unit at the last address of code, and just above. -/
def atTop (c : Crew) : Crew := unitBy (fun h => { h with pc := 0xFFFFFFFFFFFFFC }) c
def aboveTop (c : Crew) : Crew := unitBy (fun h => { h with pc := 0x100000000000000 }) c

theorem hyps_Transfers :
    Meets 0x01 (offArgs 0 .none .none) atTop 0 id (fun x _ => goodTarget (x.h.pc + x.a.imm.signExtend 64)) ∧
    Meets 0x01 (offArgs 1 .none .none) id 0 id (fun x _ => (x.h.pc + x.a.imm.signExtend 64).toNat % 4 ≠ 0) ∧
    Meets 0x01 (offArgs 0 .none .none) aboveTop 0 id (fun x _ => (x.h.pc + x.a.imm.signExtend 64).toNat % 4 = 0 ∧
      2 ^ 56 ≤ (x.h.pc + x.a.imm.signExtend 64).toNat) ∧
    Meets 0x02 (offArgs 0xFFFFFFFC .none (.s 2)) (sRegs [(2, 1)]) 0 id (fun x _ => ((x.word x.a.in0 0 ≠ 0) ↔ x.a.mod.getLsbD 0 = false) ∧
      goodTarget (x.h.pc + x.a.imm.signExtend 64)) ∧
    Meets 0x02 { offArgs 4 .none (.s 2) with mod := 1 } (sRegs [(2, 0)]) 0 id (fun x _ =>
      (x.word x.a.in0 0 ≠ 0) ↔ x.a.mod.getLsbD 0 = false) ∧
    Meets 0x02 (offArgs 4 .none (.s 2)) (sRegs [(2, 0)]) 0 id (fun x _ => (x.word x.a.in0 0 ≠ 0) ↔ x.a.mod.getLsbD 0 = true) ∧
    Meets 0x05 (offArgs 4 (.s 4) .none) id 0 id (fun x _ => goodTarget (x.h.pc + x.a.imm.signExtend 64)) ∧
    Meets 0x06 (fields (.s 4) (.s 2) .none .none) (sRegs [(2, 0xFFFFFFFC), (3, 0xFFFFFF)]) 0 id (fun x _ => goodTarget (x.pairAt x.a.in0)) ∧
    Meets 0x07 (fields .none (.s 2) .none .none) (sRegs [(2, 2)]) 0 id (fun x _ => (x.pairAt x.a.in0).toNat % 4 ≠ 0) ∧
    Meets 0x08 (fields .none (.s 2) .none .none) (sRegs [(3, 0x1000000)]) 0 id (fun x _ => (x.pairAt x.a.in0).toNat % 4 = 0 ∧
      2 ^ 56 ≤ (x.pairAt x.a.in0).toNat) ∧
    Meets 0x09 (offArgs 4 (.s 4) .none) (sRegs [(4, 0)]) 0 id (fun x _ => x.word x.a.dst 0 ≠ 1 ∧ goodTarget (x.h.pc + x.a.imm.signExtend 64)) ∧
    Meets 0x09 (offArgs 4 (.s 4) .none) (sRegs [(4, 1)]) 0 id (fun x _ => x.word x.a.dst 0 = 1) := by
  unfold goodTarget; decide +kernel

def brxArgs : Args := offArgs 8 .none (.v 2)

theorem hyps_BranchesAndJoins_brx :
    Meets 0x03 brxArgs (vReg 2 1) 0 id (fun x _ => x.falls = 0 ∧ goodTarget x.target) ∧
    Meets 0x03 brxArgs (vReg 2 0) 0 id (fun x _ => x.falls ≠ 0 ∧ x.takes = 0) ∧
    Meets 0x03 brxArgs (oddLanes 2) 0 id (fun x _ => x.falls ≠ 0 ∧ x.takes ≠ 0 ∧ goodTarget x.target ∧
      ((List.range 16).map (· + 1)).find? (fun n => (x.c.units.get? n).isNone) = some 1) ∧
    Meets 0x03 brxArgs (fun c => oddLanes 2 (spalls 15 3 .ready c)) 0 id (fun x _ => x.falls ≠ 0 ∧ x.takes ≠ 0 ∧ goodTarget x.target ∧
      ((List.range 16).map (· + 1)).find? (fun n => (x.c.units.get? n).isNone) = some 16) ∧
    Meets 0x03 brxArgs (fun c => oddLanes 2 (spalls 16 3 .ready c)) 0 id (fun x _ => x.falls ≠ 0 ∧ x.takes ≠ 0 ∧ goodTarget x.target ∧
      (∀ n < 17, 1 ≤ n → (x.c.units.get? n).isSome = true) ∧ x.c.deferred.get? x.joinId = none) ∧
    Meets 0x03 brxArgs (fun c => { oddLanes 2 (spalls 16 3 .ready c) with deferred := [(0, ⟨4, 0, false, 0⟩)] }) 0 id (fun x _ =>
      x.falls ≠ 0 ∧ x.takes ≠ 0 ∧ (∀ n < 17, 1 ≤ n → (x.c.units.get? n).isSome = true) ∧
      x.c.deferred.get? x.joinId = some ⟨4, 0, false, 0⟩ ∧ (4 : Dword) ≠ skipTail x.next) := by
  unfold goodTarget; decide +kernel

def joinArgs : Args := { fields .none .none .none .none with mod := 3 }

theorem hyps_BranchesAndJoins_join :
    Meets 0x04 joinArgs (spalls 1 3 .ready) 1 id (fun x _ => x.u ≠ 0 ∧ x.h.joinId = x.joinId ∧ x.h.owner ≠ x.u ∧
      x.c.units.get? x.h.owner = some { unit0 with opens := 0xFFFF } ∧ ({ unit0 with opens := 0xFFFF } : CrewUnit).st = .ready) ∧
    Meets 0x04 joinArgs (spalls 1 3 .ready) 0 id (fun x _ => x.u = 0 ∧ x.h.opens.getLsbD x.joinId = true ∧
      x.c.deferred.get? x.joinId = none ∧ x.toCome ≠ []) ∧
    Meets 0x04 joinArgs (spalls 2 3 (.joined none)) 0 id (fun x _ => x.u = 0 ∧ x.h.opens.getLsbD x.joinId = true ∧
      x.c.deferred.get? x.joinId = none ∧ x.toCome = [] ∧ x.a.sw = false) ∧
    Meets 0x04 joinArgs (fun c => { spalls 16 3 .ready c with deferred := [(3, ⟨4, 1, false, 0⟩)] }) 0 id (fun x _ => x.u = 0 ∧
      x.h.opens.getLsbD x.joinId = true ∧ x.c.deferred.get? x.joinId = some ⟨4, 1, false, 0⟩) ∧
    Meets 0x04 joinArgs (spalls 1 2 .ready) 1 id (fun x _ => x.u ≠ 0 ∧ x.h.joinId ≠ x.joinId ∧ x.h.opens.getLsbD x.joinId = true ∧
      x.toCome = []) ∧
    Meets 0x04 joinArgs id 0 id (fun x _ => x.u = 0 ∧ x.h.opens.getLsbD x.joinId = false) := by decide +kernel

def withHandler (s : State) : State := { s with launches := [(1, { placedLaunch with trapoff := 64 })] }

theorem hyps_TrapsAndReturns :
    Meets 0x0C (fields .none (.s 2) .none .none) id 0 withHandler (fun x s => x.handlerOpen s { placedLaunch with trapoff := 64 }) ∧
    Meets 0x0C (fields .none (.s 2) .none .none) id 0 id (fun x s => x.launchOf s = some placedLaunch ∧ placedLaunch.trapoff = 0xFFFFFFFF ∧
      x.c.cap.mode = false) ∧
    Meets 0x0C (fields .none (.s 2) .none .none) (fun c => { c with hstate := 1 }) 0 withHandler (fun x s =>
      x.launchOf s = some { placedLaunch with trapoff := 64 } ∧ x.handling ∧ x.c.cap.mode = false) ∧
    Meets 0x0C (fields .none (.s 2) .none .none) (fun c => { c with hstate := 3 }) 0 withHandler (fun x s =>
      x.launchOf s = some { placedLaunch with trapoff := 64 } ∧ ¬ x.handling ∧ x.c.hstate.getLsbD 0 = true ∧ x.c.cap.mode = false) ∧
    Meets 0x16 (fields .none (.s 2) (.s 3) .none) (sRegs [(2, 1)]) 0 withHandler (fun x s => x.word x.a.in0 0 ≠ 0 ∧
      x.handlerOpen s { placedLaunch with trapoff := 64 }) ∧
    Meets 0x16 (fields .none (.s 2) (.s 3) .none) id 0 withHandler (fun x _ => x.word x.a.in0 0 = 0) ∧
    Meets 0x15 (fields .none (.small (-1)) .none .none) id 0 id (fun x _ => x.c.cap.mode = false) ∧
    Meets 0x0D (fields .none .none .none .none) (fun c => { c with hstate := 1, hpc := 0xFFFFFFFFFFFFFC }) 0 withHandler (fun x _ => x.handling ∧
      goodTarget x.c.hpc) ∧
    Meets 0x0D (fields .none .none .none .none) (fun c => { c with hstate := 3 }) 0 withHandler (fun x _ => ¬ x.handling) ∧
    Meets 0x0D (fields .none .none .none .none) (fun c => { c with hstate := 1, hpc := 2 }) 0 withHandler (fun x _ => x.handling ∧
      x.c.hpc.toNat % 4 ≠ 0) := by
  unfold goodTarget Ctx.handlerOpen Ctx.handling; decide +kernel

def counter0 (epoch : Nat) (s : State) : State :=
  s.modCore 0 fun c => { c with counters := [(5, { bytes := false, owner := 0, epoch := epoch, target := 1, count := 0 })] }
/-! ## Witnesses: waits, ends, control registers -/

def hoist0 : Hoist :=
  { id := 0, crew := 0, launch := 1, index := 0, block := 0, bslot := 0, spall := 0, pc := 0, kind := .qfence, src := 0, win := 0, width := 0, rows := 0
    planes := 0, mrow := 0, mplane := 0, srow := 0, splane := 0, lanes := [], size := 0, tgt := 0, tindex := 0, tok := none, scope := 0, chute := 0
    landings := [], after := [], cursor := 0, total := 0, started := false, held := false, own := 0, read := [], desc := [], qmask := 0, check := false, wait := none }
/-- One hoist of the crew stands in queue 0. -/
def hoisting (s : State) : State := s.modCore 0 fun c => { c with queues := [(0, [.hoist hoist0])] }

theorem hyps_InstructionCourse_waits :
    Meets 0x14 (fields .none .none .none .none) id 0 (fun s => s.modCore 0 fun c => { c with cand := [(0, (0, 4))] }) (fun x s =>
      (s.core x.core).cand.get? (x.k % 32) = some (0, 4)) ∧
    Meets 0x0E { fields .none .none .none .none with wait := 0x80 } (fun c => { c with tokens := [(0, 1)] }) 0 id (fun x _ => x.a.wait ≠ 0) ∧
    Meets 0x0E (fields .none .none .none .none) id 0 id (fun x _ => ∀ n < 8, x.c.tokens.getD n 0 = 0) ∧
    Meets 0x0E (fields .none .none .none .none) (fun c => { c with tokens := [(7, 1)] }) 0 id (fun x _ => x.a.wait = 0 ∧
      ∃ n < 8, x.c.tokens.getD n 0 ≠ 0) ∧
    Meets 0x13 (fields .none (.s 2) .none .none) (sRegs [(2, 0x10000)]) 0 id (fun x _ => x.word x.a.in0 0 ≠ 0) ∧
    Meets 0x13 (fields .none (.s 2) .none .none) id 0 id (fun x _ => x.word x.a.in0 0 = 0) ∧
    Meets 0x0B { fields .none (.s 2) (.s 3) .none with form := .f96, imm := 8 } (sRegs [(2, 5), (3, 0x18000)]) 0 (counter0 0) (fun x s =>
      goodTarget x.target ∧ (x.word x.a.in0 0).toNat ≤ 2047 ∧
      (s.core x.core).counters.get? (x.word x.a.in0 0).toNat = some { bytes := false, owner := 0, epoch := 0, target := 1, count := 0 } ∧
      0 = s.bslotOf x.k ∧ reached 0 ((x.word x.a.in1 0).toNat % 65536) = false) ∧
    Meets 0x0B (fields .none (.s 2) (.s 3) .none) (sRegs [(2, 5), (3, 0x8000)]) 0 (counter0 0xFFFF) (fun x s => x.a.form = .f64 ∧
      (x.word x.a.in0 0).toNat ≤ 2047 ∧
      (s.core x.core).counters.get? (x.word x.a.in0 0).toNat = some { bytes := false, owner := 0, epoch := 0xFFFF, target := 1, count := 0 } ∧
      0 = s.bslotOf x.k ∧ reached 0xFFFF ((x.word x.a.in1 0).toNat % 65536) = true) ∧
    Meets 0x0B (fields .none (.s 2) (.s 3) .none) (sRegs [(2, 2048)]) 0 id (fun x _ => 2047 < (x.word x.a.in0 0).toNat) ∧
    Meets 0x0F (fields .none (.s 2) .none .none) (fun c => { sRegs [(2, 256)] c with budget := 768 }) 0 id (fun x s =>
      ¬ x.badBound (x.word x.a.in0 0).toNat ∧ x.c.units.length = 1 ∧ x.c.deferred = [] ∧ x.c.out = [] ∧ s.tileBusy x.core x.c = false) ∧
    Meets 0x0F (fields .none (.s 2) .none .none) (fun c => { sRegs [(2, 257)] c with budget := 257 }) 0 id (fun x _ =>
      x.badBound (x.word x.a.in0 0).toNat) ∧
    Meets 0x0A (fields .none .none .none .none) id 0 hoisting (fun x s => x.u = 0 ∧ x.c.units.length = 1 ∧ x.c.deferred = [] ∧ x.c.slots = 0 ∧
      x.c.waiting 0 = false ∧ s.engineBusy x.core x.c.launch x.c.index = true) ∧
    Meets 0x0A (fields .none .none .none .none) (fun c => { c with fflags := 1, fenable := 2 }) 0 id (fun x s => x.u = 0 ∧ x.c.units.length = 1 ∧
      x.c.deferred = [] ∧ x.c.slots = 0 ∧ x.c.waiting 0 = false ∧ s.engineBusy x.core x.c.launch x.c.index = false ∧
      x.c.fflags &&& x.c.fenable = 0) ∧
    Meets 0x0A (fields .none .none .none .none) (spalls 1 0 .ready) 0 id (fun x _ => x.u = 0 ∧ 1 < x.c.units.length) ∧
    Meets 0x0A (fields .none .none .none .none) (spalls 1 0 .ready) 1 id (fun x _ => x.u ≠ 0) ∧
    Meets 0x0A (fields .none .none .none .none) (fun c => { c with deferred := [(0, ⟨0, 1, false, 0⟩)] }) 0 id (fun x _ => x.c.deferred ≠ []) ∧
    Meets 0x0A (fields .none .none .none .none) (fun c => { c with slots := 1 }) 0 id (fun x _ => x.u = 0 ∧ x.c.units.length = 1 ∧
      x.c.deferred = [] ∧ x.c.slots ≠ 0) := by
  unfold goodTarget Ctx.badBound; and_intros <;> decide +kernel

def mfc (n : BitVec 10) : Args := fields (.s 4) .none (.num n) .none
def mtc (n : BitVec 10) : Args := fields .none (.s 2) (.num n) .none

theorem hyps_ControlState_mfc :
    (∀ n ∈ [0x000, 0x001, 0x002, 0x003, 0x004, 0x005, 0x006, 0x007, 0x008, 0x009, 0x00A, 0x00B, 0x00C, 0x040, 0x041, 0x042, 0x043, 0x044, 0x045, 0x046],
      Meets 0x10 (mfc (BitVec.ofNat 10 n)) id 0 id (fun x s => x.regNumber = n ∧ x.launchOf s = some placedLaunch)) ∧
    (∀ i < 16, Meets 0x10 (mfc (BitVec.ofNat 10 (0x050 + i))) id 0 id (fun x _ => x.regNumber = 0x050 + i)) ∧
    (∀ n ∈ [0x000, 0x005, 0x006, 0x007, 0x008, 0x009, 0x00C, 0x040, 0x041, 0x042, 0x043, 0x044, 0x045, 0x05F],
      Meets 0x11 (mtc (BitVec.ofNat 10 n)) id 0 id (fun x _ => x.regNumber = n)) := by decide +kernel

def debugged (s : State) : State := { s with launches := [(1, { placedLaunch with dbg := true })] }
def traced (s : State) : State := { s with launches := [(1, { placedLaunch with trace := true })] }

theorem hyps_ControlState_debug :
    (∀ n ∈ [0x000, 0x010, 0x013, 0x020, 0x021, 0x022, 0x030], Meets 0x1D (mfc (BitVec.ofNat 10 n)) id 0 debugged (fun x s =>
      x.launchOf s = some { placedLaunch with dbg := true } ∧ ({ placedLaunch with dbg := true } : Launch).dbg = true ∧ x.regNumber = n)) ∧
    Meets 0x1D (mfc 0) id 0 id (fun x s => x.launchOf s = some placedLaunch ∧ placedLaunch.dbg = false) ∧
    (∀ n ∈ [0x000, 0x010, 0x013, 0x020, 0x021, 0x022], Meets 0x1E (mtc (BitVec.ofNat 10 n)) id 0 debugged (fun x s =>
      x.launchOf s = some { placedLaunch with dbg := true } ∧ x.regNumber = n)) ∧
    Meets 0x1E (mtc 0) id 0 id (fun x s => x.launchOf s = some placedLaunch ∧ placedLaunch.dbg = false) := by decide +kernel

theorem hyps_ControlState_queries :
    Meets 0x12 { fields (.s 4) .none .none .none with mod := 1 } id 0 (fun s => { s with ckSkew := [0] }) (fun x _ => x.a.mod.getLsbD 0 = true) ∧
    Meets 0x12 (fields (.s 4) .none .none .none) id 0 (fun s => { s with ckSkew := [1] }) (fun x s => s.ckSkew.contains (dieOf x.core) = false) ∧
    Meets 0x12 (fields (.s 4) .none .none .none) id 0 (fun s => { s with ckSkew := [0] }) (fun x s => x.a.mod.getLsbD 0 = false ∧
      s.ckSkew.contains (dieOf x.core) = true) ∧
    Meets 0x19 (fields (.s 4) (.s 2) .none .none) (sRegs [(2, 8)]) 0 id (fun x _ => 7 < (x.word x.a.in0 0).toNat) ∧
    Meets 0x19 (fields (.s 4) (.s 2) .none .none) (sRegs [(2, 7)]) 0 (fun s => s.modCore 0 fun c => { c with perf := [(7, ⟨2, 1, 5⟩)] }) (fun x s =>
      (x.word x.a.in0 0).toNat ≤ 7 ∧ (s.core x.core).perf.get? (x.word x.a.in0 0).toNat = some ⟨2, 1, 5⟩) ∧
    Meets 0x1A (fields .none (.s 2) .none .none) id 0 id (fun x s => x.launchOf s = some placedLaunch ∧ placedLaunch.trace = false) ∧
    Meets 0x1A (fields .none (.s 2) .none .none) id 0 traced (fun x s => x.launchOf s = some { placedLaunch with trace := true } ∧
      ({ placedLaunch with trace := true } : Launch).tset = false) ∧
    (∀ m ∈ [0, 1, 2], Meets 0x1B { fields (.s 4) (.s 2) .none .none with mod := m } id 0 id (fun x s => x.launchOf s = some placedLaunch)) ∧
    (∀ m ∈ [0, 1], Meets 0x1C { fields (.s 4) .none .none .none with mod := m } (spalls 2 0 .ready) 0 id (fun _ _ => True)) ∧
    Meets 0x1C { fields (.s 4) (.s 2) .none .none with mod := 2 } (spalls 2 0 .ready) 0 id (fun _ _ => True) ∧
    Meets 0x17 { offArgs 0 .none .none with mod := 7 } id 0 id (fun x s => x.launchOf s = some placedLaunch ∧ ∀ i < 8, i ≤ x.a.mod.toNat % 8 →
      placedLaunch.lineInImage (x.target.toNat / 128 + i) = false ∨
        ((s.core x.core).codeLine x.c.launch (x.target.toNat / 128 + i)).isSome = true) := by decide +kernel
/-! ## Witnesses: memory -/

/-- The first 64 MiB of HBM4 mapped for partition 0 of tenant 0 by four table entries under key slot 0, in frames that are not cleared. -/
def mapped (s : State) : State :=
  { s with
    mem := [(0x2000000, 0x0D), (0x2000002, 0x04), (0x2000003, 0x02), (0x2040000, 0xCF), (0x2080000, 0x0D), (0x2080002, 0x0C), (0x2080003, 0x02),
      (0x20C0000, 0xCF)]
    frames := [(0, ⟨false, 0⟩), (0x20, ⟨false, 0⟩), (0x400, ⟨false, 0⟩), (0x408, ⟨false, 0⟩), (0x410, ⟨false, 0⟩), (0x418, ⟨false, 0⟩)]
    keys := [(0, .live 0)]
    parts := [(0, { tenant := 0, clusters := 1, root1 := some 0x2080000, power := 0, resetting := false })]
    tenants := [(0, { Tenant.reset with root2 := some 0x2000000 })] }

/-- What a translation answers, as a test of it. -/
def okWith {ε α : Type} (e : Except ε α) (p : α → Bool) : Bool := match e with | .ok a => p a | .error _ => false

theorem okWith_iff {ε α : Type} (e : Except ε α) (p : α → Bool) : okWith e p = true ↔ ∃ a, e = .ok a ∧ p a = true := by
  cases e <;> simp [okWith]

/-- The instruction is ready, and its accesses translate, with what follows. -/
abbrev Finding (op : Nat) (a : Args) (f : Crew → Crew) (g : State → State) (n : Nat) (wr load : Bool) (as : Ctx → List Acc)
    (pre : Ctx → State → Prop) (q : Ctx → State → List (Acc × Xl) → State → Bool) : Prop :=
  Meets op a f 0 g (fun x s => pre x s ∧ (x.c.pieces = [] ∧ x.scopeOk s = true ∧ ∀ b ∈ as x, b.va % n = 0 ∧ b.va < 2 ^ 56) ∧
    okWith ((x.start s).xlateAll x.core (s.partOf x.c) 2 wr load (as x)) (fun r => q x s r.1 r.2) = true)

/-- So there are the places and the state that the statements speak of. -/
theorem Finding.finds {op : Nat} {a : Args} {f : Crew → Crew} {g : State → State} {n : Nat} {wr load : Bool} {as : Ctx → List Acc}
    {pre : Ctx → State → Prop} {q : Ctx → State → List (Acc × Xl) → State → Bool} (h : Finding op a f g n wr load as pre q) :
    ∃ (x : Ctx) (s s' : State) (xs : List (Acc × Xl)), x.ready op s = true ∧ pre x s ∧ x.finds s n wr load (as x) xs s' ∧ q x s xs s' = true := by
  obtain ⟨hr, hp, ⟨h1, h2, h3⟩, ht⟩ := h
  obtain ⟨⟨xs, s'⟩, he, hq⟩ := (okWith_iff _ _).1 ht
  exact ⟨_, _, s', xs, hr, hp, ⟨⟨h1, h2, h3⟩, he⟩, hq⟩

def unhindered? (x : Ctx) (s' : State) (xs : List (Acc × Xl)) : Bool :=
  xs.all (fun e => !s'.lineStop x.k x.u (e.2.pa / 128) (s'.l1Hit x.core (e.2.pa / 128) false) x.h) && (!xs.any (fun e => e.2.kind == 1) || !s'.strongBusy x.c)

theorem strong_iff (xs : List (Acc × Xl)) (b : Bool) :
    (xs.any (fun e => e.2.kind == 1) = false ∨ b = false) ↔ ((∃ e ∈ xs, e.2.kind = 1) → b = false) := by
  by_cases h : ∃ e ∈ xs, e.2.kind = 1
  · have : xs.any (fun e => e.2.kind == 1) = true := by simpa using h
    simp [h, this]
  · have : xs.any (fun e => e.2.kind == 1) = false := by simpa using h
    simp [h, this]

theorem unhindered?_iff (x : Ctx) (s' : State) (xs : List (Acc × Xl)) : unhindered? x s' xs = true ↔ x.unhindered s' xs := by
  simp only [unhindered?, Ctx.unhindered, Bool.and_eq_true, List.all_eq_true, Bool.or_eq_true, Bool.not_eq_true', strong_iff]

def mayUpdate? (x : Ctx) (s' : State) (xs : List (Acc × Xl)) : Bool :=
  xs.all (fun e => s'.owns x.core (e.2.pa / 128) && !s'.lineHeld (e.2.pa / 128) (some x.k) && !s'.lineBusy x.c (e.2.pa / 128)) &&
    (s'.oldLine x.c).isNone && (!xs.any (fun e => e.2.kind == 1) || !s'.strongBusy x.c)

theorem mayUpdate?_iff (x : Ctx) (s' : State) (xs : List (Acc × Xl)) : mayUpdate? x s' xs = true ↔ x.mayUpdate s' xs := by
  simp only [mayUpdate?, Ctx.mayUpdate, Ctx.holds, Bool.and_eq_true, List.all_eq_true, Bool.or_eq_true, Bool.not_eq_true', strong_iff,
    Option.isNone_iff_eq_none, and_assoc]

/-- The L1 of core 0 owns the line at address 0. -/
def owning (s : State) : State := s.modCore 0 fun c => { c with l1 := [(0, .exclusive)] }

/-- A 16-byte element below the end of the mapped page, and a byte at its start. -/
theorem hyps_GlobalLoads :
    Finding 0xA0 { longFields (.v 4) (.s 2) .none .none with ctl := 6, imm := 0x3FFFFF0 } id mapped 16 false true Ctx.loadAccs
      (fun x _ => x.c.cap.mode = false) (fun x _ xs s' => unhindered? x s' xs) ∧
    Finding 0xA0 (longFields (.v 4) (.v 2) .none .none) id mapped 1 false true Ctx.loadAccs (fun x _ => x.c.cap.mode = false)
      (fun x _ xs s' => unhindered? x s' xs) ∧
    Finding 0xA2 { longFields (.s 4) (.s 2) .none .none with ctl := 4, scope := 3 } id mapped 4 false true Ctx.loadAccs
      (fun x _ => x.c.cap.mode = false) (fun x _ xs s' => unhindered? x s' xs) ∧
    Finding 0xB8 { longFields (.v 4) (.s 2) .none .none with ctl := 6 } id mapped 16 false true
      (fun x => x.active.map fun l => ⟨l, (x.dword x.a.in0 true 0 + x.a.imm.signExtend 64 + BitVec.ofNat 64 (l * sizeBytes x.a.size)).toNat⟩)
      (fun x _ => x.c.cap.mode = false) (fun x _ xs s' => unhindered? x s' xs) ∧
    Finding 0xA4 { longFields (.s 4) (.s 2) .none .none with ctl := 4 } id (fun s => (mapped s).modCore 0 fun c => { c with
        ccache := [{ launch := 1, vline := 0, bytes := List.replicate 128 7 }] }) 4 false true Ctx.loadAccs (fun _ _ => True)
      (fun x _ xs s' => decide (xs.length = 1) && xs.all fun e => (s'.core x.core).constLine x.c.launch (e.1.va / 128) ==
        some { launch := 1, vline := 0, bytes := List.replicate 128 7 }) ∧
    Finding 0xA4 { longFields (.s 4) (.s 2) .none .none with ctl := 4, imm := 124 } id mapped 4 false true Ctx.loadAccs (fun _ _ => True)
      (fun x _ xs s' => decide (xs.length = 1) && xs.all fun e => (s'.core x.core).constLine x.c.launch (e.1.va / 128) == none &&
        !s'.lineStop x.k x.u (e.2.pa / 128) (s'.l1Hit x.core (e.2.pa / 128) false) x.h && e.2.pa % 128 == e.1.va % 128) := by
  and_intros <;> decide +kernel

def entry0 : StoreEntry := { line := 0, key := 0, kind := 0, scope := 0, rel := false, bytes := [(0, 1)], ids := [], old := false }

theorem hyps_Stores :
    Finding 0xA1 { longFields .none (.s 2) (.s 4) .none with ctl := 4 } (fun c => { c with sbuf := List.replicate 15 entry0 }) mapped 4 true false
      (fun x => x.accs (x.a.in0.isVec || x.a.in1.isVec)) (fun x _ => x.c.cap.mode = false ∧ x.c.sbuf.length < 16)
      (fun _ _ xs _ => xs.all fun e => e.2.pa % 4 == 0) ∧
    Finding 0xA3 { longFields .none (.v 2) (.v 4) .none with ctl := 4, scope := 1 } id mapped 4 true false
      (fun x => x.accs (x.a.in0.isVec || x.a.in1.isVec)) (fun x _ => x.c.cap.mode = false ∧ x.c.sbuf.length < 16)
      (fun _ _ xs _ => xs.all fun e => e.2.pa % 4 == 0) := by
  and_intros <;> decide +kernel

theorem hyps_MemoryTrapsAndStalls_stalls :
    (∀ p ∈ [0xA1, 0xA3], Meets p (longFields .none (.s 2) (.s 4) .none) (fun c => { c with sbuf := List.replicate 16 entry0 }) 0 id (fun x _ =>
      x.c.cap.mode = false ∧ 16 ≤ x.c.sbuf.length)) ∧
    (∀ p ∈ [(0xA0, longFields (.s 4) (.s 2) .none .none), (0xA1, longFields .none (.s 2) (.s 4) .none), (0xA2, longFields (.s 4) (.s 2) .none .none),
        (0xA3, longFields .none (.s 2) (.s 4) .none), (0xA4, longFields (.s 4) (.s 2) .none .none), (0xA5, longFields .none (.v 2) .none .none),
        (0xAC, longFields (.s 4) (.s 2) (.s 4) .none), (0xAD, longFields (.s 4) (.s 2) (.s 6) (.s 8)), (0xAE, longFields (.s 4) (.s 2) (.s 6) .none),
        (0xAF, longFields .none (.s 2) (.s 6) .none), (0xB0, longFields .none (.s 2) (.s 6) .none), (0xB1, longFields .none .none .none .none),
        (0xB2, longFields .none .none .none .none), (0xB3, longFields .none (.s 2) .none (.s 6)), (0xB6, longFields .none (.v 2) .none .none),
        (0xB7, longFields .none (.v 2) .none .none), (0xB8, { longFields (.v 4) (.s 2) .none .none with ctl := 4 })],
      Meets p.1 p.2 (fun c => { c with pieces := [entry0] }) 0 id (fun x _ => x.c.cap.mode = false ∧ x.c.pieces ≠ [])) := by
  and_intros <;> decide +kernel

/-- What AccessTraps asks: a scope not granted, a lane off its boundary, an address at the end of the range. -/
abbrev TrapsMet (op : Nat) (a : Args) (off : BitVec 32) (as : Ctx → List Acc) (n : Nat) (pre : Ctx → Prop) : Prop :=
  Meets op { a with scope := 6 } id 0 id (fun x s => pre x ∧ x.c.pieces = [] ∧ x.scopeOk s = false) ∧
  Meets op { a with imm := off } id 0 id (fun x s => pre x ∧ x.c.pieces = [] ∧ x.scopeOk s = true ∧
    ((as x).find? (fun b => b.va % n != 0)).isSome = true) ∧
  Meets op a (sRegs [(3, 0x1000000)]) 0 id (fun x s => pre x ∧ x.c.pieces = [] ∧ x.scopeOk s = true ∧ (∀ b ∈ as x, b.va % n = 0) ∧
    (as x).find? (fun b => decide (2 ^ 56 ≤ b.va)) = some ⟨0x7F, 2 ^ 56⟩)

theorem hyps_MemoryTrapsAndStalls_traps :
    (∀ p ∈ [0xA0, 0xA2, 0xA4], TrapsMet p { longFields (.s 4) (.s 2) .none .none with ctl := 4 } 1 Ctx.loadAccs 4 (fun x => x.c.cap.mode = false)) ∧
    (∀ p ∈ [0xA1, 0xA3], TrapsMet p { longFields .none (.s 2) (.s 4) .none with ctl := 4 } 1 (fun x => x.accs (x.a.in0.isVec || x.a.in1.isVec)) 4
      (fun x => x.c.cap.mode = false ∧ x.c.sbuf.length < 16)) ∧
    (∀ p ∈ [(0xAC, longFields (.s 4) (.s 2) (.s 6) .none), (0xAD, longFields (.s 4) (.s 2) (.s 6) (.s 8)), (0xAE, longFields (.s 4) (.s 2) (.s 6) .none),
        (0xAF, longFields .none (.s 2) (.s 6) .none), (0xB0, longFields .none (.s 2) (.s 6) .none)],
      TrapsMet p.1 p.2 2 (fun x => x.accs (isVector p.1 x.a)) 4 (fun _ => True)) ∧
    TrapsMet 0xB3 (longFields .none (.s 2) .none (.s 6)) 2 (fun x => [⟨0x7F, x.addr 0⟩]) 4 (fun _ => True) ∧
    Meets 0xB8 { longFields (.v 4) (.s 2) .none .none with ctl := 4, imm := 1 } id 0 id (fun x s => x.c.pieces = [] ∧ x.scopeOk s = true ∧
      x.laneAfterLane.find? (fun b => b.va % 4 != 0) = some ⟨0, 1⟩) ∧
    Meets 0xB8 { longFields (.v 4) (.s 2) .none .none with ctl := 4 } (sRegs [(2, 0xFFFFFFFC), (3, 0xFFFFFF)]) 0 id (fun x s => x.c.pieces = [] ∧
      x.scopeOk s = true ∧ (∀ b ∈ x.laneAfterLane, b.va % 4 = 0) ∧ x.laneAfterLane.find? (fun b => decide (2 ^ 56 ≤ b.va)) = some ⟨1, 2 ^ 56⟩) ∧
    Meets 0xAC (longFields (.v 6) (.v 2) (.v 8) .none) (oddLanes 2) 0 id (fun x s => x.c.pieces = [] ∧
      x.scopeOk s = true ∧ (x.accs (isVector 0xAC x.a)).find? (fun b => b.va % x.atomSize != 0) = some ⟨1, 1⟩) := by
  and_intros <;> decide +kernel

/-- Atomics of each kind, with a release that nothing holds up; one read-modify-write on a frame that its key owns. -/
theorem hyps_GlobalAtomics :
    (∀ p ∈ [(0xAC, { longFields (.s 4) (.s 2) (.s 6) .none with ctl := 0x38 }), (0xAD, { longFields (.s 4) (.s 2) (.s 6) (.s 8) with ctl := 0x10 }),
        (0xAF, { longFields .none (.s 2) (.s 6) .none with ctl := 0x30 })],
      Finding p.1 p.2 id (fun s => owning (mapped s)) 8 true true (fun x => x.accs (isVector p.1 x.a)) (fun x _ => x.atomSize = 8) (fun x _ xs s' => mayUpdate? x s' xs && s'.released x.k x.c x.a.scope.toNat false false false)) ∧
    (∀ p ∈ [(0xAC, longFields (.v 4) (.v 2) (.v 6) .none), (0xAE, longFields (.v 4) (.v 2) (.v 6) .none),
        (0xB0, longFields .none (.v 2) (.v 6) .none)],
      Finding p.1 p.2 id (fun s => owning (mapped s)) 4 true true (fun x => x.accs (isVector p.1 x.a)) (fun _ _ => True) (fun x _ xs s' => mayUpdate? x s' xs)) ∧
    (∀ p ∈ [(0xAC, longFields (.s 4) (.s 2) (.s 6) .none), (0xAD, longFields (.s 4) (.s 2) (.s 6) (.s 8)),
        (0xAE, longFields (.s 4) (.s 2) (.s 6) .none), (0xAF, longFields .none (.s 2) (.s 6) .none), (0xB0, longFields .none (.s 2) (.s 6) .none)],
      Finding p.1 p.2 id mapped 4 true true (fun x => x.accs (isVector p.1 x.a)) (fun _ _ => True) (fun x _ xs s' =>
        xs.all (fun e => !s'.lineBusy x.c (e.2.pa / 128)) && (s'.oldLine x.c).isNone && !s'.strongBusy x.c &&
        decide ((linesOf xs).find? (fun e => !s'.owns x.core e.1) = some (0, 0)))) ∧
    (mapped base).keyed 0 0x2000000 = true ∧ 0x2000000 % 8 = 0 ∧ (mapped base).guarded (0x2000000 / 128) = false := by
  and_intros <;> decide +kernel

theorem hyps_FencesAndWaits :
    (∀ op ∈ [0xB1, 0xB2], Meets op { longFields .none .none .none .none with scope := 3 } id 0 id (fun x s => x.c.pieces = [] ∧ x.scopeOk s = true ∧
      x.a.ctl.toNat % 4 ≠ 2 ∧ x.a.scope ≠ 0 ∧ s.storesDone x.c x.a.scope.toNat (op == 0xB2) = true ∧
      s.scratchBusy x.k false (decide (2 ≤ x.a.scope.toNat)) = false ∧ s.scratchBusy x.k true (decide (2 ≤ x.a.scope.toNat)) = false)) ∧
    (∀ op ∈ [0xB1, 0xB2], Meets op { longFields .none .none .none .none with scope := 1 } (fun c => { c with sbuf := [{ entry0 with scope := 1 }] }) 0 id
      (fun x s => x.c.pieces = [] ∧ x.scopeOk s = true ∧ x.a.ctl.toNat % 4 ≠ 2 ∧ x.a.scope ≠ 0 ∧
        s.storesDone x.c x.a.scope.toNat (op == 0xB2) = false)) ∧
    (∀ op ∈ [0xB1, 0xB2], Meets op { longFields .none .none .none .none with scope := 2, ctl := 2 } id 0 id (fun x s => x.c.pieces = [] ∧
      x.scopeOk s = true ∧ x.a.ctl.toNat % 4 = 2 ∧ s.scratchBusy x.k true (decide (2 ≤ x.a.scope.toNat)) = false ∧
      s.scratchBusy x.k false (decide (2 ≤ x.a.scope.toNat)) = false)) ∧
    Finding 0xB3 { longFields (.s 4) (.s 2) .none (.s 6) with ctl := 1 } id mapped 4 false true (fun x => [⟨0x7F, x.addr 0⟩])
      (fun x _ => x.a.ctl.getLsbD 1 = false) (fun x _ xs s' => unhindered? x s' xs && xs.all fun e =>
        decide (wordOf (leNat (s'.loadBytes x.c e.2.key e.2.pa 4)) = x.word x.a.in2 0 ↔ x.a.ctl.getLsbD 0 = true)) ∧
    Finding 0xB3 (longFields .none (.s 2) .none (.s 6)) id mapped 4 false true (fun x => [⟨0x7F, x.addr 0⟩])
      (fun x _ => x.a.ctl.getLsbD 1 = false) (fun x _ xs s' => unhindered? x s' xs && decide ((s'.core x.core).watches < 64) && xs.all fun e =>
        decide ¬ (wordOf (leNat (s'.loadBytes x.c e.2.key e.2.pa 4)) = x.word x.a.in2 0 ↔ x.a.ctl.getLsbD 0 = true)) ∧
    Finding 0xB3 (longFields .none (.s 2) .none (.s 6)) id (fun s => (mapped s).modCore 0 fun c => { c with watches := 64 }) 4 false true
      (fun x => [⟨0x7F, x.addr 0⟩]) (fun x _ => x.a.ctl.getLsbD 1 = false) (fun x _ xs s' => unhindered? x s' xs &&
        decide (64 ≤ (s'.core x.core).watches) && xs.all fun e =>
        decide ¬ (wordOf (leNat (s'.loadBytes x.c e.2.key e.2.pa 4)) = x.word x.a.in2 0 ↔ x.a.ctl.getLsbD 0 = true)) ∧
    Finding 0xB3 { longFields .none (.s 2) (.s 4) (.s 6) with ctl := 2, aux := 5 } id (fun s => counter0 0 (mapped s)) 4 false true
      (fun x => [⟨0x7F, x.addr 0⟩]) (fun x s => x.a.ctl.getLsbD 1 = true ∧
        (s.core x.core).counters.get? x.a.aux.toNat = some { bytes := false, owner := 0, epoch := 0, target := 1, count := 0 } ∧ 0 = s.bslotOf x.k ∧
        reached 0 ((x.word x.a.in1 0).toNat % 65536) = true) (fun x _ xs s' => unhindered? x s' xs) := by
  and_intros <;> decide +kernel

theorem hyps_CachesAndMemory_ops :
    Meets 0xA5 { longFields .none (.v 2) .none .none with ctl := 1 } id 0 mapped (fun x s => x.c.pieces = [] ∧ x.scopeOk s = true ∧
      let r := x.quietLines (x.start s) (isVector 0xA5 x.a)
      r.1 ≠ [] ∧ ∀ e ∈ r.1, (r.2.l2.filter fun y => sameSet y.1 (e.pa / 128)).length + r.1.length ≤ 96) ∧
    Meets 0xA5 { longFields .none (.s 2) .none .none with ctl := 1 } id 0 mapped (fun x s => x.c.pieces = [] ∧ x.scopeOk s = true ∧
      let r := x.quietLines (x.start s) (isVector 0xA5 x.a)
      r.1 ≠ [] ∧ ∀ e ∈ r.1, (r.2.l2.filter fun y => sameSet y.1 (e.pa / 128)).length + r.1.length ≤ 16) ∧
    Meets 0xB6 { longFields .none (.s 2) .none .none with ctl := 1 } id 0 mapped (fun x s => x.c.pieces = [] ∧
      let r := x.quietLines (x.start s) (isVector 0xB6 x.a)
      r.1 ≠ [] ∧ ∀ e ∈ r.1, r.2.lineHeld (e.pa / 128) (some x.k) = false) ∧
    Meets 0xB6 { longFields .none (.s 2) .none .none with ctl := 1 } id 0 (fun s => { mapped s with dir := [(0, { Line.reset with locked := true })] })
      (fun x s => x.c.pieces = [] ∧ let r := x.quietLines (x.start s) (isVector 0xB6 x.a)
        (r.1.map fun e => e.pa / 128).find? (fun n => r.2.lineHeld n (some x.k)) = some 0) ∧
    Meets 0xB7 { longFields .none .none .none .none with ctl := 1 } id 0 mapped (fun x s => x.c.pieces = [] ∧ (∀ r ∈ x.c.out, r.ldc = false) ∧ (s.launches.get? x.c.launch).isSome = true) ∧
    Meets 0xB7 (longFields .none (.v 2) .none .none) id 0 mapped (fun x s => x.c.pieces = [] ∧ (∀ r ∈ x.c.out, r.ldc = false) ∧ (s.launches.get? x.c.launch).isSome = true) ∧
    Meets 0xB7 { longFields .none .none .none .none with ctl := 1 } (fun c => { c with out := [{ result0 with ldc := true }] }) 0 id (fun x _ =>
      x.c.pieces = [] ∧ ∃ r ∈ x.c.out, r.ldc = true) := by
  and_intros <;> decide +kernel

/-! ### Translation: both stages, a fault of each, a denial of each, and a TLB entry -/

/-- A walk, computed, where each entry can be read. -/
def walkTo (read : Nat → Option Nat) (stage va : Nat) : List (Nat × Nat × Nat × Option Nat) → Nat → Grants → Option (Except XlFault Found)
  | [], _, _ => none
  | (n, lo, width, below) :: rest, table, g =>
    let place := table + 8 * bits va lo width
    (read place).bind fun e =>
      let leaf : Bool := bits e 1 1 == 1 && n != 0 && (bits e 8 40 * 256) % 2 ^ lo == 0 && (stage != 1 || bits e 54 6 == 0)
      let next : Bool := bits e 1 1 == 0 && below.any (fun b => (bits e 8 40 * 256) % b == 0) && bits e 54 6 == 0 && bits e 4 2 == 0
      if bits e 0 1 = 0 then some (.error ⟨.notValid, stage, n⟩)
      else if bits e 60 4 ≠ 0 ∨ bits e 48 6 ≠ 0 then none
      else if leaf then some (.ok ⟨bits e 8 40 * 256 + va % 2 ^ lo, n, place, e, g.under n e⟩)
      else if next then walkTo read stage va rest (bits e 8 40 * 256) (g.under n e)
      else none

theorem walkTo_sound {read : Nat → Option Nat} {P : Nat → Nat → Prop} (hp : ∀ a e, read a = some e → P a e) (stage va : Nat) :
    ∀ (ls : List (Nat × Nat × Nat × Option Nat)) (table : Nat) (g : Grants) (r : Except XlFault Found),
      walkTo read stage va ls table g = some r → Walked P stage va ls table g r
  | [], _, _, _, h => by simp [walkTo] at h
  | (n, lo, width, below) :: rest, table, g, r, h => by
    obtain ⟨e, he, h⟩ := Option.bind_eq_some_iff.1 h
    refine ⟨e, hp _ _ he, ?_⟩
    have bit (i : Nat) : bits e i 1 = 0 ∨ bits e i 1 = 1 := by unfold bits; omega
    split at h
    · exact .inl ⟨‹_›, (Option.some.inj h).symm⟩
    have hv := (bit 0).resolve_left ‹_›
    simp only [] at h
    split at h
    · simp at h
    rename_i hz
    have hz : bits e 60 4 = 0 ∧ bits e 48 6 = 0 := by omega
    split at h
    · rename_i hl
      simp only [Bool.and_eq_true, Bool.or_eq_true, beq_iff_eq, bne_iff_ne] at hl
      obtain ⟨⟨⟨l1, l2⟩, l3⟩, l4⟩ := hl
      exact .inr (.inr (.inl ⟨hv, ⟨hz.1, hz.2, fun _ => ⟨l2, l3, fun h => l4.resolve_left (by simp [h])⟩, fun h => by omega⟩, l1, (Option.some.inj h).symm⟩))
    · split at h
      · rename_i hn
        simp only [Bool.and_eq_true, beq_iff_eq, Option.any_eq_true] at hn
        obtain ⟨⟨⟨n1, n2⟩, n3⟩, n4⟩ := hn
        exact .inr (.inr (.inr ⟨hv, ⟨hz.1, hz.2, fun h => by omega, fun _ => ⟨n2, n3, n4⟩⟩, n1, walkTo_sound hp stage va rest _ _ _ h⟩))
      · simp at h

def State.entryAt (s : State) (key pa : Nat) : Option Nat :=
  if s.backed pa && !s.poisoned key pa && !s.lineHeld (pa / 128) none then some (leNat (s.readBytes key pa 8)) else none

theorem State.entryAt_is {s : State} {key pa e : Nat} (h : s.entryAt key pa = some e) : s.entryIs key pa e := by
  unfold State.entryAt at h
  split at h
  · rename_i k
    simp only [Bool.and_eq_true, Bool.not_eq_true'] at k
    injection h with h
    subst h
    exact ⟨k.1.1, k.1.2, k.2, rfl⟩
  · simp at h

def State.walk2 (s : State) (tenant ia : Nat) : Option (Except XlFault Found) :=
  (s.tenant tenant).root2.bind fun root => walkTo (fun a => s.entryAt (s.ownKey a) a) 2 ia (levelsOf 2) root allGranted

theorem State.walk2_stage2 {s : State} {tenant ia : Nat} {r : Except XlFault Found} (h : s.walk2 tenant ia = some r) : s.stage2 tenant ia r := by
  obtain ⟨root, hr, h⟩ := Option.bind_eq_some_iff.1 h
  exact ⟨root, hr, walkTo_sound (P := fun a e => s.entryIs (s.ownKey a) a e) (fun _ _ h => State.entryAt_is h) 2 ia (levelsOf 2) root allGranted r h⟩

def State.walk1 (s : State) (x : Part) (va : Nat) : Option (Except XlFault Found) :=
  x.root1.bind fun root => walkTo (fun a => (s.walk2 x.tenant a).bind fun r => match r with
    | .ok f => s.entryAt (bits f.leaf 54 6) f.out
    | .error _ => none) 1 va (levelsOf 1) root allGranted

theorem State.walk1_stage1 {s : State} {x : Part} {va : Nat} {r : Except XlFault Found} (h : s.walk1 x va = some r) : s.stage1 x va r := by
  obtain ⟨root, hr, h⟩ := Option.bind_eq_some_iff.1 h
  refine ⟨root, hr, walkTo_sound (fun a e h => ?_) _ _ _ _ _ _ h⟩
  obtain ⟨f, hf, h⟩ := Option.bind_eq_some_iff.1 h
  cases f with
  | ok f => exact ⟨f, State.walk2_stage2 hf, State.entryAt_is h⟩
  | error _ => simp at h

/-- The memory of the tests with the second entry of stage 1 and of stage 2, of which the low byte is given. -/
def paged (e1 e2 : Byte) : State :=
  { mapped base with mem := [(0x2000000, 0x0D), (0x2000002, 0x04), (0x2000003, 0x02), (0x2040000, e2), (0x2080000, 0x0D), (0x2080002, 0x0C),
      (0x2080003, 0x02), (0x20C0000, e1)] }
def part0 : Part := { tenant := 0, clusters := 1, root1 := some 0x2080000, power := 0, resetting := false }

/-- A state, an address and what each stage finds there. -/
abbrev TwoStages (s : State) (va : Nat) (p : Found → Found → Bool) : Prop :=
  s.part? 0 = some part0 ∧ s.tlb = [] ∧ s.walks = [] ∧ (s.walk1 part0 va).any (fun r => okWith r fun f =>
    (s.walk2 0 f.out).any fun r => okWith r fun g => p f g) = true

theorem TwoStages.stages {s : State} {va : Nat} {p : Found → Found → Bool} (h : TwoStages s va p) :
    ∃ f g, s.part? 0 = some part0 ∧ s.coldFor 0 0 va ∧ s.stage1 part0 va (.ok f) ∧ s.stage2 part0.tenant f.out (.ok g) ∧ p f g = true := by
  obtain ⟨hp, ht, hw, h⟩ := h
  obtain ⟨r, hr, h⟩ := Option.any_eq_true _ _ |>.1 h
  obtain ⟨f, rfl, h⟩ := (okWith_iff _ _).1 h
  obtain ⟨r, hr2, h⟩ := Option.any_eq_true _ _ |>.1 h
  obtain ⟨g, rfl, h⟩ := (okWith_iff _ _).1 h
  exact ⟨f, g, hp, ⟨by simp [ht], by simp [hw]⟩, State.walk1_stage1 hr, State.walk2_stage2 hr2, h⟩

/-- The last byte of the page, with its flag bits set and not set; attributes 3 in each leaf; a write and a fetch that each stage denies;
and an address whose stage-1 entry is not valid. -/
theorem hyps_CachesAndMemory_translation :
    (∀ e1 ∈ [0xCF, 0x0F], TwoStages (paged e1 0xCF) 0x3FFFFFF fun f g => bits f.leaf 4 2 != 3 && bits g.leaf 4 2 != 3 && f.grants.w && g.grants.w &&
      f.grants.x && g.grants.x && (paged e1 0xCF).backed g.out && !(paged e1 0xCF).guarded (g.place / 128) &&
      ((paged e1 0xCF).walk2 0 f.place).any fun r => okWith r fun h => h.grants.w) ∧
    TwoStages (paged 0xFF 0xCF) 0 (fun f _ => bits f.leaf 4 2 == 3) ∧
    TwoStages (paged 0xCB 0xCF) 0 (fun f g => bits f.leaf 4 2 != 3 && bits g.leaf 4 2 != 3 && !f.grants.w) ∧
    TwoStages (paged 0xC7 0xCF) 0 (fun f g => bits f.leaf 4 2 != 3 && bits g.leaf 4 2 != 3 && !f.grants.x) ∧
    TwoStages (paged 0xCF 0xCB) 0 (fun f g => bits f.leaf 4 2 != 3 && bits g.leaf 4 2 != 3 && f.grants.w && !g.grants.w) ∧
    TwoStages (paged 0xCF 0xC7) 0 (fun f g => bits f.leaf 4 2 != 3 && bits g.leaf 4 2 != 3 && f.grants.x && !g.grants.x) ∧
    TwoStages (paged 0x0F 0xCB) 0 (fun f g => bits f.leaf 4 2 != 3 && bits g.leaf 4 2 != 3 && f.grants.x && g.grants.x && bits f.leaf 6 1 == 0 &&
      ((paged 0x0F 0xCB).walk2 0 f.place).any fun r => okWith r fun h => !h.grants.w) ∧
    ((paged 0xCE 0xCF).walk1 part0 0).any (fun r => match r with
      | .ok _ => false
      | .error e => decide (e = ⟨.notValid, 1, 1⟩)) = true ∧
    ((paged 0xCF 0xCF).walk2 0 (2 ^ 41)).any (fun r => match r with
      | .ok _ => false
      | .error e => decide (e = ⟨.notValid, 2, 0⟩)) = true ∧
    (paged 0xCF 0xCF).part? 1 = none := by
  refine ⟨?_, ?_, ?_, ?_, ?_, ?_, ?_, ?_, ?_, ?_⟩ <;> decide +kernel

/-- A TLB entry of the core, alone, for a page that is present. -/
theorem hyps_CachesAndMemory_tlb :
    let t : Tlb := { place := 0, tenant := 0, part := 0, vbase := 0, bits := 15, pbase := 0, key := 0, kind := 0, w := true, x := true, d := true }
    (tlbPlaces 0).contains t.place = true ∧ t.covers 0 0x7FFF = true ∧ (mapped base).backed (t.pbase + (0x7FFF - t.vbase)) = true ∧
      (mapped base).poison.contains ((t.pbase + (0x7FFF - t.vbase)) / 128) = false := by decide +kernel

/-- A launch that traces into two records at 0x3000, the first so many of them written and none read. -/
def tracing0 (n : Nat) (s : State) : State :=
  { mapped s with
    launches := [(1, { placedLaunch with trace := true, tset := true, tbase := 0x3000, tlen := 96 })]
    mem := (mapped s).mem.storeBytes 0x3000 (leBytes 8 n) }

theorem hyps_ControlState_tracing :
    (∀ n ∈ [0, 1, 2], Meets 0x1A (fields .none (.s 2) .none .none) id 0 (tracing0 n) (fun x s =>
      let l := { placedLaunch with trace := true, tset := true, tbase := 0x3000, tlen := 96 }
      x.launchOf s = some l ∧ s.traces = [] ∧
      okWith ((x.start s).vread l.part l.tbase.toNat 24) (fun r => writtenOf r.1 == n && droppedOf r.1 == 0 &&
        (decide ((writtenOf r.1 + 2 ^ 64 - leNat (r.1.drop 16)) % 2 ^ 64 < (l.tlen - 64) / 16) == decide (n < 2)) &&
        (let found (s : State) (va : Nat) : Bool := okWith ({ s with heads := [] }.devXlate l.part va true false) fun p =>
            p.1.pa == va && p.2.keyed p.1.key p.1.pa && !inRings (p.1.pa / 128 * 128)
          if n = 2 then found r.2 (l.tbase.toNat + 8)
          else found r.2 (nextRecord l r.1) && okWith (r.2.traceWrite l.part (nextRecord l r.1) (List.replicate 16 1)) fun s => found s l.tbase.toNat)) =
        true)) := by
  decide +kernel

/-- While a lease holds the line of the header, the record waits. -/
theorem hyps_ControlState_traceWaits :
    Meets 0x1A (fields .none (.s 2) .none .none) (fun c => { c with leases := [⟨0x60, 0x60, 100, false, 0⟩] }) 0 (tracing0 0) (fun x s =>
      x.launchOf s = some { placedLaunch with trace := true, tset := true, tbase := 0x3000, tlen := 96 } ∧ s.traces = [] ∧
      (match (x.start s).vread 0 0x3000 24 with | .error (.waits _) => true | _ => false) = true) := by
  decide +kernel
/-! ## Witnesses: scratchpad, tiles, events, groups -/

/-- The block of the crew, and a block of its launch on core 3 in block slot 1. -/
def block0 : Block :=
  { launch := 1, number := 0, bench := 0, chute := false, base := 0, size := 1024, mem := [], wbase := 0, wlines := 1, wtab := []
    w0 := [], w1 := [], placed := 0, crews := [0], idleSince := none, strategy := 0, limit := 0 }
def withPeer (s : State) : State := { s with blocks := s.blocks.put 49 { block0 with number := 1, crews := [] } }

/-- Every served lane names that block. -/
abbrev Ctx.reaches (x : Ctx) (s : State) (op n core : Nat) (b : Block) : Prop :=
  ∀ l ∈ x.served (isVector op x.a), x.offsetOf (laneOfServed l) % n = 0 ∧ windowFieldsOk (x.offsetOf (laneOfServed l)) = true ∧
    (windowPlace x.core (x.offsetOf (laneOfServed l))).core = core ∧
    s.blocks.get? (blockKey core (windowPlace x.core (x.offsetOf (laneOfServed l))).bslot) = some b ∧ b.launch = x.c.launch ∧
    field (x.offsetOf (laneOfServed l)) 19 0 + n ≤ b.size

theorem Ctx.reaches.fits {x : Ctx} {s : State} {op n core : Nat} {b : Block} (h : x.reaches s op n core b) : x.fitsPeer s op n core :=
  fun l hl => let ⟨h1, h2, h3, h4, h5, h6⟩ := h l hl; ⟨h1, h2, h3, b, h4, h5, h6⟩

/-- Whole vectors at one offset, and a scalar-shaped access that ends with the allocation. -/
theorem hyps_ScratchpadAndTiles_ScratchpadAccess :
    (∀ p ∈ [(0xA6, longFields (.v 4) (.v 2) .none .none), (0xA6, { longFields (.s 4) .none .none .none with ctl := 6, imm := 1008 }),
        (0xA7, longFields .none (.v 2) (.v 4) .none), (0xA7, { longFields .none (.s 2) (.s 4) .none with ctl := 6, imm := 1008 })],
      Meets p.1 p.2 id 0 id (fun x s => x.c.pieces = [] ∧ s.softErrors = [] ∧ x.fits s p.1 (sizeBytes x.a.size) ∧
        x.served (isVector p.1 x.a) ≠ [])) ∧
    (∀ p ∈ [(0xAA, longFields (.v 4) (.v 2) (.v 6) .none), (0xAA, { longFields .none (.s 2) (.s 6) .none with imm := 1020 }),
        (0xAB, longFields (.v 4) (.v 2) (.v 6) (.v 8)), (0xAB, { longFields (.s 4) (.s 2) (.s 6) (.s 8) with imm := 1020 })],
      Meets p.1 p.2 id 0 id (fun x s => x.c.pieces = [] ∧ s.softErrors = [] ∧ x.a.ctl.getLsbD 4 = false ∧ x.fits s p.1 4 ∧
        x.served (isVector p.1 x.a) ≠ [])) := by
  unfold Ctx.fits; and_intros <;> decide +kernel

/-- Core 3, block slot 1, at the last word of the block; the own core; a vector. -/
theorem hyps_ScratchpadAndTiles_PeerAccess :
    (∀ p ∈ [(0xA8, longFields (.s 4) (.s 2) .none .none), (0xA9, longFields .none (.s 2) (.s 4) .none)],
      Meets p.1 { p.2 with ctl := 4, imm := 0x0C4003FC } id 0 withPeer (fun x s => x.c.pieces = [] ∧ s.softErrors = [] ∧
        x.reaches s p.1 (sizeBytes x.a.size) 3 { block0 with number := 1, crews := [] } ∧ x.served (isVector p.1 x.a) ≠ []) ∧
      Meets p.1 p.2 id 0 id (fun x s => x.c.pieces = [] ∧ s.softErrors = [] ∧ x.reaches s p.1 (sizeBytes x.a.size) 0 block0 ∧
        x.served (isVector p.1 x.a) ≠ [])) ∧
    (∀ p ∈ [(0xAA, longFields (.v 4) (.v 2) (.v 6) .none), (0xAB, longFields (.v 4) (.v 2) (.v 6) (.v 8))],
      Meets p.1 { p.2 with ctl := 0x10, imm := 0x0C4003FC } id 0 withPeer (fun x s => x.a.ctl.getLsbD 4 = true ∧ x.c.pieces = [] ∧
        s.softErrors = [] ∧ x.reaches s p.1 4 3 { block0 with number := 1, crews := [] } ∧ x.served (isVector p.1 x.a) ≠ [])) := by
  and_intros <;> decide +kernel

/-- A store of two lanes over one another, and a load, at the port of core 0. -/
def access0 : SpAccess :=
  { crew := 0, unit := 0, peer := false, op := .store, size := 4, result := none, tok := none, serial := 0, since := 0
    lanes := [⟨0, 0, 8, [1, 2, 3, 4], 0⟩, ⟨1, 0, 8, [5, 6, 7, 8], 0⟩] }
def atPort (a : SpAccess) (s : State) : State := { s with ck := 5 }.modCore 0 fun c => { c with port := [(1, [a])], portPtr := 4 }
def load0 : SpAccess := { access0 with op := .load, result := some 7, lanes := [⟨0x7F, 0, 1020, [], 0⟩] }
def awaiting (c : Crew) : Crew :=
  { c with out := [{ result0 with id := 7, parts := 1, writes := [{ reg := .s 4, mask := 1, vals := [0] }] }] }

theorem hyps_LanePort :
    (∀ a ∈ [access0, { access0 with op := .atom 0 }, { access0 with op := .cas, tok := some 7 }], Turn 0 1 a [] (atPort a base) ∧ a.result = none ∧
      ((atPort a base).crews.get? a.crew).isSome = true) ∧
    (∀ a ∈ [load0, { load0 with op := .atom 9, lanes := [⟨95, 0, 1020, [0, 0, 0x80, 0x3F], 0⟩] }], Turn 0 1 a [] (stateOf awaiting 0 (atPort a)) ∧
      a.result = some 7 ∧ (stateOf awaiting 0 (atPort a)).crews.get? a.crew = some (awaiting crew0) ∧
      (awaiting crew0).out[0]?.map (fun r => (r.id, r.writes.length)) = some (7, 1)) ∧
    ((atPort access0 base).core 0).portNext ≠ some 4 ∧
    ({ (atPort access0 base).core 0 with portFree := 6 }).portReady 1 5 = false := by
  unfold Turn; and_intros <;> decide +kernel

/-- The lowest misaligned lane, and the first element beyond the end. -/
theorem hyps_ScratchpadStops_ScratchpadTraps :
    ∀ p ∈ [(0xA6, longFields (.v 4) (.v 2) .none .none), (0xA7, longFields .none (.v 2) (.v 4) .none)],
      Meets p.1 { p.2 with ctl := 4, imm := 4 } (oddLanes 2) 0 id (fun x _ => x.c.pieces = [] ∧
        (x.served (isVector p.1 x.a)).find? (fun l => x.offsetOf (laneOfServed l) % sizeBytes x.a.size != 0) = some 1) ∧
      Meets p.1 { p.2 with ctl := 4, imm := 1024 } id 0 id (fun x s => x.c.pieces = [] ∧
        (∀ l ∈ x.served (isVector p.1 x.a), x.offsetOf (laneOfServed l) % sizeBytes x.a.size = 0) ∧
        (x.served (isVector p.1 x.a)).find? (fun l => decide (x.allocation s < x.offsetOf (laneOfServed l) + sizeBytes x.a.size)) = some 0) := by
  decide +kernel

/-- Entry e of core 0: one KiB of the crew's block in a state. -/
def entryIn (st owner : Nat) (chute : Bool) : TileEntry :=
  { chute := chute, late := false, owner := owner, state := st, size := 0, base := 0, expect := 1024, landed := 0 }
def tiled (e : Nat) (t : TileEntry) (s : State) : State := s.modCore 0 fun c => { c with tiles := [(e, t)] }

/-- The entry named directly at 511, and by a register. -/
theorem hyps_TileStates :
    Meets 0xBB { longFields .none (.s 2) .none .none with aux := 511 } (sRegs [(2, 1024)]) 0 (tiled 511 (entryIn 0 0 false)) (fun x s =>
      x.owns s (entryIn 0 0 false) ∧ (x.word x.a.in0 0).toNat ≤ 1024 * ((entryIn 0 0 false).size + 1)) ∧
    Meets 0xBB { longFields .none (.s 2) .none (.s 4) with ctl := 0x100 } (sRegs [(4, 5)]) 0 (tiled 5 (entryIn 0 0 false)) (fun x s =>
      x.owns s (entryIn 0 0 false) ∧ x.word x.a.in0 0 = 0) ∧
    Meets 0xBC { longFields .none .none .none .none with aux := 511 } id 0 (tiled 511 (entryIn 1 0 false)) (fun x s =>
      x.owns s (entryIn 1 0 false) ∧ s.scratchBusy x.k false false = false) ∧
    Meets 0xBD { longFields .none .none .none .none with aux := 511 } id 0 (tiled 511 (entryIn 2 0 false)) (fun x s =>
      x.owns s (entryIn 2 0 false) ∧ s.entryBusy x.core x.tileNamed = false) ∧
    Meets 0xBE { longFields .none .none .none .none with aux := 511 } id 0 (tiled 511 (entryIn 3 0 false)) (fun x s =>
      x.owns s (entryIn 3 0 false) ∧ s.entryBusy x.core x.tileNamed = false ∧ s.scratchBusy x.k true false = false) ∧
    (∀ g ∈ [id, tiled 5 (entryIn 0 0 false)], Meets 0xBF { longFields .none (.s 2) (.s 4) .none with aux := 5 } (sRegs [(4, 1024)]) 0 g (fun x s =>
      x.c.pieces = [] ∧ x.tileNamed ≤ 511 ∧ (∀ e ∈ s.tile? x.core x.tileNamed, e.chute = false ∧ e.owner = s.bslotOf x.k ∧ e.state = 0) ∧
      (x.word x.a.in0 0).toNat = 0 ∧ (x.word x.a.in1 0).toNat = 1024 ∧ 1024 ≤ x.allocation s)) := by
  unfold Ctx.owns; and_intros <;> decide +kernel

theorem hyps_ScratchpadStops_TileStallsAndTraps :
    ∀ p ∈ [(0xBB, .s 2, 1), (0xBC, Opnd.none, 0), (0xBD, .none, 3), (0xBE, .none, 0)],
      Meets p.1 { longFields .none p.2.1 .none .none with aux := 511 } id 0 (tiled 511 (entryIn p.2.2 0 false)) (fun x s =>
        x.owns s (entryIn p.2.2 0 false) ∧ (x.word x.a.in0 0).toNat ≤ 1024 * ((entryIn p.2.2 0 false).size + 1)) ∧
      Meets p.1 { longFields .none p.2.1 .none (.s 4) with ctl := 0x100 } (sRegs [(4, 512)]) 0 id (fun x _ => x.c.pieces = [] ∧ 511 < x.tileNamed) ∧
      Meets p.1 { longFields .none p.2.1 .none .none with aux := 511 } id 0 id (fun x s => x.c.pieces = [] ∧ x.tileNamed ≤ 511 ∧
        s.tile? x.core x.tileNamed = none) ∧
      (∀ e ∈ [entryIn 0 1 false, entryIn 0 0 true], Meets p.1 { longFields .none p.2.1 .none .none with aux := 511 } id 0 (tiled 511 e) (fun x s =>
        x.c.pieces = [] ∧ x.tileNamed ≤ 511 ∧ s.tile? x.core x.tileNamed = some e ∧ (e.chute = true ∨ e.owner ≠ s.bslotOf x.k))) := by
  unfold Ctx.owns; decide +kernel

/-- The last element of the region. -/
theorem hyps_ScratchpadAndTiles_TileAccess :
    (∀ st ∈ [2, 3], Meets 0xB9 { longFields (.v 4) (.v 2) .none .none with ctl := 4, imm := 1020, aux := 511 } id 0 (tiled 511 (entryIn st 0 false))
      (fun x s => x.owns s (entryIn st 0 false) ∧ (∀ l ∈ x.served (isVector 0xB9 x.a), x.offsetOf (laneOfServed l) % sizeBytes x.a.size = 0 ∧
        x.offsetOf (laneOfServed l) + sizeBytes x.a.size ≤ 1024 * ((entryIn st 0 false).size + 1)) ∧ x.served (isVector 0xB9 x.a) ≠ [])) ∧
    Meets 0xBA { longFields .none (.v 2) (.v 4) .none with ctl := 4, imm := 1020, aux := 511 } id 0 (tiled 511 (entryIn 1 0 false))
      (fun x s => x.owns s (entryIn 1 0 false) ∧ (∀ l ∈ x.served (isVector 0xBA x.a), x.offsetOf (laneOfServed l) % sizeBytes x.a.size = 0 ∧
        x.offsetOf (laneOfServed l) + sizeBytes x.a.size ≤ 1024 * ((entryIn 1 0 false).size + 1)) ∧ x.served (isVector 0xBA x.a) ≠ []) := by
  unfold Ctx.owns; and_intros <;> decide +kernel

def counted (e : Nat) (k : Counter) (s : State) : State := s.modCore 0 fun c => { c with counters := [(e, k)] }
def ctr0 : Counter := { bytes := false, owner := 0, epoch := 0xFFFF, target := 5, count := 4 }

/-- Counter 2047 of core 3, owned by the block in its slot 1. -/
def countedPeer (s : State) : State := (withPeer s).modCore 3 fun c => { c with counters := [(2047, { ctr0 with owner := 1 })] }

theorem hyps_CountersAndBarriers_EventCounters :
    (∀ k ∈ [ctr0, { ctr0 with target := 0 }], Meets 0xD5 { longFields (.s 4) (.s 2) .none .none with aux := 2047, scope := 1 } (sRegs [(2, 6)]) 0
      (counted 2047 k) (fun x s => x.scopeOk s = true ∧ (s.softErrors = [] ∧ x.eventNamed ≤ 2047 ∧
        (s.core x.eventCore).counters.get? x.eventNamed = some k ∧ s.blocks.get? (blockKey x.eventCore k.owner) = some block0 ∧
        block0.launch = x.c.launch) ∧ x.releases s)) ∧
    Meets 0xD5 { longFields (.s 4) (.s 2) .none .none with aux := 2047, scope := 2, ctl := 0x13 } (sRegs [(2, 6)]) 0 countedPeer (fun x s =>
      x.scopeOk s = true ∧ x.releases s ∧ x.eventCore = 3 ∧ s.softErrors = [] ∧ x.eventNamed ≤ 2047 ∧
      (s.core x.eventCore).counters.get? x.eventNamed = some { ctr0 with owner := 1 } ∧
      s.blocks.get? (blockKey x.eventCore 1) = some { block0 with number := 1, crews := [] } ∧ block0.launch = x.c.launch) ∧
    Meets 0xD5 { longFields (.s 4) (.s 2) .none .none with scope := 1 } (fun c => { c with sbuf := [{ entry0 with scope := 1 }] }) 0 id (fun x s =>
      x.scopeOk s = true ∧ x.eventNamed ≤ 2047 ∧ ¬ x.releases s) ∧
    (∀ g ∈ [id, counted 2047 ctr0], Meets 0xD6 { longFields .none (.s 2) (.s 4) .none with aux := 2047, ctl := 1 } (sRegs [(2, 5), (4, 16)]) 0 g (fun x s =>
      x.eventNamed ≤ 2047 ∧ x.a.ctl.getLsbD 2 = false ∧ ∀ c ∈ (s.core x.core).counters.get? x.eventNamed, c.owner = s.bslotOf x.k)) ∧
    Meets 0xD6 { longFields .none .none .none .none with aux := 2047, ctl := 4 } id 0 (counted 2047 ctr0) (fun x s => x.eventNamed ≤ 2047 ∧
      x.a.ctl.getLsbD 2 = true ∧ (s.core x.core).counters.get? x.eventNamed = some ctr0 ∧ ctr0.owner = s.bslotOf x.k ∧
      s.counterBusy x.core x.eventNamed = false) ∧
    (∀ p ∈ [(0, 0), (4, 0), (8, 0), (12, 9)], Meets 0xD7 { longFields (.s 4) .none .none .none with aux := 2047, ctl := BitVec.ofNat 9 p.1 } id 0
      (counted 2047 { ctr0 with owner := p.2 }) (fun x s => x.a.ctl.getLsbD 4 = false ∧ s.softErrors = [] ∧ x.eventNamed ≤ 2047 ∧
        (s.core x.core).counters.get? x.eventNamed = some { ctr0 with owner := p.2 } ∧ (p.2 = s.bslotOf x.k ∨ (x.a.ctl.toNat / 4) % 4 = 3))) ∧
    Meets 0xD7 { longFields (.s 4) .none .none .none with aux := 2047 } id 0 id (fun x s => x.eventNamed ≤ 2047 ∧
      (x.a.ctl.toNat / 4) % 4 ≠ 3 ∧ (s.core x.core).counters.get? x.eventNamed = none) := by
  unfold Ctx.releases; and_intros <;> decide +kernel

/-- Group 15 of the launch holds crews 0 to 3. -/
def grouped (b : Barrier) (s : State) : State := { s with launches := [(1, { placedLaunch with groups := [(15, [⟨false, 0, 3⟩])], barriers := [(15, b)] })] }
abbrev groupLaunch (b : Barrier) : Launch := { placedLaunch with groups := [(15, [⟨false, 0, 3⟩])], barriers := [(15, b)] }
def bar0 (n arrived : Nat) : Barrier := { members := n, arrived := arrived, leaving := 0, epoch := 0xFFFF }

theorem hyps_CountersAndBarriers_GroupBarriers :
    Meets 0xD8 { longFields .none .none .none .none with aux := 15, scope := 1 } id 0 (grouped (bar0 4 3)) (fun x s => x.member s (groupLaunch (bar0 4 3)) (bar0 4 3) ∧
      x.recorded = none ∧ x.a.ctl.getLsbD 0 = false ∧ x.pends (bar0 4 3) = false ∧ x.releases s ∧ (bar0 4 3).members ≤ (bar0 4 3).arrived + 1) ∧
    Meets 0xD8 { longFields .none .none .none .none with aux := 15, scope := 1 } id 0 (grouped (bar0 4 2)) (fun x s => x.member s (groupLaunch (bar0 4 2)) (bar0 4 2) ∧
      x.recorded = none ∧ x.a.ctl.getLsbD 0 = false ∧ x.pends (bar0 4 2) = false ∧ x.releases s ∧ (bar0 4 2).arrived + 1 < (bar0 4 2).members ∧
      (bar0 4 2).epoch < 65536) ∧
    Meets 0xD8 { longFields .none (.s 2) .none .none with aux := 15, scope := 1, ctl := 1 } (sRegs [(2, 0x8000)]) 0 (grouped (bar0 4 2)) (fun x s =>
      x.member s (groupLaunch (bar0 4 2)) (bar0 4 2) ∧ x.recorded = none ∧ x.a.ctl.getLsbD 0 = true ∧
      reached (bar0 4 2).epoch ((x.word x.a.in0 0).toNat % 65536) = true) ∧
    Meets 0xD9 { longFields (.s 4) .none .none .none with aux := 15, scope := 1 } id 0 (grouped (bar0 4 2)) (fun x s => x.member s (groupLaunch (bar0 4 2)) (bar0 4 2) ∧
      x.recorded = none ∧ x.pends (bar0 4 2) = false ∧ x.releases s ∧ (bar0 4 2).arrived + 1 < (bar0 4 2).members) ∧
    Meets 0xD9 { longFields (.s 4) .none .none .none with aux := 15, scope := 1 } (fun c => { c with arrivals := [(15, 0)] }) 0 (grouped (bar0 4 2)) (fun x s =>
      x.member s (groupLaunch (bar0 4 2)) (bar0 4 2) ∧ x.recorded = none ∧ x.pends (bar0 4 2) = true) ∧
    (∀ q ∈ [(15, 4), (14, 0)], Meets 0xD8 { longFields .none .none .none .none with aux := BitVec.ofNat 16 q.1, scope := 1 }
      (fun c => { c with index := q.2 }) 0 (grouped (bar0 4 2)) (fun x s => x.scopeOk s = true ∧ x.launchOf s = some (groupLaunch (bar0 4 2)) ∧
        ((groupLaunch (bar0 4 2)).groupUsed x.a.aux.toNat = false ∨ (groupLaunch (bar0 4 2)).groupHas x.a.aux.toNat x.c.index = false))) := by
  unfold Ctx.member Ctx.releases; and_intros <;> decide +kernel
/-- One hoist of the crew counts on counter 2047 of its core. -/
def hoistingOn (s : State) : State := s.modCore 0 fun c => { c with queues := [(0, [.hoist { hoist0 with tgt := 1, tindex := 2047 }])] }

/-- The changed entry of this ck, counters of other owners and other cores, and indexes out of range. -/
theorem hyps_ScratchpadStops_turn :
    (∀ p ∈ [(0xBB, .s 2, 0), (0xBC, Opnd.none, 1), (0xBD, .none, 2), (0xBE, .none, 3)],
      Meets p.1 { longFields .none p.2.1 .none .none with aux := 511 } id 0 (fun s => { tiled 511 (entryIn p.2.2 0 false) s with moved := [(0, 511)] }) (fun x s =>
        x.owns s (entryIn p.2.2 0 false) ∧ (entryIn p.2.2 0 false).state = p.2.2 ∧ (x.word x.a.in0 0).toNat ≤ 1024 ∧
        s.entryBusy x.core x.tileNamed = false ∧ s.scratchBusy x.k false false = false ∧ s.scratchBusy x.k true false = false ∧
        s.moved.contains (x.core, x.tileNamed) = true)) ∧
    (∀ p ∈ [(0xBB, .s 2, 0), (0xBC, Opnd.none, 1), (0xBD, .none, 2), (0xBE, .none, 3)],
      Meets p.1 { longFields .none p.2.1 .none .none with aux := 511 } id 0 (tiled 511 (entryIn p.2.2 0 false)) (fun x s =>
        s.moved.contains (x.core, x.tileNamed) = false)) := by
  unfold Ctx.owns; and_intros <;> decide +kernel

theorem hyps_CountersAndBarriers_stops :
    Meets 0xD6 { longFields .none .none .none .none with aux := 2047, ctl := 4 } id 0 (fun s => hoistingOn (counted 2047 ctr0 s)) (fun x s =>
      x.eventNamed ≤ 2047 ∧ x.a.ctl.getLsbD 2 = true ∧ (s.core x.core).counters.get? x.eventNamed = some ctr0 ∧ ctr0.owner = s.bslotOf x.k ∧
      s.counterBusy x.core x.eventNamed = true) ∧
    Meets 0xD6 { longFields .none (.s 2) (.s 4) .none with aux := 2047 } id 0 (counted 2047 { ctr0 with owner := 9 }) (fun x s => x.eventNamed ≤ 2047 ∧
      (s.core x.core).counters.get? x.eventNamed = some { ctr0 with owner := 9 } ∧ 9 ≠ s.bslotOf x.k) ∧
    Meets 0xD7 { longFields (.s 4) .none .none .none with aux := 2047, ctl := 0x10 } id 0 (counted 2047 ctr0) (fun x s => x.a.ctl.getLsbD 4 = true ∧
      s.softErrors = [] ∧ x.eventNamed ≤ 2047 ∧ (s.core x.eventCore).counters.get? x.eventNamed = some ctr0 ∧
      s.blocks.get? (blockKey x.eventCore ctr0.owner) = some block0 ∧ block0.launch = x.c.launch) ∧
    Meets 0xD7 { longFields (.s 4) .none .none .none with aux := 2047, ctl := 12 } id 0 id (fun x s => x.eventNamed ≤ 2047 ∧
      (s.core x.eventCore).counters.get? x.eventNamed = none ∧ (x.a.ctl.toNat / 4) % 4 = 3) ∧
    Meets 0xD5 { longFields (.s 4) (.s 2) .none .none with aux := 2047, scope := 1 } id 0 id (fun x s => x.scopeOk s = true ∧ x.eventNamed ≤ 2047 ∧
      x.releases s ∧ (s.core x.eventCore).counters.get? x.eventNamed = none) ∧
    (∀ p ∈ [(0xD5, Opnd.s 4, Opnd.s 2, 1), (0xD6, .none, .none, 0), (0xD7, .s 4, .none, 0)],
      Meets p.1 { longFields p.2.1 p.2.2.1 .none (.s 6) with ctl := if p.1 = 0xD6 then 0x104 else 0x100, scope := BitVec.ofNat 3 p.2.2.2 } (sRegs [(6, 2048)]) 0 id
        (fun x s => x.scopeOk s = true ∧ 2047 < x.eventNamed)) := by
  unfold Ctx.releases; and_intros <;> decide +kernel

theorem hyps_CountersAndBarriers_barrierStops :
    Meets 0xD8 { longFields .none .none .none .none with aux := 15, scope := 1 } (fun c => { c with sbuf := [{ entry0 with scope := 1 }] }) 0 (grouped (bar0 4 2))
      (fun x s => x.member s (groupLaunch (bar0 4 2)) (bar0 4 2) ∧ x.recorded = none ∧ x.a.ctl.getLsbD 0 = false ∧ x.pends (bar0 4 2) = false ∧
        ¬ x.releases s) ∧
    Meets 0xD8 { longFields .none .none .none .none with aux := 15, scope := 1 } (unitBy fun h => { h with barEpoch := some 7, barPc := h.pc }) 0 (grouped (bar0 4 2))
      (fun x s => x.member s (groupLaunch (bar0 4 2)) (bar0 4 2) ∧ x.recorded = some 7) ∧
    (∀ op ∈ [0xD8, 0xD9], Meets op { longFields (if op = 0xD9 then .s 4 else .none) .none .none .none with aux := 15, scope := 1 } (spalls 1 3 .ready) 0
      (grouped (bar0 4 2)) (fun x s => x.scopeOk s = true ∧ x.launchOf s = some (groupLaunch (bar0 4 2)) ∧
        (groupLaunch (bar0 4 2)).groupUsed x.a.aux.toNat = true ∧ (groupLaunch (bar0 4 2)).groupHas x.a.aux.toNat x.c.index = true ∧
        1 < x.c.units.length)) := by
  unfold Ctx.member Ctx.releases; and_intros <;> decide +kernel
/-! ## Witnesses: chutes, hoists, matrix tasks -/

/-- A core chute of two slots of one KiB at entries 8 and 9 of core 0, the first of them in a state; the crew holds n slots. -/
def chuteOf (mc : Bool) (allow : List Nat) : Chute :=
  { launch := 1, cluster := false, producer := true, mc := mc, home := 0, cbslot := 0, base := 0, ssize := 0, nslots := 1, first := 8, head := 0
    tail := 0, nready := 0, nempty := 2, allow := allow, held := [0, 0, 0, 0], credit := [2, 2, 2, 2], acqList := [], takeList := [] }
def chuted (n : Nat) (d : Chute) (st holder : Nat) (s : State) : State :=
  s.modCore 0 fun c => { c with
    chutes := [(n, d)]
    tiles := [(8, { entryIn st 0 true with base := 1 })]
    slotRecs := [(8, { SlotRec.empty with holder := holder })] }
def chute0 : Chute := chuteOf false [1, 0, 0, 0]
/-- CH.ACQ and CH.TAKE of chute 63. -/
def chArgs : Args := { longFields (.s 4) .none .none .none with aux := 63 }

abbrev Ctx.opensAt (x : Ctx) (s : State) (n : Nat) (out : Bool) (home : Nat) (d : Chute) : Prop :=
  x.u = 0 ∧ x.c.units.length = 1 ∧ x.c.deferred = [] ∧ n ≤ 63 ∧ s.inst? x.core n = some (home, d) ∧ x.launchOf s = some placedLaunch ∧
    placedLaunch.bound x.c.bench n out = true ∧ placedLaunch.moving.get? x.core = none

theorem Ctx.opensAt.opens {x : Ctx} {s : State} {n home : Nat} {out : Bool} {d : Chute} (h : x.opensAt s n out home d) : x.opens s n out home d := by
  obtain ⟨h1, h2, h3, h4, h5, h6, h7, h8⟩ := h
  exact ⟨h1, h2, h3, h4, h5, fun l hl => by simp only [h6, Option.some.injEq] at hl; subst hl; exact ⟨h7, h8⟩⟩

theorem hyps_Chutes_ChuteSlots :
    (∀ op ∈ [0xD1, 0xDE], Meets op chArgs id 0 (chuted 63 chute0 0 0) (fun x s => x.opensAt s x.chuteNamed true 0 chute0 ∧ chute0.mc = false ∧
        s.tile? 0 (chute0.first + chute0.tail) = some { entryIn 0 0 true with base := 1 } ∧
        chute0.held.getD (x.core % 4) 0 < chute0.allow.getD (x.core % 4) 0 ∧ s.moved.contains (0, chute0.first + chute0.tail) = false) ∧
      Meets op chArgs id 0 (fun s => { chuted 63 chute0 0 0 s with moved := [(0, 8)] }) (fun x s => x.opensAt s x.chuteNamed true 0 chute0 ∧
        chute0.mc = false ∧ s.canAcquire 0 chute0 (x.core % 4) = true ∧ s.moved.contains (0, chute0.first + chute0.tail) = true) ∧
      Meets op chArgs id 0 (chuted 63 (chuteOf false [0, 0, 0, 0]) 0 0) (fun x s =>
        x.opensAt s x.chuteNamed true 0 (chuteOf false [0, 0, 0, 0]) ∧ s.canAcquire 0 (chuteOf false [0, 0, 0, 0]) (x.core % 4) = false)) ∧
    (∀ op ∈ [0xD3, 0xDF], Meets op chArgs id 0 (chuted 63 chute0 2 0) (fun x s => x.opensAt s x.chuteNamed false 0 chute0 ∧
        s.tile? 0 (chute0.first + chute0.head) = some { entryIn 2 0 true with base := 1 } ∧ s.moved.contains (0, chute0.first + chute0.head) = false) ∧
      Meets op chArgs id 0 (fun s => { chuted 63 chute0 2 0 s with moved := [(0, 8)] }) (fun x s => x.opensAt s x.chuteNamed false 0 chute0 ∧
        s.canTake 0 chute0 = true ∧ s.moved.contains (0, chute0.first + chute0.head) = true) ∧
      Meets op chArgs id 0 (chuted 63 chute0 1 0) (fun x s => x.opensAt s x.chuteNamed false 0 chute0 ∧ s.canTake 0 chute0 = false)) ∧
    ∀ op ∈ [0xD1, 0xD3, 0xDE, 0xDF], Meets op chArgs (spalls 1 0 .ready) 1 id (fun x _ => x.u ≠ 0) ∧
      Meets op chArgs (spalls 1 0 .ready) 0 id (fun x _ => 1 < x.c.units.length) ∧
      Meets op chArgs (fun c => { c with deferred := [(0, ⟨0, 1, false, 0⟩)] }) 0 id (fun x _ => x.c.deferred ≠ []) ∧
      Meets op { longFields (.s 4) .none .none (.s 6) with ctl := 0x100 } (sRegs [(6, 64)]) 0 id (fun x _ => x.u = 0 ∧ x.c.units.length = 1 ∧
        x.c.deferred = [] ∧ 63 < x.chuteNamed) ∧
      Meets op chArgs id 0 id (fun x s => x.u = 0 ∧ x.c.units.length = 1 ∧ x.c.deferred = [] ∧ x.chuteNamed ≤ 63 ∧
        s.inst? x.core x.chuteNamed = none) := by
  and_intros <;> decide +kernel

/-- The handle tag of entry 8 of chute 63. -/
def tagged (c : Crew) : Crew := { sRegs [(6, 0x7E08)] c with slots := 1 }

theorem hyps_Chutes_ChuteReturns :
    Meets 0xD2 { longFields .none (.s 2) .none (.s 6) with scope := 2 } tagged 0 (chuted 63 chute0 1 0) (fun x s => x.scopeOk s = true ∧
      x.opensAt s x.tagChute true 0 chute0 ∧ s.released x.k x.c (max 2 x.a.scope.toNat) false true false = true ∧
      s.holds 0 chute0 x.tagEntry x.c.index 1 = true ∧ s.taskNames 0 x.tagEntry = false ∧ s.moved.contains (0, x.tagEntry) = false ∧ s.tile? 0 x.tagEntry = some { entryIn 1 0 true with base := 1 }) ∧
    (∀ mc ∈ [false, true], Meets 0xD4 (longFields .none .none .none (.s 6)) tagged 0 (chuted 63 (chuteOf mc [1, 0, 0, 0]) 3 0) (fun x s =>
      x.opensAt s x.tagChute false 0 (chuteOf mc [1, 0, 0, 0]) ∧ s.holds 0 (chuteOf mc [1, 0, 0, 0]) x.tagEntry x.c.index 3 = true ∧
      s.tile? 0 x.tagEntry = some { entryIn 3 0 true with base := 1 } ∧ s.scratchBusy x.k true true = false ∧ s.entryBusy 0 x.tagEntry = false ∧ s.moved.contains (0, x.tagEntry) = false)) ∧
    Meets 0xD2 { longFields .none (.s 2) .none (.s 6) with scope := 2 } tagged 0 (fun s => { chuted 63 chute0 1 0 s with moved := [(0, 8)] }) (fun x s =>
      x.scopeOk s = true ∧ x.opensAt s x.tagChute true 0 chute0 ∧ s.released x.k x.c (max 2 x.a.scope.toNat) false true false = true ∧
      s.holds 0 chute0 x.tagEntry x.c.index 1 = true ∧ s.taskNames 0 x.tagEntry = false ∧ s.moved.contains (0, x.tagEntry) = true) ∧
    Meets 0xD2 { longFields .none (.s 2) .none (.s 6) with scope := 2 } tagged 0 (chuted 63 chute0 1 9) (fun x s => x.scopeOk s = true ∧
      x.opensAt s x.tagChute true 0 chute0 ∧ s.released x.k x.c (max 2 x.a.scope.toNat) false true false = true ∧
      s.holds 0 chute0 x.tagEntry x.c.index 1 = false) ∧
    Meets 0xD4 (longFields .none .none .none (.s 6)) tagged 0 (chuted 63 chute0 3 9) (fun x s => x.opensAt s x.tagChute false 0 chute0 ∧
      s.holds 0 chute0 x.tagEntry x.c.index 3 = false) := by
  and_intros <;> decide +kernel

/-- The descriptor of one row of 128 bytes, in s16 to s21. -/
def descRegs (c : Crew) : Crew := sRegs [(16, 128), (17, 0), (18, 128), (19, 128), (20, 128), (21, 128)] c
def descArgs (ctl : BitVec 9) : Args := { longFields .none (.s 4) (.s 12) (.s 16) with tv := true, ctl := ctl }

/-- A tile entry as the target, and a token alone; rows of a descriptor; a multicast to two cores. -/
theorem hyps_Hoists :
    (∀ p ∈ [(0xC0, { longFields .none (.s 2) (.v 4) .none with tv := true, tok := 7 }), (0xC0, { longFields .none (.s 2) (.v 4) .none with ctl := 0x80, aux := 511 }),
        (0xC3, { longFields .none (.s 2) (.v 4) .none with tv := true, ctl := 0x10 })],
      Meets p.1 p.2 id 0 (tiled 511 (entryIn 1 0 false)) (fun x s => s.queueRoom x.core (x.a.ctl.toNat % 4) x.c.launch x.c.name = true ∧
        (p.1 = 0xC3 → x.a.ctl.getLsbD 4 = true) ∧ x.scopeOk s = true ∧ okWith (x.hoistTarget (x.start s)) (fun r =>
          x.laneList.all fun l => l.2.1 % x.hoistSize == 0 && l.2.2 % x.hoistSize == 0 && decide (l.2.1 < 2 ^ 56) &&
            s.windowOk x.core x.c.launch l.2.2 x.hoistSize r.region && (s.peerBlock x.core x.c.launch l.2.2).isSome) = true)) ∧
    (∀ p ∈ [(0xC1, (0 : BitVec 9)), (0xC3, 0)], Meets p.1 (descArgs p.2) descRegs 0 id (fun x s =>
      s.queueRoom x.core (x.a.ctl.toNat % 4) x.c.launch x.c.name = true ∧ (p.1 = 0xC3 → x.a.ctl.getLsbD 4 = false) ∧ x.scopeOk s = true ∧
      okWith (x.hoistTarget (x.start s)) (fun r => match x.desc with
        | some d => decide (s.hoistTensorTrap x.core x.c.launch (x.addr 0) (x.word x.a.in1 0).toNat none r.region d = none)
        | none => false) = true)) ∧
    Meets 0xC2 { descArgs 0x0C with tv := false, aux := 63 } descRegs 0 (fun s => (chuted 63 (chuteOf true [1, 0, 0, 0]) 0 0 s).modCore 1 fun c =>
        { c with chutes := [(63, chuteOf true [1, 0, 0, 0])] }) (fun x s => s.queueRoom x.core (x.a.ctl.toNat % 4) x.c.launch x.c.name = true ∧
      x.scopeOk s = true ∧ chuteIn s x.core (x.a.aux.toNat % 64) = some (chuteOf true [1, 0, 0, 0]) ∧
      (∀ d ∈ x.desc, s.hoistTensorTrap x.core x.c.launch (x.addr 0) (x.word x.a.in1 0).toNat (some 1024) none d = none) ∧ x.desc.isSome = true ∧
      ∀ c < 4, x.a.ctl.getLsbD (2 + c) = true → (chuteOf true [1, 0, 0, 0]).credit.getD c 0 ≠ 0 ∧
        s.tailMoved (4 * clusterOf x.core + c) (x.a.aux.toNat % 64) = false ∧
        (chuteIn s (4 * clusterOf x.core + c) (x.a.aux.toNat % 64)).isSome = true) ∧
    Meets 0xC4 { longFields .none .none .none .none with tv := true, ctl := 5 } id 0 id (fun x s => s.queueRoom x.core (x.a.ctl.toNat % 8) x.c.launch x.c.name = true ∧
      okWith (x.hoistTarget (x.start s)) (fun _ => true) = true) ∧
    (∀ p ∈ [(0xC0, { longFields .none (.s 2) (.v 4) .none with tv := true, ctl := 3 }), (0xC1, descArgs 3), (0xC2, { descArgs 0x07 with tv := false }),
        (0xC3, descArgs 3), (0xC4, { longFields .none .none .none .none with tv := true, ctl := 3 })],
      Meets p.1 p.2 id 0 (fun s => s.modCore 0 fun c => { c with queues := [(3, List.replicate 16 (.hoist hoist0))] }) (fun x s =>
        s.queueRoom x.core (if p.1 = 0xC4 then x.a.ctl.toNat % 8 else x.a.ctl.toNat % 4) x.c.launch x.c.name = false)) := by
  and_intros <;> decide +kernel

/-- A crew with the given tile modes, whose budget is 512 registers above the boundary; entry 511 of its block is 48 KiB of READY bytes. -/
def widened (modes : Table Nat) (c : Crew) : Crew := { c with budget := c.bound + 512, tileModes := modes }
def source0 : TileEntry := { entryIn 2 0 false with size := 63, base := 0 }
def weightBlock (form : Nat) : Block := { block0 with size := 65536, wlines := 512, wtab := [(127, (form, 0)), (255, (form, 128))] }
def weights (form : Nat) (s : State) : State := { tiled 511 source0 s with blocks := [(0, weightBlock form)] }
/-- aux of an MMA: entry 511, weight entry 127. -/
def mmaArgs (ctl : BitVec 9) : Args := { longFields .none .none .none .none with aux := 0xFFFF, ctl := ctl }

def regionOk (e : Except Res TRegion) (p : TRegion → Bool) : Bool := match e with | .ok r => p r | .error _ => false

/-- One engine and both; a tile as the destination and a partial. -/
theorem hyps_TaskEntries_MatrixTasks :
    ∀ p ∈ [(0xC6, 0, 12288, (0 : BitVec 9), 0), (0xC7, 0, 12288, 0, 1), (0xC8, 1, 24576, 0, 0), (0xC9, 2, 12288, 0, 2), (0xCA, 0, 12288, 0, 0),
        (0xCA, 0, 12288, 4, 1)],
      Meets p.1 (mmaArgs (p.2.2.2.1 ||| 0x3A)) (widened [(3, p.2.2.2.2)]) 0 (weights p.2.1) (fun x s =>
        s.queueRoom x.core (4 + x.engineFor s true) x.c.launch x.c.name = true ∧ x.a.ctl.toNat / 8 % 8 = 4 + 3 ∧ x.hasTile s 3 ∧
        regionOk (x.taskRegion (x.start s) false (x.a.aux.toNat / 128)) (fun r => decide (x.a.imm.toNat % 128 = 0 ∧ x.a.imm.toNat + p.2.2.1 ≤ r.len)) = true ∧
        s.blocks.get? (blockKey x.core (s.bslotOf x.k)) = some (weightBlock p.2.1) ∧
        (∀ e < 2, (weightBlock p.2.1).wtab.get? (128 * e + x.a.aux.toNat % 128) = some (p.2.1, 128 * e)) ∧ x.c.tileMode 3 = p.2.2.2.2) ∧
      Meets p.1 (mmaArgs (p.2.2.2.1 ||| 0x01)) id 0 (weights p.2.1) (fun x s =>
        s.queueRoom x.core (4 + x.engineFor s true) x.c.launch x.c.name = true ∧ x.a.ctl.toNat / 8 % 8 = 0 ∧
        regionOk (x.taskRegion (x.start s) false (x.a.aux.toNat / 128)) (fun r => decide (x.a.imm.toNat % 128 = 0 ∧ x.a.imm.toNat + p.2.2.1 ≤ r.len)) = true ∧
        s.blocks.get? (blockKey x.core (s.bslotOf x.k)) = some (weightBlock p.2.1) ∧
        (∀ e < 2, (weightBlock p.2.1).wtab.get? (128 * e + x.a.aux.toNat % 128) = some (p.2.1, 128 * e)) ∧
        x.c.untaken (x.engineFor s true) < 4 ∧ (s.core x.core).creditsUsed.getD (x.engineFor s true) 0 < 4) := by
  unfold Ctx.hasTile; decide +kernel

/-- A partial of the crew in queue mq0. -/
def partial0 (fp : Bool) : Partial := { queue := 0, launch := 1, name := (0, 0), seq := 0, fp := fp, cols := [] }
def withPartial (fp : Bool) (s : State) : State := s.modCore 0 fun c => { c with partials := [partial0 fp], creditsUsed := [(0, 1)] }

theorem hyps_TaskEntries_AccumulatorTasks :
    (∀ p ∈ [((0x04 : BitVec 9), 128), (0x18, 256), (0x2C, 26)], Meets 0xC5 { mmaArgs p.1 with in0 := .s 2 } id 0 (weights 0) (fun x s =>
      s.queueRoom x.core (4 + x.engineFor s false) x.c.launch x.c.name = true ∧
      regionOk (x.taskRegion (x.start s) false (x.a.aux.toNat / 128)) (fun r => decide (x.a.imm.toNat % 128 = 0 ∧ x.a.imm.toNat + 128 * p.2 ≤ r.len)) = true ∧
      p.2 = (match x.a.ctl.toNat / 16 % 4 with | 0 => 128 | 1 => 256 | _ => 26) ∧
      s.blocks.get? (blockKey x.core (s.bslotOf x.k)) = some (weightBlock 0) ∧ (x.word x.a.in0 0).toNat + p.2 ≤ (weightBlock 0).wlines)) ∧
    (∀ p ∈ [(0xCB, true, 0), (0xCC, false, 1), (0xCC, false, 2)], Meets p.1 { longFields .none (if p.2.1 then .s 2 else .none) (if p.2.1 then .v 2 else .none) .none with ctl := 0x18 }
      (fun c => { widened [(3, p.2.2)] c with produce := [(0, 1)] }) 0 (withPartial p.2.1) (fun x s =>
        s.queueRoom x.core (4 + x.engineFor s false) x.c.launch x.c.name = true ∧ x.hasTile s (x.tileAt 3) ∧
        x.c.untaken (x.engineFor s false) ≠ 0 ∧
        s.partialKind x.core (x.engineFor s false) x.c.launch x.c.name (x.c.take.getD (x.engineFor s false) 0) = p.2.1 ∧
        x.c.tileMode (x.tileAt 3) = p.2.2)) ∧
    Meets 0xCD { longFields (.v 4) (.s 2) .none .none with ctl := 0x18 } (widened []) 0 id (fun x s =>
      s.queueRoom x.core (4 + x.engineFor s false) x.c.launch x.c.name = true ∧ x.hasTile s (x.tileAt 3)) ∧
    Meets 0xCE { longFields (.v 4) (.s 2) .none .none with ctl := 0x18, aux := 15 } (fun c => widened [] (sRegs [(2, 112)] c)) 0 id (fun x s =>
      s.queueRoom x.core (4 + x.engineFor s false) x.c.launch x.c.name = true ∧ x.hasTile s (x.tileAt 3) ∧
      (x.word x.a.in0 0).toNat + (x.a.aux.toNat % 16 + 1) ≤ 128) ∧
    Meets 0xCF { longFields .none (.s 2) .none .none with ctl := 0x0C, aux := 511 } (widened []) 0 (fun s => weights 0 (tiled 511 source0 s) |>.modTile 0 511 fun t => { t with state := 1 })
      (fun x s => s.queueRoom x.core (4 + x.engineFor s false) x.c.launch x.c.name = true ∧ x.hasTile s (x.tileAt 2) ∧
        (x.a.ctl.toNat / 16 % 4 = 1 → x.c.tileMode (x.tileAt 2) = 0) ∧
        regionOk (x.taskRegion (x.start s) true (if x.a.ctl.toNat / 64 % 4 = 2 then x.a.aux.toNat % 64 else x.a.aux.toNat % 512)) (fun r => decide
          (accStoreTrap x.a.imm.toNat (x.a.ctl.toNat / 16 % 4) r.len (accPitch (x.a.ctl.toNat / 16 % 4) (x.word x.a.in0 0).toInt) = none)) = true) ∧
    Meets 0xD0 { longFields .none .none .none .none with ctl := 0x58 } (widened []) 0 id (fun x s =>
      s.queueRoom x.core (4 + x.engineFor s false) x.c.launch x.c.name = true ∧ x.tileAt 3 < (x.c.budget - x.c.bound) / 128) ∧
    ∀ p ∈ [(0xC5, { mmaArgs 0x04 with in0 := .s 2 }), (0xCB, longFields .none (.s 2) (.v 2) .none), (0xCC, longFields .none .none .none .none),
        (0xCD, longFields (.v 4) (.s 2) .none .none), (0xCE, longFields (.v 4) (.s 2) .none .none), (0xCF, longFields .none (.s 2) .none .none),
        (0xD0, longFields .none .none .none .none)],
      Meets p.1 p.2 id 0 (fun s => s.modCore 0 fun c => { c with queues := [(4, List.replicate 16 (.hoist hoist0))] }) (fun x s =>
        s.queueRoom x.core (4 + x.engineFor s false) x.c.launch x.c.name = false) := by
  unfold Ctx.hasTile; and_intros <;> decide +kernel

/-! ## Witnesses: cells and completions of tasks -/

def task0 : Task :=
  { id := 9, crew := 0, launch := 1, index := 0, block := 0, bslot := 0, spall := 0, pc := placedCode, op := 0xC7, ctl := 0, aux := 0, dst := 0
    arg := 0, kind := 0, regionBslot := 0, regionBase := 0, regionLen := 65536, entry := some 511, chute := 0, offset := 0, scope := 0, tok := none
    steered := false, pseq := 0, sa := [], merge := [], lanes := 0, result := none, tile := none, wbase := 0, wsize := 0, wmask := 0, mode := 0
    started := true, since := 0, handle := 0 }
/-- The task has started in queue mq0 before the present ck. -/
def tasked (t : Task) (s : State) : State := { weights 0 s with ck := 2 }.modCore 0 fun c => { c with queues := [(4, [.task t])] }

/-- Ternary lines whose bytes are legal; both kinds of MMA.DIST. -/
theorem hyps_TaskEffects_MatrixCells :
    (weights 2 base).softErrors = [] ∧ (weights 2 base).blocks.get? (blockKey 0 0) = some (weightBlock 2) ∧
    (∀ k < 3328, ((weightBlock 2).w0.byte k).toNat ≤ 242) ∧ ({ task0 with op := 0xCA, ctl := 4 } : Task).ctl.getLsbD 2 = true ∧
    ({ task0 with op := 0xCA, ctl := 0 } : Task).ctl.getLsbD 2 = false := by
  refine ⟨by decide +kernel, by decide +kernel, fun k _ => ?_, by decide, by decide⟩
  show (Memory.byte [] k).toNat ≤ 242
  exact (by decide : (0 : Byte).toNat ≤ 242)

/-- A task that may complete there, as `completes` asks. -/
abbrev Completing (c : Crew) (t : Task) (s : State) : Prop :=
  s.task? 0 4 9 = some t ∧ t.started = true ∧ t.since < s.ck ∧ s.softErrors = [] ∧ s.findCrew t.launch t.name = some 0 ∧ s.crews.get? 0 = some c ∧
  (∀ e ∈ s.blocks, e.2.strategy ≠ 4) ∧ (c.units.get? 0).map (·.st) = some .ready ∧ t.kind ≠ 2 ∧ t.entryMoved 0 s = false ∧ t.spall = 0

theorem Completing.completes {c : Crew} {t : Task} {s : State} (h : Completing c t s) : completes s 0 4 9 0 c t := by
  obtain ⟨h1, h2, h3, h4, h5, h6, h7, h8, h9, h10, h11⟩ := h
  refine ⟨h1, .inl rfl, h2, h3, h4, h5, h6, h7, fun u hu m e => ?_, h9, h10, fun u hu r d e => ?_⟩
  · simp [hu, e] at h8
  · rw [h11] at hu; simp [hu, e] at h8

/-- A partial that an MMA leaves, tiles in each mode, partials added, columns read, TOPK with and without candidates of the crew, a tile
cleared. -/
theorem hyps_TaskEffects_TaskResults :
    ∀ p ∈ [(0, task0), (0, { task0 with op := 0xC6, tile := some 3 }), (1, { task0 with tile := some 3, mode := 1 }),
        (2, { task0 with tile := some 3, mode := 2, tok := some 7 }), (2, { task0 with op := 0xCC, tile := some 3, mode := 2 }),
        (0, { task0 with op := 0xCB, tile := some 3 }), (0, { task0 with op := 0xCE, tile := some 3, aux := 15, dst := 4, arg := 112, lanes := BitVec.allOnes 96 }),
        (0, { task0 with op := 0xCD, tile := some 3, aux := 15, dst := 4, lanes := 1 }), (0, { task0 with op := 0xD0, tile := some 3 })],
      let s := stateOf (widened [(3, p.1)]) 0 fun s => withPartial (p.2.op == 0xCB) (tasked p.2 s)
      Completing (widened [(3, p.1)] crew0) p.2 s ∧ s.partialOf 0 4 p.2 = some (partial0 (p.2.op == 0xCB)) ∧ (partial0 true).bad = [] := by
  decide +kernel

/-- WLOAD of the last line that both engines have, and ACC.ST of a whole tile, from the start of the allocation. -/
theorem hyps_TaskEffects_TaskStores :
    (let t := { task0 with op := 0xC5, wbase := 511, wsize := 1, wmask := 3 }
     let s := stateOf (widened []) 0 (tasked t)
     Completing (widened [] crew0) t s ∧ s.blocks.get? (blockKey 0 t.regionBslot) = some (weightBlock 0) ∧
       s.blocks.get? (blockKey 0 t.bslot) = some (weightBlock 0)) ∧
    (let t := { task0 with op := 0xCF, tile := some 3 }
     let s := stateOf (widened []) 0 (tasked t)
     Completing (widened [] crew0) t s ∧ s.blocks.get? (blockKey 0 t.regionBslot) = some (weightBlock 0) ∧ t.arg.toInt = 0) ∧
    ∀ m < 96, ∀ n < 128, 0 ≤ ({ task0 with op := 0xCF, tile := some 3 } : Task).storePlace m n := by
  refine ⟨by decide +kernel, by decide +kernel, fun m _ n _ => ?_⟩
  simp only [Task.storePlace, task0, Task.storeSize]; simp; omega

/-- An entry accepted in this ck, and none. -/
theorem hyps_awaits :
    (∀ p ∈ [(0xC0, { longFields .none (.s 2) (.v 4) .none with tv := true, ctl := 3 }), (0xC1, descArgs 3), (0xC2, { descArgs 0x07 with tv := false }),
        (0xC3, descArgs 3), (0xC4, { longFields .none .none .none .none with tv := true, ctl := 3 }), (0xC5, { mmaArgs 0x04 with in0 := .s 2 }),
        (0xC6, mmaArgs 1), (0xC7, mmaArgs 1), (0xC8, mmaArgs 1), (0xC9, mmaArgs 1), (0xCA, mmaArgs 1),
        (0xCB, longFields .none (.s 2) (.v 2) .none), (0xCC, longFields .none .none .none .none),
        (0xCD, longFields (.v 4) (.s 2) .none .none), (0xCE, longFields (.v 4) (.s 2) .none .none), (0xCF, longFields .none (.s 2) .none .none),
        (0xD0, longFields .none .none .none .none)],
      Meets p.1 p.2 id 0 (fun s => { s with accepted := [(0, acceptor p.1)] }) (fun x s => s.accepted.contains (x.core, acceptor p.1) = true) ∧
      Meets p.1 p.2 id 0 id (fun x s => s.accepted.contains (x.core, acceptor p.1) = false)) := by decide +kernel

/-- An ACC.ST of the crew names the slot that CH.PUT returns. -/
theorem hyps_Chutes_task :
    Meets 0xD2 { longFields .none (.s 2) .none (.s 6) with scope := 2 } tagged 0 (fun s => (chuted 63 chute0 1 0 s).modCore 0 fun c =>
        { c with queues := [(4, [.task { task0 with op := 0xCF, entry := some 8, kind := 1 }])] }) (fun x s => x.scopeOk s = true ∧
      x.opensAt s x.tagChute true 0 chute0 ∧ s.released x.k x.c (max 2 x.a.scope.toNat) false true false = true ∧
      s.holds 0 chute0 x.tagEntry x.c.index 1 = true ∧ s.taskNames 0 x.tagEntry = true) := by
  and_intros <;> decide +kernel
/-! ## Witnesses: leases, capsules, pairs -/

def atLine (c : Crew) : Crew := sRegs [(2, 0x1080)] c
def leased (n : Nat) (c : Crew) : Crew := { atLine c with leases := (List.range n).map fun i => ⟨i, i, 100, false, 0⟩ }

def good (t : Dword) : Bool := decide (t.toNat % 4 = 0 ∧ t.toNat < 2 ^ 56)

/-- The access translates, and something holds of the answer. -/
def Ctx.maps (x : Ctx) (s : State) (va : Nat) (wr atom load : Bool) (q : Xl → State → Bool) : Bool :=
  okWith ((x.start s).translate x.core (s.partOf x.c) va wr atom load) fun r => q r.1 r.2

/-- A bank's accepted and conflicting requests for a line. -/
def wanting (line : Nat) (s : State) : State :=
  { s with banks := [(bankOf (128 * line), { Bank.reset with conflict := [{ input := 1, core := 4, line := line, key := 0, own := true, since := 0, part := 0 }] })] }

/-- The L1 of core 0 owns lines 32 and 33. -/
def owning2 (s : State) : State := s.modCore 0 fun c => { c with l1 := [(32, .exclusive), (33, .exclusive)] }

/-- No lease on the line yet: three or four others, owned and not; a lease in force, with and without another agent that waits. -/
theorem hyps_Leases :
    (∀ n ∈ [3, 4], ∀ g ∈ [id, owning2], Meets 0xB4 (longFields .none (.s 2) .none .none) (leased n) 0 (fun s => g (mapped s)) (fun x s =>
      x.c.cap.mode = false ∧ x.c.pieces = [] ∧
      x.addr 0 < 2 ^ 56 ∧ x.maps s (x.addr 0) true false false (fun p s' => decide (s'.ck ≤ 99) && !s'.lineStop x.k x.u (p.pa / 128) false x.h &&
        !s'.lineHeld (p.pa / 128) (some x.k) && s'.owns x.core (p.pa / 128) == (s.owns 0 33)) = true ∧
      x.c.leases.all (fun l => l.vline != x.addr 0 / 128) = true ∧ x.holdsLines 99 n)) ∧
    (owning2 (mapped base)).owns 0 33 = true ∧ (mapped base).owns 0 33 = false ∧
    Meets 0xB4 (longFields .none (.s 2) .none .none) (leased 34) 0 mapped (fun x s => x.c.cap.mode = false ∧ x.c.pieces = [] ∧
      x.addr 0 < 2 ^ 56 ∧ x.leasesLine 99 ∧ x.maps s (x.addr 0) true false false (fun p s' => decide (s'.ck ≤ 99) &&
        !s'.lineWanted x.k x.u (p.pa / 128)) = true) ∧
    Meets 0xB4 (longFields .none (.s 2) .none .none) (leased 34) 0 (fun s => wanting 33 (mapped s)) (fun x s => x.c.cap.mode = false ∧
      x.c.pieces = [] ∧ x.addr 0 < 2 ^ 56 ∧ x.leasesLine 99 ∧ x.maps s (x.addr 0) true false false (fun p s' => decide (s'.ck ≤ 99) &&
        s'.lineWanted x.k x.u (p.pa / 128)) = true) ∧
    Meets 0xB4 (longFields .none (.s 2) .none .none) (sRegs [(3, 0x1000000)]) 0 id (fun x _ => x.c.cap.mode = false ∧ x.c.pieces = [] ∧
      2 ^ 56 ≤ x.addr 0) ∧
    (∀ q ∈ [((0 : BitVec 9), Opnd.s 2), (1, .none)], Meets 0xB5 { longFields .none q.2 .none .none with ctl := q.1 } (leased 34) 0 id (fun x _ => x.c.pieces = [])) := by
  unfold Ctx.holdsLines Ctx.leasesLine; refine ⟨?_, ?_, ?_, ?_, ?_, ?_, ?_⟩ <;> decide +kernel

/-- A launch with an image of 4,096 bytes, and the record at 0x1000. -/
abbrev bigLaunch : Launch := { placedLaunch with codesz := 4096 }
def recorded (r : CapRecord) (s : State) : State :=
  { owning2 (mapped s) with launches := [(1, bigLaunch)], mem := ((r.bytes.zipIdx 0x1000).filterMap fun e => if e.1 = 0 then none else some (e.2, e.1)) ++ (mapped s).mem }
def rec0 : CapRecord :=
  { ckpt := [1, 2, 3, 4, 5, 6, 7, 8], result := 0, base := 0x200, part := 0, thr := 99, nv := false, ecnt := 0, deadline := 50, holder := 5, image := 0
    rlaunch := 1, hlaunch := 1, state := 0, run := false, step := 0, gen := 7, runner := 0 }
def atRecord (c : Crew) : Crew := sRegs [(2, 0x1000)] c
def entryArgs : Args := { longFields (.s 4) (.s 2) .none .none with imm := 0x200 }

/-- `obtains`, computed, with what follows. -/
abbrev Ctx.getsRecord (x : Ctx) (s : State) (va : Nat) (enter : Bool) (q : CapRecord → State → Bool) : Prop :=
  x.maps s va true false true (fun w s' => !s'.lineStop x.k x.u (w.pa / 128) false x.h &&
    (s'.owns x.core (w.pa / 128) && !s'.lineHeld (w.pa / 128) (some x.k)) && (s'.owns x.core (w.pa / 128 + 1) &&
    !s'.lineHeld (w.pa / 128 + 1) (some x.k)) && !s'.poisoned w.key (w.pa + 128) && w.pa % 256 == 0 && !s'.guarded (w.pa / 128) &&
    !s'.guarded (w.pa / 128 + 1) && s'.keyed w.key w.pa && !recordBad (s'.readRecord w.key w.pa) &&
    (!enter || !stepBeyond (s'.readRecord w.key w.pa) bigLaunch.codesz) && q (CapRecord.read (s'.readRecord w.key w.pa)) s') = true

theorem hyps_Capsules_CapsuleEntry :
    (∀ p ∈ [(rec0, 0), ({ rec0 with state := 1, step := 7 - 1 }, 1), ({ rec0 with state := 2, run := true, deadline := 100 }, 2)],
      Meets 0xDA entryArgs atRecord 0 (fun s => { recorded p.1 s with ck := 100 }) (fun x s => x.mayEnter s bigLaunch 0x1000 0x200 ∧
        x.getsRecord s 0x1000 true (fun r s' => decide (r = p.1) && (match p.2 with
          | 0 => r.state == 0
          | 1 => r.state != 0 && bigLaunch.imagetag.toNat == r.image && bigLaunch.part == r.part && (!r.run || decide (r.deadline < s'.ck)) &&
              good (bigLaunch.code + BitVec.ofNat 64 (r.base + 0x200 * r.step))
          | _ => r.state != 0 && !(bigLaunch.imagetag.toNat == r.image && bigLaunch.part == r.part && (!r.run || decide (r.deadline < s'.ck))))) ∧
        goodTarget (bigLaunch.code + BitVec.ofNat 64 0x200))) ∧
    Meets 0xDA entryArgs atRecord 0 (fun s => mapped { s with launches := [(1, bigLaunch)] }) (fun x s => x.mayEnter s bigLaunch 0x1000 0x200 ∧
      x.maps s 0x1000 true false true (fun w s' => !s'.owns x.core (w.pa / 128)) = true) ∧
    (∀ q ∈ [(CapRole.displaced, false), (.none, true)], Meets 0xDA entryArgs (fun c => { c with cap := { c.cap with role := q.1, rv := q.2 } }) 0 id (fun x s =>
      (x.launchOf s).isSome = true ∧ x.u = 0 ∧ x.c.units.length = 1 ∧ x.c.deferred = [] ∧ (x.c.cap.role ≠ .none ∨ x.c.cap.rv = true))) := by
  unfold Ctx.mayEnter goodTarget; and_intros <;> decide +kernel

/-- The crew runs a step of the record at 0x1000, in a role; its data leases are of lines 34 and 35. -/
def running (role : CapRole) (step : Nat) (c : Crew) : Crew :=
  { sRegs [(2, 0x1100), (3, 0), (4, 0xFFFFFFFF), (5, 1)] c with
    leases := [⟨34, 34, 200, false, 0⟩, ⟨35, 35, 101, false, 0⟩]
    cap := { c.cap with role := role, mode := true, record := 0x1000, gen := 7, step := step, stash := [9], stashPc := placedCode + 4
                        wbuf := [(0x1101, 5)], wlines := [(34, 0)] } }
def mine (step : Nat) : CapRecord := { rec0 with state := 1, run := true, step := step, nv := true, ecnt := 2047, deadline := 150 }

theorem hyps_Capsules_CapsuleCommit :
    (∀ p ∈ [(0xDB, CapRole.holder, 6), (0xDB, .adopter, 0), (0xDC, .holder, 7), (0xDC, .adopter, 7)],
      Meets p.1 { longFields (.s 6) .none (if p.1 = 0xDC then .s 4 else .none) .none with scope := 0 } (running p.2.1 p.2.2) 0
        (fun s => { recorded (mine p.2.2) s with ck := 100 }) (fun x s =>
          x.c.cap.role ≠ .none ∧ x.c.cap.role ≠ .displaced ∧ x.c.cap.role = p.2.1 ∧ x.c.cap.adopted = false ∧ (p.1 = 0xDB → x.c.cap.step < 7) ∧
          x.launchOf s = some bigLaunch ∧ x.getsRecord s x.c.cap.record.toNat false (fun r s' => decide (r = mine p.2.2) && r.mine x.c &&
            x.c.leases.all (fun e => !e.ended && decide (s'.ck < e.deadline)) &&
            good (bigLaunch.code + BitVec.ofNat 64 (r.base + 0x200 * (x.c.cap.step + 1))) &&
            (x.c.cap.wbuf.all fun e => !s'.fixed e.1 && x.c.cap.wlines.any fun l => l.1 == e.1 / 128) &&
            x.c.cap.wlines.all fun e => s'.keyed e.2 (e.1 * 128)) ∧ goodTarget x.c.cap.stashPc ∧ (x.c.cap.wbuf.map (·.1)).Nodup) ∧
      Meets p.1 { longFields (.s 6) .none (if p.1 = 0xDC then .s 4 else .none) .none with scope := 0 } (running p.2.1 p.2.2) 0
        (fun s => { recorded { mine p.2.2 with gen := 8 } s with ck := 100 }) (fun x s => x.c.cap.adopted = false ∧
          x.getsRecord s x.c.cap.record.toNat false (fun r _ => !r.mine x.c)) ∧
      Meets p.1 { longFields (.s 6) .none (if p.1 = 0xDC then .s 4 else .none) .none with scope := 0 } (running p.2.1 p.2.2) 0
        (fun s => { recorded (mine p.2.2) s with ck := 101 }) (fun x s => x.c.cap.adopted = false ∧ x.launchOf s = some bigLaunch ∧
          x.getsRecord s x.c.cap.record.toNat false (fun r s' => r.mine x.c && (x.c.leases.any fun e => decide (e.deadline ≤ s'.ck)) &&
            good (bigLaunch.code + BitVec.ofNat 64 (r.base + 0x200 * x.c.cap.step))))) ∧
    (∀ op ∈ [0xDB, 0xDC], Meets op (longFields (.s 6) .none (if op = 0xDC then .s 4 else .none) .none) (fun c => let c := running .holder 6 c; { c with cap := { c.cap with adopted := true } }) 0 id
        (fun x _ => x.c.cap.role = .holder ∧ x.c.cap.adopted = true ∧ (op = 0xDB → x.c.cap.step < 7)) ∧
      Meets op (longFields (.s 6) .none (if op = 0xDC then .s 4 else .none) .none) id 0 id (fun x _ => x.c.cap.role = .none)) := by
  unfold goodTarget; and_intros <;> decide +kernel

theorem hyps_Capsules_CapsuleAccess :
    Meets 0xDD (longFields (.s 58) .none .none .none) (fun c => { c with cap := { c.cap with role := .displaced, rv := true, res := 1 } }) 0 id (fun x _ =>
      x.c.cap.rv = true ∧ x.a.dst = .s (Fin.ofNat 64 58) ∧ 58 < 59) ∧
    Meets 0xDD (longFields (.s 58) .none .none .none) (fun c => { c with cap := { c.cap with role := .displaced } }) 0 id (fun x _ =>
      x.c.cap.rv = false ∧ x.c.cap.role = .displaced) ∧
    Meets 0xDD (longFields (.s 58) .none .none .none) id 0 id (fun x _ => x.c.cap.rv = false ∧ x.c.cap.role ≠ .displaced) ∧
    (∀ p ∈ [(0xA0, longFields (.s 8) (.s 2) .none .none), (0xA1, longFields .none (.s 2) (.s 8) .none)],
      Meets p.1 { p.2 with ctl := 4, imm := 124 } (running .holder 1) 0 (recorded (mine 1)) (fun x s => x.c.cap.mode = true ∧
        x.c.cap.role ≠ .displaced ∧ x.addr 0 % sizeBytes x.a.size = 0 ∧ x.addr 0 < 2 ^ 56 ∧ (∃ l ∈ x.c.leases, l.vline = x.addr 0 / 128) ∧
        x.maps s (x.addr 0) (p.1 == 0xA1) false (p.1 == 0xA0) (fun w s' => !s'.lineStop x.k x.u (w.pa / 128) (s'.l1Hit x.core (w.pa / 128) false) x.h) = true) ∧
      Meets p.1 { p.2 with ctl := 4, imm := 256 } (running .holder 1) 0 (recorded (mine 1)) (fun x _ => x.c.cap.mode = true ∧
        x.c.cap.role ≠ .displaced ∧ x.addr 0 % sizeBytes x.a.size = 0 ∧ x.addr 0 < 2 ^ 56 ∧ ∀ l ∈ x.c.leases, l.vline ≠ x.addr 0 / 128)) := by
  and_intros <;> decide +kernel
/-! ## Witnesses: encodings, the step, lane instructions -/

def isNext (o : Host.Outcome State Fault Refusal) : Bool := match o with | .next _ => true | _ => false

theorem isNext_iff (o : Host.Outcome State Fault Refusal) : isNext o = true ↔ ∃ t, o = .next t := by cases o <;> simp [isNext]

noncomputable def decodesTo (n : Nat) (w : BitVec 128) (i : Instr) : Bool := okWith (decode n w) fun j => decide (j = i)

theorem hyps_RoundTrips :
    ((Instr.capEnter { longFields (.s 10) (.s 20) (.small 15) .none with aux := 0x07FF, imm := 0xFFFFFFFF }).crewOp =
      some (0xDA, { longFields (.s 10) (.s 20) (.small 15) .none with aux := 0x07FF, imm := 0xFFFFFFFF }) ∧
      (Instr.capEnter { longFields (.s 10) (.s 20) (.small 15) .none with aux := 0x07FF, imm := 0xFFFFFFFF }).wf = true) ∧
    (pairOf (halfArgs 0x60 (.v 255) (.v 1) (.v 2) .none) (halfArgs 0x82 (.v 11) (.v 3) .none .none)).ok = true ∧
    ((Instr.policyAndi 15 15 0x3FFFF).policyWord.isSome = true ∧ (Instr.policyAndi 15 15 0x3FFFF).wf = true) ∧
    decodesTo 12 0x0000002017FFFF805FF80019 (.brx { fields .none (.v 2) .none .none with form := .f96, mod := 2, imm := 0x20 }) = true ∧
    decodesTo 4 0x90400020 (.policyRdc 1 0x20) = true := by
  and_intros <;> decide +kernel

def nop0 : Instr := .nop (fields (.v 0) (.v 0) (.v 0) (.v 0))
/-- A unit at an address of its image, which the cache holds or not. -/
def unitAt (pc : Dword) (cached : Bool) : State :=
  let s := stateOf (unitBy fun h => { h with pc := pc }) 0 id
  if cached then s else s.modCore 0 fun c => { c with icache := [] }
/-- What a fetch answers, as a test of it. -/
def State.fetches (s : State) (pc : Dword) (q : BitVec 128 → Nat → Bool) : Bool :=
  okWith (s.fetch 0 1 placedLaunch pc (s.crews.getD 0 crew0 |>.units.getD 0 unit0).origin).2 fun r => q r.1 r.2

/-- A word at the PC; the only operation of a routine; a step of the device. -/
theorem hyps_StepRunsDecoded :
    (base.focus = some (0, 0) ∧ base.crews.get? 0 = some crew0 ∧ crew0.units.get? 0 = some unit0 ∧ base.launches.get? crew0.launch = some placedLaunch ∧
      base.fetches unit0.pc (fun w len => decodesTo len w nop0) = true) ∧
    (let s := State.reset.placePolicy 0x90400020;
      s.focus = none ∧ s.agenda = [] ∧ s.power = true ∧ s.engineOf = some 0 ∧ (s.cluster 0).due ≤ s.ck ∧
      (s.cluster 0).cycles ≤ (s.cluster 0).code.allowance ∧ (s.cluster 0).code.words[(s.cluster 0).word]? = some 0x90400020 ∧
      decodePolicy 0x90400020 = some (.policyRdc 1 0x20)) ∧
    (let s := { State.reset with agenda := [.lanePortPerform 0 0] };
      s.focus = none ∧ s.agenda = .lanePortPerform 0 0 :: [] ∧ (Instr.lanePortPerform 0 0).isStep = true ∧ s.power = true) := by
  and_intros <;> decide +kernel

/-- Word 0x700 is of the reserved opcode 0xE0. -/
theorem hyps_FetchTraps_decode :
    (State.reset.placeCrew 0x700).focus = some (0, 0) ∧ (State.reset.placeCrew 0x700).crews.get? 0 = some crew0 ∧
    (State.reset.placeCrew 0x700).launches.get? crew0.launch = some placedLaunch ∧ unit0.debugStops = [] ∧ crew0.dbg.ctl.getLsbD 1 = false ∧
    (State.reset.placeCrew 0x700).fetches unit0.pc (fun w len => decide (w = 0x700 ∧ len = 8)) = true ∧
    (match decode 8 0x700 with | .error _ => true | .ok _ => false) = true := by
  and_intros <;> decide +kernel

/-- The PC is beyond the image; it is at the last word of a fetch block. -/
theorem hyps_FetchTraps_place : ∀ p ∈ [(0x80, false), (0x1C, true)], let pc := placedCode + BitVec.ofNat 64 p.1
    (unitAt pc false).focus = some (0, 0) ∧ (unitAt pc false).crews.get? 0 = some (unitBy (fun h => { h with pc := pc }) crew0) ∧
    ((unitAt pc false).core 0).codeLine 1 (pc.toNat / 128) = none ∧ placedLaunch.executable pc.toNat = p.2 ∧ (p.2 = true → pc.toNat % 32 = 0x1C) := by
  decide +kernel

/-- One step from the state with a NOP at the PC. -/
theorem hyps_StepKeepsMemory : Memory.wf base.mem = true ∧ isNext (step base) = true := by and_intros <;> decide +kernel

theorem hyps_IntegerTests_IntegerIndices : ∀ op ∈ [0x50, 0x5F], ∀ i ∈ [0, 1, 2, 3],
    Meets op (fields (.v 4) (.small i) .none .none) id 0 id (fun x s => s.launches.get? x.c.launch = some placedLaunch) := by decide +kernel

/-- A saturating sum beyond the bounds, in an active lane and in the one result of a scalar shape, and one within them. -/
theorem hyps_IntegerSums_IntegerSaturation :
    Meets 0x20 { fields (.v 4) (.v 2) (.small 15) .none with mod := 1 } (vReg 2 0x7FFFFFFF) 0 id (fun x _ => x.satBit = true ∧
      (if x.vector then 95 < 96 ∧ x.h.mask.getLsbD 95 = true else 95 = 0) ∧ x.highest 32 < x.i0 95 + x.i1 95) ∧
    (∀ w ∈ [((0x7FFFFFF0 : Nat), false), (0x7FFFFFF1, true)], Meets 0x20 { fields (.s 4) (.s 2) (.small 15) .none with mod := 1 } (sRegs [(2, BitVec.ofNat 32 w.1)]) 0 id
      (fun x _ => x.satBit = true ∧ x.vector = false ∧ decide (x.i0 0 + x.i1 0 < x.lowest 32 ∨ x.highest 32 < x.i0 0 + x.i1 0) = w.2)) := by
  decide +kernel

theorem hyps_IntegerLogic : (fields (.v 4) (.v 2) (.v 2) (.small 0x0A)).ok 0x35 = true ∧ Opnd.isVec (.v 6) = true ∧
    (∀ op ∈ [0x30, 0x31, 0x32, 0x34], (fields (.v 4) (.v 2) (.v 2) .none).ok op = true) ∧ (fields (.v 4) (.v 2) .none .none).ok 0x33 = true := by
  and_intros <;> decide +kernel

theorem hyps_IntegerBitwise : (∀ op ∈ [0x3E, 0x3F, 0x40, 0x41], (fields (.v 4) (.v 2) .none .none).ok op = true) ∧
    (∀ op ∈ [0x43, 0x44, 0x45, 0x46, 0x47], (fields (.v 4) (.v 2) (.v 2) .none).ok op = true) ∧
    (fields (.v 4) (.v 2) (.v 2) (.v 2)).ok 0x3D = true := by and_intros <;> decide +kernel

/-- The least and the greatest numbers of each format. -/
theorem hyps_FloatRounding : ∀ f ∈ [fp32, bf16, fp16, e4m3], ∀ rnd < 4, ∀ e ∈ [(-1200 : Int), 0, 1200],
    (1 : Nat) ≠ 0 ∧ ((f.roundNum rnd false 1 e).2.getLsbD 2 = true ∨ (f.roundNum rnd false 1 e).2.getLsbD 2 = false) := by decide +kernel

/-- An ADD beside a multiplication; the pair writes two registers. -/
def pair0 : PairArgs := pairOf (halfArgs 0x20 (.v 10) (.v 1) (.v 2) .none) (halfArgs 0x30 (.v 11) (.v 3) (.v 1) .none)

theorem hyps_PairIssue :
    let x : Ctx := ⟨0, 0, crew0, unit0, { pair0.a.args with sw := pair0.sw, wait := pair0.wait }, 16, 0⟩
    base.focus = some (0, 0) ∧ base.crews.get? 0 = some crew0 ∧ crew0.units.get? 0 = some unit0 ∧ base.softErrors = [] ∧ pairFault pair0 = none ∧
    crew0.cap.mode = false ∧ unit0.debugStops = [] ∧ crew0.dbg.ctl.getLsbD 1 = false ∧
    (∀ n < 8, pair0.wait.getLsbD n = true → crew0.tokens.getD n 0 = 0) ∧ pairRegTrap pair0 x = none ∧
    isVariable pair0.a.opcode.toNat = false ∧ isVariable pair0.b.opcode.toNat = false ∧
    (laneSem? pair0.a.opcode.toNat).isSome = true ∧ (laneSem? pair0.b.opcode.toNat).isSome = true := by
  and_intros <;> decide +kernel

/-- The first lane opcode, the last, and a destination of each kind. -/
theorem hyps_LaneFrame :
    ∀ p ∈ [(0x20, fields (.v 4) (.v 2) (.v 2) .none, Instr.iadd (fields (.v 4) (.v 2) (.v 2) .none)),
        (0x20, fields (.s 62) (.s 2) (.s 2) .none, .iadd (fields (.s 62) (.s 2) (.s 2) .none)),
        (0x20, fields (.o 7) (.v 2) (.v 2) .none, .iadd (fields (.o 7) (.v 2) (.v 2) .none)),
        (0x9F, fields (.v 4) (.v 2) (.v 2) (.v 2), .vsqz (fields (.v 4) (.v 2) (.v 2) (.v 2)))],
      Meets p.1 p.2.1 id 0 id (fun x s => p.2.2.crewOp = some (p.1, x.a) ∧ isNext (exec p.2.2 s) = true) := by decide +kernel
/-! ## Witnesses: the device's own steps -/

/-- The crew and its main unit in a state. -/
def unitIs (st : UnitState) (c : Crew) : Crew := unitBy (fun h => { h with st := st }) c
def held0 (f : Crew → Crew) (g : State → State) : State := { stateOf f 0 g with focus := none }
/-- The unit is there. -/
abbrev hasUnit (s : State) (f : Crew → Crew) (h : CrewUnit) : Prop := s.has 0 0 (f crew0) h

def entering0 : UnitState := .entering 0x0A#512 (placedCode + 4)
def fullResult : Result := { result0 with id := 3, flags := 1, tok := some 7, writes := [{ reg := .v 4, mask := BitVec.allOnes 96, vals := List.replicate 96 5 }] }

theorem hyps_UnitSteps :
    (let s := (held0 id id).modCore 0 fun c => { c with cand := [(0, (0, 63))] };
      s.chosen 0 0 = some (0, 0, 63) ∧ (0, 0, 63) ∈ s.candidates 0 0 ∧ s.ungated 0 = true ∧ s.hasIssued 0 = false) ∧
    ({ held0 id id with spent := [(0, 0)] } : State).hasIssued 0 = true ∧
    (((held0 id id).modCore 0 fun c => { c with gate := 0, gateNew := 0 }).ungated 0 = false) ∧
    (let s := { held0 (fun c => unitIs .marked { c with out := [fullResult], tokens := [(7, 1)] }) id with ck := 1 };
      s.crews.get? 0 = some (unitIs .marked { crew0 with out := [fullResult], tokens := [(7, 1)] }) ∧
      (unitIs .marked { crew0 with out := [fullResult], tokens := [(7, 1)] }).out.find? (fun r => r.id == 3) = some fullResult ∧
      fullResult.parts = 0 ∧ fullResult.due ≤ s.ck ∧ (unitIs .marked crew0).units.get? fullResult.unit = some { unit0 with st := .marked }) ∧
    (let s := held0 (fun c => { c with out := [{ fullResult with parts := 1 }] }) id;
      s.crews.get? 0 = some { crew0 with out := [{ fullResult with parts := 1 }] } ∧ ({ fullResult with parts := 1 } : Result).parts ≠ 0) ∧
    hasUnit (held0 (unitIs .limited) id) (unitIs .limited) { unit0 with st := .limited } ∧
    (hasUnit (held0 (unitIs entering0) id) (unitIs entering0) { unit0 with st := entering0 } ∧ (unitIs entering0 crew0).nextEntry = some 0 ∧
      (held0 (unitIs entering0) id).launches.get? crew0.launch = some placedLaunch) ∧
    (∀ n ∈ [0, 9], hasUnit (held0 (unitIs (.dozing n)) id) (unitIs (.dozing n)) { unit0 with st := .dozing n }) ∧
    hasUnit (held0 (unitIs (.suspended .result true)) id) (unitIs (.suspended .result true)) { unit0 with st := .suspended .result true } ∧
    (hasUnit (held0 (unitIs (.stalled (.entry 5 [0] false 5))) (tiled 5 (entryIn 1 0 false))) (unitIs (.stalled (.entry 5 [0] false 5)))
        { unit0 with st := .stalled (.entry 5 [0] false 5) } ∧ unit0.since + 1048576 ≤ ({ held0 id id with ck := 1048576 } : State).ck ∧
      (held0 (unitIs (.stalled (.entry 5 [0] false 5))) (tiled 5 (entryIn 1 0 false))).clear 0 0 (unitIs (.stalled (.entry 5 [0] false 5)) crew0)
        { unit0 with st := .stalled (.entry 5 [0] false 5) } (.entry 5 [0] false 5) = false) ∧
    (∀ acq ∈ [true, false], let s := { held0 (unitIs (.stalled (.chute 63 acq))) (chuted 63 chute0 1 0) with ck := 64 }
      hasUnit s (unitIs (.stalled (.chute 63 acq))) { unit0 with st := .stalled (.chute 63 acq) } ∧ unit0.since + 64 ≤ s.ck ∧
      s.inst? (coreOf 0) 63 = some (0, chute0)) ∧
    (let s := { chuted 63 (chuteOf true [1, 0, 0, 0]) 0 0 base with credits := [(0, ⟨0, 1, 63⟩)] };
      s.credits.get? 0 = some ⟨0, 1, 63⟩ ∧ chuteIn s 0 63 = some (chuteOf true [1, 0, 0, 0])) := by
  unfold hasUnit State.has; and_intros <;> decide +kernel

/-- A lane hoist of four bytes from 0x100 to offset 8 of the own block, its only lane. -/
def hoist1 : Hoist := { hoist0 with kind := .lane, lanes := [(95, 0x100, 8)], total := 4, tok := some 7 }
def queued0 (h : Hoist) (s : State) : State := (mapped s).modCore 0 fun c => { c with queues := [(0, [.hoist h])] }
/-- Its memory address is not mapped. -/
def hoist2 : Hoist := { hoist1 with lanes := [(95, 0x100000000, 8)] }
def ready0 (t : Task) (s : State) : State := tasked { t with started := false } s

theorem hyps_EngineSteps :
    (let s := stateOf id 0 (queued0 hoist1);
      s.hoist? 0 0 0 = some hoist1 ∧ s.hoistMayRun 0 0 hoist1 = true ∧ s.ungated 0 = true ∧ hoist1.piece? = some ⟨95, 0x100, 8, 4, 96⟩ ∧
      s.launches.get? hoist1.launch = some placedLaunch ∧
      okWith (s.translate 0 placedLaunch.part 0x100 false false true) (fun r => !r.2.lineHeld (r.1.pa / 128) none && !r.2.hoistQueued (r.1.pa / 128) hoist1 && r.2.homeTakes 0 (r.1.pa / 128) && (hoist1.readBytes? ⟨95, 0x100, 8, 4, 96⟩).isNone && r.2.softErrors.isEmpty &&
        decide (r.2.peerBlock 0 hoist1.launch 8 = some block0)) = true) ∧
    (stateOf id 0 (queued0 hoist1)).windowGone 0 hoist1 = none ∧
    (let h := { hoist1 with read := [(2, List.replicate 128 9)] }; let s := stateOf id 0 (queued0 h);
      s.hoist? 0 0 0 = some h ∧ s.hoistMayRun 0 0 h = true ∧ h.readBytes? ⟨95, 0x100, 8, 4, 96⟩ = some [9, 9, 9, 9] ∧ s.windowGone 0 h = none ∧
      s.softErrors = [] ∧ s.peerBlock 0 h.launch 8 = some block0) ∧
    (let s := stateOf id 0 (queued0 hoist2);
      s.hoist? 0 0 0 = some hoist2 ∧ s.hoistMayRun 0 0 hoist2 = true ∧ hoist2.piece? = some ⟨95, 0x100000000, 8, 4, 96⟩ ∧
      (match s.landPiece 0 hoist2 ⟨95, 0x100000000, 8, 4, 96⟩ with | .error (.fault _) => true | _ => false) = true) ∧
    (∀ p ∈ [(96, true), (95, false)], let s := stateOf (fun c => { c with tokens := [(7, 1)] }) 0 (queued0 { hoist1 with cursor := p.1, started := true })
      s.hoist? 0 0 0 = some { hoist1 with cursor := p.1, started := true } ∧ s.hoistDone 0 0 { hoist1 with cursor := p.1, started := true } = p.2 ∧ hoist1.tgt = 0 ∧
      (∀ e ∈ s.blocks, e.2.strategy ≠ 4) ∧ s.findCrew hoist1.launch hoist1.name = some 0 ∧ unit0.st = .ready) ∧
    (let s := ready0 task0 base; s.task? 0 4 9 = some { task0 with started := false } ∧ s.taskMayStart 0 4 { task0 with started := false } = true ∧
      s.ungated 0 = true ∧ task0.kind ≠ 2 ∧ task0.id = 9) ∧
    (∀ op ∈ [0xC7, 0xCF], let t := { task0 with op := op, kind := 2, chute := 63, started := false }
      let s := (ready0 t (chuted 63 chute0 (if op = 0xCF then 0 else 2) 0 base)).modCore 0 fun c =>
        { c with tiles := [(8, { entryIn (if op = 0xCF then 0 else 2) 0 true with base := 1 })] }
      s.task? 0 4 9 = some t ∧ s.taskMayStart 0 4 t = true ∧ s.ungated 0 = true ∧ (s.core 0).chutes.get? t.chute = some chute0 ∧
      s.tile? 0 (chute0.first + chute0.tail) = some { entryIn (if op = 0xCF then 0 else 2) 0 true with base := 1 } ∧ chute0.tail = chute0.head) ∧
    (let t := { task0 with op := 0xCF, entry := some 8 }; let s := { tasked t base with moved := [(0, 8)] }; s.task? 0 4 9 = some t ∧ t.entryMoved 0 s = true) ∧
    (let t := { task0 with op := 0xCC, started := false }; let s := ready0 t base; s.task? 0 4 9 = some t ∧ s.taskMayStart 0 4 t = false) ∧
    (ready0 task0 base).task? 0 4 9 = some { task0 with started := false } := by
  and_intros <;> decide +kernel

/-- Two store-buffer entries, of which the first may go; a sent store. -/
def entries0 : List StoreEntry := [entry0, { entry0 with line := 5, rel := true }]
def flight0 : Flight := { crew := 0, launch := 1, name := (0, 0), part := 0, entry := { entry0 with line := 8, bytes := [(0, 1), (127, 2)] }, performed := false, acks := [1, 2] }
def req0 : BankReq := { input := 11, core := 3, line := 8, own := true, key := 0, since := 0, part := 0 }
def atBank (b : Bank) (s : State) : State := { s with banks := [(bankOf (8 * 128), b)] }

/-- The request waits at a bank of die 1. -/
def State.modBankInputs (s : State) : State := { s with banks := (64, { Bank.reset with inputs := [req0] }) :: s.banks }

theorem hyps_CachesAndMemory_MemorySteps :
    (let s := held0 (fun c => { c with sbuf := entries0 }) id;
      s.crews.get? 0 = some { crew0 with sbuf := entries0 } ∧ entries0[0]? = some entry0 ∧ s.maySend { crew0 with sbuf := entries0 } 0 entry0 = true ∧
      s.findCrew crew0.launch crew0.name = some 0) ∧
    (base.maySend { crew0 with sbuf := entries0 } 1 { entry0 with line := 5, rel := true } = false ∧ entries0[1]? = some { entry0 with line := 5, rel := true }) ∧
    (let s := { (mapped base).modCore 0 (fun c => { c with l1 := [(8, .modified)] }) with flights := [(0, flight0)] };
      s.flights.get? 0 = some flight0 ∧ flight0.acks.head? = some 1 ∧ s.mayPerform 0 flight0 = true ∧ s.keyed 0 (8 * 128) = true ∧
      s.guarded 8 = false ∧ (flight0.entry.bytes.map (·.1)).Nodup) ∧
    ({ mapped base with flights := [(0, flight0)] } : State).mayPerform 0 flight0 = false ∧
    (let s := (mapped base).modCluster 0 fun c => { c with holder := some 0 };
      (s.cluster (clusterOf 0)).holder = some 0 ∧ okWith (s.translate 0 0 0x1000 true false false) (fun _ => true) = true) ∧
    (let s := { base.modCore 4 fun c => { c with l1 := [(8, .shared)] } with probes := [(0, ⟨0, 8, 0, 1, false, 0⟩)] };
      s.probes.find? (fun e : Nat × Probe => e.2.core == 0 && e.2.line == 8 && !e.2.supplied) = some (0, ⟨0, 8, 0, 1, false, 0⟩) ∧
      (∃ j < 4, (s.core (4 * 1 + j)).l1.get? 8 = some .shared)) ∧
    (let s := { base with probes := [(0, ⟨0, 8, 0, 1, true, 0⟩)] }; s.probes.get? 0 = some ⟨0, 8, 0, 1, true, 0⟩ ∧ s.lineHeld 8 none = false ∧ (s.core 0).l1.length < l1Lines) ∧
    (∀ lk ∈ [true, false], let s := { atBank { Bank.reset with inputs := [req0] } base with dir := [(8, { Line.reset with locked := lk })] }
      s.bankTurn (bankOf (8 * 128)) req0 ∧ s.lineQueued 8 = false ∧ s.lineHeld 8 none = lk ∧ s.l2Room 8 = true ∧ req0.own = true) ∧
    (let s := atBank { Bank.reset with active := [req0] } base; (s.bank (bankOf (8 * 128))).active.find? (fun r => r.line == 8) = some req0 ∧
      (s.core req0.core).l1.length < l1Lines ∧ s.l2Room 8 = true ∧ s.flights = []) ∧
    (let f := { flight0 with crew := 96 }; let s := { atBank { Bank.reset with active := [req0] } (mapped base) with flights := [(0, f)], crews := [] };
      coreOf f.crew = req0.core ∧ f.home = false ∧ f.performed = false ∧ s.leased 8 none = false ∧ s.l2Room 8 = true ∧ s.keyed 0 (8 * 128) = true ∧
      s.guarded 8 = false ∧ (f.entry.bytes.map (·.1)).Nodup) ∧
    (let s := atBank Bank.reset base |>.modBankInputs;
      s.bankTurn 64 { req0 with line := 8 } ∧ bankOf (8 * 128) ≠ 64) ∧
    ((mapped base).backed (8 * 128) = true ∧ (mapped base).keyed 0 (8 * 128) = true ∧ base.keyed 0 (8 * 128) = false ∧ base.guarded 8 = false ∧ base.l2Room 8 = true) ∧
    ({ base with keys := [(15, .discarded)] } : State).keys.get? 15 = some .discarded ∧
    (let r : Retention := { Retention.reset with en := true, idle := 0 }; r.en = true ∧ r.state = 0 ∧ r.lastAccess + r.window ≤ 1900000) ∧
    base.frameHeld 31 0 = false := by
  unfold State.bankTurn; and_intros <;> decide +kernel

theorem hyps_Capsules_CapsuleSteps :
    ((held0 (leased 3) id).crews.get? 0 = some (leased 3 crew0) ∧ (leased 3 crew0).cap.mode = false) ∧
    (∀ g ∈ [id, owning2], let f := fun c => unitIs (.suspended (.barrier 0 1) false) (running .holder 1 c); let s := held0 f fun s => g (mapped s);
      s.crews.get? 0 = some (f crew0) ∧ (f crew0).units.get? 0 = some { unit0 with st := .suspended (.barrier 0 1) false } ∧ (f crew0).cap.mode = true ∧
      (f crew0).cap.descheduled = false ∧ okWith (s.translate 0 (s.partOf (f crew0)) 0x1000 true false false) (fun r =>
        r.2.owns 0 (r.1.pa / 128) == s.owns 0 32 && !r.2.lineHeld (r.1.pa / 128) (some 0) && r.1.pa % 256 == 0 && !r.2.guarded (r.1.pa / 128) &&
        r.2.keyed r.1.key r.1.pa) = true) ∧
    (let s := { held0 (leased 3) id with blocks := [(0, { block0 with strategy := 3 })] };
      s.crews.get? 0 = some (leased 3 crew0) ∧ (leased 3 crew0).units = [(0, unit0)] ∧ unit0.st = .ready ∧ s.halted 0 unit0 = true) ∧
    (let s := { base with notices := [(4, .adoption 1 0)] }; s.notices.get? 4 = some (.adoption 1 0) ∧ s.findCrew 1 (s.crewNamed 1 0) = some 0 ∧ s.crews.get? 0 = some crew0) ∧
    (let f := unitIs (.suspended .result false); let s := { held0 f id with notices := [(4, .delivery 1 0 7 none)] };
      s.notices.get? 4 = some (.delivery 1 0 7 none) ∧ s.findCrew 1 (s.crewNamed 1 0) = some 0 ∧ s.crews.get? 0 = some (f crew0)) ∧
    (let s := { counted 5 ctr0 base with notices := [(4, .delivery 1 0 7 (some 5))] };
      s.notices.get? 4 = some (.delivery 1 0 7 (some 5)) ∧ s.findCrew 1 (s.crewNamed 1 0) = some 0 ∧ s.blocks = [(0, block0)] ∧ block0.launch = 1 ∧
      block0.number = crew0.block ∧ (s.core 0).counters.get? 5 = some ctr0 ∧ ctr0.owner = 0 % 16) := by
  and_intros <;> decide +kernel
/-! ## Witnesses: packets and commands -/

/-- A packet of a kind; its other fields by offset, bytes and value. -/
def pk (kind : Nat) (fs : List (Nat × Nat × Nat)) : BitVec 512 := BitVec.ofNat 512 ((fs.map fun f => f.2.2 * 2 ^ (8 * f.1)).sum + kind * 2 ^ 40)
/-- A mapped queue of 64 packets whose record is at 0x100000, rings after it, with a packet at its head. -/
def queue0 (priv : Nat) (p : BitVec 512) : Queue :=
  { record := 0x100000, pbase := 0x101000, cbase := 0x103000, lsize := 0, priv := priv, tenant := 0, part := 0, wbase := 0, wlen := 2 ^ 40, rd := true
    wr := true, fx := true, gen := 0, slot := some 0, mappedAt := 0, head := 0, tail := 1, ctail := 0, current := some p, ahead := [], unlanded := none
    started := [], depend := false, stopped := false, destroy := none, writes := [], paused := false, unmappedAt := 0 }
def running0 (s : State) : State := { mapped s with boot := .running }
def qs (priv : Nat) (p : BitVec 512) (g : State → State) : State := g { running0 base with queues := [(0, queue0 priv p)] }

/-- The packet may start, has no stray byte, and something holds once head has moved past it. -/
abbrev Offers (priv : Nat) (p : BitVec 512) (g : State → State) (lo : Nat) (used : List (Nat × Nat)) (pre : Queue → State → Prop) : Prop :=
  (qs priv p g).offers 0 (queue0 priv p) p ∧ strayByte p lo used = none ∧ pre (queue0 priv p) ((qs priv p g).begin 0 p)
abbrev Commands (priv code : Nat) (fs : List (Nat × Nat × Nat)) (g : State → State) (used : List (Nat × Nat)) (pre : Queue → State → Prop) : Prop :=
  let p := pk 6 ((24, 2, code) :: fs)
  Offers priv p g 26 [(32, 32)] pre ∧ strayByte p 32 used = none

theorem hyps_QueuesAndLaunches_simple :
    Offers 1 (pk 3 []) id 24 [] (fun _ _ => True) ∧
    Offers 1 (pk 4 [(24, 8, 0x200)]) id 24 [(24, 8)] (fun q _ => q.grants 0x200 8 false true false = true) ∧
    Offers 1 (pk 4 [(24, 8, 2 ^ 40)]) id 24 [(24, 8)] (fun q _ => q.grants (2 ^ 40) 8 false true false = false) ∧
    Offers 1 (pk 2 [(24, 8, 0x200), (32, 8, 1)]) id 24 [(24, 32)] (fun q _ => q.grants 0x200 8 true false false = true) ∧
    Offers 1 (pk 1 [(24, 8, 2 ^ 40), (32, 4, 64)]) id 64 [] (fun q _ => q.grants (2 ^ 40) 64 true false false = false) ∧
    (let s := qs 1 (pk 3 []) id; s.startable 0 (queue0 1 (pk 3 [])) = some (pk 3 []) ∧ (packetOf (pk 3 []))[1]?.map (· (pk 3 [])) = some false) ∧
    (let s := { qs 1 (pk 3 []) id with slotGens := [(0, 1)] }; s.startable 0 (queue0 1 (pk 3 [])) = some (pk 3 []) ∧ s.refLive (queue0 1 (pk 3 [])) = false) := by
  unfold Offers State.offers; and_intros <;> decide +kernel

/-- Words of four bytes in physical memory. -/
def put4 (ws : List (Nat × Nat)) (s : State) : State := { s with mem := ws.foldl (fun m w => m.storeBytes w.1 (leBytes 4 w.2)) s.mem }
def withQueue0 (q : Queue) (s : State) : State := { s with queues := [(0, q)] }
/-- The tail that the record holds, with what follows. -/
def tailReads (s : State) (q : Queue) (f : Nat → State → Bool) : Bool := match s.readTail q with | some (n, s1) => f n s1 | none => false
def bare0 : Queue := { queue0 1 0 with current := none, tail := 0 }
def started0 (p : BitVec 512) (ready : Bool) : Started := { index := 0, packet := p, launch := 0, ready := ready, status := 0, detail := 0, waits := [] }

theorem hyps_QueuesAndLaunches_read :
    (let s := put4 [(0x100034, 65)] (withQueue0 bare0 (running0 base));
      (s.flushWrites 0).queues.get? 0 = some bare0 ∧ (s.flushWrites 0).served 0 bare0 = true ∧
      tailReads (s.flushWrites 0) bare0 (fun n _ => decide (bare0.entries < since32 n bare0.head)) = true) ∧
    (let s := put4 [(0x100034, 1), (0x101004, 0x300)] (withQueue0 bare0 (running0 base));
      (s.flushWrites 0).served 0 bare0 = true ∧ bare0.ahead.get? 0 = none ∧
      tailReads (s.flushWrites 0) bare0 (fun n s1 => n == 1 && okWith ((s1.modQueue 0 fun q => { q with tail := n }).vread 0 0x101000 64) fun r =>
        decide (pktSeq (BitVec.ofNat 512 (leNat r.1)) = 0 ∧ badPacket (BitVec.ofNat 512 (leNat r.1)) = none)) = true) ∧
    (let a : Ahead := { packet := pk 3 [], data := [], xmap := [], code := [], params := [] }
      let s := put4 [(0x100034, 1)] (withQueue0 { bare0 with ahead := [(0, a)] } (running0 base));
      (s.flushWrites 0).queues.get? 0 = some { bare0 with ahead := [(0, a)] } ∧ (s.flushWrites 0).served 0 { bare0 with ahead := [(0, a)] } = true ∧
      tailReads (s.flushWrites 0) bare0 (fun n _ => n == 1) = true ∧ badPacket a.packet = none) ∧
    (∀ seq ∈ [0x300, 0x10300], let q := { bare0 with tail := 1, unlanded := some (0, 0) }
      let s := put4 [(0x101004, seq)] (withQueue0 q { running0 base with ck := 256 })
      s.queues.get? 0 = some q ∧ s.served 0 q = true ∧ okWith (s.vread 0 0x101000 64) (fun r =>
        decide (pktSeq (BitVec.ofNat 512 (leNat r.1)) = 0 ↔ seq = 0x300)) = true) ∧
    (let q := { bare0 with tail := 1, unlanded := some (0, 1048000) };
      let s := withQueue0 q { running0 base with ck := 1048576 }; s.queues.get? 0 = some q ∧ s.served 0 q = true ∧ s.ringRoom q = true) ∧
    ((withQueue0 bare0 (running0 base)).queues.get? 0 = some bare0 ∧ bare0.unlanded = none) ∧
    (let q := { bare0 with depend := true, head := 1, tail := 1, started := [started0 (pk 2 [(24, 8, 0x200)]) false] };
      let s := withQueue0 q (running0 base);
      s.served 0 q = true ∧ q.started.find? (fun x => pktKind x.packet == 2 && !x.ready) = some (started0 (pk 2 [(24, 8, 0x200)]) false) ∧
      (match s.dependHolds 0 (pk 2 [(24, 8, 0x200)]) with | some (b, _) => b | none => false) = true) ∧
    (∀ k ∈ [1, 4], let q := { bare0 with head := 1, tail := 1, started := [started0 (pk k [(4, 1, 1)]) true] }
      let s := withQueue0 q (running0 base)
      s.queues.get? 0 = some q ∧ q.started.find? (fun y => y.index == 0) = some (started0 (pk k [(4, 1, 1)]) true) ∧
      pktKind (started0 (pk k [(4, 1, 1)]) true).packet ≠ 6 ∧ s.launchStores 0 = false) := by
  and_intros <;> decide +kernel

/-- A launch block of one kernel: one block of one crew, 64 registers, 1 KiB, a code image of 64 bytes at 0x2000. -/
def block64 : List Byte := leBytes 64 (0x2000 + 2 ^ 64 * 0x300 + 2 ^ 160 * 64 + 2 ^ 224 * 0xFFFFFFFF + 2 ^ 256 * 96 + 2 ^ 266 + 2 ^ 276 + 2 ^ 288 +
  2 ^ 340 + 2 ^ 352 + 2 ^ 365 * 64 + 2 ^ 374 * 64)
def launchPk : BitVec 512 := pk 1 [(24, 8, 0x200), (32, 4, 64)]

theorem hyps_QueuesAndLaunches_launch :
    (let s := qs 1 launchPk fun s => { s with mem := s.mem.storeBytes 0x200 block64 };
      s.offers 0 (queue0 1 launchPk) launchPk ∧ okWith ((s.begin 0 launchPk).vread 0 0x200 64) (fun r => decide (r.1 = block64) &&
        decide (r.2.refuses (parseBlock block64) (queue0 1 launchPk) launchPk [] = none) && okWith (r.2.vread 0 0x300 1) fun m =>
          okWith (m.2.accept m.2.nextLaunch (launchOf (parseBlock block64) (queue0 1 launchPk) launchPk 0 m.1 [])) fun _ => true) = true) ∧
    (arrayOutside (blockWord block64 0 64) 64 = none ∧ launchStray launchPk = none ∧ (parseBlock block64).groups = [] ∧
      bits (blockWord block64 0 64) 0 64 = 0x2000 ∧ bits (blockWord block64 0 64) 160 32 = 64 ∧ bits (blockWord block64 0 64) 64 64 = 0x300 ∧
      (queue0 1 launchPk).grants 0x2000 64 false false true = true ∧ (queue0 1 launchPk).grants 0x300 1 false false true = true) ∧
    (∀ st ∈ [LaunchState.waiting, .running], let l := { placedLaunch with st := st }; let s := { running0 base with launches := [(1, l)] };
      s.launches.get? 1 = some l ∧ s.chuteBusy l = none ∧ l.chutes = [] ∧ okWith (s.accept 1 l) (fun _ => true) = true) := by
  unfold State.offers; and_intros <;> decide +kernel

/-- A queue of which a started packet may complete: it is quiet and failed, voided, or a command that has reached its end. -/
def ending (x : Started) (g : Queue → Queue) : State := withQueue0 (g { bare0 with head := 1, tail := 1, started := [x] }) (running0 base)
abbrev EndsAt (x : Started) (g : Queue → Queue) (p : State → Queue → Prop) : Prop :=
  let q := g { bare0 with head := 1, tail := 1, started := [x] }
  (ending x g).completing 0 0 q x ∧ p (ending x g) q

theorem hyps_QueuesAndLaunches_ends :
    (∀ x ∈ [started0 (pk 3 []) true, { started0 (pk 3 []) true with status := 255 }, { started0 (pk 3 [(8, 8, 0x200)]) true with life := 1 }],
      EndsAt x id fun s _ => pktKind x.packet ≠ 6 ∧ x.ready = true ∧ s.launchStores 0 = false) ∧
    (∀ c ∈ [[(24, 2, 0x03), (32, 4, 1)], [(24, 2, 0x05), (32, 4, 1)], [(24, 2, 0x06), (32, 4, 9)], [(24, 2, 0x0E), (32, 1, 0)]],
      EndsAt (started0 (pk 6 c) false) id fun s _ => pktKind (pk 6 c) = 6 ∧ pkt (pk 6 c) 24 2 ∉ [2, 4, 8] ∧
        (started0 (pk 6 c) false).waits = [] ∧ (∀ l ∈ s.launches.get? 1, l.st ≠ .halted) ∧ s.launches.get? 9 = none ∧
        ∀ y ∈ s.parts.get? 0, y.resetting = false) ∧
    (∀ c ∈ [4, 8], EndsAt (started0 (pk 6 [(24, 2, c), (32, 4, 1)]) false) id fun s _ =>
      (∀ l ∈ s.launches.get? 1, l.st ≠ .halting) ∧ (∀ n ∈ [0, 1, 2, 3], s.partStores n = false)) ∧
    EndsAt (started0 (pk 6 [(24, 2, 2), (32, 8, 0x100000)]) false) (fun q => { q with destroy := some (0, 0) }) (fun s q =>
      s.queues.get? 0 = some q ∧ q.destroy = some (0, 0) ∧ (∀ y ∈ q.started, y.index = 0) ∧ ∀ e ∈ s.queues, e = (0, q)) ∧
    (let q := { queue0 1 0 with current := none }; let s := withQueue0 q (running0 base)
      s.queues.get? 0 = some q ∧ okWith (s.vwrite 0 0x200 [1, 2]) (fun _ => true) = true ∧
        (match s.vwrite 0 (2 ^ 41) [1, 2] with | .error (.fault _ _) => true | _ => false) = true ∧
        okWith (s.devXlate 0 0x27F true false) (fun r => r.2.keyed r.1.key r.1.pa && !r.2.fixed r.1.pa) = true) := by
  unfold EndsAt State.completing; and_intros <;> decide +kernel

/-- A launch block that is too short, and one with a reserved bit set that is too long. -/
theorem hyps_QueuesAndLaunches_refused :
    (let p := pk 1 [(24, 8, 0x200), (32, 4, 63)]; let s := qs 1 p id
      s.offers 0 (queue0 1 p) p ∧ (queue0 1 p).grants (pkt p 24 8) (pkt p 32 4) true false false = true ∧ (queue0 1 p).ahead.get? (queue0 1 p).head = none ∧
        launchStray p = none ∧ okWith ((s.begin 0 p).vread 0 0x200 63) (fun _ => true) = true) ∧
    (let p := pk 1 [(24, 8, 0x200), (32, 4, 64)]; let s := qs 1 p id
      s.offers 0 (queue0 1 p) p ∧ launchStray p = none ∧ okWith ((s.begin 0 p).vread 0 0x200 64) (fun r =>
        decide ((queue0 1 p).blockOutside (blockWord r.1 0 64) 64 = none) && ((r.2.refuses (parseBlock r.1) (queue0 1 p) p
          ((parseBlock r.1).groups.map (memberSpans (bits (blockWord r.1 0 64) 288 32 * (kernelRegion (blockWord r.1 0 64)).shape.crews)))).isSome)) = true) := by
  unfold State.offers; and_intros <;> decide +kernel

def launched (l : Launch) (s : State) : State := { s with launches := [(1, l)] }

/-- A queue record that is all zero but for its ring sizes. -/
theorem hyps_CommandSteps :
    Commands 2 0x01 [(32, 8, 0x104000)] id [(32, 10)] (fun q s => 2 ≤ q.priv ∧ createFor q (pk 6 [(24, 2, 1), (32, 8, 0x104000)]) = (0, 0) ∧
      (s.part? 0).isSome = true ∧ okWith (s.vread 0 0x104000 64) (fun r => decide (r.2.queueAt 0 0x104000 = none ∧ r.2.queues.length < 4096 ∧
        r.2.queues.get? 1 = none ∧ bits (leNat r.1) 0 242 = 0) && (let q' := queueOf 0x104000 (leNat r.1) 0 0 q r.2.ck;
          decide (q'.priv ≠ 3 ∧ q'.priv ≤ q.priv ∧ q'.lsize ≤ 10 ∧ q'.pbase.toNat % 64 = 0 ∧ q'.cbase.toNat % 32 = 0 ∧
            q'.grants q'.pbase.toNat (64 * q'.entries) true false false = true ∧
            q'.grants q'.cbase.toNat (32 * q'.entries) false true false = true))) = true) ∧
    Commands 1 0x02 [(32, 8, 0x100000)] id [(32, 8)] (fun q s => q.grants 0x100000 64 true true false = true ∧
      (s.queueAt q.part 0x100000).any (fun e => e.2.destroy.isNone) = true) ∧
    Commands 1 0x03 [(32, 4, 1), (40, 4, 1024)] id [(32, 4), (40, 4)] (fun q s => s.launches.get? 1 = some placedLaunch ∧ placedLaunch.tenant = q.tenant) ∧
    (∀ p ∈ [(2 ^ 40, true), (0, false)], Commands 1 0x04 [(32, 4, 1)] (launched { placedLaunch with saveLen := p.1 }) [(32, 4)] (fun _ s =>
      s.launches.get? 1 = some { placedLaunch with saveLen := p.1 } ∧ placedLaunch.st = .running ∧
      decide (s.haltBytes 1 ≤ p.1 - ({ placedLaunch with saveLen := p.1 } : Launch).saveUsed) = p.2)) ∧
    Commands 1 0x05 [(32, 4, 1)] (launched { placedLaunch with st := .halted }) [(32, 4), (40, 1)] (fun _ s =>
      s.launches.get? 1 = some { placedLaunch with st := .halted } ∧ s.part? 0 = some { tenant := 0, clusters := 1, root1 := some 0x2080000, power := 0, resetting := false } ∧
      (s.clusters.any fun c => c.2.granted.any fun g => g.launch == 1) = false ∧
      s.matchClusters 1 { placedLaunch with st := .halted } 0 ({ placedLaunch with st := .halted } : Launch).imageClusters (s.clustersOf 0) = some []) ∧
    Commands 1 0x05 [(32, 4, 1), (40, 1, 1)] (fun s => launched { placedLaunch with st := .halted, assign := [(0, 0)] } { s with parts := (s.parts.put 1
        { tenant := 0, clusters := 0, root1 := none, power := 0, resetting := false }) }) [(32, 4), (40, 1)] (fun _ s =>
      s.launches.get? 1 = some { placedLaunch with st := .halted, assign := [(0, 0)] } ∧ s.part? 1 = some { tenant := 0, clusters := 0, root1 := none, power := 0, resetting := false } ∧
      (s.clusters.any fun c => c.2.granted.any fun g => g.launch == 1) = false ∧
      s.matchClusters 1 { placedLaunch with st := .halted, assign := [(0, 0)] } 1
        ({ placedLaunch with st := .halted, assign := [(0, 0)] } : Launch).imageClusters (s.clustersOf 1) = none) ∧
    Commands 1 0x06 [(32, 4, 1)] id [(32, 4)] (fun _ s => s.launches.get? 1 = some placedLaunch) ∧
    (∀ n ∈ [0, 1, 2, 3], Commands 1 0x0F [(32, 4, 1), (36, 1, 2 ^ n), (37, 1, 3), (40, 8, 0x4000), (48, 4, 4096), (52, 4, 0x11)] id [(32, 6), (40, 16)]
      (fun q s => s.launches.get? 1 = some placedLaunch ∧ q.grants 0x4000 4096 true true false = true)) ∧
    (∀ n ∈ [0, 1, 2, 3], lowestSet (pk 6 [(24, 2, 0x0F), (36, 1, 2 ^ n)]) = n) ∧
    Commands 0 0x06 [(32, 4, 1)] id [(32, 4)] (fun q _ => q.priv < 1) := by
  unfold Commands Offers State.offers; and_intros <;> decide +kernel

/-- The retention register of the last group: a reserve at the base of die 3's capacity tier. -/
def retains (en : Nat) : Nat := en + 2 ^ 10 * 5 + 2 ^ 30 * 1000 + 2 ^ 40 * (0x01C000000000 / 2 ^ 24)

theorem hyps_SystemCommands :
    Commands 1 0x07 [(32, 1, 1), (40, 8, 2 ^ 18)] id [(32, 2), (40, 8)] (fun q s => (s.part? 0).any (fun x => x.tenant == q.tenant) = true) ∧
    Commands 2 0x07 [(32, 1, 2), (33, 1, 15), (40, 8, 1024)] id [(32, 2), (40, 8)] (fun q _ => 2 ≤ q.priv) ∧
    (∀ p ∈ [(1, 1, 0), (2, 2, 0), (1, 1, 1)], Commands p.1 0x08 [(32, 1, p.2.1), (33, 1, p.2.2)] id [(32, 4), (40, 16)] (fun q s =>
      (p.2.1 = 1 ∨ p.2.1 = 2 ∧ 2 ≤ q.priv) ∧ 0 ∈ s.partsOf 0)) ∧
    Commands 2 0x09 [(32, 1, 15), (36, 4, 7)] id [(32, 1), (36, 4)] (fun _ _ => True) ∧
    Commands 2 0x0A [(32, 1, 63)] id [(32, 2)] (fun _ s => s.keys.get? 63 = none) ∧
    Commands 2 0x0A [(33, 1, 1)] id [(32, 2)] (fun _ s => s.keyLive 0 = true) ∧
    Commands 2 0x0B [(32, 8, 0x28000), (40, 8, 2), (48, 1, 63), (49, 1, 1)] id [(32, 18)] (fun _ _ => isFrame 5 = true ∧ isFrame 6 = true ∧
      inHbm 0x28000 = inHbm 0x30000) ∧
    (∀ en ∈ [0, 1], Commands 2 0x0C [(32, 1, 31), (40, 8, retains en)] id [(32, 1), (40, 8)] (fun _ s => bits (retains en) 30 10 ≤ 1000 ∧
      bits (retains en) 40 24 * 2 ^ 24 % 2 ^ 34 = 0 ∧ inCapacity (bits (retains en) 40 24 * 2 ^ 24) = true ∧
      homeDie (bits (retains en) 40 24 * 2 ^ 24) = 31 / 8 ∧ (s.retention.getD 31 Retention.reset).state = 0)) ∧
    Commands 2 0x0C [(32, 1, 31), (40, 8, retains 1)] (fun s => { s with retention := [(31, { Retention.reset with state := 2, reserve := BitVec.ofNat 24 (0x01C000000000 / 2 ^ 24 + 1024) })] }) [(32, 1), (40, 8)] (fun _ s =>
      (s.retention.getD 31 Retention.reset).state ≠ 0 ∧ (s.retention.getD 31 Retention.reset).reserve.toNat ≠ bits (retains 1) 40 24) ∧
    Commands 2 0x0D [(32, 1, 15), (33, 1, 15), (36, 4, 2 ^ 31)] id [(32, 2), (36, 4)] (fun _ s => s.part? 15 = none ∧
      (∀ e ∈ s.parts, e.2.clusters &&& BitVec.ofNat 32 (2 ^ 31) = 0) ∧ ∀ n < 32, (2 ^ 31 : Nat).testBit n = true → (s.cluster n).shared = false) ∧
    Commands 2 0x0D [(32, 1, 0)] id [(32, 2), (36, 4)] (fun _ s => (s.part? 0).isSome = true) ∧
    Commands 2 0x0E [(32, 1, 0)] id [(32, 1)] (fun _ s => (s.part? 0).isSome = true) ∧
    (∀ b ∈ [true, false], let x : Part := { tenant := 0, clusters := 1, root1 := none, power := 0, resetting := b }
      ({ base with parts := [(0, x)] } : State).part? 0 = some x ∧ x.resetting = b) := by
  unfold Commands Offers State.offers; and_intros <;> decide +kernel

def policyPk (op : Nat) (fs : List (Nat × Nat × Nat)) : BitVec 512 := pk 5 ((24, 1, op) :: fs)
def loadPk : BitVec 512 := policyPk 0 [(25, 1, 1), (26, 1, 1), (32, 8, 0x200), (40, 2, 1), (44, 8, 0x0F0000001000), (52, 4, 64)]

/-- A routine of END alone, and one of ENDL. -/
theorem hyps_PolicyPackets :
    (∀ w ∈ [0, 0xC8000000], Offers 2 loadPk (put4 [(0x200, w)]) 24 [(24, 4), (32, 24)] (fun q s => inMailbox 0x0F0000001000 = true ∧
      loadAllowance loadPk ≤ (s.tenant 0).alim ∧ q.grants 0x200 4 true false false = true ∧
      s.loadCheck q loadPk = some (if w = 0 then none else some 0))) ∧
    Offers 1 (policyPk 1 []) id 24 [(24, 4)] (fun q s => (s.part? 0).any (fun x => x.tenant == q.tenant) = true) ∧
    Offers 2 (policyPk 2 [(25, 1, 15), (26, 1, 1), (32, 8, 2 ^ 40 - 1), (56, 2, 64)]) id 24 [(24, 3), (32, 26)] (fun q _ => 2 ≤ q.priv) ∧
    Offers 2 (policyPk 3 [(25, 1, 31), (33, 3, 0xFFFFFF)]) (fun s => s.modCluster 31 fun c => { c with holder := some 0 }) 24 [(24, 2), (32, 4)] (fun q s => 2 ≤ q.priv ∧
      (s.cluster 31).holder.isSome = true ∧ shareList (policyPk 3 [(33, 3, 0xFFFFFF)]) = [0] ∧ (s.part? 0).isSome = true ∧ ∀ e ∈ s.launches, e.2.benches = []) ∧
    (∀ priv ∈ [1, 2], Offers priv (policyPk 4 [(32, 8, 100000), (40, 4, 10)]) id 24 [(24, 1), (32, 12)] (fun q _ => q.priv = priv)) := by
  unfold Offers State.offers; and_intros <;> decide +kernel
/-! ## Witnesses: dispatch -/

/-- Cluster 0 is held by partition 0. -/
def clus (g : Cluster → Cluster) (s : State) : State := s.modCluster 0 fun c => g { c with holder := some 0 }
def empty0 : State := { mapped base with crews := [], blocks := [], focus := none }
def granting (saved : Bool) (s : State) : State := clus (fun c => { c with granted := [{ core := 3, launch := 1, block := 7, saved := saved }] }) s
def bench0 : Bench := { closing := false, inmask := 0, outmask := 0, persist := [], share := 1, stack := [], shape := placedLaunch.shape, mincores := 1, maxcores := 4 }
def piped : Launch := { placedLaunch with benches := [bench0], assign := [(3, 0)], rebal := 100 }
def blocks0 (b : Block) (s : State) : State := { s with blocks := [(0, b)] }
def saved0 (c : Crew) (f : Saved → Saved) : Saved := f
  { block := { block0 with number := 7 }, core := 3, bslot := 2, crews := [c], tiles := [], counters := [], queues := [], partials := [], bytes := 0
    extents := [], image := [], soft := [], runnable := true, fromSave := true, queued := false }
def keeping (l : Launch) (v : Saved) (s : State) : State := { s with launches := [(1, { l with saved := [(7, v)] })] }
def stoppedCrew : Crew := unitBy (fun h => { h with st := .dozing 9 }) crew0
/-- A crew whose lease holds line 64. -/
def holder0 (line : Nat) : Crew := { crew0 with leases := [⟨line, line, 100, false, 0⟩] }

theorem hyps_BlockSteps_place :
    (let s := launched placedLaunch (granting false empty0); s.placing 1 3 placedLaunch ∧ placedLaunch.benches = [] ∧
      s.grant? 3 1 7 false = true ∧ (s.fit 3 placedLaunch.shape).isSome = true) ∧
    (let s := launched piped (clus id empty0); s.placing 1 3 piped ∧ piped.benches ≠ [] ∧ piped.mustRestore = false ∧ piped.benchOn 3 = some 0 ∧
      (s.fit 3 (piped.shapeOf 0)).isSome = true) ∧
    (∀ n ∈ [0, 8], let l := { placedLaunch with parlen := n };
      let c := { crew0 with units := [] };
      let s := launched l (blocks0 block0 { mapped base with crews := [(0, c)] });
      s.blocks.get? (blockKey 0 0) = some block0 ∧ s.launches.get? block0.launch = some l ∧ l.benches = [] ∧ ∀ k ∈ block0.crews, s.crews.get? k = some c ∧
        c.launch = 1) := by
  unfold State.placing; and_intros <;> decide +kernel

theorem hyps_BlockSteps_preempt :
    (let b := { block0 with strategy := 1, limit := 2048 };
      let s := launched { placedLaunch with saveLen := 2 ^ 20, restart := true } (blocks0 b (mapped base));
      s.blocks.get? (blockKey 0 0) = some b ∧ s.blockRetiring b = false ∧
      (((s.strategies (blockKey 0 0)).filter fun x => x.1 != 1).find? (fun x => x.1 == 2)).any (fun x => decide (b.limit - s.ck < x.2)) = true ∧
      (cheapest ((s.strategies (blockKey 0 0)).filter fun x => x.1 != 1)).isSome = true) ∧
    (let b := { block0 with strategy := 2 };
      let l := { placedLaunch with saveLen := 2 ^ 20 };
      let s := launched l (blocks0 b { mapped base with crews := [(0, stoppedCrew)] });
      s.blocks.get? (blockKey 0 0) = some b ∧ s.launches.get? b.launch = some l ∧ (s.crews.get? 0 = some stoppedCrew ∧
        stoppedCrew.stopped (s.waitingResults 0 stoppedCrew) = true ∧ stoppedCrew.onIssue = false ∧ stoppedCrew.units ≠ []) ∧
      s.itemsSavable 0 b.launch b.number = true ∧ s.foreignWindow (blockKey 0 0) b = false ∧ l.saveUsed + s.contextBytes (blockKey 0 0) ≤ l.saveLen ∧ (s.descheduleAll b.crews).2 = true) ∧
    (let b := { block0 with strategy := 3 };
      let s := launched placedLaunch (blocks0 b (mapped base));
      s.blocks.get? (blockKey 0 0) = some b ∧ s.blockItems (blockKey 0 0) = [] ∧ s.foreignWindow (blockKey 0 0) b = false ∧
      (s.descheduleAll b.crews).2 = true) := by
  and_intros <;> decide +kernel

/-- No line is held in the state of the save. -/
theorem hyps_BlockSteps_lines : State.linesFree (launched placedLaunch (blocks0 block0 { mapped base with crews := [(0, stoppedCrew)] })) := by
  exact ⟨fun n => ⟨rfl, rfl⟩, fun bank => rfl⟩

theorem hyps_BlockSteps_restore :
    (∀ st ∈ [LaunchState.running, .halted], let v := saved0 stoppedCrew id;
      let l := { placedLaunch with st := st, saved := [(7, v)] };
      let s := launched l (granting true empty0);
      s.returning 1 7 3 l v ∧ okWith (s.readImage l v) (fun r => decide (r.1 = v) &&
        (r.2.fitSaved 3 r.1 (if l.st = .halted then some v.bslot else none)).isSome) = true) ∧
    (let v := saved0 stoppedCrew fun v => { v with extents := [(0, 64)], image := [(0, List.replicate 64 0)], bytes := 64 };
      let l := { placedLaunch with saveAddr := 0x100000000, saved := [(7, v)] };
      let s := launched l (granting true empty0);
      s.returning 1 7 3 l v ∧ (match s.readImage l v with | .error (.refused n) => n == 0 | _ => false) = true) ∧
    (let v := saved0 stoppedCrew fun v => { v with extents := [(0, 64)], image := [(0, List.replicate 64 0)], bytes := 64 };
      let l := { placedLaunch with saveAddr := 0x2000, saved := [(7, v)] };
      let s := launched l (granting true { mapped base with crews := [(0, holder0 64)], blocks := [], focus := none });
      s.returning 1 7 3 l v ∧ (match s.readImage l v with | .error (.waits n) => n == 64 | _ => false) = true) ∧
    (∀ w ∈ [true, false], let c := unitBy (fun h => { h with st := .suspended .result w }) crew0;
      let v := saved0 c fun v => { v with runnable := false };
      (keeping placedLaunch v empty0).savedAt 1 7 v ∧ (keeping placedLaunch v empty0).couldGoOn 1 v = w) := by
  refine ⟨?_, ?_, ?_, fun w hw => ⟨⟨{ placedLaunch with saved := [(7, _)] }, rfl, rfl⟩, ?_⟩⟩
  · unfold State.returning; decide +kernel
  · unfold State.returning; decide +kernel
  · unfold State.returning; decide +kernel
  · simp only [List.mem_cons, List.not_mem_nil, or_false] at hw
    rcases hw with rfl | rfl <;> decide +kernel

def pending0 (point : Nat) : Invocation :=
  { point := point, layer := 0, part := 0, launch := 1, block := 7, candidate := false, core := 3, since := 0 }
def routine0 : Routine := { words := [0], wbase := 0x0F0000001000, wlen := 64, allowance := 64, part := 0 }
def routined (point : Nat) (s : State) : State := clus (fun c => { c with routines := [(routineKey point 0 0, routine0)] }) s

theorem hyps_BudgetsAndDecisions_BudgetSteps :
    (∀ p ∈ [(64, true), (63, false)], let s := { base with ck := p.1, nextCharge := 64, nextPeriod := 64, tenants := [(0, { Tenant.reset with enf := true })] };
      (decide (s.nextCharge ≤ s.ck) = p.2 ∧ decide (s.nextPeriod ≤ s.ck) = p.2 ∧ (s.tenant 0).enf = true)) ∧
    (let s := launched piped base; s.launches.get? 1 = some piped ∧ piped.benches ≠ [] ∧ piped.st = .running ∧ piped.nextRebal ≤ s.ck ∧
      s.clustersOf piped.part = []) ∧
    (let s := launched piped (routined pointRebalance (mapped base)); s.launches.get? 1 = some piped ∧ (s.clustersOf piped.part).head? = some 0 ∧
      (s.cluster 0).routines.get? (routineKey pointRebalance 0 piped.part) ≠ none) ∧
    (let s := launched piped (clus id (mapped base)); piped.benches.length ≤ 8 ∧ (s.clustersOf piped.part).head? = some 0 ∧
      (s.cluster 0).routines.get? (routineKey pointRebalance 0 piped.part) = none) ∧
    (let l := { piped with benches := [bench0, bench0], assign := [(0, 0), (3, 0)] }; let s := launched l (clus id (mapped base));
      let ts : List Share := [⟨0, 1, 1, 4⟩, ⟨1, 1, 1, 4⟩]; s.launches.get? 1 = some l ∧ (s.nextMove l ts).map (·.2) = some 1 ∧
        (0 < (s.coresOf l.part).length - l.closingCores)) ∧
    (let s := launched { piped with nextRebal := 1 } base; s.launches.get? 1 = some { piped with nextRebal := 1 } ∧ s.ck < 1) := by
  and_intros <;> decide +kernel

/-- A queued new block of the launch. -/
def queued1 : RunEntry := { launch := 1, block := 7, prio := 0, saved := false, since := 0, here := 0 }
def migrant0 : Migrant := { launch := 1, block := 7, prio := 0, saved := false, since := 0, from_ := 1, part := 0 }

theorem hyps_BudgetsAndDecisions_DecisionSteps :
    (let l := { placedLaunch with nextBlock := 7, nblocks := 8 };
      let s := launched l (clus id empty0);
      s.launches.get? 1 = some l ∧ (s.enqueueSource 0 1 7 l).any (fun p => !p.1) = true ∧ s.defaults 0 pointEnqueue l.part ∧
      (∀ e ∈ (s.cluster 0).runq, ¬ (e.launch = 1 ∧ e.block = 7))) ∧
    (let l := { placedLaunch with requeue := [(7, 0)] };
      let s := launched l (routined pointEnqueue empty0);
      s.launches.get? 1 = some l ∧ (s.enqueueSource 0 1 7 l).isSome = true ∧ (s.cluster 0).routines.get? (routineKey pointEnqueue 0 l.part) ≠ none) ∧
    (let s := launched placedLaunch (clus (fun c => { c with runq := [queued1] }) empty0);
      s.mayPlace 0 0 = true ∧ (s.cluster 0).holder = some 0 ∧ s.defaults 0 pointPick 0 ∧ (s.queuedFor 0 0).any (fun e => s.entryFits 3 e) = true ∧
      (roundRobin (s.cluster 0).lastPicked (s.takeable 0 0)).isSome = true) ∧
    (base.cluster 31).holder = none ∧
    (∀ p ∈ [(19000, true), (18999, false)], let s := { base with ck := p.1 };
      decide ((s.cluster 31).nextTick ≤ s.ck) = p.2 ∧ (s.cluster 31).shared = false) ∧
    (let c := unitBy (fun h => { h with st := .suspended .result false, since := 0 }) crew0;
      let s := launched placedLaunch (blocks0 block0 { clus id (mapped base) with ck := 4096, crews := [(0, c)] });
      s.blocks.get? (blockKey 0 0) = some block0 ∧ s.blockIdle block0 = true ∧ s.launches.get? block0.launch = some placedLaunch ∧
      s.defaults (clusterOf 0) pointBlock placedLaunch.part) ∧
    (let v := saved0 crew0 fun v => { v with fromSave := false };
      let s := keeping placedLaunch v (clus id empty0);
      s.launches.get? 1 = some { placedLaunch with saved := [(7, v)] } ∧ v.core / 4 = 0 ∧ v.runnable = true ∧ v.queued = false ∧
      s.defaults 0 pointWake 0) ∧
    (let s := (routined pointEnqueue empty0).modCluster 0 fun c => { c with pending := [pending0 pointEnqueue] };
      (s.cluster 0).running = none ∧ (s.cluster 0).nextInvocation = some (pending0 pointEnqueue) ∧
      (s.cluster 0).routines.get? (routineKey pointEnqueue 0 0) = some routine0) ∧
    (∀ p ∈ [(65, true), (64, false)], let s := (routined pointEnqueue empty0).modCluster 0 fun c =>
        { c with running := some (pending0 pointEnqueue), code := routine0, cycles := p.1 };
      (s.cluster 0).running = some (pending0 pointEnqueue) ∧ decide ((s.cluster 0).code.allowance < (s.cluster 0).cycles) = p.2) := by
  unfold State.defaults; and_intros <;> decide +kernel

theorem hyps_BudgetsAndDecisions_DecisionSteps_holders :
    (let s := empty0.modCluster 0 fun c => { c with change := some (1, false), holder := some 0 };
      (s.cluster 0).change = some (1, false) ∧ (s.cluster 0).holder = some 0 ∧ s.blocksOfPart 0 0 = [] ∧ (∀ e ∈ s.launches, e.2.benches = [])) ∧
    (base.cluster 31).change = none ∧
    (let s := { launched placedLaunch (empty0.modCluster 31 fun c => { c with holders := [0, 1], holder := some 1, servedSince := [(0, 0)], runq := [queued1] }) with
        ck := 10000000 };
      (s.cluster 31).change = none ∧ (s.cluster 31).shared = true ∧ (s.cluster 31).holders.contains 0 = true ∧ s.overdue 31 0 = true) ∧
    (let s := { empty0 with migRing := [(0, [migrant0])], launches := [] };
      s.migRing.getD 0 [] = [migrant0] ∧ s.roomiest ((s.clustersOf 0).filter fun n => n / 8 == 0) = some 0 ∧ s.launches.get? 1 = none) ∧
    (let s := { launched placedLaunch (routined pointEnqueue empty0) with migRing := [(0, [migrant0])] };
      s.migRing.getD 0 [] = [migrant0] ∧ s.roomiest ((s.clustersOf 0).filter fun n => n / 8 == 0) = some 0 ∧
      s.launches.get? 1 = some placedLaunch ∧ (s.cluster 0).routines.get? (routineKey pointEnqueue 0 0) ≠ none) := by
  and_intros <;> decide +kernel

/-- Shared clusters with an entry of another holder, and none; a block of the holder that the rotation takes away. -/
theorem hyps_BudgetsAndDecisions_DecisionSteps_rotation :
    ∀ q ∈ [[queued1], []], let s := launched placedLaunch ({ empty0 with ck := 19000 }.modCluster 31 fun c => { c with
        holders := [2, 0, 1], holder := some 1, runq := q });
      (s.cluster 31).nextTick ≤ s.ck ∧ (s.cluster 31).holders = [2, 0] ++ 1 :: [] ∧ (s.cluster 31).change = none ∧
      (s.cluster 31).routines.get? (routineKey pointTick 1 0) = none ∧ (s.cluster 31).pending = [] ∧ s.queuedFor 31 2 = [] ∧
      (decide (s.queuedFor 31 0 = []) = q.isEmpty) := by decide +kernel

theorem hyps_BudgetsAndDecisions_DecisionSteps_lines : State.linesFree (empty0.modCluster 0 fun c => { c with change := some (1, false), holder := some 0 }) := by
  exact ⟨fun n => ⟨rfl, rfl⟩, fun bank => rfl⟩

/-- Cluster 31's engine performs a word. -/
def engine (g : Cluster → Cluster) (s : State) : State := s.modCluster 31 fun c => g { c with running := some (pending0 pointTick), code := routine0 }

theorem hyps_PolicyEngine_PolicyOperations :
    (engine id base).engineOf = some 31 ∧ ((engine id base).cluster 31).loops = [] ∧ ((engine id base).cluster 31).running = some (pending0 pointTick) ∧
    (∀ n ∈ [1, 2], (engine (fun c => { c with loops := [⟨1, n, 3⟩] }) base).engineOf = some 31 ∧
      ((engine (fun c => { c with loops := [⟨1, n, 3⟩] }) base).cluster 31).loops = [⟨1, n, 3⟩]) ∧
    (∀ p ∈ [(0, 8), (56, 8), (60, 4)], (engine id base).inWindow 31 5 (BitVec.ofNat 18 p.1) p.2 ∧
      (∀ i < p.2, (engine id base).lineOpen 31 (windowAt ((engine id base).cluster 31) 5 (BitVec.ofNat 18 p.1) + i) ∧
        (engine id base).poisoned 0 (windowAt ((engine id base).cluster 31) 5 (BitVec.ofNat 18 p.1) + i) = false ∧
        inMailbox (windowAt ((engine id base).cluster 31) 5 (BitVec.ofNat 18 p.1) + i) = true ∧
        (engine id base).fixed (windowAt ((engine id base).cluster 31) 5 (BitVec.ofNat 18 p.1) + i) = false)) ∧
    (let s := engine id { base with crews := [(0, holder0 (0x0F0000001000 / 128))] };
      s.inWindow 31 5 0 8 ∧ ¬ s.lineOpen 31 (windowAt (s.cluster 31) 5 0) ∧ ¬ s.lineOpen 31 (windowAt (s.cluster 31) 5 0 + 8 - 1)) ∧
    (let c := { base.cluster 0 with code := { routine0 with words := [0xC0000000, 0xC8000000, 0xC8000000] }, word := 0 };
      c.code.words.drop 1 = [] ++ 0xC8000000 :: [0xC8000000] ∧ balanced [] ∧ balanced [0xC0000000, 0xC8000000] ∧ (0xC8000000#32).toNat / 2 ^ 26 = 0x32) := by
  refine ⟨?_, ?_, ?_, ?_, ?_, ?_, ?_, ⟨by decide, fun k => by simp [opened, closed]⟩, ⟨by decide, fun k => ?_⟩, by decide⟩
  · decide +kernel
  · decide +kernel
  · decide +kernel
  · decide +kernel
  · unfold State.inWindow State.lineOpen; decide +kernel
  · unfold State.inWindow State.lineOpen; decide +kernel
  · decide +kernel
  · rcases k with _ | _ | k <;> simp [opened, closed]

theorem hyps_PolicyEngine_PolicyDecisions :
    (∀ n ∈ [0, 1], let s := blocks0 { block0 with number := 7 } ({ mapped base with ck := 1 }.modCluster 31 fun c => { c with
        running := some (pending0 pointBlock), code := routine0, ended := some 0, decisions := [(6, BitVec.ofNat 64 n)] });
      (s.cluster 31).running = some (pending0 pointBlock) ∧ (s.cluster 31).ended = some 0 ∧ 0 < s.ck ∧
      s.blocks.find? (fun b => b.2.launch == 1 && b.2.number == 7 && !b.2.chute) = some (0, { block0 with number := 7 }) ∧
      s.blocks.get? 0 = some { block0 with number := 7 } ∧ ((s.cluster 31).decisions.getD 6 0).toNat = n) ∧
    (∀ p ∈ [(0, true), (1, false)], let s := engine (fun c => { c with ended := some 0 }) { base with ck := p.1 };
      (s.cluster 31).running = some (pending0 pointTick) ∧ (pending0 pointTick).layer = 0 ∧ (s.cluster 31).ended = some 0 ∧ decide (s.ck ≤ 0) = p.2) := by
  and_intros <;> decide +kernel
/-! ## Witnesses: fault rings, errors, boot, resets, ports -/

def ringAt (n : Nat) (r : Ring) (s : State) : State := { s with rings := [(n, r)] }
def ringRec (restartable : Bool) : FaultRec := { record := 0x0A, target := .unit 1 (0, 0) 0 0, restartable := restartable }
/-- The only record of ring 16 has been passed with a disposition. -/
def passed (disp : Nat) (restartable : Bool) (s : State) : State :=
  ringAt 16 { Ring.reset with open_ := [ringRec restartable], tail := 1 }
    { s with boot := .running, mem := (s.mem.storeBytes (ringBase 16) (leBytes 4 1)).storeBytes (recordAt 16 0) (leBytes 1 disp) }
def heldBy (length : Nat) (dbg : DebugStop) : Hold := { cause := 0x0B, length := length, capsule := false, dbg := dbg }
def heldCrew (length : Nat) (dbg : DebugStop) : Crew := unitBy (fun h => { h with st := .held (heldBy length dbg) }) crew0

theorem hyps_FaultsAndErrors_FaultRings :
    (let s := ringAt 16 { Ring.reset with waiting := [ringRec true] } { base with boot := .running, ck := 1 };
      s.boot = .running ∧ (s.ring 16).waiting = ringRec true :: [] ∧ (ringRec true).time < s.ck ∧ s.faultAhead 16 (ringRec true) = false ∧
      since32 (s.ring 16).tail (s.ring 16).head ≠ 511 ∧ s.ringOpen [recordAt 16 (s.ring 16).tail, ringBase 16] = true) ∧
    (let s := ringAt 16 { Ring.reset with waiting := [ringRec true] } base; (s.ring 16).waiting = [ringRec true] ∧ s.ck ≤ (ringRec true).time) ∧
    (let s := { base with boot := .running, poison := [ringBase 3 / 128] }; s.boot = .running ∧ s.poisoned 0 (ringBase 3) = true ∧ (s.ring 3).bad = false) ∧
    ((base.ring 16).waiting = [] ∧ base.poisoned 0 (ringBase 16) = false ∧ (base.ring 16).bad = false ∧
      since32 (leNat (base.readBytes 0 (ringBase 16) 4)) (base.ring 16).head = 0) ∧
    (let s := ringAt 16 Ring.reset (passed 0 true base); s.poisoned 0 (ringBase 16) = false ∧ (s.ring 16).bad = false ∧
      since32 (s.ring 16).tail (s.ring 16).head < since32 (leNat (s.readBytes 0 (ringBase 16) 4)) (s.ring 16).head) ∧
    (∀ p ∈ [(0, true, 4, DebugStop.none), (2, true, 4, .none), (2, false, 12, .watch), (2, false, 8, .none), (3, true, 4, .none), (1, false, 4, .none),
      (2, false, 0, .none)],
      let s := passed p.1 p.2.1 (held0 (fun _ => heldCrew p.2.2.1 p.2.2.2) id);
      s.passes 16 (ringRec p.2.1) p.1 ∧ (heldBy p.2.2.1 p.2.2.2).serial = 0 ∧ (heldBy p.2.2.1 p.2.2.2).cause ≠ Cause.flag.code ∧
      s.heldAt 1 (0, 0) 0 0 (heldCrew p.2.2.1 p.2.2.2) { unit0 with st := .held (heldBy p.2.2.1 p.2.2.2) } (heldBy p.2.2.1 p.2.2.2)) ∧
    (let x := { heldBy 8 .none with cause := Cause.flag.code }
      let c := unitBy (fun h => { h with st := .held x }) crew0
      let s := passed 2 false (held0 (fun _ => c) id);
      s.passes 16 (ringRec false) 2 ∧ x.serial = 0 ∧ s.heldAt 1 (0, 0) 0 0 c { unit0 with st := .held x } x) ∧
    (let x := { heldBy 4 .none with serial := 1 }
      let c := unitBy (fun h => { h with st := .held x }) crew0
      let s := passed 0 true (held0 (fun _ => c) id);
      s.passes 16 (ringRec true) 0 ∧ x.serial ≠ 0 ∧ s.heldAt 1 (0, 0) 0 0 c { unit0 with st := .held x } x) := by
  unfold State.passes State.heldAt State.has; and_intros <;> decide +kernel

/-- A partial of queue 1 on core 5. -/
def partial1 : Partial := { queue := 1, launch := 1, name := (0, 0), seq := 0, fp := true, cols := [] }

theorem hyps_FaultsAndErrors_StorageErrors :
    (∀ p ∈ [(1, 95 + 128 * 255), (1, 0), (2, 128 * 63), (2, 2 ^ 13 + 95), (3, 2 ^ 19), (4, 31), (6, 127)],
      base.softWord p.1 0 p.2 = true ∧ base.softErrors.contains (p.1, 0, p.2) = false) ∧
    (∀ p ∈ [(1, 96), (2, 2 ^ 13 + 96), (3, 0), (6, 0)], ({ base with crews := [], blocks := [] } : State).softWord p.1 128 p.2 = false) ∧
    (let s := base.modCore 5 fun c => { c with partials := [partial1] };
      ((s.core (11 / 2)).partials.filter fun p => p.queue == 11 % 2)[(95 * 128) / 2 ^ 14]? = some partial1 ∧
      (95 * 128) % 2 ^ 14 / 128 < 96 ∧ partial1.bad.contains (95 * 128 % 2 ^ 14) = false) ∧
    (∀ p ∈ [(9, 0x0F0000000000), (10, 0), (11, 0x010000000000)], structureCode (p.2 / 128 * 128) = p.1 ∧
      (inHbm (p.2 / 128 * 128) || inCapacity (p.2 / 128 * 128) || inMailbox (p.2 / 128 * 128)) = true) ∧
    (∀ m ∈ [Mesi.modified, .shared], ((base.modCore 127 fun c => { c with l1 := [(64, m)] }).core 127).l1.get? 64 = some m) ∧
    (∀ d ∈ ([[], [(64, [])]] : List (Table (List Byte))), let s := { base with l2 := [(64, 1)], dirty := d };
      (s.l2.get? 64).isSome = true ∧ ((s.dirty.get? 64).isSome = true ↔ d ≠ [])) ∧
    (let s := ({ base with walks := [{ die := 3, stage1 := true, owner := 0, level := 1, at_ := 0, lo := 0, entry := 0 }] } : State).modCore 127 fun c =>
        { c with icache := [{ launch := 1, vline := 0, bytes := [], map := [] }], ccache := [{ launch := 1, vline := 0, bytes := [] }] };
      s.walks[0]?.isSome = true ∧ 0 < (s.core 127).icache.length ∧ 0 < (s.core 127).ccache.length) ∧
    (∀ p ∈ [(19000000, 1), (19000000, 0), (18999999, 0)], let s := { base with ck := p.1, eccCount := [(3, p.2)] };
      s.eccCount.getD 3 0 = p.2 ∧ (s.nextSummary.getD 3 19000000 ≤ s.ck ↔ p.1 = 19000000)) := by
  and_intros <;> decide +kernel

theorem hyps_BootAndResets_BootService :
    (∀ down ∈ [[], [31]], ({ base with boot := .running, cpDown := down } : State).cpDown.contains (8 * 3 + 7) = !down.isEmpty) ∧
    (base.port0Up ∧ base.boot ≠ .running ∧ base.boot ≠ .verifying ∧ (List.replicate 1024 (7 : Byte)).length = 1024 ∧ 0 + 1024 ≤ firmwareBytes ∧
      firmwareBytes < firmwareBytes - 1023 + 1024) ∧
    (∀ b ∈ [Boot.running, .verifying], ({ base with boot := b } : State).port0Up) ∧
    (∀ n ∈ [2, 3], ({ base with lifeCycle := n } : State).port0Up) ∧
    ({ base with portsDown := [0] } : State).portsDown.contains 0 = true := by
  unfold State.port0Up; and_intros <;> decide +kernel

theorem hyps_BootAndResets_ResetsAndPower :
    (∀ target ∈ [1, 2, 3], ({ base with lifeCycle := 0 } : State).port0Up ∧ ({ base with lifeCycle := 0 } : State).boot ≠ .running ∧
      ({ base with lifeCycle := 0 } : State).lifeCycle < target ∧ target ≤ 3) ∧
    (({ base with boot := .running } : State).port0Up ∧ base.port0Up ∧ base.lifeCycle ≤ base.lifeCycle) ∧
    (∀ p ∈ [(19000, true), (18999, false)], decide (({ base with ck := p.1 } : State).nextPower ≤ p.1) = p.2) ∧
    ((mapped base).part? 0).isSome = true ∧ (mapped base).part? 15 = none := by
  unfold State.port0Up; and_intros <;> decide +kernel

/-- Queue pair 5 at port 7, with a region from 0x200 of four lines and all its rights. -/
def qpair : QueuePair := { port := 7, part := 0, error := false, recv := 0x400 }
def region0 : Region := { key := 9, part := 0, base := 0x200, len := 512, rd := true, wr := true, atom := true }
def ported (s : State) : State := { mapped s with qps := [(5, qpair)], regions := [region0] }
def op0 : RdmaOp := { qp := 5, key := 9, va := 0x3F8, data := [1, 2, 3, 4], length := 8, compare := 0, operand := 1, imm := 0 }
def work0 (landed : Bool) : WorkRequest := { qp := 5, op := 0, va := 0x200, length := 8, remote := 0, key := 9, tag := 0, counter := none, landed := landed }

theorem hyps_PortSteps_rdma :
    ((ported base).accepts op0 op0.data.length (·.wr) qpair ∧ okWith ((ported base).vwrite 0 op0.va.toNat op0.data)
      (fun s => okWith (s.portRecord 0 (rdmaNote op0 3)) fun _ => true) = true) ∧
    ((ported base).takesSend op0 qpair ∧ ∀ kind ∈ [0, 1], okWith ((ported base).vwrite 0 qpair.recv.toNat op0.data)
      (fun s => okWith (s.portRecord 0 (rdmaNote op0 kind)) fun _ => true) = true) ∧
    ((ported base).accepts op0 op0.length (·.rd) qpair ∧ okWith ((ported base).vread 0 op0.va.toNat op0.length) (fun _ => true) = true) ∧
    (∀ x, op0.va.toNat % 8 = 0 ∧ (ported base).accepts { op0 with compare := x } 8 (·.atom) qpair) ∧
    (∀ v ∈ [1, 0], okWith ((ported base).vread 0 op0.va.toNat 8) (fun r => leNat r.1 == 0 &&
        okWith (r.2.vwrite 0 op0.va.toNat (leBytes 8 v)) fun _ => true) = true) ∧
    ((ported base).qps.get? 5 = some qpair ∧ (ported base).portTurn 5 (.rdma op0) = true ∧
      (ported base).region? qpair op0.key { op0 with va := 0x3F9 }.va.toNat op0.length = none) ∧
    (let r := { region0 with base := 0x100000000 }
      let s := { ported base with regions := [r] }
      let op := { op0 with va := 0x100000000 };
      s.accepts op op.length (·.rd) qpair ∧ s.portHeld.get? op.qp = none ∧
        (match s.vread 0 op.va.toNat op.length with | .error (.fault _ _) => true | _ => false) = true) := by
  refine ⟨⟨⟨?_, ?_, ?_, ?_, region0, ?_, ?_⟩, ?_⟩, ⟨⟨?_, ?_, ?_, ?_⟩, ?_⟩, ⟨⟨?_, ?_, ?_, ?_, region0, ?_, ?_⟩, ?_⟩,
    fun x => ⟨?_, ⟨?_, ?_, ?_, ?_, region0, ?_, ?_⟩⟩, ?_, ?_, ⟨⟨?_, ?_, ?_, ?_, { region0 with base := 0x100000000 }, ?_, ?_⟩, ?_, ?_⟩⟩ <;>
    first | decide +kernel | rfl

/-- The record of a completion goes to the ring's next place, and where the ring is not mapped nothing is written. -/
theorem hyps_PortSteps_record :
    let s := { ported base with portRings := [(0, { base := 0x600, entries := 16, written := 17 })] }
    s.portRings.get? 0 = some { base := 0x600, entries := 16, written := 17 } ∧ 0x600 + 32 * (17 % max 16 1) = 0x620 ∧
    okWith (State.vwrite { s with fresh := s.fresh + 1 } 0 0x620 ((wrNote (work0 true) 2).bytes s.fresh))
      (fun _ => true) = true := by
  and_intros <;> decide +kernel

theorem hyps_PortSteps_work :
    ((ported base).part? 0).isSome = true ∧ (∀ b ∈ [true, false], (work0 b).landed = b) ∧
    okWith ((ported base).portRecord 0 (wrNote (work0 false) 1)) (fun _ => true) = true ∧
    (let s := { ported base with portWork := [(3, { id := 3, wr := work0 true })] };
      s.portWork.get? 3 = some { id := 3, wr := work0 true } ∧ s.qps.get? (work0 true).qp = some qpair ∧
      ∀ p ∈ [(0, 0), (1, 1)], okWith (State.portMoves { s with portWork := s.portWork.del 3 } 0 p.1 qpair (work0 true)) (fun r => r.1 == p.2 &&
        okWith (r.2.portRecord 0 (wrNote (work0 true) r.1)) fun _ => true) = true) ∧
    (let s := counted 2047 ctr0 base; s.takesIncrement 1 0 2047 = true ∧ s.takesIncrement 1 0 2046 = false) ∧
    ((work0 true).op < 4 ∧ (work0 true).length ≠ 0 ∧ okWith ((ported base).vread 0 (work0 true).va.toNat (work0 true).length) (fun _ => true) = true) ∧
    (∀ p ∈ [(1, false, ([] : List Nat)), (0, true, []), (0, false, [7])], let q := { qpair with part := p.1, error := p.2.1 };
      q.part ≠ 0 ∨ q.error = true ∨ p.2.2.contains q.port = true) := by
  and_intros <;> decide +kernel

/-- A message of an operation, of two ranks, that fills eight bytes of INT32 with their sum. -/
def message0 (op : Nat) : Grenone := { qp := 5, header := BitVec.ofNat 256 (2 ^ 85 + op * 2 ^ 88 + 8 * 2 ^ 96 + 2 * 2 ^ 128), va := 0x200, own := 0, ranks := [[], [1, 2]] }

/-- What the message of an operation writes. -/
def written0 (m : Grenone) (op : Nat) (ranks : List (List Word)) : List Byte :=
  greBytes m (match op with
    | 3 => ranks.flatten
    | 2 => ((greReduced m ranks).drop ((greReduced m ranks).length / 2 * greField m 144 16)).take ((greReduced m ranks).length / 2)
    | 4 | 6 => ranks.getD (if op = 6 then 0 else greField m 144 16) []
    | _ => greReduced m ranks)

theorem hyps_PortSteps_messages :
    (∀ op ∈ [1, 2, 3, 4], (ported base).takesMessage (message0 op) qpair op ∧ greAnnounced (message0 op) op = true ∧
      okWith ((ported base).greRanks (message0 op) qpair) (fun r => (ported base).regionWrites 0 0x200 (written0 (message0 op) op r.1).length &&
        okWith (r.2.vwrite 0 0x200 (written0 (message0 op) op r.1)) fun _ => true) = true) ∧
    (∀ op ∈ [1, 2, 3, 4], let m := { message0 op with va := 0x3FE }; (ported base).takesMessage m qpair op ∧ greAnnounced m op = true ∧
      okWith ((ported base).greRanks m qpair) (fun r => !(ported base).regionWrites 0 0x3FE (written0 m op r.1).length) = true) ∧
    (let m := { message0 6 with own := 2, ranks := [[1, 2], []] }; (ported base).takesMessage m qpair 6 ∧ greAnnounced m 6 = true ∧
      okWith ((ported base).greRanks m qpair) (fun r => r.1 == m.ranks && (ported base).regionWrites 0 0x200 (written0 m 6 r.1).length &&
        okWith (r.2.vwrite 0 0x200 (written0 m 6 r.1)) fun _ => true) = true) ∧
    (∀ op ∈ [1, 2, 3, 4], let m := { message0 op with va := 0x100000000 }; (ported base).takesMessage m qpair op ∧ greAnnounced m op = true ∧
      (match (ported base).greRanks m qpair with | .error (.fault _ _) => true | _ => false) = true) ∧
    ((ported base).takesMessage (message0 5) qpair 5 ∧ okWith ((ported base).vread 0 0x200 (greField (message0 5) 96 32)) (fun _ => true) = true) ∧
    (∀ op ∈ [0, 7], greReserved (message0 op) = true) ∧
    (greField (message0 1) 84 4 = 2 ∧ greField (message0 1) 80 4 = 0 ∧ ([1, 2] : List Word).length = ([3, 4] : List Word).length) := by
  unfold State.takesMessage; and_intros <;> decide +kernel
/-! ## Witnesses: what is left unchanged -/

/-- Ready special functions, counters, a barrier, an engine's operation, and states of each kind of the device's own steps. -/
theorem hyps_EffectFrames :
    (∀ op ∈ [0x64, 0x77, 0x78, 0x79, 0x7A, 0x7B, 0x7C, 0x7D, 0x7E], Meets op ((readyFloat[op - 0x60]?).getD (fields .none .none .none .none)) id 0 id fun _ _ => True) ∧
    Meets 0xD5 { longFields .none (.s 2) .none .none with aux := 2047, scope := 1 } id 0 (counted 2047 { ctr0 with target := 0, count := 1 }) (fun x s =>
      x.scopeOk s = true ∧ (s.softErrors = [] ∧ x.eventNamed ≤ 2047 ∧ (s.core x.eventCore).counters.get? x.eventNamed = some { ctr0 with target := 0, count := 1 } ∧
        s.blocks.get? (blockKey x.eventCore ctr0.owner) = some block0 ∧ block0.launch = x.c.launch) ∧ x.releases s ∧ (x.word x.a.in0 0).toNat = 0) ∧
    (∀ g ∈ [id, counted 2047 ctr0], Meets 0xD6 { longFields .none (.s 2) (.s 4) .none with aux := 2047 } id 0 g (fun x s => x.eventNamed ≤ 2047 ∧
      ∀ c ∈ (s.core x.core).counters.get? x.eventNamed, c.owner = s.bslotOf x.k ∧ s.counterBusy x.core x.eventNamed = false)) ∧
    (∀ q ∈ [4, 3, 0], Meets 0xD8 { longFields .none .none .none .none with aux := 15, scope := 1 } id 0 (grouped (bar0 4 q)) (fun x s =>
      x.member s (groupLaunch (bar0 4 q)) (bar0 4 q) ∧ x.h.barEpoch = none ∧ x.a.ctl.getLsbD 0 = false ∧ x.pends (bar0 4 q) = false ∧ x.releases s)) ∧
    (engine id base).engineOf = some 31 ∧ ((engine id base).cluster 31).running = some (pending0 pointTick) ∧
    ({ base with boot := .verifying } : State).boot = .verifying ∧ ({ base with boot := .running } : State).cpDown.contains (8 * 3 + 7) = false := by
  unfold Ctx.member Ctx.releases; and_intros <;> decide +kernel
/-! ## The manual's worked examples -/

/-- R30 to R32, section 02: conversions to E4M3 of 460, 464, 470 and 0.001 under nearest, 0.001 and 470 toward zero, −0.001 toward zero. -/
theorem example_e4m3 : e4m3.ofF32 0 0x43E60000 = (0x7E, 1) ∧ e4m3.ofF32 0 0x43E80000 = (0x7E, 1) ∧ e4m3.ofF32 0 0x43EB0000 = (0x7E, 5) ∧
    e4m3.ofF32 0 0x3A83126F = (0x01, 3) ∧ e4m3.ofF32 1 0x3A83126F = (0x00, 3) ∧ e4m3.ofF32 1 0x43EB0000 = (0x7E, 1) ∧
    e4m3.ofF32 1 0xBA83126F = (0x80, 3) ∧ e4m3.ofF32 0 0xBA83126F = (0x81, 3) ∧ e4m3.ofF32 1 0xFFC00000 = (0x7F, 16) ∧
    e4m3.toF32 0x4C = (0x40C00000, 0) ∧ e4m3.toF32 0xFE = (0xC3E00000, 0) := by decide +kernel

/-- R29, section 02: the trits of 0xB5; a reserved code. -/
theorem example_trits : (List.range 5).map (trit 0xB5) = [0, -1, 1, -1, 1] ∧ tunpk 0xB5 = ⟨0xFF01FF00, 0x00000001, 0⟩ ∧ tunpk 0xF5 = ⟨0, 0, 64⟩ := by
  decide +kernel

/-- R166, R167, section 06: 16,777,216 + 1 + 1 is summed exactly; 16,777,217 rounds to the even value. -/
theorem example_sums : sumFloats 0 [0x4B800000, 0x3F800000, 0x3F800000] = (0x4B800001, 0) ∧ sumFloats 0 [0x4B800000, 0x3F800000] = (0x4B800000, 1) := by
  decide +kernel

/-- The state after one instruction of the crew's main unit. -/
def after (i : Instr) (f : Crew → Crew) (p : Crew → CrewUnit → Bool) : Bool :=
  match exec i (stateOf f 0 id) with
  | .next t => match t.crews.get? 0 with | some c => (match c.units.get? 0 with | some h => p c h | none => false) | none => false
  | _ => false
def pooled (xs : List (Nat × Word × Word)) (c : Crew) : Crew := { c with pool := xs.map fun x => (x.1, [x.2.1, x.2.2] ++ List.replicate 94 0) }

/-- R135, section 05: IDOT4 with saturation in two lanes; lane 0 alone sets SAT. -/
theorem example_idot4 : after (.idot4 { fields (.v 7) (.v 2) (.v 3) (.s 9) with mod := 1 })
    (fun c => sRegs [(9, 0x7FFFF000)] (pooled [(2, 0x7F7F7F7F, 0x80FF0102), (3, 0x7F7F7F7F, 0x02030405)] c))
    (fun c _ => (c.pool? 7).take 2 == [2147483647, 2147479307] && c.fflags == 32) = true := by decide +kernel

/-- R140, section 05: the wide product of −3 and 0x4000_0000. -/
theorem example_imulw : after (.imulw (fields (.v 4) (.v 1) (.v 2) .none)) (pooled [(1, 0xFFFFFFFD, 0), (2, 0x40000000, 0)])
    (fun c _ => (c.pool? 4).take 1 == [0x40000000] && (c.pool? 5).take 1 == [0xFFFFFFFF]) = true := by decide +kernel

/-- R138, section 05: MAND of the activity mask, lanes 0 to 39, with a ballot leaves lanes 0 to 15. -/
theorem example_mand : after (.mand (fields (.s 60) (.s 60) (.s 40) .none)) (fun c => sRegs [(40, 0xFFFF), (42, 0xFFFFFFFF)]
    (unitBy (fun h => { h with mask := 0xFFFFFFFFFF, dom := 0xFFFFFFFFFF }) c)) (fun _ h => h.mask == 0xFFFF) = true := by decide +kernel

/-- R84 to R88, section 04: BRX with 40 lanes taken; the spall has them, the main unit goes on behind it with the 56 others. -/
theorem example_brx : after (.brx { fields .none (.v 2) .none .none with form := .f96, mod := 2, imm := 0x20 })
    (fun c => { c with pool := [(2, (List.range 96).map fun l => if l < 40 then 1 else 0)] })
    (fun c h => h.mask == BitVec.allOnes 96 <<< 40 && h.pc == placedCode + 12 && (match c.units.get? 1 with
      | some w => w.mask == 0xFFFFFFFFFF && w.pc == placedCode + 32
      | none => false)) = true := by decide +kernel

/-- R173, section 07: passes of 4-byte and 16-byte loads. -/
theorem example_passes :
    (let acc (size : Nat) (w : Nat → Nat) : Nat := SpAccess.passes { load0 with size := size, lanes := (List.range 96).map fun l => ⟨l, 0, w (l % 32), [], 0⟩ };
      acc 4 (4 * ·) = 3 ∧ acc 4 (32 * ·) = 24 ∧ acc 4 (132 * ·) = 3 ∧ acc 4 (fun _ => 20) = 3 ∧ acc 6 (16 * ·) = 12) := by decide +kernel

/-- R241, section 09: targets 3, 7 and 6 of sixteen cores; and section 20, targets 2, 1 and 1 of four. -/
theorem example_allot :
    (allot 16 17 [⟨0, 74575, 2, 4⟩, ⟨1, 353894, 2, 12⟩, ⟨2, 262144, 2, 8⟩]).map (·.target) = [3, 7, 6] ∧
    (allot 4 5 [⟨0, 196608, 1, 4⟩, ⟨1, 65536, 1, 4⟩, ⟨2, 0, 1, 4⟩]).map (·.target) = [2, 1, 1] := by decide +kernel

/-- R287, section 11: the three smallest of a row with candidates merged. -/
theorem example_topk :
    (let xs : List Cand := [⟨0x3F800000, 300, true⟩, ⟨0x40400000, 301, true⟩, ⟨0x40A00000, 302, true⟩, ⟨0x42C80000, 128, false⟩, ⟨0x40000000, 133, false⟩,
        ⟨0x3F800000, 137, false⟩, ⟨0x40000000, 168, false⟩, ⟨0x7FC00000, 205, false⟩, ⟨0x3F000000, 228, false⟩];
      (xs.foldl (fun acc x => insertCand (Cand.before 0 false) x acc) []).take 3 = [⟨0x3F000000, 228, false⟩, ⟨0x3F800000, 137, false⟩, ⟨0x3F800000, 300, true⟩]) := by
  decide +kernel

/-- R335, section 13: a physical address lies on die 1, in stack 3, slice 11 and bank 2, in layer group 0. -/
theorem example_address : homeDie 0x002000123480 = 1 ∧ dieOffset 0x002000123480 = 0x123480 ∧ stackOf 0x002000123480 = 3 ∧
    bankOf 0x002000123480 = 64 * 1 + 4 * 11 + 2 ∧ groupOf 0x002000123480 = 12 := by decide +kernel

/-- R416 to R418, section 16: the routine is accepted in 20 ck, not in 19; with the mask 127 its load is not proved. -/
theorem example_routine :
    (let ws (m : Word) : List Word := [0x90400020, 0x54440000 + m, 0x60440003, 0x80840000, 0x98080000, 0];
      checkRoutine (ws 63) pointEnqueue 0 512 20 = none ∧ checkRoutine (ws 63) pointEnqueue 0 512 19 ≠ none ∧ checkRoutine (ws 127) pointEnqueue 0 512 20 = some 12) := by decide +kernel

/-- R423, R424, section 21: block 3's entry in die 2's ring. -/
theorem example_ring_entry :
    (let v := saved0 stoppedCrew fun v => { v with extents := [(64, 128)] };
      let s : State := { base with launches := [(0x105, { placedLaunch with part := 6, saveAddr := 0x2000, saved := [(3, v)] })] };
      let t := s.migrate 12 2 { launch := 0x105, block := 3, prio := 8, saved := true, since := 777, here := 900 };
      leNat (t.mem.bytes 0x0F0000BF0000 64) = 0x2040 * 2 ^ 448 + 0x105 * 2 ^ 416 + 3 * 2 ^ 384 + 777 * 2 ^ 320 + 6 * 2 ^ 316 + 1 * 2 ^ 314 + 8 * 2 ^ 306 +
        2 ^ 305 + 2 ^ 304) := by decide +kernel

/-- R438: two records of one ck stand in the order of their cores, and a later ck's behind them. -/
theorem example_record_order :
    (let at_ (core : Nat) (s : State) : State := s.report { core := core } { cause := .breakpoint } true .none;
      let s := at_ 3 (at_ 64 base);
      (({ at_ 0 { s with ck := 9 } with ck := 9 }).ring 0).waiting.map (fun (r : FaultRec) => (r.record.extractLsb' 209 7).toNat) = [3, 64, 0]) := by decide +kernel

/-- R419: of pending invocations of one point the oldest event is served first. -/
theorem example_oldest :
    oldestEvent [{ pending0 pointWake with block := 1, fired := 9 }, { pending0 pointWake with block := 2, fired := 5 }, { pending0 pointWake with block := 3, fired := 5 }] =
      some { pending0 pointWake with block := 2, fired := 5 } := by decide +kernel

/-- FIPS 202: SHAKE256 of the empty message. -/
theorem example_shake256 : (shake256 []).take 8 = [0x46, 0xB9, 0xDD, 0x2B, 0x0B, 0xA8, 0x8D, 0x13] := by decide +kernel

/-- R115, section 04: the second record of a buffer stands 16 bytes after the first: value, crew, ck; then the count. -/
theorem test_tmark : (match exec (.tmark (fields .none (.s 2) .none .none)) (stateOf (sRegs [(2, 0xA5)]) 0 (tracing0 1)) with
    | .next t => leNat (t.readBytes 0 0x3050 16) == 0xA5 && leNat (t.readBytes 0 0x3000 8) == 2 && t.traces.isEmpty
    | _ => false) = true := by decide +kernel

/-- The hoist entry of the descriptor of `descArgs`, as its record gives it after a change of one byte. -/
def reissued (byte : Nat) (v : Byte) : Option (Nat × Hoist) :=
  let s := stateOf descRegs 0 id
  match hoistTensorBody .tensor (ctxOf 0xC1 (descArgs 0) descRegs 0) s with
  | .done t => match (t.queue 0 0).head?, t.blocks.get? 0, t.launches.get? 1, t.crews.get? 0 with
    | some (.hoist e), some b, some l, some c => t.reissueHoist (t.savedOf 0 b l) e c unit0 ((e.record 0).set byte v)
    | _, _, _, _ => none
  | _ => none

/-- R265, R390: in a changed record the token of bits 78..76 is taken; a reserved bit is refused. -/
theorem test_reissue : (reissued 9 0x50).map (fun e => (e.1, e.2.tok, e.2.total)) = (reissued 9 0x00).map (fun e => (e.1, some 5, e.2.total)) ∧
    (reissued 9 0x00).map (fun e => e.2.tok) = some (some 0) ∧ (reissued 0 1).isNone = true := by decide +kernel

end Sys2Proof.Machine
end

section
/-! PROOFS. Memory's canonical form (R16, R296, R339): a layer of facts, one for each operation that a step is made of, in the order of the
model. Where an operation leaves memory alone, `_mem` says so; where it may write, `_wf` says that the form stays. -/

namespace Sys2Proof.Machine

/-! ## Folds, conditionals and results -/

@[simp] theorem foldl_mem {α : Type} {f : State → α → State} (h : ∀ s a, (f s a).mem = s.mem) (l : List α) (s : State) :
    (l.foldl f s).mem = s.mem := by
  induction l generalizing s with
  | nil => rfl
  | cons a l ih => rw [List.foldl_cons, ih, h]

theorem foldl_wf {α : Type} {f : State → α → State} (hf : ∀ s a, s.mem.wf → (f s a).mem.wf) (l : List α) {s : State}
    (h : s.mem.wf) : (l.foldl f s).mem.wf := by
  induction l generalizing s with
  | nil => exact h
  | cons a l ih => exact ih (hf s a h)

/-- Memory has its canonical form in the state that an instruction's body leaves. -/
def Res.wf : Res → Prop
  | .done s | .parked s | .goto s _ _ | .placed s | .again s _ | .suspend s _ _ | .trap s _ => s.mem.wf
  | .stall _ => True

/-- Memory has its canonical form in the state that comes next, where one does. -/
def outWf : Out → Prop
  | .next s => s.mem.wf
  | _ => True

/-- Memory has its canonical form in the state that a packet's body leaves. -/
def Answer.wf : Answer → Prop
  | .ok s | .open_ s => s.mem.wf
  | _ => True

theorem except_map_ok {ε α β : Type} {x : Except ε α} {f : α → β} {b : β} : x.map f = .ok b ↔ ∃ a, x = .ok a ∧ f a = b := by
  cases x <;> simp [Except.map]

theorem outWf_next {s : State} (h : s.mem.wf) : outWf (.next s) := h

theorem answer_wf_ite {c : Prop} [Decidable c] {a b : Answer} (ha : a.wf) (hb : b.wf) : (if c then a else b).wf := by
  split
  · exact ha
  · exact hb

theorem mem_wf_ite {c : Prop} [Decidable c] {s t : State} (hs : s.mem.wf) (ht : t.mem.wf) : (if c then s else t).mem.wf := by
  split
  · exact hs
  · exact ht

theorem res_wf_ite {c : Prop} [Decidable c] {a b : Res} (ha : a.wf) (hb : b.wf) : (if c then a else b).wf := by
  split
  · exact ha
  · exact hb

theorem answer_ok_wf {s : State} (h : s.mem.wf) : (Answer.ok s).wf := h

theorem answer_open_wf {s : State} (h : s.mem.wf) : (Answer.open_ s).wf := h

/-! ## What each operation does to memory -/

/-! ### Lines -/

@[simp] theorem State.wakeLines_mem (s : State) (p) : (s.wakeLines p).mem = s.mem := rfl
@[simp] theorem State.wakeLine_mem (s : State) (line) : (s.wakeLine line).mem = s.mem := rfl
@[simp] theorem State.setLine_mem (s : State) (n x) : (s.setLine n x).mem = s.mem := rfl
@[simp] theorem State.modBank_mem (s : State) (n f) : (s.modBank n f).mem = s.mem := rfl
@[simp] theorem State.dropCopies_mem (s : State) (n keep) : (s.dropCopies n keep).mem = s.mem := rfl
@[simp] theorem State.homeLine_mem (s : State) (n) : (s.homeLine n).mem = s.mem := rfl
@[simp] theorem State.evictL2_mem (s : State) (n) : (s.evictL2 n).mem = s.mem := rfl
@[simp] theorem State.fillL2_mem (s : State) (n key) : (s.fillL2 n key).mem = s.mem := by unfold State.fillL2; (repeat' split) <;> simp

@[simp] theorem State.putL1_mem (s : State) (core n st) : (s.putL1 core n st).mem = s.mem := by
  unfold State.putL1; grind [State.modCore_mem, State.setLine_mem]

@[simp] theorem State.shareLine_mem (s : State) (core n key) : (s.shareLine core n key).mem = s.mem := by
  unfold State.shareLine; grind [State.fillL2_mem, State.putL1_mem, State.setLine_mem]

@[simp] theorem State.countMiss_mem (s : State) (core) : (s.countMiss core).mem = s.mem := rfl
@[simp] theorem State.countL2_mem (s : State) (core n hit) : (s.countL2 core n hit).mem = s.mem := by unfold State.countL2; split <;> simp

@[simp] theorem State.askBank_mem (s : State) (core launch n key own) : (s.askBank core launch n key own).mem = s.mem := by
  unfold State.askBank; grind [State.perf_mem, State.countMiss_mem, State.modBank_mem]

@[simp] theorem State.bankTook_mem (s : State) (bank input) : (s.bankTook bank input).mem = s.mem := rfl
@[simp] theorem State.deviceTook_mem (s : State) (bank) : (s.deviceTook bank).mem = s.mem := by unfold State.deviceTook; split <;> simp

@[simp] theorem State.homeTook_mem (s : State) (core n) : (s.homeTook core n).mem = s.mem := by
  unfold State.homeTook; rw [foldl_mem fun _ _ => State.bankTook_mem _ _ _, State.countL2_mem]

/-! ### Paging -/

theorem State.openFrame_wf {s : State} (h : s.mem.wf) (pa) : (s.openFrame pa).mem.wf := by
  have hk := Memory.wf_keep h fun a => frameOf a != frameOf pa
  unfold State.openFrame
  split <;> assumption

/-- Storing bytes save those that stay fixed keeps the canonical form. -/
theorem Memory.wf_storeSome {m : Memory} (h : m.wf) (fixed : Nat → Bool) (xs : List (Nat × Byte)) : (m.storeSome fixed xs).wf := by
  refine List.foldlRecOn (motive := fun m : Memory => m.wf) xs _ h fun m hm e _ => ?_
  split
  · exact hm
  · exact Memory.wf_store hm _ _

@[simp] theorem State.soil_mem (s : State) (n) : (s.soil n).mem = s.mem := by unfold State.soil; split <;> simp

theorem State.writeBytes_wf {s : State} (h : s.mem.wf) (key pa bs) : (s.writeBytes key pa bs).mem.wf := by
  have ho : ((s.openFrame pa).soil (pa / 128)).mem.wf := by rw [State.soil_mem]; exact State.openFrame_wf h pa
  unfold State.writeBytes
  grind [Memory.wf_storeSome, Memory.wf_storeBytes]

theorem State.writeLine_wf {s : State} (h : s.mem.wf) (key line bytes) : (s.writeLine key line bytes).mem.wf := by
  have ho : ((s.openFrame (line * 128)).soil line).mem.wf := by rw [State.soil_mem]; exact State.openFrame_wf h _
  unfold State.writeLine
  grind [Memory.wf_storeSome]

theorem State.perform_wf {s : State} (h : s.mem.wf) (key pa bs) : (s.perform key pa bs).mem.wf := by
  unfold State.perform; grind [State.wakeLine_mem, State.writeBytes_wf]

@[simp] theorem State.touch_mem (s : State) (pa) : (s.touch pa).mem = s.mem := by unfold State.touch; (repeat' split) <;> simp

theorem State.setFlags_wf {s : State} (h : s.mem.wf) (l wr) : (s.setFlags l wr).mem.wf := by
  unfold State.setFlags; grind [State.perform_wf, State.touch_mem, State.homeLine_mem]

theorem State.walkWith_wf {s : State} {held part va wr ex x l1 l2} {t : State}
    (e : s.walkWith held part va wr ex = .ok (x, l1, l2, t)) (h : s.mem.wf) : t.mem.wf := by
  unfold State.walkWith at e
  dsimp only at e
  (repeat' split at e) <;> cases e
  exact State.setFlags_wf (State.setFlags_wf (by rwa [foldl_mem State.touch_mem]) _ _) _ _

theorem State.walk_wf {s : State} {part va wr ex} {y0} {y1} {y2} {t : State} (e : s.walk part va wr ex = .ok (y0, y1, y2, t))
    (h : s.mem.wf) : t.mem.wf := by
  unfold State.walk at *; grind [→ State.walkWith_wf]

@[simp] theorem State.keepPath_mem (s : State) (die stage1 owner l) : (s.keepPath die stage1 owner l).mem = s.mem := rfl
@[simp] theorem State.forget_mem (s : State) (core part va) : (s.forget core part va).mem = s.mem := rfl

theorem State.walkFor_wf {s : State} {core part va wr ex x} {t : State}
    (e : s.walkFor core part va wr ex = .ok (x, t)) (h : s.mem.wf) : t.mem.wf := by
  unfold State.walkFor at e
  dsimp only at e
  split at e <;> cases e
  case h_2 x l1 l2 t hc =>
    change t.mem.wf
    grind [→ State.walk_wf, → State.walkWith_wf]

theorem State.translate_wf {s : State} {core part va wr ex load} {y0} {t : State} (e : s.translate core part va wr ex load = .ok
    (y0, t)) (h : s.mem.wf) : t.mem.wf := by
  unfold State.translate at *; grind [→ State.walkFor_wf, State.touch_mem]

/-! ### Ops -/

@[simp] theorem State.modUnit_mem (s : State) (k u f) : (s.modUnit k u f).mem = s.mem := by simp [State.modUnit]

@[simp] theorem State.reachCrew_mem (s : State) (launch n f) : (s.reachCrew launch n f).mem = s.mem := by
  unfold State.reachCrew; split <;> simp

@[simp] theorem State.wakeCounter_mem (s : State) (core e epoch all) : (s.wakeCounter core e epoch all).mem = s.mem := rfl

@[simp] theorem State.addCounter_mem (s : State) (core e n) : (s.addCounter core e n).mem = s.mem := by
  unfold State.addCounter; grind [State.modCore_mem, State.wakeCounter_mem]

@[simp] theorem State.addBlockCounter_mem (s : State) (launch block e n) : (s.addBlockCounter launch block e n).mem = s.mem := by
  unfold State.addBlockCounter; (repeat' split) <;> simp

@[simp] theorem State.deliver_mem (s : State) (record target place) : (s.deliver record target place).mem = s.mem := by
  unfold State.deliver; grind [State.modRing_mem]

@[simp] theorem State.report_mem (s : State) (a t held target) : (s.report a t held target).mem = s.mem := by simp [State.report]
@[simp] theorem State.log_mem (s : State) (ring a t) : (s.log ring a t).mem = s.mem := rfl
@[simp] theorem State.holdUnit_mem (s : State) (k u c record hold) : (s.holdUnit k u c record hold).mem = s.mem := by simp [State.holdUnit]
@[simp] theorem State.ownLine_mem (s : State) (core n key) : (s.ownLine core n key).mem = s.mem := by simp [State.ownLine]

theorem State.deschedule_wf {s : State} (h : s.mem.wf) (k u) : (s.deschedule k u).mem.wf := by
  unfold State.deschedule
  grind [State.modCrew_mem, State.setCrew_mem, → State.translate_wf, State.askBank_mem, State.perform_wf, State.ownLine_mem]

theorem State.takeTrap_wf {s : State} (h : s.mem.wf) (k u len t) : (s.takeTrap k u len t).mem.wf := by
  unfold State.takeTrap; grind [State.deschedule_wf, State.modUnit_mem, State.modCrew_mem, State.holdUnit_mem]

@[simp] theorem State.settleFault_mem (s : State) (k u) : (s.settleFault k u).mem = s.mem := by
  unfold State.settleFault; (repeat' split) <;> simp

/-! ### Issue -/

theorem debugStop_wf {s : State} {x} {t : State} {y1} {y2} (e : debugStop s x = some (t, y1, y2)) (h : s.mem.wf) : t.mem.wf := by
  unfold debugStop at *; grind [State.modCrew_mem]

@[simp] theorem State.stallUnit_mem (s : State) (k u hz) : (s.stallUnit k u hz).mem = s.mem := by simp [State.stallUnit]

@[simp] theorem State.suspendUnit_mem (s : State) (k u pc w sw core launch) :
    (s.suspendUnit k u pc w sw core launch).mem = s.mem := by simp [State.suspendUnit]

@[simp] theorem State.finish_mem (s : State) (x sw) : (s.finish x sw).mem = s.mem := by simp [State.finish]

theorem State.transfer_wf {s : State} (h : s.mem.wf) (x t park) : (s.transfer x t park).mem.wf := by
  unfold State.transfer; grind [State.takeTrap_wf, State.modCrew_mem]

@[simp] theorem State.noteStop_mem (s : State) (x) : (s.noteStop x).mem = s.mem := by unfold State.noteStop; split <;> simp
@[simp] theorem State.noteIssue_mem (s : State) (x) : (s.noteIssue x).mem = s.mem := by unfold State.noteIssue; split <;> simp

theorem applyRes_wf {s : State} (h : s.mem.wf) (x) {r : Res} (hr : r.wf) : (applyRes x s r).mem.wf := by
  cases r with
  | done | parked | placed | again | suspend | stall => simpa [applyRes, State.stallUnit, State.suspendUnit]
  | trap => exact State.takeTrap_wf hr _ _ _ _
  | goto s' t park =>
    have := State.transfer_wf hr x t (x.a.sw || park)
    unfold applyRes; dsimp only
    split <;> simpa

theorem runInstr_wf {s : State} (h : s.mem.wf) (op x) {body : Ctx → State → Res} (hb : ∀ x s, s.mem.wf → (body x s).wf) :
    (runInstr op x body s).mem.wf := by
  unfold runInstr
  split
  · exact State.takeTrap_wf (debugStop_wf ‹_› h) _ _ _ _
  · have hr := applyRes_wf h x (hb x s h)
    grind [State.takeTrap_wf, State.stallUnit_mem]

theorem issue_wf {s : State} (h : s.mem.wf) (op a) {body : Ctx → State → Res} (hb : ∀ x s, s.mem.wf → (body x s).wf) : outWf
    (issue op a body s) := by
  unfold issue
  split
  · trivial
  · split
    · trivial
    · split
      · trivial
      · exact runInstr_wf (s := { s with focus := none }) h _ _ hb

theorem Ctx.crewDone_wf {s : State} (h : s.mem.wf) (x : Ctx) (f) : (x.crewDone s f).wf := by
  unfold Ctx.crewDone; grind [State.modCrew_mem, Res.wf]

theorem Ctx.doneS_wf {s : State} (h : s.mem.wf) (x : Ctx) (o v) : (x.doneS s o v).wf := by
  unfold Ctx.doneS; grind [Ctx.crewDone_wf, Res.wf]

theorem Ctx.donePair_wf {s : State} (h : s.mem.wf) (x : Ctx) (o v) : (x.donePair s o v).wf := by
  unfold Ctx.donePair; grind [Ctx.crewDone_wf, Res.wf]

/-! ### Fetch -/

theorem State.fillCode_wf {s : State} {core launch l vline} {y0} {t : State} (e : s.fillCode core launch l vline = .ok (y0, t))
    (h : s.mem.wf) : t.mem.wf := by
  unfold State.fillCode at *; grind [→ State.translate_wf, State.homeTook_mem, State.modCore_mem]

theorem State.prefetchCode_wf {s : State} (h : s.mem.wf) (core launch l vline) : (s.prefetchCode core launch l vline).mem.wf := by
  unfold State.prefetchCode; grind [→ State.fillCode_wf]

theorem State.fetch_wf {s : State} (h : s.mem.wf) (core launch l pc origin) : (s.fetch core launch l pc origin).1.mem.wf := by
  unfold State.fetch; grind [→ State.fillCode_wf]

/-! ### Caches -/

@[simp] theorem State.atHome_mem (s : State) (line wr) : (s.atHome line wr).mem = s.mem := by unfold State.atHome; split <;> simp

@[simp] theorem State.missLine_mem (s : State) (core launch n key) : (s.missLine core launch n key).mem = s.mem := by
  unfold State.missLine; grind [State.countMiss_mem, State.askBank_mem]

theorem State.devXlate_wf {s : State} {part va wr load} {y0} {t : State} (e : s.devXlate part va wr load = .ok (y0, t))
    (h : s.mem.wf) : t.mem.wf := by
  unfold State.devXlate at *; grind [→ State.walk_wf, State.touch_mem]

@[simp] theorem State.deviceTookAll_mem (s : State) (pas) : (s.deviceTookAll pas).mem = s.mem := by simp [State.deviceTookAll]

theorem State.vwrite_wf {s : State} {part va bs} {t : State} (e : s.vwrite part va bs = .ok t) (h : s.mem.wf) : t.mem.wf := by
  unfold State.vwrite at e
  dsimp only at e
  split at e <;> cases e
  case h_2 s1 xs hc =>
    have h1 : s1.mem.wf := by
      revert hc
      refine List.foldlRecOn (linePieces va bs.length) _
        (motive := fun acc : Except DevStop (State × List (Xl × Nat × Nat)) => ∀ {s xs}, acc = .ok (s, xs) → s.mem.wf) ?_ ?_
      · rintro _ _ ⟨⟩; exact h
      · intro acc ha p _ s2 xs2 e2
        grind [→ State.devXlate_wf]
    refine foldl_wf (fun s a hs => State.perform_wf ?_ _ _ _) _ ?_ <;> simpa

theorem State.vread_wf {s : State} {part va n bs} {t : State} (e : s.vread part va n = .ok (bs, t)) (h : s.mem.wf) : t.mem.wf := by
  unfold State.vread at e
  obtain ⟨⟨bs1, pas, s1⟩, hc, ⟨⟩⟩ := except_map_ok.1 e
  rw [State.deviceTookAll_mem]
  revert hc
  refine List.foldlRecOn (linePieces va n) _
    (motive := fun acc : Except DevStop (List Byte × List Nat × State) => ∀ {bs pas s}, acc = .ok (bs, pas, s) → s.mem.wf) ?_ ?_
  · rintro _ _ _ ⟨⟩; exact h
  · intro acc ha p _ bs2 pas2 s2 e2
    grind [→ State.devXlate_wf, State.atHome_mem]

theorem State.traceWrite_wf {s : State} {part va bs} {t : State} (e : s.traceWrite part va bs = .ok t) (h : s.mem.wf) : t.mem.wf := by
  unfold State.traceWrite at e
  obtain ⟨s1, hc, rfl⟩ := except_map_ok.1 e
  have ht := State.vwrite_wf hc h
  exact ht

theorem State.traceMark_wf {s : State} {o v} {t : State} (e : s.traceMark o v = .ok t) (h : s.mem.wf) : t.mem.wf := by
  unfold State.traceMark at e
  split at e
  · cases e
  · have hr := State.vread_wf ‹_› h
    dsimp only at e
    split at e
    · split at e
      · exact State.traceWrite_wf e (State.traceWrite_wf ‹_› hr)
      · cases e
    · exact State.traceWrite_wf e hr

theorem State.traceZero_wf {s : State} {o} {t : State} (e : s.traceZero o = .ok t) (h : s.mem.wf) : t.mem.wf := by
  unfold State.traceZero at e
  split at e
  · cases e
  · obtain ⟨s1, hc, rfl⟩ := except_map_ok.1 e
    have ht := State.traceWrite_wf hc (State.devXlate_wf ‹_› h)
    exact ht

theorem State.flushTraces_wf {s : State} (h : s.mem.wf) (waits ts) : (State.flushTraces waits ts s).2.mem.wf := by
  induction ts generalizing waits s with
  | nil => exact h
  | cons t ts ih =>
    unfold State.flushTraces
    grind [→ State.traceMark_wf, → State.traceZero_wf, State.report_mem, State.modLaunch_mem]

theorem State.traceAll_wf {s : State} (h : s.mem.wf) (ts) : (s.traceAll ts).mem.wf := by
  unfold State.traceAll; grind [State.flushTraces_wf]

theorem State.traceNow_wf {s : State} (h : s.mem.wf) : (s.traceNow).mem.wf := by
  unfold State.traceNow; grind [State.traceAll_wf]

theorem State.trace_wf {s : State} (h : s.mem.wf) (t) : (s.trace t).mem.wf := by
  unfold State.trace; grind [State.traceAll_wf]

/-! ### Lanes -/

@[simp] theorem State.clearSoft_mem (s : State) (k ws) : (s.clearSoft k ws).mem = s.mem := by unfold State.clearSoft; split <;> simp

theorem fixedLane_wf {s : State} (h : s.mem.wf) (sem x) : (fixedLane sem x s).wf := by
  unfold fixedLane; grind [State.clearSoft_mem, State.modCrew_mem, Res.wf]

theorem variableLane_wf {s : State} (h : s.mem.wf) (sem x) : (variableLane sem x s).wf := by
  unfold variableLane; grind [Ctx.crewDone_wf, Res.wf]

/-! ### Sync -/

@[simp] theorem State.wakeBarrier_mem (s : State) (launch g epoch) :
    (s.wakeBarrier launch g epoch).mem = s.mem := by simp [State.wakeBarrier]

@[simp] theorem State.completeBarrier_mem (s : State) (launch g) : (s.completeBarrier launch g).mem = s.mem := by
  unfold State.completeBarrier; (repeat' split) <;> simp

@[simp] theorem State.leaveBarrier_mem (s : State) (launch c g) : (s.leaveBarrier launch c g).mem = s.mem := by simp [State.leaveBarrier]
@[simp] theorem State.modChute_mem (s : State) (core n f) : (s.modChute core n f).mem = s.mem := by unfold State.modChute; split <;> simp

@[simp] theorem State.putTile_mem (s : State) (core e t) : (s.putTile core e t).mem = s.mem := by
  unfold State.putTile; grind [State.modCore_mem]

@[simp] theorem State.modTile_mem (s : State) (core e f) : (s.modTile core e f).mem = s.mem := by unfold State.modTile; split <;> simp
@[simp] theorem State.setSlotRec_mem (s : State) (core e r) : (s.setSlotRec core e r).mem = s.mem := rfl

@[simp] theorem State.wakeWaiter_mem (s : State) (launch n u) : (s.wakeWaiter launch n u).mem = s.mem := by
  unfold State.wakeWaiter; split <;> simp

@[simp] theorem State.wakeChute_mem (s : State) (home n) : (s.wakeChute home n).mem = s.mem := by
  unfold State.wakeChute; grind [State.wakeWaiter_mem]

@[simp] theorem State.unlist_mem (s : State) (launch leaves) : (s.unlist launch leaves).mem = s.mem := by simp [State.unlist]
@[simp] theorem State.slotReady_mem (s : State) (home n e) : (s.slotReady home n e).mem = s.mem := by simp [State.slotReady]
@[simp] theorem State.sendCredits_mem (s : State) (home n) : (s.sendCredits home n).mem = s.mem := rfl

@[simp] theorem State.slotEmpty_mem (s : State) (home n e) : (s.slotEmpty home n e).mem = s.mem := by
  unfold State.slotEmpty; grind [State.modTile_mem, State.modChute_mem, State.sendCredits_mem, State.wakeChute_mem]

/-! ### Stores -/

@[simp] theorem State.sendEntry_mem (s : State) (k c e count) : (s.sendEntry k c e count).mem = s.mem := by
  unfold State.sendEntry; split <;> simp

@[simp] theorem State.settleTokens_mem (s : State) (launch n) : (s.settleTokens launch n).mem = s.mem := by simp [State.settleTokens]

/-! ### Port -/

@[simp] theorem State.mend_mem (s : State) (code owner index) : (s.mend code owner index).mem = s.mem := rfl

@[simp] theorem State.performLanes_mem (s : State) (core n op ls) : (s.performLanes core n op ls).2.2.mem = s.mem := by
  induction ls generalizing s with
  | nil => rfl
  | cons l ls ih =>
    have hm (s : State) (ws : List Nat) (owner : Nat) (f : Nat → Nat) :
        (ws.foldl (fun s i => s.mend 3 owner (f i)) s).mem = s.mem := foldl_mem (fun _ _ => State.mend_mem _ _ _ _) _ _
    unfold State.performLanes
    dsimp only
    rw [ih]
    (repeat' split) <;> simp only [hm, apply_ite State.mem, State.modBlock_mem, ite_self]

@[simp] theorem State.performAccess_mem (s : State) (core a) : (s.performAccess core a).mem = s.mem := by
  unfold State.performAccess
  grind [State.perf_mem, State.performLanes_mem, State.modCrew_mem]

@[simp] theorem State.servePort_mem (s : State) (core src) : (s.servePort core src).mem = s.mem := by unfold State.servePort; split <;> simp

/-! ### Retire -/

@[simp] theorem State.setQueue_mem (s : State) (core q xs) : (s.setQueue core q xs).mem = s.mem := rfl

@[simp] theorem State.packetReady_mem (s : State) (q index status detail) :
    (s.packetReady q index status detail).mem = s.mem := by simp [State.packetReady]

@[simp] theorem State.releaseBlock_mem (s : State) (key) : (s.releaseBlock key).mem = s.mem := rfl

@[simp] theorem State.releaseChutes_mem (s : State) (launch) : (s.releaseChutes launch).mem = s.mem := by
  unfold State.releaseChutes; exact foldl_mem (fun _ _ => State.releaseBlock_mem _ _) _ _

@[simp] theorem State.finishLaunch_mem (s : State) (launch status) : (s.finishLaunch launch status).mem = s.mem := by
  unfold State.finishLaunch; split <;> simp

@[simp] theorem State.checkLaunch_mem (s : State) (launch) : (s.checkLaunch launch).mem = s.mem := by
  unfold State.checkLaunch; (repeat' split) <;> simp

@[simp] theorem State.coreFreed_mem (s : State) (launch core) : (s.coreFreed launch core).mem = s.mem := by simp [State.coreFreed]
@[simp] theorem State.freeBlock_mem (s : State) (key) : (s.freeBlock key).mem = s.mem := by unfold State.freeBlock; split <;> simp
@[simp] theorem State.emptyBlock_mem (s : State) (key) : (s.emptyBlock key).mem = s.mem := by unfold State.emptyBlock; split <;> simp

@[simp] theorem State.releaseIdle_mem (s : State) (core) : (s.releaseIdle core).mem = s.mem := by
  unfold State.releaseIdle; grind [foldl_mem, State.freeBlock_mem]

@[simp] theorem State.settlePorts_mem (s : State) : (s.settlePorts).mem = s.mem := by simp [State.settlePorts]

@[simp] theorem State.closeBench_mem (s : State) (launch b) : (s.closeBench launch b).mem = s.mem := by
  unfold State.closeBench; split <;> simp

@[simp] theorem State.orphanScratch_mem (s : State) (k) : (s.orphanScratch k).mem = s.mem := rfl

@[simp] theorem State.freeCrew_mem (s : State) (k move) : (s.freeCrew k move).mem = s.mem := by
  unfold State.freeCrew
  grind [foldl_mem, State.sendEntry_mem, State.leaveBarrier_mem, State.modLaunch_mem, State.closeBench_mem, State.modCore_mem,
    State.orphanScratch_mem, State.modBlock_mem, State.emptyBlock_mem]

theorem State.tryRetire_wf {s : State} (h : s.mem.wf) (k) : (s.tryRetire k).mem.wf := by
  unfold State.tryRetire; grind [State.takeTrap_wf, State.modUnit_mem, State.freeCrew_mem]

/-! ### Control -/

theorem Ctx.go_wf {s : State} (h : s.mem.wf) (x : Ctx) (t f) : (x.go s t f).wf := by
  unfold Ctx.go; grind [State.modCrew_mem, Res.wf]

theorem bodyNop_wf {s : State} (h : s.mem.wf) (a1) : (bodyNop a1 s).wf := by
  unfold bodyNop; grind [Res.wf]

theorem bodyBra_wf {s : State} (h : s.mem.wf) (x) : (bodyBra x s).wf := by
  unfold bodyBra; grind [Res.wf]

theorem bodyBrc_wf {s : State} (h : s.mem.wf) (x) : (bodyBrc x s).wf := by
  unfold bodyBrc; grind [Res.wf]

theorem bodyCall_wf {s : State} (h : s.mem.wf) (x) : (bodyCall x s).wf := by
  unfold bodyCall; grind [Ctx.go_wf, Res.wf]

theorem bodyCalli_wf {s : State} (h : s.mem.wf) (x) : (bodyCalli x s).wf := by
  unfold bodyCalli; grind [Ctx.go_wf, Res.wf]

theorem bodyRet_wf {s : State} (h : s.mem.wf) (x) : (bodyRet x s).wf := by
  unfold bodyRet; grind [Res.wf]

theorem bodyJmpi_wf {s : State} (h : s.mem.wf) (x) : (bodyJmpi x s).wf := by
  unfold bodyJmpi; grind [Res.wf]

theorem bodyLoop_wf {s : State} (h : s.mem.wf) (x) : (bodyLoop x s).wf := by
  unfold bodyLoop; grind [Ctx.go_wf, Ctx.crewDone_wf, Res.wf]

theorem bodyBrx_wf {s : State} (h : s.mem.wf) (x) : (bodyBrx x s).wf := by
  unfold bodyBrx; grind [Ctx.go_wf, Ctx.crewDone_wf, State.perf_mem, State.modCrew_mem, Res.wf]

theorem bodyJoin_wf {s : State} (h : s.mem.wf) (x) : (bodyJoin x s).wf := by
  unfold bodyJoin; grind [State.modCrew_mem, Res.wf]

theorem bodySuspend_wf {s : State} (h : s.mem.wf) (x) : (bodySuspend x s).wf := by
  unfold bodySuspend; grind [Res.wf]

theorem bodyExit_wf {s : State} (h : s.mem.wf) (x) : (bodyExit x s).wf := by
  unfold bodyExit; grind [State.modCrew_mem, State.tryRetire_wf, Res.wf]

theorem bodyTwait_wf {s : State} (h : s.mem.wf) (x) : (bodyTwait x s).wf := by
  unfold bodyTwait; grind [Res.wf]

theorem bodySetbnd_wf {s : State} (h : s.mem.wf) (x) : (bodySetbnd x s).wf := by
  unfold bodySetbnd; grind [Ctx.crewDone_wf, Res.wf]

theorem bodyDoze_wf {s : State} (h : s.mem.wf) (x) : (bodyDoze x s).wf := by
  unfold bodyDoze; grind [State.modCrew_mem, State.finish_mem, Res.wf]

theorem bodyYield_wf {s : State} (h : s.mem.wf) (x) : (bodyYield x s).wf := by
  unfold bodyYield; grind [State.modCore_mem, Res.wf]

theorem bodyPrio_wf {s : State} (h : s.mem.wf) (x) : (bodyPrio x s).wf := by
  unfold bodyPrio; grind [Ctx.crewDone_wf, Res.wf]

theorem bodyTrap_wf {s : State} (h : s.mem.wf) (x) : (bodyTrap x s).wf := by
  unfold bodyTrap; grind [Res.wf]

theorem bodyTrapc_wf {s : State} (h : s.mem.wf) (x) : (bodyTrapc x s).wf := by
  unfold bodyTrapc; grind [Res.wf]

theorem bodyBkpt_wf {s : State} (h : s.mem.wf) (x) : (bodyBkpt x s).wf := by
  unfold bodyBkpt; grind [Res.wf]

theorem bodyTret_wf {s : State} (h : s.mem.wf) (x) : (bodyTret x s).wf := by
  unfold bodyTret; grind [State.modCrew_mem, Res.wf]

theorem bodyMfc_wf {s : State} (h : s.mem.wf) (x) : (bodyMfc x s).wf := by
  unfold bodyMfc; grind [Ctx.doneS_wf, Res.wf]

theorem bodyMtc_wf {s : State} (h : s.mem.wf) (x) : (bodyMtc x s).wf := by
  unfold bodyMtc; grind [Ctx.crewDone_wf, Res.wf]

theorem bodyDbgrd_wf {s : State} (h : s.mem.wf) (x) : (bodyDbgrd x s).wf := by
  unfold bodyDbgrd; grind [Ctx.doneS_wf, Res.wf]

theorem bodyDbgwr_wf {s : State} (h : s.mem.wf) (x) : (bodyDbgwr x s).wf := by
  unfold bodyDbgwr; grind [Ctx.crewDone_wf, Res.wf]

theorem bodyClkrd_wf {s : State} (h : s.mem.wf) (x) : (bodyClkrd x s).wf := by
  unfold bodyClkrd; grind [Ctx.donePair_wf, Res.wf]

theorem bodyIpref_wf {s : State} (h : s.mem.wf) (x) : (bodyIpref x s).wf := by
  unfold bodyIpref; grind [foldl_wf, State.prefetchCode_wf, Res.wf]

theorem bodyIcinv_wf {s : State} (h : s.mem.wf) (x) : (bodyIcinv x s).wf := by
  unfold bodyIcinv; grind [State.modCore_mem, Res.wf]

theorem bodyPmrd_wf {s : State} (h : s.mem.wf) (x) : (bodyPmrd x s).wf := by
  unfold bodyPmrd; grind [Ctx.doneS_wf, Res.wf]

theorem bodyTmark_wf {s : State} (h : s.mem.wf) (x) : (bodyTmark x s).wf := by
  unfold bodyTmark; grind [State.trace_wf, Res.wf]

theorem bodyGrpq_wf {s : State} (h : s.mem.wf) (x) : (bodyGrpq x s).wf := by
  unfold bodyGrpq; grind [Ctx.doneS_wf, Res.wf]

theorem bodySpallq_wf {s : State} (h : s.mem.wf) (x) : (bodySpallq x s).wf := by
  unfold bodySpallq; grind [Ctx.doneS_wf, Res.wf]

/-! ### Memory -/

theorem XlFault.res_wf {s : State} (h : s.mem.wf) (f va lane slot wr) : (XlFault.res f s va lane slot wr).wf := by
  unfold XlFault.res; grind [Res.wf]

theorem State.xlateAll_wf {s : State} {core part slot wr load as xs} {t : State}
    (e : s.xlateAll core part slot wr load as = .ok (xs, t)) (h : s.mem.wf) : t.mem.wf := by
  induction as generalizing s xs t with
  | nil => cases e; exact h
  | cons a as ih =>
    unfold State.xlateAll at e
    grind [→ State.translate_wf]

theorem State.xlateAll_error_wf {s : State} {core part slot wr load as r}
    (e : s.xlateAll core part slot wr load as = .error r) (h : s.mem.wf) : r.wf := by
  induction as generalizing s r with
  | nil => cases e
  | cons a as ih =>
    unfold State.xlateAll at e
    grind [→ State.translate_wf, XlFault.res_wf, State.forget_mem]

@[simp] theorem Ctx.watch_mem (s : State) (x : Ctx) (as bit) : (x.watch s as bit).mem = s.mem := by
  unfold Ctx.watch; grind [State.modUnit_mem]

@[simp] theorem Ctx.result_mem (s : State) (x : Ctx) (ws ldc) : (x.result s ws ldc).mem = s.mem := by simp [Ctx.result]

theorem Ctx.access_wf {s : State} (h : s.mem.wf) (x : Ctx) (e wr load as) {go : List (Acc × Xl) → State → Res}
    (hg : ∀ xs s, s.mem.wf → (go xs s).wf) : (x.access s e wr load as go).wf := by
  unfold Ctx.access
  grind [→ State.xlateAll_wf, → State.xlateAll_error_wf, Res.wf]

@[simp] theorem Ctx.missAll_mem (s : State) (x : Ctx) (xs) : (x.missAll s xs).mem = s.mem := by
  unfold Ctx.missAll; grind [foldl_mem, State.missLine_mem, State.perf_mem]

theorem loadAs_wf {s : State} (h : s.mem.wf) (as x) : (loadAs as x s).wf := by
  unfold loadAs
  refine Ctx.access_wf h _ _ _ _ _ fun xs s h => ?_
  grind [Ctx.missAll_mem, Ctx.result_mem, Ctx.watch_mem, Res.wf]

@[simp] theorem State.fillConst_mem (s : State) (core launch xs) : (s.fillConst core launch xs).mem = s.mem := by
  induction xs generalizing s with
  | nil => rfl
  | cons e xs ih =>
    unfold State.fillConst
    dsimp only
    rw [ih]
    split <;> simp

theorem bodyLdc_wf {s : State} (h : s.mem.wf) (x) : (bodyLdc x s).wf := by
  unfold bodyLdc
  refine Ctx.access_wf h _ _ _ _ _ fun xs s h => ?_
  grind [State.fillConst_mem, Ctx.result_mem, Ctx.watch_mem, Res.wf]

theorem storeBody_wf {s : State} (h : s.mem.wf) (rel x) : (storeBody rel x s).wf := by
  unfold storeBody
  dsimp only
  split
  · trivial
  · refine Ctx.access_wf h _ _ _ _ _ fun xs s h => ?_
    simpa [Res.wf]

theorem capsuleLoad_wf {s : State} (h : s.mem.wf) (x) : (capsuleLoad x s).wf := by
  unfold capsuleLoad
  grind [→ State.xlateAll_wf, → State.xlateAll_error_wf, Ctx.result_mem, Ctx.watch_mem, Res.wf]

theorem capsuleStore_wf {s : State} (h : s.mem.wf) (x) : (capsuleStore x s).wf := by
  unfold capsuleStore
  grind [→ State.xlateAll_wf, → State.xlateAll_error_wf, Ctx.crewDone_wf, Ctx.watch_mem, Res.wf]

theorem bodyLd_wf {s : State} (h : s.mem.wf) (x) : (bodyLd x s).wf := by
  unfold bodyLd; grind [capsuleLoad_wf, loadAs_wf, Res.wf]

theorem bodySt_wf {s : State} (h : s.mem.wf) (x) : (bodySt x s).wf := by
  unfold bodySt; grind [capsuleStore_wf, storeBody_wf, Res.wf]

theorem Ctx.obtain_wf {s : State} (h : s.mem.wf) (x : Ctx) (ls) {go : State → Res} (hg : ∀ s, s.mem.wf → (go s).wf) :
    (x.obtain s ls go).wf := by
  unfold Ctx.obtain
  (repeat' split) <;> simp_all [Res.wf]

theorem State.rmw_wf {s : State} (h : s.mem.wf) (core n x f) : (s.rmw core n x f).2.2.mem.wf := by
  unfold State.rmw; grind [State.ownLine_mem, State.perform_wf]

theorem State.rmwAll_wf {s : State} (h : s.mem.wf) (core n f xs) : (s.rmwAll core n f xs).2.2.mem.wf := by
  induction xs generalizing s with
  | nil => exact h
  | cons e xs ih =>
    unfold State.rmwAll
    exact ih (State.rmw_wf h _ _ _ _)

theorem atomBody_wf {s : State} (h : s.mem.wf) (op n rel f x) : (atomBody op n rel f x s).wf := by
  unfold atomBody
  refine Ctx.access_wf h _ _ _ _ _ fun xs s h => ?_
  dsimp only
  split
  · trivial
  split
  · trivial
  split
  · trivial
  refine Ctx.obtain_wf h _ _ fun s h => ?_
  have hr := State.rmwAll_wf h x.core n (f x) xs
  generalize s.rmwAll x.core n (f x) xs = r at hr ⊢
  split <;> simpa [Res.wf]

theorem bodyAtom_wf {s : State} (h : s.mem.wf) (op x) : (bodyAtom op x s).wf := by
  unfold bodyAtom; grind [atomBody_wf, Res.wf]

theorem bodyAtomF_wf {s : State} (h : s.mem.wf) (op x) : (bodyAtomF op x s).wf := by
  unfold bodyAtomF; grind [atomBody_wf, Res.wf]

theorem bodyAtomCas_wf {s : State} (h : s.mem.wf) (x) : (bodyAtomCas x s).wf := by
  unfold bodyAtomCas; grind [atomBody_wf, Res.wf]

theorem fenceBody_wf {s : State} (h : s.mem.wf) (un x) : (fenceBody un x s).wf := by
  unfold fenceBody; grind [Res.wf]

theorem bodyWaitaddr_wf {s : State} (h : s.mem.wf) (x) : (bodyWaitaddr x s).wf := by
  unfold bodyWaitaddr
  extract_lets a ev e target value counter
  have hv v (s : State) (h : s.mem.wf) : (value v s).wf := res_wf_ite (by simpa [Res.wf]) h
  clear_value value counter
  refine res_wf_ite trivial (res_wf_ite h ?_)
  split
  · exact h
  split
  · exact h
  split
  · exact State.xlateAll_error_wf ‹_› h
  have ht := State.xlateAll_wf ‹_› h
  split
  · trivial
  refine res_wf_ite trivial (res_wf_ite (hv _ _ ht) (res_wf_ite ?_ ht))
  rwa [Res.wf, State.modCore_mem]

theorem Ctx.quietLines_wf {s : State} (h : s.mem.wf) (x : Ctx) (vec) : (x.quietLines s vec).2.mem.wf := by
  refine List.foldlRecOn (motive := fun acc : List Xl × State => acc.2.mem.wf) (x.accs vec) _ h fun acc ha a _ => ?_
  grind [→ State.translate_wf]

theorem bodyPref_wf {s : State} (h : s.mem.wf) (x) : (bodyPref x s).wf := by
  have hq := Ctx.quietLines_wf h x (isVector 0xA5 x.a)
  unfold bodyPref
  split
  · trivial
  · split
    · exact h
    · refine foldl_wf (fun s t hs => ?_) _ hq
      dsimp only
      (repeat' split) <;> simpa

theorem bodyCflush_wf {s : State} (h : s.mem.wf) (x) : (bodyCflush x s).wf := by
  unfold bodyCflush; grind [Ctx.quietLines_wf, State.modCore_mem, Res.wf]

theorem bodyCinv_wf {s : State} (h : s.mem.wf) (x) : (bodyCinv x s).wf := by
  unfold bodyCinv; grind [State.modCore_mem, Res.wf]

/-! ### Scratch -/

theorem Ctx.send_wf {s : State} (h : s.mem.wf) (x : Ctx) (op size ls) : (x.send s op size ls).wf := by
  unfold Ctx.send; grind [foldl_wf, State.modCrew_mem, State.modCore_mem, Res.wf]

theorem spBody_wf {s : State} (h : s.mem.wf) (op opc size peer x) : (spBody op opc size peer x s).wf := by
  unfold spBody; grind [Ctx.send_wf, Res.wf]

theorem bodySpatom_wf {s : State} (h : s.mem.wf) (x) : (bodySpatom x s).wf := by
  unfold bodySpatom; grind [spBody_wf, Res.wf]

theorem bodySpatomCas_wf {s : State} (h : s.mem.wf) (x) : (bodySpatomCas x s).wf := by
  unfold bodySpatomCas; grind [spBody_wf, Res.wf]

theorem bodySpld_wf {s : State} (h : s.mem.wf) (x) : (bodySpld x s).wf := by
  unfold bodySpld; grind [spBody_wf, Res.wf]

theorem bodySpst_wf {s : State} (h : s.mem.wf) (x) : (bodySpst x s).wf := by
  unfold bodySpst; grind [spBody_wf, Res.wf]

theorem bodySpldp_wf {s : State} (h : s.mem.wf) (x) : (bodySpldp x s).wf := by
  unfold bodySpldp; grind [spBody_wf, Res.wf]

theorem bodySpstp_wf {s : State} (h : s.mem.wf) (x) : (bodySpstp x s).wf := by
  unfold bodySpstp; grind [spBody_wf, Res.wf]

theorem tileBody_wf {s : State} (h : s.mem.wf) (op opc states x) : (tileBody op opc states x s).wf := by
  unfold tileBody; grind [Ctx.send_wf, Res.wf]

theorem bodyTld_wf {s : State} (h : s.mem.wf) (x) : (bodyTld x s).wf := by
  unfold bodyTld; grind [tileBody_wf, Res.wf]

theorem bodyTst_wf {s : State} (h : s.mem.wf) (x) : (bodyTst x s).wf := by
  unfold bodyTst; grind [tileBody_wf, Res.wf]

@[simp] theorem State.setTile_mem (s : State) (core e t) : (s.setTile core e t).mem = s.mem := by simp [State.setTile]

theorem Ctx.moveTile_wf {s : State} (h : s.mem.wf) (x : Ctx) (e t) : (x.moveTile s e t).wf := by
  unfold Ctx.moveTile; grind [State.setTile_mem, Res.wf]

theorem bodyTclaim_wf {s : State} (h : s.mem.wf) (x) : (bodyTclaim x s).wf := by
  unfold bodyTclaim; grind [Ctx.moveTile_wf, Res.wf]

theorem bodyTready_wf {s : State} (h : s.mem.wf) (x) : (bodyTready x s).wf := by
  unfold bodyTready; grind [Ctx.moveTile_wf, Res.wf]

theorem bodyTdrain_wf {s : State} (h : s.mem.wf) (x) : (bodyTdrain x s).wf := by
  unfold bodyTdrain; grind [Ctx.moveTile_wf, Res.wf]

theorem bodyTfree_wf {s : State} (h : s.mem.wf) (x) : (bodyTfree x s).wf := by
  unfold bodyTfree; grind [Ctx.moveTile_wf, Res.wf]

theorem bodyTdef_wf {s : State} (h : s.mem.wf) (x) : (bodyTdef x s).wf := by
  unfold bodyTdef; grind [Ctx.moveTile_wf, Res.wf]

theorem execLanePortPerform_wf {s : State} (h : s.mem.wf) (core src) : outWf (execLanePortPerform core src s) := by
  unfold execLanePortPerform; grind [State.servePort_mem, outWf]

/-! ### Chutes -/

@[simp] theorem Ctx.handle_mem (s : State) (x : Ctx) (addr tag) : (x.handle s addr tag).mem = s.mem := by simp [Ctx.handle]
@[simp] theorem State.unlistCrew_mem (s : State) (launch n) : (s.unlistCrew launch n).mem = s.mem := by simp [State.unlistCrew]

theorem State.retireMove_wf {s : State} (h : s.mem.wf) (k) : (s.retireMove k).mem.wf := by
  unfold State.retireMove; grind [State.unlistCrew_mem, State.modCrew_mem, State.tryRetire_wf]

theorem Ctx.retire_wf {s : State} (h : s.mem.wf) (x : Ctx) : (x.retire s).wf := by
  unfold Ctx.retire; grind [State.retireMove_wf, Res.wf]

theorem chuteAcquire_wf {s : State} (h : s.mem.wf) (try_ x) : (chuteAcquire try_ x s).wf := by
  unfold chuteAcquire
  grind [Ctx.retire_wf, State.modTile_mem, State.setSlotRec_mem, State.modChute_mem, State.modCrew_mem, State.wakeChute_mem,
    Ctx.handle_mem, Res.wf]

theorem chuteTake_wf {s : State} (h : s.mem.wf) (try_ x) : (chuteTake try_ x s).wf := by
  unfold chuteTake
  grind [Ctx.retire_wf, State.modTile_mem, State.setSlotRec_mem, State.modChute_mem, State.modCrew_mem, State.wakeChute_mem,
    Ctx.handle_mem, Res.wf]

theorem bodyChPut_wf {s : State} (h : s.mem.wf) (x) : (bodyChPut x s).wf := by
  unfold bodyChPut; grind [State.setSlotRec_mem, State.modCrew_mem, State.slotReady_mem, Res.wf]

theorem bodyChFree_wf {s : State} (h : s.mem.wf) (x) : (bodyChFree x s).wf := by
  unfold bodyChFree; grind [State.modCrew_mem, State.slotEmpty_mem, Res.wf]

@[simp] theorem State.dropWaiter_mem (s : State) (k u) : (s.dropWaiter k u).mem = s.mem := by
  unfold State.dropWaiter; (repeat' split) <;> simp

theorem dropTrapped_wf {f : Option (Nat × Nat)} {o : Out} (h : outWf o) : outWf (dropTrapped f o) := by
  cases o with
  | next t => cases f <;> simpa [dropTrapped, outWf] using h
  | fault | refused => trivial

theorem execChuteWaitSuspend_wf {s : State} (h : s.mem.wf) (crew unit) : outWf (execChuteWaitSuspend crew unit s) := by
  unfold execChuteWaitSuspend
  dsimp only
  (repeat' split) <;> simpa [outWf]

theorem execCreditNotification_wf {s : State} (h : s.mem.wf) (id) : outWf (execCreditNotification id s) := by
  unfold execCreditNotification; grind [State.modChute_mem, outWf]

/-! ### Events -/

theorem bodyEvAdd_wf {s : State} (h : s.mem.wf) (x) : (bodyEvAdd x s).wf := by
  unfold bodyEvAdd; grind [State.addCounter_mem, State.modCrew_mem, Res.wf]

theorem bodyEvSet_wf {s : State} (h : s.mem.wf) (x) : (bodyEvSet x s).wf := by
  unfold bodyEvSet; grind [State.modCore_mem, State.wakeCounter_mem, State.mend_mem, Res.wf]

theorem bodyEvRd_wf {s : State} (h : s.mem.wf) (x) : (bodyEvRd x s).wf := by
  unfold bodyEvRd; grind [State.modCrew_mem, Res.wf]

@[simp] theorem State.arrive_mem (s : State) (k launch g epoch) : (s.arrive k launch g epoch).mem = s.mem := by simp [State.arrive]

theorem Ctx.awaitBarrier_wf {s : State} (h : s.mem.wf) (x : Ctx) (g wt) : (x.awaitBarrier s g wt).wf := by
  unfold Ctx.awaitBarrier; grind [State.modUnit_mem, Res.wf]

theorem barBody_wf {s : State} (h : s.mem.wf) (arv x) : (barBody arv x s).wf := by
  unfold barBody; grind [Ctx.awaitBarrier_wf, State.arrive_mem, State.modCrew_mem, Res.wf]

/-! ### Hoist -/

theorem Ctx.enqueue_wf {s : State} (h : s.mem.wf) (x : Ctx) (q h) : (x.enqueue s q h).wf := by
  unfold Ctx.enqueue; grind [foldl_wf, State.setQueue_mem, State.modTile_mem, Ctx.crewDone_wf, Res.wf]

theorem Ctx.withHoist_wf (x : Ctx) (s : State) (q) {go : Res} (hg : go.wf) : (x.withHoist s q go).wf := by
  unfold Ctx.withHoist
  grind [Res.wf]

theorem hoistLaneBody_wf {s : State} (h : s.mem.wf) (kind x) : (hoistLaneBody kind x s).wf := by
  unfold hoistLaneBody
  refine Ctx.withHoist_wf _ _ _ ?_
  grind [Ctx.enqueue_wf, Res.wf]

theorem hoistTensorBody_wf {s : State} (h : s.mem.wf) (kind x) : (hoistTensorBody kind x s).wf := by
  unfold hoistTensorBody
  refine Ctx.withHoist_wf _ _ _ ?_
  grind [Ctx.enqueue_wf, Res.wf]

theorem bodyHoistSt_wf {s : State} (h : s.mem.wf) (x) : (bodyHoistSt x s).wf := by
  unfold bodyHoistSt; grind [hoistLaneBody_wf, hoistTensorBody_wf, Res.wf]

@[simp] theorem State.acquireMc_mem (s : State) (core q n cs) : (s.acquireMc core q n cs).2.mem = s.mem := by
  induction cs generalizing s with
  | nil => rfl
  | cons c cs ih =>
    unfold State.acquireMc
    dsimp only
    split <;> simp [ih]

theorem bodyHoistMc_wf {s : State} (h : s.mem.wf) (x) : (bodyHoistMc x s).wf := by
  unfold bodyHoistMc
  refine Ctx.withHoist_wf _ _ _ ?_
  grind [State.acquireMc_mem, Ctx.enqueue_wf, Res.wf]

theorem bodyQfence_wf {s : State} (h : s.mem.wf) (x) : (bodyQfence x s).wf := by
  unfold bodyQfence; grind [Ctx.withHoist_wf, Ctx.enqueue_wf, Res.wf]

/-! ### Engine -/

@[simp] theorem State.putItem_mem (s : State) (core q x) : (s.putItem core q x).mem = s.mem := rfl
@[simp] theorem State.dropItem_mem (s : State) (core q id) : (s.dropItem core q id).mem = s.mem := rfl
@[simp] theorem State.drawn_mem (s : State) : (s.drawn).mem = s.mem := by unfold State.drawn; split <;> simp

@[simp] theorem State.landBytes_mem (s : State) (key off bs) : (s.landBytes key off bs).mem = s.mem := by
  unfold State.landBytes; grind [foldl_mem, State.modBlock_mem, State.mend_mem]

@[simp] theorem State.countLanding_mem (s : State) (core e n chute owner) : (s.countLanding core e n chute owner).mem = s.mem := by
  unfold State.countLanding; (repeat' split) <;> simp

@[simp] theorem State.sourceLine_mem (s : State) (core h p line) : (s.sourceLine core h p line).mem = s.mem := rfl
@[simp] theorem State.landIn_mem (s : State) (core h p bs) : (s.landIn core h p bs).mem = s.mem := by unfold State.landIn; split <;> simp

@[simp] theorem State.landAll_mem (s : State) (core h p bs) : (s.landAll core h p bs).mem = s.mem := by
  unfold State.landAll; grind [foldl_mem, State.countLanding_mem, State.landBytes_mem]

theorem State.landPiece_wf {s : State} {core h p} {t : State} (e : s.landPiece core h p = .ok t) (h : s.mem.wf) : t.mem.wf := by
  unfold State.landPiece at *
  grind [State.landIn_mem, → State.translate_wf, State.homeTook_mem, State.touch_mem, State.drawn_mem, State.perform_wf,
    State.atHome_mem, State.landAll_mem, State.sourceLine_mem]

theorem State.landPieces_wf {s : State} (h : s.mem.wf) (core q id n) : (s.landPieces core q id n).mem.wf := by
  induction n generalizing s with
  | zero => exact h
  | succ n ih =>
    have hput (s : State) (item) (h : s.mem.wf) : (s.putItem core q item).mem.wf := by simpa
    unfold State.landPieces
    split
    · exact h
    split
    · exact h
    split
    · exact h
    · dsimp only
      split
      · exact hput _ _ h
      · exact h
    · exact ih (hput _ _ (by simpa using State.landPiece_wf ‹_› h))

theorem execHoistLanding_wf {s : State} (h : s.mem.wf) (core q id n) : outWf (execHoistLanding core q id n s) := by
  unfold execHoistLanding; grind [State.landPieces_wf, outWf]

theorem execHoistFault_wf {s : State} (h : s.mem.wf) (core q id) : outWf (execHoistFault core q id s) := by
  unfold execHoistFault; grind [State.putItem_mem, State.forget_mem, State.report_mem, outWf]

@[simp] theorem State.signalHoist_mem (s : State) (core h) : (s.signalHoist core h).mem = s.mem := by
  unfold State.signalHoist; grind [foldl_mem, State.reachCrew_mem, State.addBlockCounter_mem, State.countLanding_mem]

theorem State.engineLeft_wf {s : State} (h : s.mem.wf) (core launch n) : (s.engineLeft core launch n).mem.wf := by
  unfold State.engineLeft; grind [State.releaseIdle_mem, State.tryRetire_wf]

theorem execHoistComplete_wf {s : State} (h : s.mem.wf) (core q id) : outWf (execHoistComplete core q id s) := by
  unfold execHoistComplete; grind [State.dropItem_mem, State.engineLeft_wf, State.signalHoist_mem, outWf]

/-! ### Capsule -/

theorem bodyLease_wf {s : State} (h : s.mem.wf) (x) : (bodyLease x s).wf := by
  unfold bodyLease
  dsimp only
  split
  · trivial
  split
  · exact h
  split
  · exact h
  split
  · exact h
  split
  · exact XlFault.res_wf (by simpa) _ _ _ _ _
  · have ht := State.translate_wf ‹_› h
    split
    · split <;> simpa [Res.wf]
    split
    · exact ht
    split
    · trivial
    · refine Ctx.obtain_wf ht _ _ fun s h => ?_
      simpa [Res.wf]

theorem bodyLrel_wf {s : State} (h : s.mem.wf) (x) : (bodyLrel x s).wf := by
  unfold bodyLrel; grind [State.modCrew_mem, Res.wf]

theorem State.writeRecord_wf {s : State} (h : s.mem.wf) (core x r) : (s.writeRecord core x r).mem.wf := by
  unfold State.writeRecord; grind [State.ownLine_mem, State.perform_wf]

theorem Ctx.record_wf {s : State} (h : s.mem.wf) (x : Ctx) (va) {go : Xl → State → Res} (hg : ∀ t s, s.mem.wf → (go t s).wf) :
    (x.record s va go).wf := by
  unfold Ctx.record
  split
  · exact XlFault.res_wf (by simpa) _ _ _ _ _
  · have ht := State.translate_wf ‹_› h
    dsimp only
    split
    · trivial
    · refine Ctx.obtain_wf ht _ _ fun s h => ?_
      split
      · exact h
      · exact hg _ _ h

theorem Ctx.capGo_wf {s : State} (h : s.mem.wf) (x : Ctx) (pc f) : (x.capGo s pc f).wf := by
  unfold Ctx.capGo; grind [State.modCrew_mem, State.transfer_wf, Res.wf]

theorem Ctx.acquire_wf {s : State} (h : s.mem.wf) (x : Ctx) (l va base t w r) : (x.acquire s l va base t w r).wf := by
  unfold Ctx.acquire; grind [State.writeRecord_wf, Ctx.capGo_wf, Res.wf]

theorem Ctx.adopt_wf {s : State} (h : s.mem.wf) (x : Ctx) (va t w r) : (x.adopt s va t w r).wf := by
  unfold Ctx.adopt; grind [State.writeRecord_wf, Ctx.capGo_wf, Res.wf]

theorem bodyCapEnter_wf {s : State} (h : s.mem.wf) (x) : (bodyCapEnter x s).wf := by
  unfold bodyCapEnter; grind [Ctx.record_wf, Ctx.acquire_wf, Ctx.adopt_wf, Res.wf]

theorem Ctx.displaced_wf {s : State} (h : s.mem.wf) (x : Ctx) : (x.displaced s).wf := by
  unfold Ctx.displaced; grind [Ctx.capGo_wf, State.modCrew_mem, Res.wf]

theorem State.commitLines_wf {s : State} (h : s.mem.wf) (core p) : (s.commitLines core p).mem.wf := by
  unfold State.commitLines; grind [foldl_wf, State.wakeLine_mem, State.touch_mem, State.writeLine_wf, State.ownLine_mem]

theorem Ctx.commit_wf {s : State} (h : s.mem.wf) (x : Ctx) (fin va w r) : (x.commit s fin va w r).wf := by
  unfold Ctx.commit; grind [State.writeRecord_wf, State.commitLines_wf, Ctx.capGo_wf, State.modCrew_mem, Res.wf]

theorem capCommit_wf {s : State} (h : s.mem.wf) (fin x) : (capCommit fin x s).wf := by
  unfold capCommit; grind [Ctx.displaced_wf, Ctx.record_wf, Ctx.capGo_wf, Ctx.commit_wf, Res.wf]

theorem bodyCapResult_wf {s : State} (h : s.mem.wf) (x) : (bodyCapResult x s).wf := by
  unfold bodyCapResult; grind [State.modCrew_mem, Res.wf]

theorem execLeaseExpire_wf {s : State} (h : s.mem.wf) (crew line) : outWf (execLeaseExpire crew line s) := by
  unfold execLeaseExpire; grind [State.modCrew_mem, outWf]

theorem execCapsuleDeschedule_wf {s : State} (h : s.mem.wf) (crew) : outWf (execCapsuleDeschedule crew s) := by
  unfold execCapsuleDeschedule; grind [foldl_wf, State.settleFault_mem, State.deschedule_wf, outWf]

theorem execAdoptionNotice_wf {s : State} (h : s.mem.wf) (id) : outWf (execAdoptionNotice id s) := by
  unfold execAdoptionNotice; grind [State.reachCrew_mem, outWf]

theorem execCapsuleDelivery_wf {s : State} (h : s.mem.wf) (id) : outWf (execCapsuleDelivery id s) := by
  unfold execCapsuleDelivery; grind [State.reachCrew_mem, State.modLaunch_mem, State.addBlockCounter_mem, outWf]

/-! ### Matrix -/

theorem Ctx.accept_wf {s : State} (h : s.mem.wf) (x : Ctx) (q t f) : (x.accept s q t f).wf := by
  unfold Ctx.accept; grind [State.setQueue_mem, Ctx.crewDone_wf, Res.wf]

theorem Ctx.acceptRead_wf {s : State} (h : s.mem.wf) (x : Ctx) (q t n) : (x.acceptRead s q t n).wf := by
  unfold Ctx.acceptRead; grind [Ctx.accept_wf, Res.wf]

theorem Ctx.withQueue_wf (x : Ctx) (s : State) (op) {go : Nat → Res} (hg : ∀ q, (go q).wf) : (x.withQueue s op go).wf := by
  unfold Ctx.withQueue
  grind [Res.wf]

theorem Ctx.taskRegion_error_wf {s : State} {x : Ctx} {out ix r} (e : x.taskRegion s out ix = .error r) (h : s.mem.wf) : r.wf := by
  unfold Ctx.taskRegion at e
  grind [Res.wf]

theorem bodyWload_wf {s : State} (h : s.mem.wf) (x) : (bodyWload x s).wf := by
  unfold bodyWload
  refine Ctx.withQueue_wf _ _ _ fun q => ?_
  grind [→ Ctx.taskRegion_error_wf, State.modBlock_mem, Ctx.accept_wf, Res.wf]

theorem mmaBody_wf {s : State} (h : s.mem.wf) (op x) : (mmaBody op x s).wf := by
  unfold mmaBody
  generalize mmaKind op (x.a.ctl.getLsbD 2) = kind
  refine Ctx.withQueue_wf _ _ _ fun q => ?_
  split
  · exact h
  split
  · exact Ctx.taskRegion_error_wf ‹_› h
  split
  · exact h
  grind [Ctx.accept_wf, State.modCore_mem, Res.wf]

theorem tsaccBody_wf {s : State} (h : s.mem.wf) (op x) : (tsaccBody op x s).wf := by
  unfold tsaccBody
  refine Ctx.withQueue_wf _ _ _ fun q => ?_
  grind [Ctx.accept_wf, Res.wf]

theorem bodyTopk_wf {s : State} (h : s.mem.wf) (x) : (bodyTopk x s).wf := by
  unfold bodyTopk
  refine Ctx.withQueue_wf _ _ _ fun q => ?_
  grind [Ctx.acceptRead_wf, Res.wf]

theorem bodyAccRd_wf {s : State} (h : s.mem.wf) (x) : (bodyAccRd x s).wf := by
  unfold bodyAccRd
  refine Ctx.withQueue_wf _ _ _ fun q => ?_
  grind [Ctx.acceptRead_wf, Res.wf]

theorem bodyAccSt_wf {s : State} (h : s.mem.wf) (x) : (bodyAccSt x s).wf := by
  unfold bodyAccSt
  refine Ctx.withQueue_wf _ _ _ fun q => ?_
  grind [→ Ctx.taskRegion_error_wf, Ctx.accept_wf, Res.wf]

theorem bodyAccClr_wf {s : State} (h : s.mem.wf) (x) : (bodyAccClr x s).wf := by
  unfold bodyAccClr
  refine Ctx.withQueue_wf _ _ _ fun q => ?_
  grind [Ctx.accept_wf, Res.wf]

/-! ### Tasks -/

theorem State.fireChute_wf {s : State} (h : s.mem.wf) (core q t) : (s.fireChute core q t).2.mem.wf := by
  unfold State.fireChute; grind [State.modTile_mem, State.setSlotRec_mem, State.modChute_mem, State.wakeChute_mem]

theorem execTaskStart_wf {s : State} (h : s.mem.wf) (core q id) : outWf (execTaskStart core q id s) := by
  unfold execTaskStart; grind [State.fireChute_wf, State.putItem_mem, outWf]

@[simp] theorem State.storeTile_mem (s : State) (core t c j) : (s.storeTile core t c j).1.mem = s.mem := by
  unfold State.storeTile
  refine List.foldlRecOn (motive := fun acc : State × BitVec 7 => acc.1.mem = s.mem) _ _ rfl fun acc ha m _ => ?_
  refine List.foldlRecOn (motive := fun acc : State × BitVec 7 => acc.1.mem = s.mem) _ _ ha fun acc ha i _ => ?_
  simpa using ha

@[simp] theorem State.softTask_mem (s : State) (core t code) : (s.softTask core t code).mem = s.mem := by simp [State.softTask]
@[simp] theorem State.runLoad_mem (s : State) (core t) : (s.runLoad core t).mem = s.mem := by simp [State.runLoad]

@[simp] theorem State.runMma_mem (s : State) (core q t) : (s.runMma core q t).mem = s.mem := by
  unfold State.runMma; grind [State.softTask_mem, State.reachCrew_mem, State.modCore_mem]

@[simp] theorem State.runTsacc_mem (s : State) (core q t) : (s.runTsacc core q t).mem = s.mem := by
  unfold State.runTsacc; grind [State.softTask_mem, State.reachCrew_mem, State.modCore_mem]

@[simp] theorem State.mendTile_mem (s : State) (t) : (s.mendTile t).mem = s.mem := by unfold State.mendTile; split <;> simp
@[simp] theorem State.mendRegs_mem (s : State) (t n) : (s.mendRegs t n).mem = s.mem := by unfold State.mendRegs; split <;> simp

@[simp] theorem State.runTask_mem (s : State) (core q t) : (s.runTask core q t).mem = s.mem := by
  unfold State.runTask
  grind [State.runLoad_mem, State.runTsacc_mem, State.reachCrew_mem, State.mendRegs_mem, State.storeTile_mem, State.mendTile_mem,
    State.runMma_mem]

@[simp] theorem State.taskRegion_mem (s : State) (core t) : (s.taskRegion core t).mem = s.mem := by
  unfold State.taskRegion; (repeat' split) <;> simp

theorem execTaskComplete_wf {s : State} (h : s.mem.wf) (core q id) : outWf (execTaskComplete core q id s) := by
  unfold execTaskComplete
  grind [State.taskRegion_mem, State.dropItem_mem, State.runTask_mem, State.reachCrew_mem, State.settleFault_mem, State.perf_mem,
    State.engineLeft_wf, outWf]

/-! ### Units -/

theorem execIssueCycle_wf {s : State} (h : s.mem.wf) (core iss) : outWf (execIssueCycle core iss s) := by
  unfold execIssueCycle; grind [outWf]

@[simp] theorem State.ageCandidates_mem (s : State) : (s.ageCandidates).mem = s.mem := by
  unfold State.ageCandidates; grind [foldl_mem, State.modCore_mem]

theorem execResultReturn_wf {s : State} (h : s.mem.wf) (crew id) : outWf (execResultReturn crew id s) := by
  unfold execResultReturn; grind [State.settleFault_mem, State.modCrew_mem, State.clearSoft_mem, outWf]

theorem execRunLimit_wf {s : State} (h : s.mem.wf) (crew unit) : outWf (execRunLimit crew unit s) := by
  unfold execRunLimit; grind [State.modCrew_mem, outWf]

theorem execTrapEntry_wf {s : State} (h : s.mem.wf) (crew unit) : outWf (execTrapEntry crew unit s) := by
  unfold execTrapEntry; grind [State.setCrew_mem, outWf]

theorem execDozeEnd_wf {s : State} (h : s.mem.wf) (crew unit) : outWf (execDozeEnd crew unit s) := by
  unfold execDozeEnd; grind [State.modCrew_mem, outWf]

@[simp] theorem State.dropWatch_mem (s : State) (core a3) : (s.dropWatch core a3).mem = s.mem := by unfold State.dropWatch; split <;> simp

theorem execUnitWake_wf {s : State} (h : s.mem.wf) (crew unit) : outWf (execUnitWake crew unit s) := by
  unfold execUnitWake; grind [State.modCrew_mem, State.modUnit_mem, State.dropWatch_mem, outWf]

theorem execTileStall_wf {s : State} (h : s.mem.wf) (crew unit) : outWf (execTileStall crew unit s) := by
  refine outWf_next ?_
  split
  · exact h
  split
  · exact h
  split
  · split
    · exact mem_wf_ite (State.takeTrap_wf h _ _ _ _) h
    · exact h
  · exact h

/-! ### MemSystem -/

theorem execStoreSend_wf {s : State} (h : s.mem.wf) (crew id) : outWf (execStoreSend crew id s) := by
  unfold execStoreSend; grind [State.sendEntry_mem, State.settleTokens_mem, State.modCrew_mem, outWf]

theorem State.performFlight_wf {s : State} (h : s.mem.wf) (f) : (s.performFlight f).mem.wf := by
  unfold State.performFlight; grind [State.wakeLine_mem, State.touch_mem, State.writeLine_wf, State.homeLine_mem, State.ownLine_mem]

@[simp] theorem State.seekOwner_mem (s : State) (f) : (s.seekOwner f).mem = s.mem := by unfold State.seekOwner; split <;> simp

theorem execStoreAck_wf {s : State} (h : s.mem.wf) (id scope) : outWf (execStoreAck id scope s) := by
  unfold execStoreAck; grind [State.seekOwner_mem, State.performFlight_wf, State.reachCrew_mem, State.settleTokens_mem, outWf]

theorem execTableWalk_wf {s : State} (h : s.mem.wf) (core va wr) : outWf (execTableWalk core va wr s) := by
  unfold execTableWalk; grind [→ State.translate_wf, outWf]

@[simp] theorem State.predict_mem (s : State) (core n target) : (s.predict core n target).mem = s.mem := by
  unfold State.predict; split <;> simp

@[simp] theorem State.probeMissed_mem (s : State) (p) : (s.probeMissed p).mem = s.mem := by unfold State.probeMissed; split <;> simp

theorem execPeerProbe_wf {s : State} (h : s.mem.wf) (core line) : outWf (execPeerProbe core line s) := by
  unfold execPeerProbe; grind [State.probeMissed_mem, outWf]

theorem execProbeRelay_wf {s : State} (h : s.mem.wf) (id) : outWf (execProbeRelay id s) := by
  unfold execProbeRelay; grind [State.modBank_mem, State.predict_mem, State.shareLine_mem, outWf]

@[simp] theorem State.serveRead_mem (s : State) (r) : (s.serveRead r).mem = s.mem := by
  unfold State.serveRead; grind [State.fillL2_mem, State.modCore_mem, State.setLine_mem, State.predict_mem, State.shareLine_mem]

@[simp] theorem State.serve_mem (s : State) (bank r) : (s.serve bank r).mem = s.mem := by unfold State.serve; split <;> simp
@[simp] theorem State.forward_mem (s : State) (bank r) : (s.forward bank r).mem = s.mem := rfl

theorem execBankAccept_wf {s : State} (h : s.mem.wf) (bank) : outWf (execBankAccept bank s) := by
  unfold execBankAccept; grind [State.serve_mem, State.modBank_mem, State.forward_mem, outWf]

theorem State.writeGranted_wf {s : State} (h : s.mem.wf) (core line) : (s.writeGranted core line).mem.wf := by
  unfold State.writeGranted; grind [State.performFlight_wf]

theorem execOwnershipGrant_wf {s : State} (h : s.mem.wf) (line) : outWf (execOwnershipGrant line s) := by
  unfold execOwnershipGrant
  grind [State.modBank_mem, State.setLine_mem, State.serveRead_mem, State.putL1_mem, State.fillL2_mem, State.dropCopies_mem,
    State.writeGranted_wf, outWf]

theorem execMemoryRead_wf {s : State} (h : s.mem.wf) (line key) : outWf (execMemoryRead line key s) := by
  unfold execMemoryRead; grind [State.fillL2_mem, State.touch_mem, outWf]

theorem execMemoryWrite_wf {s : State} (h : s.mem.wf) (line key data) : outWf (execMemoryWrite line key data s) := by
  unfold execMemoryWrite; grind [State.wakeLine_mem, State.writeBytes_wf, State.touch_mem, outWf]

@[simp] theorem State.dropLines_mem (s : State) (p) : (s.dropLines p).mem = s.mem := rfl

theorem State.discardKey_wf {s : State} (h : s.mem.wf) (slot) : (s.discardKey slot).mem.wf := by
  unfold State.discardKey
  split
  · exact Memory.wf_keep (m := s.mem) h fun a => !s.lineOfKey slot (a / 128)
  · exact h

theorem execKeySweepDone_wf {s : State} (h : s.mem.wf) (slot) : outWf (execKeySweepDone slot s) := by
  unfold execKeySweepDone; grind [outWf]

@[simp] theorem State.recallFrame_mem (s : State) (group i) : (s.recallFrame group i).mem = s.mem := rfl

theorem execRetentionEntry_wf {s : State} (h : s.mem.wf) (group) : outWf (execRetentionEntry group s) := by
  unfold execRetentionEntry; grind [State.recallFrame_mem, outWf]

theorem execRetentionExit_wf {s : State} (h : s.mem.wf) (group) : outWf (execRetentionExit group s) := by
  unfold execRetentionExit; grind [State.recallFrame_mem, outWf]

/-! ### Placement -/

@[simp] theorem State.placeBlock_mem (s : State) (launch number bench core prio sh f) :
    (s.placeBlock launch number bench core prio sh f).mem = s.mem := by
  unfold State.placeBlock; grind [foldl_mem, State.setCrew_mem]

@[simp] theorem State.startCrew_mem (s : State) (k) : (s.startCrew k).mem = s.mem := by unfold State.startCrew; (repeat' split) <;> simp

theorem execCrewStart_wf {s : State} (h : s.mem.wf) (core bslot) : outWf (execCrewStart core bslot s) := by
  unfold execCrewStart; grind [foldl_wf, State.startCrew_mem, State.modBlock_mem, outWf]

@[simp] theorem State.dropGrant_mem (s : State) (core launch block) : (s.dropGrant core launch block).mem = s.mem := rfl

theorem execBlockPlace_wf {s : State} (h : s.mem.wf) (launch block core) : outWf (execBlockPlace launch block core s) := by
  unfold execBlockPlace; grind [State.placeBlock_mem, State.dropGrant_mem, State.modLaunch_mem, outWf]

/-! ### Image -/

theorem State.writeRanges_wf {s : State} {part base rs bs} {t : State} (e : s.writeRanges part base rs bs = .ok t)
    (h : s.mem.wf) : t.mem.wf := by
  induction rs generalizing s bs with
  | nil => cases e; exact h
  | cons r rs ih =>
    unfold State.writeRanges at e
    grind [→ State.vwrite_wf]

theorem State.readRanges_wf {s : State} {part base rs bs} {t : State} (e : s.readRanges part base rs = .ok (bs, t))
    (h : s.mem.wf) : t.mem.wf := by
  induction rs generalizing s bs with
  | nil => cases e; exact h
  | cons r rs ih =>
    unfold State.readRanges at e
    grind [→ State.vread_wf]

theorem State.readImage_wf {s : State} {l v} {y0} {t : State} (e : s.readImage l v = .ok (y0, t)) (h : s.mem.wf) : t.mem.wf := by
  unfold State.readImage at *; grind [→ State.readRanges_wf]

/-! ### Preempt -/

@[simp] theorem State.preempt_mem (s : State) (bound key) : (s.preempt bound key).mem = s.mem := by
  unfold State.preempt; (repeat' split) <;> simp

@[simp] theorem State.preemptAs_mem (s : State) (strategy bound key) :
    (s.preemptAs strategy bound key).mem = s.mem := by simp [State.preemptAs]

theorem execDrainToSave_wf {s : State} (h : s.mem.wf) (core bslot) : outWf (execDrainToSave core bslot s) := by
  unfold execDrainToSave; grind [State.modBlock_mem, outWf]

@[simp] theorem State.liftBlock_mem (s : State) (key b v) : (s.liftBlock key b v).mem = s.mem := rfl

theorem State.descheduleAll_wf {s : State} (h : s.mem.wf) (ks) : (s.descheduleAll ks).1.mem.wf := by
  unfold State.descheduleAll; grind [foldl_wf, foldl_mem, State.deschedule_wf]

theorem State.saveBlock_wf {s : State} (h : s.mem.wf) (key b l) : (s.saveBlock key b l).mem.wf := by
  unfold State.saveBlock
  grind [foldl_wf, foldl_mem, State.descheduleAll_wf, State.dropWatch_mem, → State.writeRanges_wf, State.modLaunch_mem, State.liftBlock_mem]

@[simp] theorem State.resumeCrews_mem (s : State) (ks) : (s.resumeCrews ks).mem = s.mem := by simp [State.resumeCrews]

theorem execBlockSave_wf {s : State} (h : s.mem.wf) (core bslot) : outWf (execBlockSave core bslot s) := by
  unfold execBlockSave; grind [State.resumeCrews_mem, State.modBlock_mem, State.saveBlock_wf, outWf]

@[simp] theorem State.endCrew_mem (s : State) (k) : (s.endCrew k).mem = s.mem := by unfold State.endCrew; split <;> simp
@[simp] theorem State.dropHeld_mem (s : State) (core launch block) : (s.dropHeld core launch block).mem = s.mem := rfl

theorem execBlockFlush_wf {s : State} (h : s.mem.wf) (core bslot) : outWf (execBlockFlush core bslot s) := by
  unfold execBlockFlush
  grind [foldl_wf, State.dropHeld_mem, State.descheduleAll_wf, State.releaseBlock_mem, State.endCrew_mem, State.modLaunch_mem,
    State.checkLaunch_mem, State.coreFreed_mem, outWf]

@[simp] theorem State.restoreBlock_mem (s : State) (launch number core v f) : (s.restoreBlock launch number core v f).mem = s.mem := by
  unfold State.restoreBlock
  grind [foldl_mem, State.setCrew_mem, State.modCore_mem, State.coreFreed_mem, State.modLaunch_mem, State.wakeChute_mem]

theorem execSavedBlockRunnable_wf {s : State} (h : s.mem.wf) (launch block) : outWf (execSavedBlockRunnable launch block s) := by
  unfold execSavedBlockRunnable; grind [State.modLaunch_mem, outWf]

/-! ### Policy -/

theorem policy_wf {s : State} (h : s.mem.wf) (cost) {f : Nat → Cluster → State → State} (hf : ∀ n c s, s.mem.wf →
    (f n c s).mem.wf) : outWf (policy cost f s) := by
  unfold policy
  split
  · trivial
  · exact hf _ _ _ (by simpa)

theorem policyOn_wf {s : State} (h : s.mem.wf) (cost f) : outWf (policyOn cost f s) :=
  policy_wf h cost fun _ _ s hs => by simpa

theorem policyR3_wf {s : State} (h : s.mem.wf) (cost f d a b) : outWf (policyR3 cost f d a b s) := policyOn_wf h _ _
theorem policyR2_wf {s : State} (h : s.mem.wf) (cost f d a) : outWf (policyR2 cost f d a s) := policyOn_wf h _ _
theorem policyBranch_wf {s : State} (h : s.mem.wf) (p d a imm) : outWf (policyBranch p d a imm s) := policyOn_wf h _ _

theorem policyWindow_wf {s : State} (h : s.mem.wf) (a imm size) {f : Nat → Nat → State → State}
    (hf : ∀ n pa s, s.mem.wf → (f n pa s).mem.wf) : outWf (policyWindow a imm size f s) := by
  unfold policyWindow
  split
  · trivial
  split
  · exact policy_wf h _ fun _ _ _ hs => hs
  dsimp only
  split
  · simpa [outWf]
  · exact policy_wf (by rwa [foldl_mem fun _ _ => State.homeTook_mem _ _ _]) _ fun n _ s hs => hf n _ s hs

@[simp] theorem State.policyError_mem (s : State) (n pa) : (s.policyError n pa).mem = s.mem := by simp [State.policyError]

theorem policyLoad_wf {s : State} (h : s.mem.wf) (size d a imm) : outWf (policyLoad size d a imm s) := by
  unfold policyLoad
  refine policyWindow_wf h _ _ _ fun n pa s hs => ?_
  dsimp only
  split <;> simpa

theorem policyStore_wf {s : State} (h : s.mem.wf) (size d a imm) : outWf (policyStore size d a imm s) := by
  unfold policyStore
  refine policyWindow_wf h _ _ _ fun n pa s hs => foldl_wf (fun s p hs => ?_) _ hs
  exact State.perform_wf (by simpa) _ _ _

/-! ### Benches -/

theorem State.moveCore_wf {s : State} (h : s.mem.wf) (launch core b) : (s.moveCore launch core b).mem.wf := by
  unfold State.moveCore; grind [foldl_wf, State.coreFreed_mem, State.modLaunch_mem, State.retireMove_wf]

/-! ### Decide -/

@[simp] theorem State.enterRunq_mem (s : State) (n front e) : (s.enterRunq n front e).mem = s.mem := rfl
@[simp] theorem State.leaveRunq_mem (s : State) (n launch block) : (s.leaveRunq n launch block).mem = s.mem := rfl

theorem policyRead_wf {s : State} (h : s.mem.wf) (num d) : outWf (policyRead num d s) := by
  unfold policyRead
  refine policy_wf h _ fun n c s hs => ?_
  grind [State.modCluster_mem]

theorem execPolicySetd_wf {s : State} (h : s.mem.wf) (a imm) : outWf (execPolicySetd a imm s) :=
  policy_wf h _ fun _ _ _ hs => by simpa

theorem State.writeEntry_wf {s : State} (h : s.mem.wf) (die slot v) : (s.writeEntry die slot v).mem.wf := Memory.wf_storeBytes h _ _
theorem State.freeRecord_wf {s : State} (h : s.mem.wf) (die m) : (s.freeRecord die m).mem.wf := Memory.wf_storeBytes h _ _

theorem State.withdraw_wf {s : State} (h : s.mem.wf) (launch) : (s.withdraw launch).mem.wf := by
  unfold State.withdraw; grind [foldl_wf, foldl_mem, State.freeRecord_wf, State.modLaunch_mem]

theorem State.haltLaunch_wf {s : State} (h : s.mem.wf) (launch) : (s.haltLaunch launch).mem.wf := by
  unfold State.haltLaunch; grind [foldl_wf, State.modLaunch_mem, State.withdraw_wf, State.preemptAs_mem]

@[simp] theorem State.unhalt_mem (s : State) (launch) : (s.unhalt launch).mem = s.mem := by
  unfold State.unhalt; grind [foldl_mem, State.modLaunch_mem, State.resumeCrews_mem, State.modBlock_mem]

@[simp] theorem State.cancelChange_mem (s : State) (n) : (s.cancelChange n).mem = s.mem := by simp [State.cancelChange]

theorem State.changeHolder_wf {s : State} (h : s.mem.wf) (n q bound floor) : (s.changeHolder n q bound floor).mem.wf := by
  unfold State.changeHolder
  grind [foldl_wf, foldl_mem, State.cancelChange_mem, State.modCluster_mem, State.modLaunch_mem, State.haltLaunch_wf, State.modBlock_mem,
    State.preempt_mem]

@[simp] theorem State.refuseMigration_mem (s : State) (n die p) : (s.refuseMigration n die p).mem = s.mem := rfl

theorem State.migrate_wf {s : State} (h : s.mem.wf) (n die e) : (s.migrate n die e).mem.wf := by
  unfold State.migrate; grind [State.refuseMigration_mem, State.writeEntry_wf, State.leaveRunq_mem]

@[simp] theorem State.pend_mem (s : State) (n i) : (s.pend n i).mem = s.mem := by
  unfold State.pend; grind [State.modCluster_mem]

@[simp] theorem State.grantEntry_mem (s : State) (n core place e) : (s.grantEntry n core place e).mem = s.mem := by
  unfold State.grantEntry; grind [State.modCluster_mem, State.leaveRunq_mem]

@[simp] theorem State.defaultPick_mem (s : State) (n i) : (s.defaultPick n i).mem = s.mem := by unfold State.defaultPick; split <;> simp

@[simp] theorem State.applyPick_mem (s : State) (n i ds) : (s.applyPick n i ds).mem = s.mem := by
  unfold State.applyPick; (repeat' split) <;> simp

@[simp] theorem State.evict_mem (s : State) (bound key) : (s.evict bound key).mem = s.mem := by unfold State.evict; split <;> simp

theorem State.applyWake_wf {s : State} (h : s.mem.wf) (n i ds) : (s.applyWake n i ds).mem.wf := by
  unfold State.applyWake; grind [State.enterRunq_mem, State.migrate_wf]

theorem State.applyMigrate_wf {s : State} (h : s.mem.wf) (n i ds) : (s.applyMigrate n i ds).mem.wf := by
  unfold State.applyMigrate; grind [foldl_wf, State.migrate_wf]

theorem State.applyRebalance_wf {s : State} (h : s.mem.wf) (n i ds) : (s.applyRebalance n i ds).mem.wf := by
  unfold State.applyRebalance; grind [foldl_wf, State.moveCore_wf]

theorem State.applyT_wf {s : State} (h : s.mem.wf) (n i ds) : (s.applyT n i ds).mem.wf := by
  unfold State.applyT
  grind [State.modCluster_mem, State.applyPick_mem, State.evict_mem, State.applyWake_wf, State.applyMigrate_wf, State.applyRebalance_wf]

theorem State.fireT_wf {s : State} (h : s.mem.wf) (n i) : (s.fireT n i).mem.wf := by
  unfold State.fireT; grind [State.pend_mem, State.defaultPick_mem, State.applyT_wf]

theorem State.applyH_wf {s : State} (h : s.mem.wf) (n i ds) : (s.applyH n i ds).mem.wf := by
  unfold State.applyH; grind [foldl_wf, foldl_mem, State.applyMigrate_wf, State.changeHolder_wf, State.fireT_wf]

theorem State.fire_wf {s : State} (h : s.mem.wf) (n i) : (s.fire n i).mem.wf := by
  unfold State.fire; grind [State.pend_mem, State.applyH_wf, State.fireT_wf]

theorem State.apply_wf {s : State} (h : s.mem.wf) (n i ds) : (s.apply n i ds).mem.wf := by
  unfold State.apply; grind [State.applyH_wf, State.applyT_wf]

theorem State.applyDefault_wf {s : State} (h : s.mem.wf) (n i) : (s.applyDefault n i).mem.wf := by
  unfold State.applyDefault; grind [State.defaultPick_mem, State.apply_wf]

theorem execPolicyEnd_wf {s : State} (h : s.mem.wf) : outWf (execPolicyEnd s) := by
  unfold execPolicyEnd
  refine policy_wf h _ fun n c s hs => ?_
  split <;> simpa

/-! ### ChuteBlocks -/

@[simp] theorem State.putChute_mem (s : State) (home index d) : (s.putChute home index d).mem = s.mem := by
  unfold State.putChute; grind [foldl_mem, State.modCore_mem]

theorem State.buildChutes_wf {s : State} {launch l core} {t : State} (e : s.buildChutes launch l core = .ok t)
    (h : s.mem.wf) : t.mem.wf := by
  unfold State.buildChutes at *; grind [foldl_wf, State.modCore_mem, State.putChute_mem]

theorem State.buildAll_wf {s : State} {launch l cs} {t : State} (e : s.buildAll launch l cs = .ok t) (h : s.mem.wf) : t.mem.wf := by
  induction cs generalizing s with
  | nil => cases e; exact h
  | cons c cs ih =>
    unfold State.buildAll at e
    grind [→ State.buildChutes_wf]

theorem State.writeChutes_wf {s : State} {launch cores} {t : State} (e : s.writeChutes launch cores = .ok t) (h : s.mem.wf) : t.mem.wf := by
  unfold State.writeChutes at *; grind [→ State.writeRanges_wf, State.modLaunch_mem]

@[simp] theorem State.liftChutes_mem (s : State) (launch cores) : (s.liftChutes launch cores).mem = s.mem := by
  unfold State.liftChutes; grind [foldl_mem, State.modLaunch_mem, State.modCore_mem, State.releaseBlock_mem]

theorem State.saveChutes_wf {s : State} {launch cores} {t : State} (e : s.saveChutes launch cores = .ok t) (h : s.mem.wf) : t.mem.wf := by
  unfold State.saveChutes at *; grind [→ State.writeChutes_wf, State.liftChutes_mem]

@[simp] theorem State.restoreChutes_mem (s : State) (launch to_) : (s.restoreChutes launch to_).mem = s.mem := by
  unfold State.restoreChutes; grind [foldl_mem, State.modCore_mem, State.putChute_mem, State.modLaunch_mem]

theorem State.settleHalt_wf {s : State} (h : s.mem.wf) (launch) : (s.settleHalt launch).mem.wf := by
  unfold State.settleHalt; grind [State.finishLaunch_mem, → State.saveChutes_wf, State.modLaunch_mem]

/-! ### Points -/

theorem State.enqueueSource_wf {s : State} {n launch block l} {y0} {t : State} (e : s.enqueueSource n launch block l = some (y0, t))
    (h : s.mem.wf) : t.mem.wf := by
  unfold State.enqueueSource at *; grind [State.modLaunch_mem]

theorem execEnqueue_wf {s : State} (h : s.mem.wf) (cluster launch block) : outWf (execEnqueue cluster launch block s) := by
  unfold execEnqueue; grind [→ State.enqueueSource_wf, State.modLaunch_mem, State.enterRunq_mem, State.fire_wf, outWf]

theorem execPick_wf {s : State} (h : s.mem.wf) (cluster core) : outWf (execPick cluster core s) := by
  unfold execPick; grind [State.fire_wf, State.evict_mem, outWf]

theorem execTick_wf {s : State} (h : s.mem.wf) (cluster) : outWf (execTick cluster s) := by
  unfold execTick; grind [State.modCluster_mem, State.fire_wf, outWf]

theorem execBlock_wf {s : State} (h : s.mem.wf) (core bslot) : outWf (execBlock core bslot s) := by
  unfold execBlock; grind [State.modBlock_mem, State.fire_wf, outWf]

theorem execWake_wf {s : State} (h : s.mem.wf) (cluster launch block) : outWf (execWake cluster launch block s) := by
  unfold execWake; grind [State.modLaunch_mem, State.fire_wf, outWf]

theorem execRebalance_wf {s : State} (h : s.mem.wf) (launch) : outWf (execRebalance launch s) := by
  unfold execRebalance; grind [State.modLaunch_mem, State.fireT_wf, outWf]

theorem execRoutineInvoke_wf {s : State} (h : s.mem.wf) (cluster) : outWf (execRoutineInvoke cluster s) := by
  unfold execRoutineInvoke; grind [State.apply_wf, State.modCluster_mem, State.applyDefault_wf, outWf]

theorem execRoutineOverrun_wf {s : State} (h : s.mem.wf) (cluster) : outWf (execRoutineOverrun cluster s) := by
  unfold execRoutineOverrun; grind [State.modCluster_mem, State.applyDefault_wf, State.log_mem, outWf]

theorem State.foldl_saveChutes_wf {s : State} {ls : List Nat} {cores} {t : State}
    (e : ls.foldl (fun acc l => acc.bind fun s => s.saveChutes l cores) (.ok s : Except Nat State) = .ok t) (h : s.mem.wf) : t.mem.wf := by
  revert t
  refine List.foldlRecOn (motive := fun acc : Except Nat State => ∀ {t}, acc = .ok t → t.mem.wf) ls _ ?_ ?_
  · rintro _ ⟨⟩; exact h
  · intro acc ha l _ t e
    cases acc with
    | error => cases e
    | ok s => exact State.saveChutes_wf e (ha rfl)

theorem State.foldl_settleHalt_wf {s : State} (ls : List Nat) (h : s.mem.wf) : (ls.foldl (fun s l => s.settleHalt l) s).mem.wf :=
  foldl_wf (fun _ l hs => State.settleHalt_wf hs l) ls h

theorem execHolderChange_wf {s : State} (h : s.mem.wf) (cluster) : outWf (execHolderChange cluster s) := by
  have h1 (ls) := State.foldl_settleHalt_wf ls h
  unfold execHolderChange
  extract_lets c
  split
  · exact h
  refine mem_wf_ite h (mem_wf_ite (h1 _) ?_)
  split
  · exact h1 _
  case h_2 t ht =>
    have h2 : t.mem.wf := State.foldl_saveChutes_wf ht (h1 _)
    exact foldl_wf (fun _ _ hs => by simpa) _ (by simpa)

theorem execFloorOverdue_wf {s : State} (h : s.mem.wf) (cluster) : outWf (execFloorOverdue cluster s) := by
  unfold execFloorOverdue; grind [State.changeHolder_wf, outWf]

theorem execMigrationTake_wf {s : State} (h : s.mem.wf) (die) : outWf (execMigrationTake die s) := by
  unfold execMigrationTake; grind [State.freeRecord_wf, State.enterRunq_mem, State.fire_wf, outWf]

/-! ### Packets -/

@[simp] theorem State.cpFault_mem (s : State) (qid q w f va) : (s.cpFault qid q w f va).mem = s.mem := by simp [State.cpFault]

theorem State.makeWrites_wf {s : State} (h : s.mem.wf) (qid ws) : (s.makeWrites qid ws).mem.wf := by
  induction ws generalizing s with
  | nil => simpa [State.makeWrites]
  | cons w ws ih =>
    unfold State.makeWrites
    split
    · exact h
    split
    · exact ih (State.vwrite_wf ‹_› h)
    · simpa
    · simpa

theorem State.flushWrites_wf {s : State} (h : s.mem.wf) (qid) : (s.flushWrites qid).mem.wf := by
  unfold State.flushWrites; grind [State.makeWrites_wf]

theorem State.cpWrite_wf {s : State} (h : s.mem.wf) (qid ws) : (s.cpWrite qid ws).mem.wf := by
  unfold State.cpWrite; grind [State.flushWrites_wf, State.modQueue_mem]

theorem State.completePacket_wf {s : State} (h : s.mem.wf) (qid p status detail launch signal) :
    (s.completePacket qid p status detail launch signal).mem.wf := by
  unfold State.completePacket; grind [State.cpWrite_wf]

theorem State.readTail_wf {s : State} {q} {y0} {t : State} (e : s.readTail q = some (y0, t)) (h : s.mem.wf) : t.mem.wf := by
  unfold State.readTail at *; grind [→ State.vread_wf]

@[simp] theorem State.refer_mem (s : State) (qid) : (s.refer qid).mem = s.mem := by unfold State.refer; (repeat' split) <;> simp
@[simp] theorem State.voidRefs_mem (s : State) (qid) : (s.voidRefs qid).mem = s.mem := by unfold State.voidRefs; (repeat' split) <;> simp

theorem State.begin_wf {s : State} (h : s.mem.wf) (qid p) : (s.begin qid p).mem.wf := by
  unfold State.begin; grind [State.cpWrite_wf]

@[simp] theorem State.modStarted_mem (s : State) (qid index f) : (s.modStarted qid index f).mem = s.mem := by simp [State.modStarted]

theorem State.runPacket_wf {s : State} (h : s.mem.wf) (qid mine lo used) {body : Queue → BitVec 512 → State → Answer}
    (hb : ∀ q p s, s.mem.wf → (body q p s).wf) : (s.runPacket qid mine lo used body).mem.wf := by
  unfold State.runPacket
  split
  · exact h
  split
  · exact h
  case h_2 q _ _ p _ =>
    have hs := State.begin_wf h qid p
    refine mem_wf_ite h ?_
    extract_lets index s' answer
    have ha : answer.wf := by
      have hq := hb q p s' hs
      grind [Answer.wf]
    cases he : answer with
    | reject => simpa
    | ok t =>
      have ht : t.mem.wf := by rw [he] at ha; exact ha
      simpa using ht
    | open_ t => rw [he] at ha; exact ha
    | later => exact h

theorem State.readPacket_wf {s : State} (h : s.mem.wf) (qid q) : (s.readPacket qid q).mem.wf := by
  unfold State.readPacket; grind [State.modQueue_mem, → State.vread_wf]

theorem State.rejectBad_wf {s : State} (h : s.mem.wf) (qid) : (s.rejectBad qid).mem.wf :=
  State.runPacket_wf h _ _ _ _ fun _ _ _ _ => trivial

theorem State.tailRead_wf {s : State} (h : s.mem.wf) (queue) : (s.tailRead queue).mem.wf := by
  unfold State.tailRead
  extract_lets s1
  have h1 : s1.mem.wf := State.flushWrites_wf h queue
  split
  · exact h1
  split
  · exact h1
  split
  · exact h1
  case h_2 q _ _ _ t s2 e =>
    have h2 : s2.mem.wf := State.readTail_wf e h1
    have hm f : (s2.modQueue queue f).mem.wf := by rwa [State.modQueue_mem]
    refine mem_wf_ite (State.completePacket_wf (hm _) _ _ _ _ _ _) (mem_wf_ite (State.rejectBad_wf h1 _) ?_)
    exact State.rejectBad_wf (State.readPacket_wf (hm _) _ _) _

theorem execPacketReread_wf {s : State} (h : s.mem.wf) (queue) : outWf (execPacketReread queue s) := by
  unfold execPacketReread; grind [State.readPacket_wf, outWf]

theorem execPacketLandTimeout_wf {s : State} (h : s.mem.wf) (queue) : outWf (execPacketLandTimeout queue s) := by
  refine outWf_next ?_
  split
  · exact h
  split
  · exact h
  refine mem_wf_ite h ?_
  split
  case h_1 q _ _ _ _ p s1 e =>
    have h1 : s1.mem.wf := by
      split at e
      · cases e
        exact State.vread_wf ‹_› h
      · cases e
        exact h
    extract_lets head s2
    have h2 : s2.mem.wf := by rwa [State.modQueue_mem]
    exact State.completePacket_wf (State.cpWrite_wf h2 _ _) _ _ _ _ _ _

theorem State.mapQueue_wf {s : State} (h : s.mem.wf) (qid slot) : (s.mapQueue qid slot).mem.wf := by
  unfold State.mapQueue; grind [State.tailRead_wf, State.refer_mem]

@[simp] theorem State.unmapQueue_mem (s : State) (qid) : (s.unmapQueue qid).mem = s.mem := by unfold State.unmapQueue; split <;> simp

theorem State.mapDie_wf {s : State} (h : s.mem.wf) (die n) : (s.mapDie die n).mem.wf := by
  induction n generalizing s with
  | zero => exact h
  | succ n ih =>
    unfold State.mapDie
    grind [State.mapQueue_wf, State.modQueue_mem, State.unmapQueue_mem]

theorem State.mapQueues_wf {s : State} (h : s.mem.wf) : (s.mapQueues).mem.wf := by
  unfold State.mapQueues; grind [foldl_wf, State.mapDie_wf]

theorem State.leaveSlot_wf {s : State} (h : s.mem.wf) (qid) : (s.leaveSlot qid).mem.wf := by
  unfold State.leaveSlot; grind [State.mapQueues_wf, State.unmapQueue_mem]

theorem State.dependHolds_wf {s : State} {part p} {y0} {t : State} (e : s.dependHolds part p = some (y0, t)) (h : s.mem.wf) : t.mem.wf := by
  unfold State.dependHolds at *; grind [→ State.vread_wf]

theorem execDepend_wf {s : State} (h : s.mem.wf) (queue) : outWf (execDepend queue s) :=
  State.runPacket_wf h _ _ _ _ fun q p s hs => by grind [State.modQueue_mem, Answer.wf]

theorem execDependSatisfied_wf {s : State} (h : s.mem.wf) (queue) : outWf (execDependSatisfied queue s) := by
  unfold execDependSatisfied; grind [→ State.dependHolds_wf, State.packetReady_mem, State.modQueue_mem, outWf]

theorem execSignal_wf {s : State} (h : s.mem.wf) (queue) : outWf (execSignal queue s) :=
  State.runPacket_wf h _ _ _ _ fun _ _ _ hs => hs

theorem execTimestamp_wf {s : State} (h : s.mem.wf) (queue) : outWf (execTimestamp queue s) :=
  State.runPacket_wf h _ _ _ _ fun q p s hs => by grind [State.cpWrite_wf, Answer.wf]

@[simp] theorem State.sendSaved_mem (s : State) (launch block c count) :
    (s.sendSaved launch block c count).mem = s.mem := by simp [State.sendSaved]

@[simp] theorem State.sendSavedOf_mem (s : State) (ps) : (s.sendSavedOf ps).mem = s.mem := by
  unfold State.sendSavedOf; grind [foldl_mem, State.sendSaved_mem]

theorem State.destroyed_wf {s : State} (h : s.mem.wf) (qid x) : (s.destroyed qid x).mem.wf := by
  unfold State.destroyed; grind [State.unmapQueue_mem, State.voidRefs_mem, State.mapQueues_wf]

theorem State.completeStarted_wf {s : State} (h : s.mem.wf) (queue index) : (s.completeStarted queue index).mem.wf := by
  unfold State.completeStarted; grind [State.modQueue_mem, State.completePacket_wf]

theorem execPacketComplete_wf {s : State} (h : s.mem.wf) (queue index) : outWf (execPacketComplete queue index s) := by
  unfold execPacketComplete
  grind [State.flushWrites_wf, State.settleHalt_wf, State.sendSavedOf_mem, State.completeStarted_wf, State.destroyed_wf, outWf]

/-! ### Commands -/

theorem State.control_wf {s : State} (h : s.mem.wf) (qid mine code minPriv used) {body : Queue → BitVec 512 → State → Answer}
    (hb : ∀ q p s, s.mem.wf → (body q p s).wf) : (s.control qid mine code minPriv used body).mem.wf := by
  unfold State.control
  refine State.runPacket_wf h _ _ _ _ fun q p s hs => ?_
  grind [Answer.wf]

theorem State.namedLaunch_wf (s : State) (q p) {missing : Answer} {body : Nat → Launch → Answer} (hm : missing.wf)
    (hb : ∀ id l, (body id l).wf) : (s.namedLaunch q p missing body).wf := by
  unfold State.namedLaunch
  grind [Answer.wf]

theorem State.created_wf {s : State} (h : s.mem.wf) (id q) : (s.created id q).mem.wf := by
  unfold State.created; grind [State.refer_mem, State.cpWrite_wf]

theorem execCreateQueue_wf {s : State} (h : s.mem.wf) (queue) : outWf (execCreateQueue queue s) :=
  State.control_wf h _ _ _ _ _ fun q p s hs => by
    extract_lets hyp record tenant part
    iterate 6 refine answer_wf_ite trivial ?_
    split
    · trivial
    · trivial
    case h_3 bs t e =>
      have ht : t.mem.wf := State.vread_wf e hs
      have hc id q : (Answer.ok (t.created id q).mapQueues).wf := State.mapQueues_wf (State.created_wf ht _ _)
      extract_lets r old q'
      iterate 5 refine answer_wf_ite trivial ?_
      clear_value old q'
      split
      · exact hc _ _
      split
      · trivial
      · exact hc _ _

theorem execDestroyQueue_wf {s : State} (h : s.mem.wf) (queue) : outWf (execDestroyQueue queue s) :=
  State.control_wf h _ _ _ _ _ fun q p s hs => by grind [State.modQueue_mem, Answer.wf]

theorem execPreempt_wf {s : State} (h : s.mem.wf) (queue) : outWf (execPreempt queue s) :=
  State.control_wf h _ _ _ _ _ fun q p s hs => by
    dsimp only
    split
    · trivial
    · exact State.namedLaunch_wf _ _ _ hs fun id _ => by simpa [Answer.wf]

theorem execHalt_wf {s : State} (h : s.mem.wf) (queue) : outWf (execHalt queue s) :=
  State.control_wf h _ _ _ _ _ fun q p s hs => State.namedLaunch_wf _ _ _ trivial fun id _ => by
    grind [State.modLaunch_mem, State.settleHalt_wf, State.haltLaunch_wf, Answer.wf]

@[simp] theorem State.resumeLaunch_mem (s : State) (launch part m) : (s.resumeLaunch launch part m).mem = s.mem := by
  unfold State.resumeLaunch; grind [foldl_mem, State.restoreChutes_mem, State.modLaunch_mem, State.modCluster_mem]

theorem execResume_wf {s : State} (h : s.mem.wf) (queue) : outWf (execResume queue s) :=
  State.control_wf h _ _ _ _ _ fun q p s hs => State.namedLaunch_wf _ _ _ trivial fun id _ => by
    grind [State.resumeLaunch_mem, Answer.wf]

theorem State.abortLaunch_wf {s : State} (h : s.mem.wf) (launch) : (s.abortLaunch launch).mem.wf := by
  unfold State.abortLaunch
  grind [foldl_wf, foldl_mem, State.sendSaved_mem, State.modLaunch_mem, State.withdraw_wf, State.modBlock_mem, State.checkLaunch_mem]

theorem State.rejectImage_wf {s : State} (h : s.mem.wf) (launch at_ l) : (s.rejectImage launch at_ l).mem.wf := by
  unfold State.rejectImage; grind [State.completePacket_wf, State.abortLaunch_wf]

theorem execBlockRestore_wf {s : State} (h : s.mem.wf) (launch block core) : outWf (execBlockRestore launch block core s) := by
  refine outWf_next ?_
  split
  · exact h
  split
  · exact h
  extract_lets resuming
  refine mem_wf_ite h ?_
  split
  · exact h
  · exact State.rejectImage_wf h _ _ _
  case h_3 v s1 e =>
    have h1 := State.readImage_wf e h
    split
    · exact h1
    · extract_lets v s2
      rw [State.modLaunch_mem, State.restoreBlock_mem, State.dropGrant_mem]
      exact h1

theorem execAbort_wf {s : State} (h : s.mem.wf) (queue) : outWf (execAbort queue s) :=
  State.control_wf h _ _ _ _ _ fun _ _ _ hs => State.namedLaunch_wf _ _ _ hs fun id _ => State.abortLaunch_wf hs id

/-! ### Hypervisor -/

theorem execSetRoot_wf {s : State} (h : s.mem.wf) (queue) : outWf (execSetRoot queue s) :=
  State.control_wf h _ _ _ _ _ fun q p s hs => by grind [State.modTenant_mem, Answer.wf]

@[simp] theorem State.dropTlb_mem (s : State) (tenant ps stage first len) : (s.dropTlb tenant ps stage first len).mem = s.mem := rfl

theorem execInvalidate_wf {s : State} (h : s.mem.wf) (queue) : outWf (execInvalidate queue s) :=
  State.control_wf h _ _ _ _ _ fun q p s hs => by
    extract_lets stage reach tenant part
    iterate 8 refine answer_wf_ite trivial ?_
    refine answer_open_wf ?_
    rwa [State.modStarted_mem, State.sendSavedOf_mem, State.dropTlb_mem]

theorem execSetGrant_wf {s : State} (h : s.mem.wf) (queue) : outWf (execSetGrant queue s) :=
  State.control_wf h _ _ _ _ _ fun _ p s hs => by grind [State.modTenant_mem, Answer.wf]

theorem execKeyLive_wf {s : State} (h : s.mem.wf) (queue) : outWf (execKeyLive queue s) :=
  State.control_wf h _ _ _ _ _ fun _ p s hs => by grind [Answer.wf]

theorem execKeyDiscard_wf {s : State} (h : s.mem.wf) (queue) : outWf (execKeyDiscard queue s) :=
  State.control_wf h _ _ _ _ _ fun _ p s hs => by grind [State.discardKey_wf, Answer.wf]

theorem State.writeFrame_wf {s : State} (h : s.mem.wf) (f x) : (s.writeFrame f x).mem.wf := by
  have hl (lost : Table (List Byte)) : (lost.foldl (fun m e => m.storeBytes (128 * e.1) e.2) s.mem).wf :=
    List.foldlRecOn (motive := fun m : Memory => m.wf) lost _ h fun m hm e _ => Memory.wf_storeBytes hm _ _
  unfold State.writeFrame
  extract_lets old mine lost s1
  refine mem_wf_ite (hl _) ?_
  rw [State.wakeLines_mem]
  have hk := Memory.wf_keep h fun a => frameOf a != f
  exact hk

theorem execFrame_wf {s : State} (h : s.mem.wf) (queue) : outWf (execFrame queue s) :=
  State.control_wf h _ _ _ _ _ fun _ p s hs => by
    extract_lets pa n first s1
    iterate 4 refine answer_wf_ite trivial ?_
    exact foldl_wf (fun s i hs => State.writeFrame_wf hs _ _) _ (by simpa [s1])

theorem execRetain_wf {s : State} (h : s.mem.wf) (queue) : outWf (execRetain queue s) :=
  State.control_wf h _ _ _ _ _ fun _ p s hs => by
    grind [Answer.wf]

@[simp] theorem State.releaseFaults_mem (s : State) (launch) : (s.releaseFaults launch).mem = s.mem := by
  unfold State.releaseFaults; grind [foldl_mem, State.deliver_mem]

theorem State.zeroRing_wf {s : State} (h : s.mem.wf) (ring) : (s.zeroRing ring).mem.wf := by
  unfold State.zeroRing
  extract_lets mine
  rw [State.wakeLines_mem]
  have hk := Memory.wf_keep h fun pa => !mine pa
  exact hk

theorem State.discardLaunch_wf {s : State} (h : s.mem.wf) (launch) : (s.discardLaunch launch).mem.wf := by
  unfold State.discardLaunch; grind [foldl_wf, State.releaseFaults_mem, State.withdraw_wf, State.finishLaunch_mem, State.releaseBlock_mem]

theorem State.discardPart_wf {s : State} (h : s.mem.wf) (p) : (s.discardPart p).mem.wf := by
  unfold State.discardPart; grind [foldl_wf, State.discardLaunch_wf]

theorem execPartition_wf {s : State} (h : s.mem.wf) (queue) : outWf (execPartition queue s) :=
  State.control_wf h _ _ _ _ _ fun _ p s hs => by
    extract_lets part mask clusters
    refine answer_wf_ite trivial (answer_wf_ite trivial (answer_wf_ite ?_ ?_))
    · refine answer_wf_ite trivial (answer_wf_ite trivial (answer_ok_wf ?_))
      exact foldl_wf (fun s n hs => by rwa [State.modCluster_mem]) _ hs
    split
    · trivial
    refine answer_wf_ite trivial (answer_ok_wf (State.mapQueues_wf ?_))
    have h1 : ((s.keysOfPart part).foldl (fun s k => s.discardKey k) (s.discardPart part)).mem.wf :=
      foldl_wf (fun s k hs => State.discardKey_wf hs k) _ (State.discardPart_wf hs _)
    exact foldl_wf (fun s q hs => by simpa) _ h1

theorem execResetPart_wf {s : State} (h : s.mem.wf) (queue) : outWf (execResetPart queue s) :=
  State.control_wf h _ _ _ _ _ fun _ p s hs => by
    extract_lets part
    split
    · trivial
    rename_i stop launches s1 s2 s3 s4 mine stays freed s5 s6 _ _ _
    have h1 : s1.mem.wf := State.discardPart_wf (s := { s with queues := s.queues.map fun e => (e.1, stop e.2) }) hs part
    have h2 : s2.mem.wf := foldl_wf (fun s e hs => State.completeStarted_wf hs _ _) _ h1
    have h3 : s3.mem.wf := foldl_wf (fun s q hs => by simpa) _ h2
    have h4 : s4.mem.wf := foldl_wf (fun s k hs => State.discardKey_wf hs k) _ h3
    have h5 : s5.mem.wf := foldl_wf (fun s n hs => by simpa) _ h4
    exact answer_wf_ite trivial (State.zeroRing_wf h5 part)

theorem execClusterWipe_wf {s : State} (h : s.mem.wf) (part) : outWf (execClusterWipe part s) := by
  unfold execClusterWipe; grind [outWf]

theorem State.setDebug_wf {s : State} (h : s.mem.wf) (id p) : (s.setDebug id p).mem.wf := by
  unfold State.setDebug; grind [foldl_wf, State.modLaunch_mem, State.trace_wf, State.modCore_mem]

theorem setDebugAt_wf {s : State} (h : s.mem.wf) (lowest queue) : outWf (setDebugAt lowest queue s) :=
  State.control_wf h _ _ _ _ _ fun q p s hs => State.namedLaunch_wf _ _ _ trivial fun id _ => by
    grind [State.setDebug_wf, Answer.wf]

theorem execSetDebugAccess_wf {s : State} (h : s.mem.wf) (queue) : outWf (execSetDebugAccess queue s) := by
  unfold execSetDebugAccess; grind [setDebugAt_wf, outWf]

theorem execSetDebugTracing_wf {s : State} (h : s.mem.wf) (queue) : outWf (execSetDebugTracing queue s) := by
  unfold execSetDebugTracing; grind [setDebugAt_wf, outWf]

theorem execSetDebugTraceBuffer_wf {s : State} (h : s.mem.wf) (queue) : outWf (execSetDebugTraceBuffer queue s) := by
  unfold execSetDebugTraceBuffer; grind [setDebugAt_wf, outWf]

theorem execSetDebugCounters_wf {s : State} (h : s.mem.wf) (queue) : outWf (execSetDebugCounters queue s) := by
  unfold execSetDebugCounters; grind [setDebugAt_wf, outWf]

/-! ### Launching -/

theorem State.accept_wf {s : State} {launch l} {t : State} (e : s.accept launch l = .ok t) (h : s.mem.wf) : t.mem.wf := by
  unfold State.accept at *; grind [→ State.buildAll_wf]

theorem State.blockBytes_wf {s : State} {q pk} {y0} {t : State} (e : s.blockBytes q pk = .ok (y0, t)) (h : s.mem.wf) : t.mem.wf := by
  unfold State.blockBytes at *; grind [→ State.vread_wf]

theorem State.lookAhead_wf {s : State} (h : s.mem.wf) (qid i n) : (s.lookAhead qid i n).mem.wf := by
  induction n generalizing s i with
  | zero => exact h
  | succ n ih =>
    unfold State.lookAhead
    split
    · exact h
    refine mem_wf_ite h (mem_wf_ite (ih h _) ?_)
    split
    · simpa
    · exact h
    · have ht := State.vread_wf ‹_› h
      exact mem_wf_ite ht (ih (by simpa) _)

theorem execQueueTailWrite_wf {s : State} (h : s.mem.wf) (queue) : outWf (execQueueTailWrite queue s) := by
  refine outWf_next ?_
  extract_lets s1
  have h1 : s1.mem.wf := State.tailRead_wf (State.leaveSlot_wf h queue) queue
  split
  · exact h1
  · exact mem_wf_ite h1 (State.lookAhead_wf (by simpa) _ _ _)

@[simp] theorem State.prefetched_mem (s : State) (id l a) : (s.prefetched id l a).mem = s.mem := by
  unfold State.prefetched; grind [foldl_mem, State.modCore_mem]

theorem State.prefetched?_wf {s : State} (h : s.mem.wf) (id l) (a : Option Ahead) :
    (match a with | some a => s.prefetched id l a | none => s).mem.wf := by
  split
  · rwa [State.prefetched_mem]
  · exact h

/-- The map of a launch block, as read ahead or read now, keeps memory's form. -/
theorem xmap_wf {s t : State} {q : Queue} {v k xmap} {ahead : Option Ahead}
    (e : (match ahead with
      | some a => .ok (a.xmap, s)
      | none => s.vread q.part v k : Except DevStop (List Byte × State)) = .ok (xmap, t)) (h : s.mem.wf) : t.mem.wf := by
  split at e
  · cases e
    exact h
  · exact State.vread_wf e h

theorem execLaunch_wf {s : State} (h : s.mem.wf) (queue) : outWf (execLaunch queue s) :=
  State.runPacket_wf h _ _ _ _ fun q pk s hs => by
    extract_lets addr len ahead
    iterate 2 refine answer_wf_ite trivial ?_
    split
    · trivial
    · trivial
    have h1 := State.blockBytes_wf ‹_› hs
    extract_lets v p gs
    generalize (if len < 64 then none else q.blockOutside v len) = outside
    cases outside
    case some => trivial
    generalize launchStray pk = stray
    cases stray
    case some => trivial
    dsimp only
    iterate 2 refine answer_wf_ite trivial ?_
    split
    · trivial
    split
    · trivial
    · trivial
    case h_3 e =>
      have h2 := xmap_wf e h1
      split
      · trivial
      · have h3 := State.accept_wf ‹_› h2
        exact answer_open_wf (by rw [State.modStarted_mem]; exact State.prefetched?_wf h3 _ _ ahead)

theorem execAdmissionResume_wf {s : State} (h : s.mem.wf) (launch) : outWf (execAdmissionResume launch s) := by
  unfold execAdmissionResume; grind [→ State.accept_wf, State.packetReady_mem, outWf]

/-! ### Tenants -/

@[simp] theorem State.settleBudgets_mem (s : State) : (s.settleBudgets).mem = s.mem := by simp [State.settleBudgets]

@[simp] theorem State.draw_mem (s : State) (n) : (s.draw n).mem = s.mem := by
  unfold State.draw; grind [State.modTenant_mem]

@[simp] theorem State.useCycles_mem (s : State) : (s.useCycles).mem = s.mem := rfl

theorem execBudgetCharge_wf {s : State} (h : s.mem.wf) : outWf (execBudgetCharge s) := by
  unfold execBudgetCharge
  grind [foldl_wf, foldl_mem, State.modTenant_mem, State.settleBudgets_mem, State.draw_mem, State.mapQueues_wf, outWf]

@[simp] theorem State.refill_mem (s : State) (n) : (s.refill n).mem = s.mem := by
  unfold State.refill; grind [State.modTenant_mem]

theorem execBudgetPeriod_wf {s : State} (h : s.mem.wf) : outWf (execBudgetPeriod s) := by
  unfold execBudgetPeriod; grind [foldl_wf, State.mapQueues_wf, State.settleBudgets_mem, State.refill_mem, outWf]

theorem State.policyWindow_wf {s : State} {q layer part wva wlen y0} {t : State}
    (e : s.policyWindow q layer part wva wlen = some (y0, t)) (h : s.mem.wf) : t.mem.wf := by
  unfold State.policyWindow at e
  split at e
  · split at e <;> cases e
    exact h
  split at e
  · cases e
  split at e
  · cases e
  case h_2 x _ _ s1 e1 =>
    have h1 : s1.mem.wf := State.walk_wf e1 h
    have hl := List.foldlRecOn (motive := fun r : Option (Nat × State) => ∀ a t, r = some (a, t) → t.mem.wf) (linePieces wva wlen)
      (b := some (x.pa, s1)) (fun (acc : Option (Nat × State)) p => match acc with
        | none => none
        | some (pa, s) => match s.walk part (wva + p.1) true false with
          | .error _ => none
          | .ok (y, _, _, s) => if y.pa = pa + p.1 && inMailbox y.pa && !inDeviceRegion y.pa then some (pa, s) else none)
      (by rintro _ _ ⟨⟩; exact h1) fun acc ih p _ a t et => by
        split at et
        · cases et
        · split at et
          · cases et
          · split at et <;> cases et
            exact State.walk_wf ‹_› (ih _ _ rfl)
    exact hl _ _ e

@[simp] theorem State.setRoutine_mem (s : State) (key r n) : (s.setRoutine key r n).mem = s.mem := rfl

theorem State.policyTarget_wf (s : State) (q p) {body : Nat → Nat → Nat → Answer} (hb : ∀ point layer part,
    (body point layer part).wf) : (s.policyTarget q p body).wf := by
  unfold State.policyTarget
  extract_lets point layer part
  iterate 5 refine answer_wf_ite trivial ?_
  refine answer_wf_ite (hb _ _ _) ?_
  split
  · trivial
  · exact answer_wf_ite trivial (hb _ _ _)

theorem execPolicyLoad_wf {s : State} (h : s.mem.wf) (queue) : outWf (execPolicyLoad queue s) :=
  State.runPacket_wf h _ _ _ _ fun q p s hs => State.policyTarget_wf _ _ _ fun point layer part => by
    extract_lets n allowance wva wlen alim
    iterate 4 refine answer_wf_ite trivial ?_
    split
    · trivial
    · have h1 := State.policyWindow_wf ‹_› hs
      refine answer_wf_ite trivial ?_
      split
      · trivial
      · trivial
      · have h2 := State.vread_wf ‹_› h1
        extract_lets ws
        split
        · trivial
        · exact foldl_wf (fun s n hs => by rwa [State.setRoutine_mem]) _ h2

theorem execPolicyUnload_wf {s : State} (h : s.mem.wf) (queue) : outWf (execPolicyUnload queue s) :=
  State.runPacket_wf h _ _ _ _ fun q p s hs => State.policyTarget_wf _ _ _ fun point layer part =>
    foldl_wf (fun s n hs => by rwa [State.setRoutine_mem]) _ hs

theorem execBudget_wf {s : State} (h : s.mem.wf) (queue) : outWf (execBudget queue s) :=
  State.runPacket_wf h _ _ _ _ fun q p s hs => by
    extract_lets big
    iterate 7 refine answer_wf_ite trivial ?_
    exact State.mapQueues_wf (by simpa)

theorem State.setHolders_wf {s : State} (h : s.mem.wf) (n xs) : (s.setHolders n xs).mem.wf := by
  unfold State.setHolders
  grind [foldl_wf, foldl_mem, State.modCluster_mem, State.setRoutine_mem, State.cancelChange_mem, State.changeHolder_wf]

theorem execShare_wf {s : State} (h : s.mem.wf) (queue) : outWf (execShare queue s) :=
  State.runPacket_wf h _ _ _ _ fun q p s hs => by
    extract_lets n raw bad xs
    iterate 2 refine answer_wf_ite trivial ?_
    clear_value bad
    split
    · trivial
    · exact answer_wf_ite trivial (State.setHolders_wf hs n xs)

theorem execParam_wf {s : State} (h : s.mem.wf) (queue) : outWf (execParam queue s) :=
  State.runPacket_wf h _ _ _ _ fun q p s hs => by
    extract_lets floor period
    iterate 3 refine answer_wf_ite trivial ?_
    exact hs

/-! ### Rings -/

theorem State.ringWrite_wf {s : State} (h : s.mem.wf) (pa n v) : (s.ringWrite pa n v).mem.wf := by
  unfold State.ringWrite
  extract_lets s1
  rw [State.wakeLine_mem]
  have h1 : s1.mem.wf := by simpa [s1]
  have hk := Memory.wf_storeBytes h1 pa (leBytes n v)
  exact hk

theorem State.countWaiting_wf {s : State} (h : s.mem.wf) (ring) : (s.countWaiting ring).mem.wf := by
  unfold State.countWaiting; grind [State.ringWrite_wf, State.modRing_mem]

theorem execFaultRecordWrite_wf {s : State} (h : s.mem.wf) (ring) : outWf (execFaultRecordWrite ring s) := by
  refine outWf_next ?_
  extract_lets r
  split
  · exact h
  refine mem_wf_ite h (mem_wf_ite (mem_wf_ite h (State.countWaiting_wf h ring)) ?_)
  extract_lets pa record tail s1
  refine mem_wf_ite h ?_
  rw [State.modRing_mem]
  exact State.ringWrite_wf (State.ringWrite_wf h _ _ _) _ _ _

theorem State.answerUnit_wf {s : State} (h : s.mem.wf) (launch n spall serial restartable disp) :
    (s.answerUnit launch n spall serial restartable disp).mem.wf := by
  unfold State.answerUnit; grind [State.abortLaunch_wf, State.reachCrew_mem]

theorem State.answerHoist_wf {s : State} (h : s.mem.wf) (launch n id restartable disp) :
    (s.answerHoist launch n id restartable disp).mem.wf := by
  unfold State.answerHoist; grind [State.abortLaunch_wf, State.modLaunch_mem]

theorem State.answerQueue_wf {s : State} (h : s.mem.wf) (q disp) : (s.answerQueue q disp).mem.wf := by
  unfold State.answerQueue; grind [State.flushWrites_wf, State.modQueue_mem]

theorem State.answer_wf {s : State} (h : s.mem.wf) (r disp) : (s.answer r disp).mem.wf := by
  unfold State.answer; grind [State.answerUnit_wf, State.answerHoist_wf, State.answerQueue_wf, State.abortLaunch_wf]

@[simp] theorem State.ringError_mem (s : State) (ring pa) : (s.ringError ring pa).mem = s.mem := by
  unfold State.ringError; grind [State.report_mem, State.log_mem]

theorem State.answerAll_wf {s : State} (h : s.mem.wf) (ring l i) : (s.answerAll ring l i).mem.wf := by
  induction l generalizing s i with
  | nil => exact h
  | cons r rs ih =>
    unfold State.answerAll
    refine ih (mem_wf_ite (State.answer_wf ?_ _ _) (State.answer_wf h _ _)) _
    rw [State.ringError_mem]
    exact h

theorem execFaultRingHead_wf {s : State} (h : s.mem.wf) (ring) : outWf (execFaultRingHead ring s) := by
  unfold execFaultRingHead; grind [State.ringError_mem, State.modRing_mem, State.answerAll_wf, outWf]

@[simp] theorem State.corrected_mem (s : State) (die) : (s.corrected die).mem = s.mem := rfl

theorem execEccCorrection_wf {s : State} (h : s.mem.wf) (die) : outWf (execEccCorrection die s) := by
  unfold execEccCorrection; grind [State.corrected_mem, outWf]

@[simp] theorem State.poisonLine_mem (s : State) (code line) : (s.poisonLine code line).mem = s.mem := rfl

@[simp] theorem State.softPartial_mem (s : State) (owner index) : (s.softPartial owner index).mem = s.mem := by
  unfold State.softPartial; grind [State.modCore_mem]

@[simp] theorem State.softCopy_mem (s : State) (code owner index) : (s.softCopy code owner index).mem = s.mem := by
  unfold State.softCopy; (repeat' split) <;> simp

theorem execSoftError_wf {s : State} (h : s.mem.wf) (code owner index) : outWf (execSoftError code owner index s) := by
  unfold execSoftError; grind [State.softCopy_mem, State.softPartial_mem, State.poisonLine_mem, State.corrected_mem, outWf]

theorem execCorrectedSummary_wf {s : State} (h : s.mem.wf) (die) : outWf (execCorrectedSummary die s) := by
  unfold execCorrectedSummary; grind [State.log_mem, outWf]

/-! ### Boot -/

theorem State.wiped_wf (s : State) : s.wiped.mem.wf := rfl
theorem State.resetModule_wf (s : State) : s.resetModule.mem.wf := rfl

theorem State.resetDie_wf {s : State} (h : s.mem.wf) (d) : (s.resetDie d).mem.wf := by
  unfold State.resetDie
  extract_lets s1 lost s2 kept
  have h1 : s1.mem.wf := foldl_wf (fun s l hs => State.discardLaunch_wf hs l) _ h
  have h2 : s2.mem.wf := foldl_wf (fun s q hs => by simpa) _ h1
  have hk := Memory.wf_keep h2 kept
  exact hk

theorem execModuleReset_wf (s : State) : outWf (execModuleReset s) := s.resetModule_wf
theorem execPowerOnReset_wf (s : State) : outWf (execPowerOnReset s) := rfl
theorem execPowerLoss_wf (s : State) : outWf (execPowerLoss s) := rfl

theorem execCkResync_wf {s : State} (h : s.mem.wf) (die) : outWf (execCkResync die s) := by
  unfold execCkResync; grind [outWf]

@[simp] theorem State.writeSpoil_mem (s : State) (r) : (s.writeSpoil r).mem = s.mem := rfl

theorem execFirmwareCrash_wf {s : State} (h : s.mem.wf) (die cpcore x) : outWf (execFirmwareCrash die cpcore x s) := by
  refine outWf_next ?_
  extract_lets core nested s1 again s2
  refine mem_wf_ite h ?_
  have h1 : s1.mem.wf := h
  have h2 : s2.mem.wf := mem_wf_ite (State.resetDie_wf h1 die) h1
  rw [State.log_mem]
  exact h2

theorem execFirmwareRestart_wf {s : State} (h : s.mem.wf) (die cpcore) : outWf (execFirmwareRestart die cpcore s) := by
  unfold execFirmwareRestart; grind [outWf]

@[simp] theorem State.reply_mem (s : State) (code status value) : (s.reply code status value).mem = s.mem := rfl

theorem State.request_wf {s : State} {f : State → State} (h : s.mem.wf) (hf : (f s).mem.wf) : outWf (s.request f) :=
  mem_wf_ite h hf

theorem execIdentify_wf {s : State} (h : s.mem.wf) : outWf (execIdentify s) := State.request_wf h (h)

theorem execBootLoad_wf {s : State} (h : s.mem.wf) (offset chunk) : outWf (execBootLoad offset chunk s) := State.request_wf h
    (mem_wf_ite h h)

theorem execStart_wf {s : State} (h : s.mem.wf) (who) : outWf (execStart who s) := State.request_wf h (mem_wf_ite h h)

theorem execVerificationEnd_wf {s : State} (h : s.mem.wf) : outWf (execVerificationEnd s) := by
  unfold execVerificationEnd; grind [State.reply_mem, outWf]

theorem execAttest_wf {s : State} (h : s.mem.wf) (nonce) : outWf (execAttest nonce s) := State.request_wf h (mem_wf_ite h h)
theorem execSpoilRead_wf {s : State} (h : s.mem.wf) (index) : outWf (execSpoilRead index s) := State.request_wf h (mem_wf_ite h h)
theorem execReset_wf {s : State} (h : s.mem.wf) : outWf (execReset s) := State.request_wf h (s.resetModule_wf)

theorem execLifeCycleChange_wf {s : State} (h : s.mem.wf) (target signature) : outWf (execLifeCycleChange target signature s) :=
  State.request_wf h (mem_wf_ite h s.wiped_wf)

@[simp] theorem State.setGates_mem (s : State) (cores g) : (s.setGates cores g).mem = s.mem := by
  unfold State.setGates; grind [foldl_mem, State.modCore_mem]

theorem execPowerArbiter_wf {s : State} (h : s.mem.wf) : outWf (execPowerArbiter s) := by
  unfold execPowerArbiter; grind [State.setGates_mem, outWf]

theorem execOvercurrent_wf {s : State} (h : s.mem.wf) (die) : outWf (execOvercurrent die s) := by
  unfold execOvercurrent; grind [State.setGates_mem, outWf]

theorem execRegisterWrite_wf {s : State} (h : s.mem.wf) (part value) : outWf (execRegisterWrite part value s) := by
  unfold execRegisterWrite; grind [outWf]

theorem execLinkDown_wf {s : State} (h : s.mem.wf) (port) : outWf (execLinkDown port s) := by
  unfold execLinkDown; grind [outWf]

theorem execLinkUp_wf {s : State} (h : s.mem.wf) (port) : outWf (execLinkUp port s) := by
  unfold execLinkUp; grind [outWf]

/-! ### Pair -/

@[simp] theorem applyHalf_mem (s : State) (op x o) : (applyHalf op x o s).mem = s.mem := by unfold applyHalf; split <;> simp

theorem pairBody_wf {s : State} (h : s.mem.wf) (p x) : (pairBody p x s).wf := by
  unfold pairBody; grind [applyHalf_mem, Res.wf]

theorem runPair_wf {s : State} (h : s.mem.wf) (p x) : (runPair p x s).mem.wf := by
  unfold runPair; grind [→ debugStop_wf, State.takeTrap_wf, State.stallUnit_mem, applyRes_wf, pairBody_wf, Res.wf]

theorem execPairIssue_wf {s : State} (h : s.mem.wf) (p) : outWf (execPairIssue p s) := by
  unfold execPairIssue; grind [runPair_wf, outWf]

/-! ### Ports -/

theorem State.portRecord_wf {s : State} {part r} {t : State} (e : s.portRecord part r = .ok t) (h : s.mem.wf) : t.mem.wf := by
  unfold State.portRecord at *; grind [→ State.vwrite_wf, State.report_mem]

@[simp] theorem State.portFault_mem (s : State) (qp op q f va wr) : (s.portFault qp op q f va wr).mem = s.mem := by
  simp only [State.portFault, apply_ite State.mem, State.report_mem, State.reply_mem, ite_self]

theorem except_bind_ok {ε α β : Type} {x : Except ε α} {f : α → Except ε β} {b : β} :
    x.bind f = .ok b ↔ ∃ a, x = .ok a ∧ f a = .ok b := by
  cases x <;> simp [Except.bind]

theorem State.inbound_wf {s : State} (h : s.mem.wf) (op len right wr) {perform : QueuePair → State → Except DevStop State}
    (hp : ∀ q s t, perform q s = .ok t → s.mem.wf → t.mem.wf) : (s.inbound op len right wr perform).mem.wf := by
  unfold State.inbound
  split
  · exact h
  refine mem_wf_ite h (mem_wf_ite h (mem_wf_ite h ?_))
  split
  · exact h
  · simpa
  · have ht := hp _ _ _ ‹_› h
    exact ht

theorem State.inboundSend_wf {s : State} (h : s.mem.wf) (op kind) : (s.inboundSend op kind).mem.wf := by
  unfold State.inboundSend
  split
  · exact h
  refine mem_wf_ite h (mem_wf_ite h ?_)
  split
  · exact h
  · simpa
  case h_3 e =>
    obtain ⟨t, ht, hr⟩ := except_bind_ok.1 e
    have hw := State.portRecord_wf hr (State.vwrite_wf ht h)
    exact hw

theorem execRdmaWrite_wf {s : State} (h : s.mem.wf) (op) : outWf (execRdmaWrite op s) :=
  State.inbound_wf h _ _ _ _ fun q s t e hs => by
    obtain ⟨t, ht, rfl⟩ := except_map_ok.1 e
    have hw := State.vwrite_wf ht hs
    exact hw

theorem execRdmaWriteWithImmediate_wf {s : State} (h : s.mem.wf) (op) : outWf (execRdmaWriteWithImmediate op s) :=
  State.inbound_wf h _ _ _ _ fun q s t e hs => by
    obtain ⟨t, ht, rfl⟩ := except_map_ok.1 e
    obtain ⟨u, hu, hr⟩ := except_bind_ok.1 ht
    have hw := State.portRecord_wf hr (State.vwrite_wf hu hs)
    exact hw

theorem execRdmaSend_wf {s : State} (h : s.mem.wf) (op) : outWf (execRdmaSend op s) := by
  unfold execRdmaSend; grind [State.inboundSend_wf, outWf]

theorem execRdmaSendWithImmediate_wf {s : State} (h : s.mem.wf) (op) : outWf (execRdmaSendWithImmediate op s) := by
  unfold execRdmaSendWithImmediate; grind [State.inboundSend_wf, outWf]

theorem execRdmaRead_wf {s : State} (h : s.mem.wf) (op) : outWf (execRdmaRead op s) :=
  State.inbound_wf h _ _ _ _ fun q s t e hs => by
    obtain ⟨t, ht, rfl⟩ := except_map_ok.1 e
    have hw := State.vread_wf ht hs
    exact hw

theorem State.inboundAtomic_wf {s : State} (h : s.mem.wf) (op f) : (s.inboundAtomic op f).mem.wf :=
  State.inbound_wf h _ _ _ _ fun q s t e hs => by
    split at e
    · cases e
    · obtain ⟨t, ht, rfl⟩ := except_map_ok.1 e
      have hw := State.vwrite_wf ht (State.vread_wf ‹_› hs)
      exact hw

theorem execCompareAndSwap_wf {s : State} (h : s.mem.wf) (op) : outWf (execCompareAndSwap op s) := by
  unfold execCompareAndSwap; grind [State.inboundAtomic_wf, outWf]

theorem execFetchAndAdd_wf {s : State} (h : s.mem.wf) (op) : outWf (execFetchAndAdd op s) := by
  unfold execFetchAndAdd; grind [State.inboundAtomic_wf, outWf]

theorem execDoorbellWrite_wf {s : State} (h : s.mem.wf) (part wr) : outWf (execDoorbellWrite part wr s) := by
  unfold execDoorbellWrite; grind [→ State.portRecord_wf, outWf]

theorem State.portMoves_wf {s : State} {part status q w} {y0} {t : State} (e : s.portMoves part status q w = .ok (y0, t))
    (h : s.mem.wf) : t.mem.wf := by
  unfold State.portMoves at *; grind [State.report_mem, → State.vread_wf, State.reply_mem, → State.vwrite_wf]

theorem execRdmaCompletion_wf {s : State} (h : s.mem.wf) (part id status) : outWf (execRdmaCompletion part id status s) := by
  refine outWf_next ?_
  split
  · exact h
  split
  · exact h
  case h_2 w _ q _ =>
    refine mem_wf_ite h ?_
    extract_lets dropped done
    have hd t (e : done = .ok t) : t.mem.wf := by
      obtain ⟨⟨y, u⟩, hu, hr⟩ := except_bind_ok.1 e
      exact State.portRecord_wf hr (State.portMoves_wf hu h)
    clear_value done
    cases done with
    | error => exact h
    | ok t =>
      dsimp only
      split
      · rw [State.addBlockCounter_mem]
        exact hd t rfl
      · exact hd t rfl

theorem State.greRanks_wf {s t : State} {m q y0} (e : s.greRanks m q = .ok (y0, t)) (h : s.mem.wf) : t.mem.wf := by
  unfold State.greRanks at e
  split at e
  · obtain ⟨t, ht, he⟩ := except_map_ok.1 e
    cases he
    exact State.vread_wf ht h
  · cases e
    exact h

theorem State.grenone_wf {s : State} (h : s.mem.wf) (m op result) : (s.grenone m op result).mem.wf := by
  unfold State.grenone
  split
  · exact h
  refine mem_wf_ite h (mem_wf_ite h (mem_wf_ite (by simpa) (mem_wf_ite h ?_)))
  split
  · exact h
  · simpa
  · have ht := State.greRanks_wf ‹_› h
    refine mem_wf_ite h ?_
    split
    · exact h
    · simpa
    · have hw := State.vwrite_wf ‹_› ht
      exact hw

theorem execAllReduce_wf {s : State} (h : s.mem.wf) (msg) : outWf (execAllReduce msg s) := by
  unfold execAllReduce; grind [State.grenone_wf, outWf]

theorem execReduceScatter_wf {s : State} (h : s.mem.wf) (msg) : outWf (execReduceScatter msg s) := by
  unfold execReduceScatter; grind [State.grenone_wf, outWf]

theorem execAllGather_wf {s : State} (h : s.mem.wf) (msg) : outWf (execAllGather msg s) := by
  unfold execAllGather; grind [State.grenone_wf, outWf]

theorem execBroadcast_wf {s : State} (h : s.mem.wf) (msg) : outWf (execBroadcast msg s) := by
  unfold execBroadcast; grind [State.grenone_wf, outWf]

theorem execExportState_wf {s : State} (h : s.mem.wf) (msg) : outWf (execExportState msg s) := by
  refine outWf_next ?_
  split
  · exact h
  refine mem_wf_ite (State.grenone_wf h _ _ _) ?_
  split
  · exact h
  · simpa
  · have hw := State.vread_wf ‹_› h
    exact hw

theorem execImportState_wf {s : State} (h : s.mem.wf) (msg) : outWf (execImportState msg s) := by
  unfold execImportState; grind [State.grenone_wf, outWf]

/-! ### Policy -/

theorem execPolicyAdd_wf {s : State} (h : s.mem.wf) (d a b : Fin 16) : outWf (execPolicyAdd d a b s) :=
  policyR3_wf h _ _ _ _ _

theorem execPolicySub_wf {s : State} (h : s.mem.wf) (d a b : Fin 16) : outWf (execPolicySub d a b s) :=
  policyR3_wf h _ _ _ _ _

theorem execPolicyMul_wf {s : State} (h : s.mem.wf) (d a b : Fin 16) : outWf (execPolicyMul d a b s) :=
  policyR3_wf h _ _ _ _ _

theorem execPolicyDivu_wf {s : State} (h : s.mem.wf) (d a b : Fin 16) : outWf (execPolicyDivu d a b s) :=
  policyR3_wf h _ _ _ _ _

theorem execPolicyRemu_wf {s : State} (h : s.mem.wf) (d a b : Fin 16) : outWf (execPolicyRemu d a b s) :=
  policyR3_wf h _ _ _ _ _

theorem execPolicyAnd_wf {s : State} (h : s.mem.wf) (d a b : Fin 16) : outWf (execPolicyAnd d a b s) :=
  policyR3_wf h _ _ _ _ _

theorem execPolicyOr_wf {s : State} (h : s.mem.wf) (d a b : Fin 16) : outWf (execPolicyOr d a b s) :=
  policyR3_wf h _ _ _ _ _

theorem execPolicyXor_wf {s : State} (h : s.mem.wf) (d a b : Fin 16) : outWf (execPolicyXor d a b s) :=
  policyR3_wf h _ _ _ _ _

theorem execPolicyShl_wf {s : State} (h : s.mem.wf) (d a b : Fin 16) : outWf (execPolicyShl d a b s) :=
  policyR3_wf h _ _ _ _ _

theorem execPolicyShru_wf {s : State} (h : s.mem.wf) (d a b : Fin 16) : outWf (execPolicyShru d a b s) :=
  policyR3_wf h _ _ _ _ _

theorem execPolicyShrs_wf {s : State} (h : s.mem.wf) (d a b : Fin 16) : outWf (execPolicyShrs d a b s) :=
  policyR3_wf h _ _ _ _ _

theorem execPolicyMin_wf {s : State} (h : s.mem.wf) (d a b : Fin 16) : outWf (execPolicyMin d a b s) :=
  policyR3_wf h _ _ _ _ _

theorem execPolicyMax_wf {s : State} (h : s.mem.wf) (d a b : Fin 16) : outWf (execPolicyMax d a b s) :=
  policyR3_wf h _ _ _ _ _

theorem execPolicyMinu_wf {s : State} (h : s.mem.wf) (d a b : Fin 16) : outWf (execPolicyMinu d a b s) :=
  policyR3_wf h _ _ _ _ _

theorem execPolicyMaxu_wf {s : State} (h : s.mem.wf) (d a b : Fin 16) : outWf (execPolicyMaxu d a b s) :=
  policyR3_wf h _ _ _ _ _

theorem execPolicySlt_wf {s : State} (h : s.mem.wf) (d a b : Fin 16) : outWf (execPolicySlt d a b s) :=
  policyR3_wf h _ _ _ _ _

theorem execPolicySltu_wf {s : State} (h : s.mem.wf) (d a b : Fin 16) : outWf (execPolicySltu d a b s) :=
  policyR3_wf h _ _ _ _ _

theorem execPolicySeq_wf {s : State} (h : s.mem.wf) (d a b : Fin 16) : outWf (execPolicySeq d a b s) :=
  policyR3_wf h _ _ _ _ _

theorem execPolicyAddi_wf {s : State} (h : s.mem.wf) (d a : Fin 16) (imm : BitVec 18) : outWf (execPolicyAddi d a imm s) :=
  policyR2_wf h _ _ _ _

theorem execPolicyAndi_wf {s : State} (h : s.mem.wf) (d a : Fin 16) (imm : BitVec 18) : outWf (execPolicyAndi d a imm s) :=
  policyR2_wf h _ _ _ _

theorem execPolicyOri_wf {s : State} (h : s.mem.wf) (d a : Fin 16) (imm : BitVec 18) : outWf (execPolicyOri d a imm s) :=
  policyR2_wf h _ _ _ _

theorem execPolicyXori_wf {s : State} (h : s.mem.wf) (d a : Fin 16) (imm : BitVec 18) : outWf (execPolicyXori d a imm s) :=
  policyR2_wf h _ _ _ _

theorem execPolicyShli_wf {s : State} (h : s.mem.wf) (d a : Fin 16) (imm : BitVec 6) : outWf (execPolicyShli d a imm s) :=
  policyR2_wf h _ _ _ _

theorem execPolicyShrui_wf {s : State} (h : s.mem.wf) (d a : Fin 16) (imm : BitVec 6) : outWf (execPolicyShrui d a imm s) :=
  policyR2_wf h _ _ _ _

theorem execPolicyShrsi_wf {s : State} (h : s.mem.wf) (d a : Fin 16) (imm : BitVec 6) : outWf (execPolicyShrsi d a imm s) :=
  policyR2_wf h _ _ _ _

theorem execPolicyLi_wf {s : State} (h : s.mem.wf) (d : Fin 16) (imm : BitVec 18) : outWf (execPolicyLi d imm s) :=
  policyOn_wf h _ _

theorem execPolicyLcat_wf {s : State} (h : s.mem.wf) (d : Fin 16) (imm : BitVec 18) : outWf (execPolicyLcat d imm s) :=
  policyOn_wf h _ _

theorem execPolicyJmp_wf {s : State} (h : s.mem.wf) (imm : BitVec 18) : outWf (execPolicyJmp imm s) :=
  policyOn_wf h _ _

theorem execPolicyLoopi_wf {s : State} (h : s.mem.wf) (imm : BitVec 18) : outWf (execPolicyLoopi imm s) :=
  policyOn_wf h _ _

theorem execPolicyLoopr_wf {s : State} (h : s.mem.wf) (a : Fin 16) : outWf (execPolicyLoopr a s) :=
  policyOn_wf h _ _

theorem execPolicyEndl_wf {s : State} (h : s.mem.wf) : outWf (execPolicyEndl  s) :=
  policyOn_wf h _ _

theorem execPolicyIter_wf {s : State} (h : s.mem.wf) (d : Fin 16) : outWf (execPolicyIter d s) :=
  policyOn_wf h _ _

theorem execPolicyLd_wf {s : State} (h : s.mem.wf) (d a : Fin 16) (imm : BitVec 18) : outWf (execPolicyLd d a imm s) :=
  policyLoad_wf h _ _ _ _

theorem execPolicyLdw_wf {s : State} (h : s.mem.wf) (d a : Fin 16) (imm : BitVec 18) : outWf (execPolicyLdw d a imm s) :=
  policyLoad_wf h _ _ _ _

theorem execPolicySt_wf {s : State} (h : s.mem.wf) (d a : Fin 16) (imm : BitVec 18) : outWf (execPolicySt d a imm s) :=
  policyStore_wf h _ _ _ _

theorem execPolicyStw_wf {s : State} (h : s.mem.wf) (d a : Fin 16) (imm : BitVec 18) : outWf (execPolicyStw d a imm s) :=
  policyStore_wf h _ _ _ _

/-! ### Decide -/

theorem execPolicyRdc_wf {s : State} (h : s.mem.wf) (d : Fin 16) (imm : BitVec 12) : outWf (execPolicyRdc d imm s) :=
  policyRead_wf h _ _

theorem execPolicyRdcx_wf {s : State} (h : s.mem.wf) (d a : Fin 16) (imm : BitVec 12) : outWf (execPolicyRdcx d a imm s) :=
  policyRead_wf h _ _

/-! ### Policy -/

theorem execPolicyBeq_wf {s : State} (h : s.mem.wf) (d a : Fin 16) (imm : BitVec 18) : outWf (execPolicyBeq d a imm s) :=
  policyBranch_wf h _ _ _ _

theorem execPolicyBne_wf {s : State} (h : s.mem.wf) (d a : Fin 16) (imm : BitVec 18) : outWf (execPolicyBne d a imm s) :=
  policyBranch_wf h _ _ _ _

theorem execPolicyBlt_wf {s : State} (h : s.mem.wf) (d a : Fin 16) (imm : BitVec 18) : outWf (execPolicyBlt d a imm s) :=
  policyBranch_wf h _ _ _ _

theorem execPolicyBltu_wf {s : State} (h : s.mem.wf) (d a : Fin 16) (imm : BitVec 18) : outWf (execPolicyBltu d a imm s) :=
  policyBranch_wf h _ _ _ _

/-! ### Dispatch -/

theorem exec_wf {s : State} (h : s.mem.wf) (i : Instr) : outWf (exec i s) := by
  cases i with
  | nop => exact issue_wf h _ _ fun x _ h => bodyNop_wf h x
  | bra => exact issue_wf h _ _ fun x _ h => bodyBra_wf h x
  | brc => exact issue_wf h _ _ fun x _ h => bodyBrc_wf h x
  | brx => exact issue_wf h _ _ fun x _ h => bodyBrx_wf h x
  | join => exact issue_wf h _ _ fun x _ h => bodyJoin_wf h x
  | call => exact issue_wf h _ _ fun x _ h => bodyCall_wf h x
  | calli => exact issue_wf h _ _ fun x _ h => bodyCalli_wf h x
  | ret => exact issue_wf h _ _ fun x _ h => bodyRet_wf h x
  | jmpi => exact issue_wf h _ _ fun x _ h => bodyJmpi_wf h x
  | loop => exact issue_wf h _ _ fun x _ h => bodyLoop_wf h x
  | exit => exact issue_wf h _ _ fun x _ h => bodyExit_wf h x
  | suspend => exact issue_wf h _ _ fun x _ h => bodySuspend_wf h x
  | trap => exact issue_wf h _ _ fun x _ h => bodyTrap_wf h x
  | tret => exact issue_wf h _ _ fun x _ h => bodyTret_wf h x
  | twait => exact issue_wf h _ _ fun x _ h => bodyTwait_wf h x
  | setbnd => exact issue_wf h _ _ fun x _ h => bodySetbnd_wf h x
  | mfc => exact issue_wf h _ _ fun x _ h => bodyMfc_wf h x
  | mtc => exact issue_wf h _ _ fun x _ h => bodyMtc_wf h x
  | clkrd => exact issue_wf h _ _ fun x _ h => bodyClkrd_wf h x
  | doze => exact issue_wf h _ _ fun x _ h => bodyDoze_wf h x
  | yield => exact issue_wf h _ _ fun x _ h => bodyYield_wf h x
  | bkpt => exact issue_wf h _ _ fun x _ h => bodyBkpt_wf h x
  | trapc => exact issue_wf h _ _ fun x _ h => bodyTrapc_wf h x
  | ipref => exact issue_wf h _ _ fun x _ h => bodyIpref_wf h x
  | icinv => exact issue_wf h _ _ fun x _ h => bodyIcinv_wf h x
  | pmrd => exact issue_wf h _ _ fun x _ h => bodyPmrd_wf h x
  | tmark => exact issue_wf h _ _ fun x _ h => bodyTmark_wf h x
  | grpq => exact issue_wf h _ _ fun x _ h => bodyGrpq_wf h x
  | spallq => exact issue_wf h _ _ fun x _ h => bodySpallq_wf h x
  | dbgrd => exact issue_wf h _ _ fun x _ h => bodyDbgrd_wf h x
  | dbgwr => exact issue_wf h _ _ fun x _ h => bodyDbgwr_wf h x
  | prio => exact issue_wf h _ _ fun x _ h => bodyPrio_wf h x
  | iadd | isub | imul | imulh | imad | iadd3 | imin | imax | iabs | ineg | isad | idot4 | iavg | clamp | and | or | xor | not
    | andn | lop3 | shl | shr | sar | rol | fshl | fshr | bfx | bfi | brev | popc | clz | ctz | bperm | sext | zext | bitset
    | bitclr | bittst | icmpEq | icmpNe | icmpLt | icmpLe | icmpGt | icmpGe | sel | mov | laneid | mand | mor | mxor | mnot
    | mpopc | mffs | lea | iadd64 | isub64 | imulw | imadw | shl64 | shr64 | mov64 | crewix | fadd | fsub | fmul | ffma | fmin
    | fmax | famax | fclmp | frint | ffrac | fscale | fgetx | fclass | fcmpEq | fcmpNe | fcmpLt | fcmpLe | fcmpGt | fcmpGe
    | fcmpUn | fdot2 | fcpys | cvtF32E4m3 | cvtF32Bf16 | cvtF32F16 | cvtBf16F32 | cvtF16F32 | cvtE4m3F32 | cvtE4m3Bf16
    | cvtI32F32 | cvtI8F32 | cvtF32I32 | cvtF32I8 | cvtI8I32 | tunpk =>
    exact issue_wf h _ _ fun x _ h => fixedLane_wf h _ x
  | idiv | irem | fdiv | rcp | rsq | sqrt | exp2 | log2 | sinpi | cospi | tanh | vget | vput | vrot | vslide | vbcast | voteAll
    | voteAny | ballot | vmatch | lredIadd | lredImin | lredImax | lredFadd | lredFmin | lredFmax | lredOr | scanIadd
    | scanFadd | scanImax | vsqz =>
    exact issue_wf h _ _ fun x _ h => variableLane_wf h _ x
  | ld => exact issue_wf h _ _ fun x _ h => bodyLd_wf h x
  | st => exact issue_wf h _ _ fun x _ h => bodySt_wf h x
  | ldAcq | ldb =>
    exact issue_wf h _ _ fun x _ h => loadAs_wf h _ x
  | stRel => exact issue_wf h _ _ fun x _ h => storeBody_wf h _ x
  | ldc => exact issue_wf h _ _ fun x _ h => bodyLdc_wf h x
  | pref => exact issue_wf h _ _ fun x _ h => bodyPref_wf h x
  | spld => exact issue_wf h _ _ fun x _ h => bodySpld_wf h x
  | spst => exact issue_wf h _ _ fun x _ h => bodySpst_wf h x
  | spldp => exact issue_wf h _ _ fun x _ h => bodySpldp_wf h x
  | spstp => exact issue_wf h _ _ fun x _ h => bodySpstp_wf h x
  | spatom => exact issue_wf h _ _ fun x _ h => bodySpatom_wf h x
  | spatomCas => exact issue_wf h _ _ fun x _ h => bodySpatomCas_wf h x
  | atom | mred =>
    exact issue_wf h _ _ fun x _ h => bodyAtom_wf h _ x
  | atomCas => exact issue_wf h _ _ fun x _ h => bodyAtomCas_wf h x
  | atomF | mredF =>
    exact issue_wf h _ _ fun x _ h => bodyAtomF_wf h _ x
  | fence | fenceAll =>
    exact issue_wf h _ _ fun x _ h => fenceBody_wf h _ x
  | waitaddr => exact issue_wf h _ _ fun x _ h => bodyWaitaddr_wf h x
  | lease => exact issue_wf h _ _ fun x _ h => bodyLease_wf h x
  | lrel => exact issue_wf h _ _ fun x _ h => bodyLrel_wf h x
  | cflush => exact issue_wf h _ _ fun x _ h => bodyCflush_wf h x
  | cinv => exact issue_wf h _ _ fun x _ h => bodyCinv_wf h x
  | tld => exact issue_wf h _ _ fun x _ h => bodyTld_wf h x
  | tst => exact issue_wf h _ _ fun x _ h => bodyTst_wf h x
  | tclaim => exact issue_wf h _ _ fun x _ h => bodyTclaim_wf h x
  | tready => exact issue_wf h _ _ fun x _ h => bodyTready_wf h x
  | tdrain => exact issue_wf h _ _ fun x _ h => bodyTdrain_wf h x
  | tfree => exact issue_wf h _ _ fun x _ h => bodyTfree_wf h x
  | tdef => exact issue_wf h _ _ fun x _ h => bodyTdef_wf h x
  | hoist => exact issue_wf h _ _ fun x _ h => hoistLaneBody_wf h _ x
  | hoistT => exact issue_wf h _ _ fun x _ h => hoistTensorBody_wf h _ x
  | hoistMc => exact issue_wf h _ _ fun x _ h => bodyHoistMc_wf h x
  | hoistSt => exact issue_wf h _ _ fun x _ h => bodyHoistSt_wf h x
  | qfence => exact issue_wf h _ _ fun x _ h => bodyQfence_wf h x
  | wload => exact issue_wf h _ _ fun x _ h => bodyWload_wf h x
  | mmaE4m3 | mmaI8 | mmaBf16 | mmaTi8 | mmaDist =>
    exact issue_wf h _ _ fun x _ h => mmaBody_wf h _ x
  | tsacc | tsaccI =>
    exact issue_wf h _ _ fun x _ h => tsaccBody_wf h _ x
  | topk => exact issue_wf h _ _ fun x _ h => bodyTopk_wf h x
  | accRd => exact issue_wf h _ _ fun x _ h => bodyAccRd_wf h x
  | accSt => exact issue_wf h _ _ fun x _ h => bodyAccSt_wf h x
  | accClr => exact issue_wf h _ _ fun x _ h => bodyAccClr_wf h x
  | chAcq => exact dropTrapped_wf (issue_wf h _ _ fun x _ h => chuteAcquire_wf h _ x)
  | chPut => exact issue_wf h _ _ fun x _ h => bodyChPut_wf h x
  | chTake => exact dropTrapped_wf (issue_wf h _ _ fun x _ h => chuteTake_wf h _ x)
  | chFree => exact issue_wf h _ _ fun x _ h => bodyChFree_wf h x
  | evAdd => exact issue_wf h _ _ fun x _ h => bodyEvAdd_wf h x
  | evSet => exact issue_wf h _ _ fun x _ h => bodyEvSet_wf h x
  | evRd => exact issue_wf h _ _ fun x _ h => bodyEvRd_wf h x
  | bar | barArv =>
    exact issue_wf h _ _ fun x _ h => barBody_wf h _ x
  | capEnter => exact issue_wf h _ _ fun x _ h => bodyCapEnter_wf h x
  | capStep | capEnd =>
    exact issue_wf h _ _ fun x _ h => capCommit_wf h _ x
  | capResult => exact issue_wf h _ _ fun x _ h => bodyCapResult_wf h x
  | chTryacq => exact issue_wf h _ _ fun x _ h => chuteAcquire_wf h _ x
  | chTrytake => exact issue_wf h _ _ fun x _ h => chuteTake_wf h _ x
  | pairIssue => exact execPairIssue_wf h _
  | issueCycle => exact execIssueCycle_wf h _ _
  | resultReturn => exact execResultReturn_wf h _ _
  | runLimit => exact execRunLimit_wf h _ _
  | trapEntry => exact execTrapEntry_wf h _ _
  | dozeEnd => exact execDozeEnd_wf h _ _
  | unitWake => exact execUnitWake_wf h _ _
  | tileStall => exact execTileStall_wf h _ _
  | chuteWaitSuspend => exact execChuteWaitSuspend_wf h _ _
  | creditNotification => exact execCreditNotification_wf h _
  | hoistLanding => exact execHoistLanding_wf h _ _ _ _
  | hoistComplete => exact execHoistComplete_wf h _ _ _
  | hoistFault => exact execHoistFault_wf h _ _ _
  | taskStart => exact execTaskStart_wf h _ _ _
  | taskComplete => exact execTaskComplete_wf h _ _ _
  | storeSend => exact execStoreSend_wf h _ _
  | storeAck => exact execStoreAck_wf h _ _
  | tableWalk => exact execTableWalk_wf h _ _ _
  | peerProbe => exact execPeerProbe_wf h _ _
  | probeRelay => exact execProbeRelay_wf h _
  | bankAccept => exact execBankAccept_wf h _
  | ownershipGrant => exact execOwnershipGrant_wf h _
  | memoryRead => exact execMemoryRead_wf h _ _
  | memoryWrite => exact execMemoryWrite_wf h _ _ _
  | keySweepDone => exact execKeySweepDone_wf h _
  | retentionEntry => exact execRetentionEntry_wf h _
  | retentionExit => exact execRetentionExit_wf h _
  | leaseExpire => exact execLeaseExpire_wf h _ _
  | capsuleDeschedule => exact execCapsuleDeschedule_wf h _
  | adoptionNotice => exact execAdoptionNotice_wf h _
  | capsuleDelivery => exact execCapsuleDelivery_wf h _
  | queueTailWrite => exact execQueueTailWrite_wf h _
  | packetReread => exact execPacketReread_wf h _
  | packetLandTimeout => exact execPacketLandTimeout_wf h _
  | launch => exact execLaunch_wf h _
  | admissionResume => exact execAdmissionResume_wf h _
  | depend => exact execDepend_wf h _
  | dependSatisfied => exact execDependSatisfied_wf h _
  | signal => exact execSignal_wf h _
  | timestamp => exact execTimestamp_wf h _
  | packetComplete => exact execPacketComplete_wf h _ _
  | createQueue => exact execCreateQueue_wf h _
  | destroyQueue => exact execDestroyQueue_wf h _
  | preempt => exact execPreempt_wf h _
  | halt => exact execHalt_wf h _
  | resume => exact execResume_wf h _
  | abort => exact execAbort_wf h _
  | setRoot => exact execSetRoot_wf h _
  | invalidate => exact execInvalidate_wf h _
  | setGrant => exact execSetGrant_wf h _
  | keyLive => exact execKeyLive_wf h _
  | keyDiscard => exact execKeyDiscard_wf h _
  | frame => exact execFrame_wf h _
  | retain => exact execRetain_wf h _
  | partition => exact execPartition_wf h _
  | resetPart => exact execResetPart_wf h _
  | clusterWipe => exact execClusterWipe_wf h _
  | setDebugAccess => exact execSetDebugAccess_wf h _
  | setDebugTracing => exact execSetDebugTracing_wf h _
  | setDebugTraceBuffer => exact execSetDebugTraceBuffer_wf h _
  | setDebugCounters => exact execSetDebugCounters_wf h _
  | policyLoad => exact execPolicyLoad_wf h _
  | policyUnload => exact execPolicyUnload_wf h _
  | budget => exact execBudget_wf h _
  | share => exact execShare_wf h _
  | param => exact execParam_wf h _
  | blockPlace => exact execBlockPlace_wf h _ _ _
  | crewStart => exact execCrewStart_wf h _ _
  | drainToSave => exact execDrainToSave_wf h _ _
  | blockSave => exact execBlockSave_wf h _ _
  | blockFlush => exact execBlockFlush_wf h _ _
  | blockRestore => exact execBlockRestore_wf h _ _ _
  | savedBlockRunnable => exact execSavedBlockRunnable_wf h _ _
  | rebalance => exact execRebalance_wf h _
  | budgetCharge => exact execBudgetCharge_wf h
  | budgetPeriod => exact execBudgetPeriod_wf h
  | enqueue => exact execEnqueue_wf h _ _ _
  | pick => exact execPick_wf h _ _
  | tick => exact execTick_wf h _
  | block => exact execBlock_wf h _ _
  | wake => exact execWake_wf h _ _ _
  | routineInvoke => exact execRoutineInvoke_wf h _
  | routineOverrun => exact execRoutineOverrun_wf h _
  | holderChange => exact execHolderChange_wf h _
  | floorOverdue => exact execFloorOverdue_wf h _
  | migrationTake => exact execMigrationTake_wf h _
  | faultRecordWrite => exact execFaultRecordWrite_wf h _
  | faultRingHead => exact execFaultRingHead_wf h _
  | softError => exact execSoftError_wf h _ _ _
  | eccCorrection => exact execEccCorrection_wf h _
  | correctedSummary => exact execCorrectedSummary_wf h _
  | firmwareCrash => exact execFirmwareCrash_wf h _ _ _
  | firmwareRestart => exact execFirmwareRestart_wf h _ _
  | identify => exact execIdentify_wf h
  | bootLoad => exact execBootLoad_wf h _ _
  | start => exact execStart_wf h _
  | verificationEnd => exact execVerificationEnd_wf h
  | attest => exact execAttest_wf h _
  | spoilRead => exact execSpoilRead_wf h _
  | reset => exact execReset_wf h
  | powerOnReset => exact execPowerOnReset_wf s
  | moduleReset => exact execModuleReset_wf s
  | ckResync => exact execCkResync_wf h _
  | lifeCycleChange => exact execLifeCycleChange_wf h _ _
  | powerArbiter => exact execPowerArbiter_wf h
  | overcurrent => exact execOvercurrent_wf h _
  | linkDown => exact execLinkDown_wf h _
  | rdmaWrite => exact execRdmaWrite_wf h _
  | rdmaWriteWithImmediate => exact execRdmaWriteWithImmediate_wf h _
  | rdmaSend => exact execRdmaSend_wf h _
  | rdmaSendWithImmediate => exact execRdmaSendWithImmediate_wf h _
  | rdmaRead => exact execRdmaRead_wf h _
  | compareAndSwap => exact execCompareAndSwap_wf h _
  | fetchAndAdd => exact execFetchAndAdd_wf h _
  | doorbellWrite => exact execDoorbellWrite_wf h _ _
  | rdmaCompletion => exact execRdmaCompletion_wf h _ _ _
  | allReduce => exact execAllReduce_wf h _
  | reduceScatter => exact execReduceScatter_wf h _
  | allGather => exact execAllGather_wf h _
  | broadcast => exact execBroadcast_wf h _
  | exportState => exact execExportState_wf h _
  | importState => exact execImportState_wf h _
  | registerWrite => exact execRegisterWrite_wf h _ _
  | policyEnd => exact execPolicyEnd_wf h
  | policyAdd => exact execPolicyAdd_wf h _ _ _
  | policySub => exact execPolicySub_wf h _ _ _
  | policyMul => exact execPolicyMul_wf h _ _ _
  | policyDivu => exact execPolicyDivu_wf h _ _ _
  | policyRemu => exact execPolicyRemu_wf h _ _ _
  | policyAnd => exact execPolicyAnd_wf h _ _ _
  | policyOr => exact execPolicyOr_wf h _ _ _
  | policyXor => exact execPolicyXor_wf h _ _ _
  | policyShl => exact execPolicyShl_wf h _ _ _
  | policyShru => exact execPolicyShru_wf h _ _ _
  | policyShrs => exact execPolicyShrs_wf h _ _ _
  | policyMin => exact execPolicyMin_wf h _ _ _
  | policyMax => exact execPolicyMax_wf h _ _ _
  | policyMinu => exact execPolicyMinu_wf h _ _ _
  | policyMaxu => exact execPolicyMaxu_wf h _ _ _
  | policySlt => exact execPolicySlt_wf h _ _ _
  | policySltu => exact execPolicySltu_wf h _ _ _
  | policySeq => exact execPolicySeq_wf h _ _ _
  | policyAddi => exact execPolicyAddi_wf h _ _ _
  | policyAndi => exact execPolicyAndi_wf h _ _ _
  | policyOri => exact execPolicyOri_wf h _ _ _
  | policyXori => exact execPolicyXori_wf h _ _ _
  | policyShli => exact execPolicyShli_wf h _ _ _
  | policyShrui => exact execPolicyShrui_wf h _ _ _
  | policyShrsi => exact execPolicyShrsi_wf h _ _ _
  | policyLi => exact execPolicyLi_wf h _ _
  | policyLcat => exact execPolicyLcat_wf h _ _
  | policyJmp => exact execPolicyJmp_wf h _
  | policyLoopi => exact execPolicyLoopi_wf h _
  | policyLoopr => exact execPolicyLoopr_wf h _
  | policyEndl => exact execPolicyEndl_wf h
  | policyIter => exact execPolicyIter_wf h _
  | policyLd => exact execPolicyLd_wf h _ _ _
  | policyLdw => exact execPolicyLdw_wf h _ _ _
  | policySt => exact execPolicySt_wf h _ _ _
  | policyStw => exact execPolicyStw_wf h _ _ _
  | policyRdc => exact execPolicyRdc_wf h _ _
  | policyRdcx => exact execPolicyRdcx_wf h _ _ _
  | policySetd => exact execPolicySetd_wf h _ _
  | policyBeq => exact execPolicyBeq_wf h _ _ _
  | policyBne => exact execPolicyBne_wf h _ _ _
  | policyBlt => exact execPolicyBlt_wf h _ _ _
  | policyBltu => exact execPolicyBltu_wf h _ _ _
  | lanePortPerform => exact execLanePortPerform_wf h _ _
  | linkUp => exact execLinkUp_wf h _
  | powerLoss => exact execPowerLoss_wf s

/-! ### Schedule -/

theorem State.badFetch_wf {s : State} (h : s.mem.wf) (k u len c h t) : (s.badFetch k u len c h t).mem.wf := by
  unfold State.badFetch; grind [→ debugStop_wf, State.takeTrap_wf]

@[simp] theorem State.restartLimits_mem (s : State) : (s.restartLimits).mem = s.mem := rfl

theorem State.tickCk_wf {s : State} (h : s.mem.wf) : s.tickCk.mem.wf := by
  unfold State.tickCk
  extract_lets cores
  have h1 : ({ s with cores := cores }.useCycles.restartLimits.ageCandidates.traceNow.settlePorts).mem.wf := by
    rw [State.settlePorts_mem]
    exact State.traceNow_wf (by simpa)
  exact h1

/-! ## The step -/

/-- Memory's form in the state that a choice goes on from. -/
def Choice.wf : Choice → Prop
  | .run _ s | .quiet s => s.mem.wf

theorem State.unitChoice_wf {s : State} (h : s.mem.wf) (k u c hu l) : (s.unitChoice k u c hu l).wf := by
  unfold State.unitChoice
  have hf := State.fetch_wf h (coreOf k) c.launch l hu.pc hu.origin
  have hb (t : State) (ht : t.mem.wf) len r : (Choice.quiet ({ t with focus := none }.badFetch k u len c hu r)).wf :=
    State.badFetch_wf (s := { t with focus := none }) ht _ _ _ _ _ _
  generalize s.fetch (coreOf k) c.launch l hu.pc hu.origin = f at hf
  obtain ⟨t, r⟩ := f
  split
  case h_1 e =>
    cases e
    exact hb _ hf _ _
  case h_2 e =>
    cases e
    have hs := State.stallUnit_mem { t with focus := none } k u (.line ‹_›)
    rw [Choice.wf, hs]
    exact hf
  case h_3 e =>
    cases e
    split
    · exact hf
    · exact hb _ hf _ _

theorem State.stallOf_wf {s : State} (h : s.mem.wf) {k u c hu l x} (e : s.stallOf k u c hu l = some x) : x.wf := by
  have hc := State.unitChoice_wf (s := { s with focus := some (k, u) }) h k u c hu l
  unfold State.stallOf at e
  extract_lets at e
  generalize State.unitChoice _ k u c hu l = y at hc e
  cases y with
  | run i t =>
    dsimp only at e
    (repeat' split at e) <;> cases e
    exact hc
  | quiet t =>
    dsimp only at e
    split at e <;> cases e
    exact hc

theorem State.nextStall_wf {s : State} (h : s.mem.wf) {x} (e : s.nextStall = some x) : x.wf := by
  obtain ⟨_, _, hu⟩ := List.exists_of_findSome?_eq_some e
  obtain ⟨_, _, hc⟩ := List.exists_of_findSome?_eq_some hu
  split at hc
  · split at hc
    · exact State.stallOf_wf h hc
    · cases hc
  · cases hc

theorem State.engineChoice_wf {s : State} (h : s.mem.wf) {x} (e : s.engineChoice = some x) : x.wf := by
  unfold State.engineChoice at e
  dsimp only at e
  (repeat' split at e) <;> cases e
  all_goals exact h

theorem State.choiceOwn_wf {s : State} (h : s.mem.wf) : s.choiceOwn.wf := by
  unfold State.choiceOwn
  split
  · exact State.engineChoice_wf h ‹_›
  split
  · exact h
  split
  case h_1 c e =>
    split at e
    · exact State.nextStall_wf h e
    · cases e
  split
  · exact h
  split
  · exact h
  · exact State.tickCk_wf h

theorem State.choice_wf {s : State} (h : s.mem.wf) : s.choice.wf := by
  unfold State.choice
  split
  · split
    · exact h
    split
    · exact State.unitChoice_wf h _ _ _ _ _
    · exact h
  split
  · extract_lets t
    split
    · exact h
    · exact h
  split
  · exact State.choiceOwn_wf h
  · exact h

/-- One step keeps memory's form. -/
theorem step_wf {s : State} (h : s.mem.wf) : outWf (step s) := by
  have hc := State.choice_wf h
  unfold step
  generalize s.choice = c at hc
  cases c with
  | run i t => exact exec_wf hc i
  | quiet t => exact hc

/-- Settles O6: the step's choice keeps memory's form, and so does every instruction. -/
theorem stepKeepsMemory : Obligations.StepKeepsMemory := by
  unfold Obligations.StepKeepsMemory
  intro s t h e
  have ht := step_wf h
  rw [e] at ht
  exact ht

/-- Settles O7: no byte of memory is listed after the reset. -/
theorem resetMemory : Obligations.ResetMemory := rfl

end Sys2Proof.Machine
end

section
/-! PROOFS. What the commands on translation, keys, frames and partitions do (R20, R293, R319, R327, R338, R339, R341, R342, R395, R397, R459).
`State.seen f` is what the partitions' commands speak of: the partitions, the translations, the partitions of the launches, and what `f` sees of
the queues; the `_seen` and `_part` lemmas say which operations leave it alone. -/

namespace Sys2Proof.Machine

/-! ## Packets that start -/

/-- The packet of an index stands among the started ones of a queue and is not ready to complete. -/
def State.awaits (s : State) (queue index : Nat) : Prop :=
  ∃ q x, s.queues.get? queue = some q ∧ x ∈ q.started ∧ x.index = index ∧ x.ready = false

/-- The state that a packet's rules lead to, from the state before it and the one in which it has started. -/
def Answer.after (old new : State) (queue index : Nat) : Answer → State
  | .reject status detail => new.packetReady queue index status detail
  | .ok t => t.packetReady queue index stOk 0
  | .open_ t => t
  | .later => old

theorem State.modQueue_get? (s : State) (qid : Nat) (f : Queue → Queue) (id : Nat) :
    (s.modQueue qid f).queues.get? id = if id = qid then (s.queues.get? id).map f else s.queues.get? id := by
  unfold State.modQueue
  split
  case h_1 x e =>
    rw [Table.get?_put]
    split
    · next h => rw [h, e]; rfl
    · rfl
  case h_2 e =>
    split
    · next h => rw [h, e]; rfl
    · rfl

/-- A started packet becomes ready with the status and detail that it is given. -/
theorem State.readyWith_packetReady {s : State} {queue index : Nat} (h : s.awaits queue index) (status detail : Nat) :
    readyWith (s.packetReady queue index status detail) queue index status detail := by
  obtain ⟨q, x, hq, hx, hi, hr⟩ := h
  have hg : (s.packetReady queue index status detail).queues.get? queue = some { q with started := q.started.map fun p =>
      if p.index = index ∧ !p.ready then { p with ready := true, status := status, detail := detail } else p } := by
    rw [State.packetReady, State.modQueue_get?, if_pos rfl, hq]
    rfl
  refine ⟨_, { x with ready := true, status := status, detail := detail }, hg, List.mem_map.2 ⟨x, hx, ?_⟩, hi, rfl, rfl, rfl⟩
  rw [if_pos ⟨hi, by rw [hr]; rfl⟩]

theorem State.awaits.congr {s t : State} {queue index : Nat} (h : s.awaits queue index) (e : t.queues = s.queues) :
    t.awaits queue index := by
  unfold State.awaits
  rw [e]
  exact h

/-! ## What a device access leaves alone -/

theorem Table.mem_of_get? {β : Type} {t : Table β} {a : Nat} {x : β} (h : t.get? a = some x) : (a, x) ∈ t := by
  induction t with
  | nil => cases h
  | cons e t ih =>
    rw [Table.get?_cons] at h
    split at h
    · next he =>
      cases h
      exact List.mem_cons.2 (.inl (Prod.ext he.symm rfl))
    · exact List.mem_cons_of_mem _ (ih h)

/-- An entry of a table whose entries have all been changed. -/
theorem Table.get?_mapKey {β γ : Type} (g : Nat → β → γ) (t : Table β) (a : Nat) :
    Table.get? (t.map fun e => (e.1, g e.1 e.2)) a = (t.get? a).map (g a) := by
  induction t with
  | nil => rfl
  | cons e t ih =>
    rw [List.map_cons, Table.get?_cons, Table.get?_cons, ih]
    split
    · next h => rw [h]; rfl
    · rfl

theorem Table.get?_map {β γ : Type} (g : β → γ) (t : Table β) (a : Nat) : Table.get? (t.map fun e => (e.1, g e.2)) a = (t.get? a).map g :=
  Table.get?_mapKey (fun _ => g) t a

/-- The partitions, the translations, the partitions of the launches, and what f sees of the queues. -/
def State.seen {α : Type} (f : Queue → α) (s : State) : Table Part × List Tlb × (Nat → Option Nat) × (Nat → Option α) :=
  (s.parts, s.tlb, fun id => (s.launches.get? id).map (·.part), fun id => (s.queues.get? id).map f)

/-- Changing the launches, but not their partitions, is not seen. -/
theorem State.seen_mapLaunches {α : Type} {f : Queue → α} (s : State) (g : Launch → Launch) (hg : ∀ l, (g l).part = l.part) :
    State.seen f { s with launches := s.launches.map fun e => (e.1, g e.2) } = s.seen f := by
  have hl id : (Table.get? (s.launches.map fun e => (e.1, g e.2)) id).map (·.part) = (s.launches.get? id).map (·.part) := by
    rw [Table.get?_map, Option.map_map]
    exact congrArg (fun g => Option.map g _) (funext hg)
  unfold State.seen
  simp only [hl]

theorem seen_ite {α : Type} {f : Queue → α} {c : Prop} [Decidable c] {s t u : State} (hs : s.seen f = u.seen f) (ht : t.seen f = u.seen f) :
    (if c then s else t).seen f = u.seen f := by
  split
  · exact hs
  · exact ht

theorem foldl_seen {α β : Type} {f : Queue → α} {g : State → β → State} (h : ∀ s a, (g s a).seen f = s.seen f) (l : List β) (s : State) :
    (l.foldl g s).seen f = s.seen f := by
  induction l generalizing s with
  | nil => rfl
  | cons a l ih => rw [List.foldl_cons, ih, h]

section
variable {α : Type} (f : Queue → α)

theorem State.wakeLines_seen (s : State) (p) : (s.wakeLines p).seen f = s.seen f := by
  unfold State.wakeLines
  exact State.seen_mapLaunches (s.mapCrews _) (fun l => l.mapSaved _) fun _ => rfl

theorem State.homeLine_seen (s : State) (n) : (s.homeLine n).seen f = s.seen f := rfl

theorem State.touch_seen (s : State) (pa) : (s.touch pa).seen f = s.seen f := by
  unfold State.touch
  (repeat' split) <;> rfl

theorem State.openFrame_seen (s : State) (pa) : (s.openFrame pa).seen f = s.seen f := by
  unfold State.openFrame
  split <;> rfl

theorem State.soil_seen (s : State) (n) : (s.soil n).seen f = s.seen f := by
  unfold State.soil
  split <;> rfl

theorem State.writeBytes_seen (s : State) (key pa bs) : (s.writeBytes key pa bs).seen f = s.seen f := by
  unfold State.writeBytes
  split
  · exact (State.soil_seen f _ _).trans (State.openFrame_seen f _ _)
  · rfl

theorem State.perform_seen (s : State) (key pa bs) : (s.perform key pa bs).seen f = s.seen f :=
  (State.wakeLines_seen f _ _).trans (State.writeBytes_seen f _ _ _ _)

theorem State.setFlags_seen (s : State) (l wr) : (s.setFlags l wr).seen f = s.seen f := by
  unfold State.setFlags
  refine seen_ite rfl ?_
  exact (State.perform_seen f _ _ _ _).trans ((State.touch_seen f _ _).trans (State.homeLine_seen f _ _))

theorem State.walkWith_seen {s t : State} {held part va wr ex x l1 l2} (e : s.walkWith held part va wr ex = .ok (x, l1, l2, t)) :
    t.seen f = s.seen f := by
  unfold State.walkWith at e
  dsimp only at e
  (repeat' split at e) <;> cases e
  rw [State.setFlags_seen, State.setFlags_seen, foldl_seen (State.touch_seen f)]

theorem State.devXlate_seen {s t : State} {part va wr load x} (e : s.devXlate part va wr load = .ok (x, t)) : t.seen f = s.seen f := by
  unfold State.devXlate at e
  split at e
  · cases e
  · have hw := State.walkWith_seen f ‹_›
    (repeat' split at e) <;> cases e
    rw [State.touch_seen, hw]

theorem State.deviceTook_seen (s : State) (bank) : (s.deviceTook bank).seen f = s.seen f := by
  unfold State.deviceTook
  split <;> rfl

theorem State.deviceTookAll_seen (s : State) (pas) : (s.deviceTookAll pas).seen f = s.seen f :=
  foldl_seen (fun _ _ => State.deviceTook_seen f _ _) _ _

theorem State.vwrite_seen {s t : State} {part va bs} (e : s.vwrite part va bs = .ok t) : t.seen f = s.seen f := by
  unfold State.vwrite at e
  dsimp only at e
  split at e <;> cases e
  case h_2 s1 xs hc =>
    have h1 : s1.seen f = s.seen f := by
      revert hc
      refine List.foldlRecOn (linePieces va bs.length) _
        (motive := fun acc : Except DevStop (State × List (Xl × Nat × Nat)) => ∀ {t xs}, acc = .ok (t, xs) → t.seen f = s.seen f) ?_ ?_
      · rintro _ _ ⟨⟩
        rfl
      · intro acc ha p _ s2 xs2 e2
        split at e2
        · cases e2
        · split at e2 <;> cases e2
          rw [State.devXlate_seen f ‹_›, ha rfl]
    rw [foldl_seen (fun s a => (State.perform_seen f _ _ _ _).trans (State.homeLine_seen f s _)), State.deviceTookAll_seen, h1]

theorem State.atHome_seen (s : State) (line wr) : (s.atHome line wr).seen f = s.seen f := by
  unfold State.atHome
  split <;> rfl

theorem State.vread_seen {s t : State} {part va n bs} (e : s.vread part va n = .ok (bs, t)) : t.seen f = s.seen f := by
  unfold State.vread at e
  obtain ⟨⟨bs1, pas, s1⟩, hc, ⟨⟩⟩ := except_map_ok.1 e
  rw [State.deviceTookAll_seen]
  revert hc
  refine List.foldlRecOn (linePieces va n) _
    (motive := fun acc : Except DevStop (List Byte × List Nat × State) => ∀ {bs pas t}, acc = .ok (bs, pas, t) → t.seen f = s.seen f) ?_ ?_
  · rintro _ _ _ ⟨⟩
    rfl
  · intro acc ha p _ bs2 pas2 s2 e2
    split at e2
    · cases e2
    · split at e2 <;> cases e2
      rw [State.atHome_seen, State.devXlate_seen f ‹_›, ha rfl]

theorem State.deliver_seen (s : State) (r t p) : (s.deliver r t p).seen f = s.seen f := by
  unfold State.deliver
  dsimp only
  split <;> rfl

theorem State.report_seen (s : State) (a t held target) : (s.report a t held target).seen f = s.seen f := by
  unfold State.report
  exact State.deliver_seen f _ _ _ _

end

/-! ## What the complex's writes leave alone -/

section
variable {α : Type} {f : Queue → α} {s t : State}

theorem seen_parts (h : t.seen f = s.seen f) : t.parts = s.parts := congrArg (·.1) h

theorem seen_tlb (h : t.seen f = s.seen f) : t.tlb = s.tlb := congrArg (·.2.1) h

theorem seen_launch (h : t.seen f = s.seen f) (id : Nat) : (t.launches.get? id).map (·.part) = (s.launches.get? id).map (·.part) :=
  congrFun (congrArg (·.2.2.1) h) id

theorem seen_queue (h : t.seen f = s.seen f) (id : Nat) : (t.queues.get? id).map f = (s.queues.get? id).map f :=
  congrFun (congrArg (·.2.2.2) h) id

theorem State.seen_putQueue {qid : Nat} {q q' : Queue} (e : s.queues.get? qid = some q) (hf : f q' = f q) :
    State.seen f { s with queues := s.queues.put qid q' } = s.seen f := by
  have hq id : ((s.queues.put qid q').get? id).map f = (s.queues.get? id).map f := by
    rw [Table.get?_put]
    split
    · next h => rw [h, e, Option.map_some, Option.map_some, hf]
    · rfl
  unfold State.seen
  simp only [hq]

theorem State.modQueue_seen (s : State) (qid : Nat) {g : Queue → Queue} (hg : ∀ q, f (g q) = f q) :
    (s.modQueue qid g).seen f = s.seen f := by
  unfold State.modQueue
  split
  · exact State.seen_putQueue ‹_› (hg _)
  · rfl

end

/-- What of a queue says what it may start: its partition, whether it is stopped, and the packet at its head. -/
def Queue.essence (q : Queue) : Nat × Bool × Option (BitVec 512) := (q.part, q.stopped, q.current)

section
variable {α : Type} {f : Queue → α} (hf : ∀ a b : Queue, a.essence = b.essence → a.started = b.started → f a = f b)
include hf

theorem State.makeWrites_seen (s : State) (qid ws) : (s.makeWrites qid ws).seen f = s.seen f := by
  induction ws generalizing s with
  | nil => exact State.modQueue_seen s qid fun _ => hf _ _ rfl rfl
  | cons w ws ih =>
    unfold State.makeWrites
    split
    · rfl
    split
    · exact (ih _).trans (State.vwrite_seen f ‹_›)
    · exact State.modQueue_seen s qid fun _ => hf _ _ rfl rfl
    · exact (State.report_seen f _ _ _ _ _).trans (State.modQueue_seen s qid fun _ => hf _ _ rfl rfl)

theorem State.flushWrites_seen (s : State) (qid) : (s.flushWrites qid).seen f = s.seen f := by
  unfold State.flushWrites
  split
  · exact seen_ite rfl (State.makeWrites_seen hf s _ _)
  · rfl

theorem State.cpWrite_seen (s : State) (qid ws) : (s.cpWrite qid ws).seen f = s.seen f :=
  (State.flushWrites_seen hf _ _).trans (State.modQueue_seen s qid fun _ => hf _ _ rfl rfl)

end

theorem State.awaits_cpWrite (s : State) (queue : Nat) {q : Queue} (ws) {x : Started} (hx : x ∈ q.started) (hr : x.ready = false) :
    (State.cpWrite { s with queues := s.queues.put queue q } queue ws).awaits queue x.index := by
  have hs := seen_queue (State.cpWrite_seen (f := fun q => (q.essence, q.started)) (fun _ _ he hx => Prod.ext he hx)
    { s with queues := s.queues.put queue q } queue ws) queue
  rw [Table.get?_put_self, Option.map_some, Option.map_eq_some_iff] at hs
  obtain ⟨y, hy, he⟩ := hs
  have hstarted : y.started = q.started := congrArg (·.2) he
  exact ⟨y, x, hy, hstarted ▸ hx, rfl, hr⟩

/-- A packet that has started stands among the started ones, whatever becomes of the complex's write of head. -/
theorem State.begin_awaits {s : State} {queue : Nat} {q : Queue} (h : s.queues.get? queue = some q) (p) :
    (s.begin queue p).awaits queue q.head := by
  unfold State.begin
  rw [h]
  exact State.awaits_cpWrite s queue _ (x := ⟨q.head, q.kept p, 0, false, 0, 0, [], q.life⟩)
    (List.mem_append_right _ (List.mem_singleton.2 rfl)) rfl

/-! ## What a packet that starts does -/

/-- A packet that is done, by rules that leave the queues alone, ends with OK. -/
theorem okFor_after {s t : State} {n : Nat} {q : Queue} (h : s.awaits n q.head) (e : t.queues = s.queues) (s0 s1 : State) :
    okFor n q ((Answer.ok t).after s0 s1 n q.head) :=
  State.readyWith_packetReady (h.congr e) _ _

theorem State.current_of_startable {s : State} {queue : Nat} {q : Queue} {p} (h : s.startable queue q = some p) : q.current = some p := by
  unfold State.startable at h
  split at h
  · cases h
  · split at h <;> cases h
    assumption

/-- A packet that has clean bytes does what its own rules say. -/
theorem State.runPacket_of_offers {s : State} {queue lo : Nat} {q : Queue} {p} {mine used} {body : Queue → BitVec 512 → State → Answer}
    (h : s.offers queue q p) (hm : mine p = true) (hs : strayByte p lo used = none) :
    s.runPacket queue mine lo used body = (body q p (s.begin queue p)).after s (s.begin queue p) queue q.head := by
  obtain ⟨hq, hp, href, hsig, hbits⟩ := h
  unfold State.runPacket
  rw [hq]
  simp only [hp, hm, href, hsig, hbits, hs, Bool.not_true, Bool.false_eq_true, if_false, bne_self_eq_false, Bool.and_false]
  cases body q p (s.begin queue p) <;> rfl

/-- How a command's own rules show what the command does: its privilege and its bytes are seen to here. -/
theorem commandDoes {ctor : Nat → Instr} {code minPriv : Nat} {mine : BitVec 512 → Prop} {used pre eff} {takes : BitVec 512 → Bool}
    {body : Nat → Queue → BitVec 512 → State → Answer}
    (hx : ∀ n s, exec (ctor n) s = .next (s.control n takes code minPriv used (body n))) (ht : ∀ p, mine p → takes p = true)
    (hb : ∀ s0 s n q p, s0.queues.get? n = some q → q.current = some p → s.awaits n q.head → mine p → minPriv ≤ q.priv → pre q p s →
      eff n q p s ((body n q p s).after s0 s n q.head)) :
    CommandDoes ctor code minPriv mine used pre eff := by
  have hrun (s : State) n q p (ho : s.offers n q p) (hp : pktKind p = 6 ∧ pkt p 24 2 = code ∧ mine p)
      (hs : strayByte p 26 [(32, 32)] = none) :
      exec (ctor n) s = .next (Answer.after s (s.begin n p) n q.head
        (if q.priv < minPriv then .reject stDenied 24 else match strayByte p 32 used with
          | some i => .reject stFormat i
          | none => body n q p (s.begin n p))) := by
    obtain ⟨hk, hc, hm⟩ := hp
    exact (hx n s).trans (congrArg Host.Outcome.next (State.runPacket_of_offers ho (by simp [hk, hc, ht p hm]) hs))
  constructor
  · intro s n q p ho hp hs hpre
    obtain ⟨hpriv, hstray, hpre⟩ := hpre
    refine ⟨_, hrun s n q p ho hp hs, ?_⟩
    rw [if_neg (Nat.not_lt.2 hpriv), hstray]
    exact hb _ _ _ _ _ ho.1 (State.current_of_startable ho.2.1) (State.begin_awaits ho.1 p) hp.2.2 hpriv hpre
  · intro s n q p ho hp hs hpriv
    refine ⟨_, hrun s n q p ho hp hs, ?_⟩
    rw [if_pos hpriv]
    exact State.readyWith_packetReady (State.begin_awaits ho.1 p) _ _

/-! ## Translation and grants (R293, R319, R327) -/

theorem setRoot_part : CommandDoes .setRoot 0x07 1 (fun p => pkt p 32 1 = 1) [(32, 2), (40, 8)]
    (fun q p s => pkt p 40 8 % 2 ^ 18 = 0 ∧ pkt p 40 8 < 2 ^ 48 ∧ ∃ x, s.part? (pkt p 33 1) = some x ∧ (q.priv < 2 → x.tenant = q.tenant))
    (fun n q p s t => okFor n q t ∧ ∀ x, s.part? (pkt p 33 1) = some x →
      t.part? (pkt p 33 1) = some { x with root1 := some (pkt p 40 8) }) := by
  refine commandDoes (fun _ _ => rfl) (fun _ _ => rfl) fun s0 s n q p _ _ hw hm _ hpre => ?_
  obtain ⟨hlow, hhigh, x, hx, htenant⟩ := hpre
  simp only [hm, hx]
  rw [if_neg (fun h => h.2 (htenant h.1)), if_neg (by omega)]
  refine ⟨okFor_after hw ?_ _ _, ?_⟩
  · rfl
  rintro _ ⟨⟩
  simp [Answer.after, State.packetReady, State.part?]

theorem setRoot_tenant : CommandDoes .setRoot 0x07 1 (fun p => pkt p 32 1 = 2) [(32, 2), (40, 8)]
    (fun q p _ => 2 ≤ q.priv ∧ pkt p 33 1 ≤ 15 ∧ pkt p 40 8 % 2 ^ 10 = 0 ∧ pkt p 40 8 < 2 ^ 48)
    (fun n q p s t => okFor n q t ∧ t.tenant (pkt p 33 1) = { s.tenant (pkt p 33 1) with root2 := some (pkt p 40 8) }) := by
  refine commandDoes (fun _ _ => rfl) (fun _ _ => rfl) fun s0 s n q p _ _ hw hm _ hpre => ?_
  obtain ⟨hpriv, hwho, hlow, hhigh⟩ := hpre
  simp only [hm]
  rw [if_neg (by omega), if_neg (by omega), if_neg (by omega)]
  refine ⟨okFor_after hw ?_ _ _, ?_⟩
  · rfl
  simp [Answer.after, State.packetReady, State.tenant, State.modTenant, Table.getD]

theorem setGrant_tenant : CommandDoes .setGrant 0x09 2 (fun _ => True) [(32, 1), (36, 4)] (fun _ p _ => pkt p 32 1 ≤ 15)
    (fun n q p s t => okFor n q t ∧ t.tenant (pkt p 32 1) = { s.tenant (pkt p 32 1) with grant := BitVec.ofNat 3 (pkt p 36 4) }) := by
  refine commandDoes (fun _ _ => rfl) (fun _ _ => rfl) fun s0 s n q p _ _ hw _ _ hpre => ?_
  dsimp only
  rw [if_neg (by omega)]
  refine ⟨okFor_after hw ?_ _ _, ?_⟩
  · rfl
  simp [Answer.after, State.packetReady, State.tenant, State.modTenant, Table.getD]

theorem State.sendSaved_tlb (s : State) (launch block c count) : (s.sendSaved launch block c count).tlb = s.tlb := by
  unfold State.sendSaved
  rw [State.modLaunch_tlb]
  exact List.foldlRecOn (motive := fun t : State => t.tlb = s.tlb) _ _ rfl fun t ht _ _ => ht

theorem State.sendSavedOf_tlb (s : State) (ps) : (s.sendSavedOf ps).tlb = s.tlb := by
  unfold State.sendSavedOf
  refine List.foldlRecOn (motive := fun t : State => t.tlb = s.tlb) _ _ rfl fun t ht e _ => ?_
  split
  · refine List.foldlRecOn (motive := fun t : State => t.tlb = s.tlb) _ _ ht fun t ht v _ => ?_
    refine List.foldlRecOn (motive := fun t : State => t.tlb = s.tlb) _ _ ht fun t ht c _ => ?_
    rw [State.sendSaved_tlb, ht]
  · exact ht

/-- The translations that stay (R327). -/
theorem State.mem_dropTlb (s : State) (tenant ps stage first len) (e : Tlb) :
    e ∈ (s.dropTlb tenant ps stage first len).tlb ↔
      e ∈ s.tlb ∧ ¬ (e.part ∈ ps ∧ (stage = 2 ∨ len = 0 ∨ (first < e.vbase + 2 ^ e.bits ∧ e.vbase < first + len))) := by
  simp only [State.dropTlb, List.mem_filter, Bool.not_eq_true', Bool.and_eq_false_iff, Bool.or_eq_false_iff, beq_eq_false_iff_ne,
    decide_eq_false_iff_not, List.contains_eq_mem]
  tauto

theorem State.mem_partsOf {s : State} {part : Nat} {x : Part} (h : s.part? part = some x) : part ∈ s.partsOf x.tenant :=
  List.mem_map.2 ⟨(part, x), List.mem_filter.2 ⟨Table.mem_of_get? h, by simp⟩, rfl⟩

/-- What an invalidation leaves, once it has started. -/
theorem State.invalidated (s : State) (tenant ps stage first len queue index) (g : Started → Started) :
    let t := ((s.dropTlb tenant ps stage first len).sendSavedOf ps).modStarted queue index g
    t.mem = s.mem ∧ ∀ e, e ∈ t.tlb ↔ e ∈ s.tlb ∧
      ¬ (e.part ∈ ps ∧ (stage = 2 ∨ len = 0 ∨ (first < e.vbase + 2 ^ e.bits ∧ e.vbase < first + len))) := by
  refine ⟨by simp, fun e => ?_⟩
  rw [State.modStarted, State.modQueue_tlb, State.sendSavedOf_tlb]
  exact State.mem_dropTlb _ _ _ _ _ _ e

theorem invalidate_part : CommandDoes .invalidate 0x08 1 (fun p => pkt p 33 1 = 0) [(32, 4), (40, 16)]
    (fun q p s => (pkt p 32 1 = 1 ∨ pkt p 32 1 = 2 ∧ 2 ≤ q.priv) ∧ pkt p 34 1 ≤ 15 ∧ (q.priv < 2 → pkt p 34 1 = q.tenant) ∧
      ∃ y, s.part? (pkt p 35 1) = some y ∧ y.tenant = pkt p 34 1)
    (fun _ _ p s t => t.mem = s.mem ∧ ∀ e, e ∈ t.tlb ↔ e ∈ s.tlb ∧ ¬ (e.part = pkt p 35 1 ∧ (pkt p 32 1 = 2 ∨ pkt p 48 8 = 0 ∨
      (pkt p 40 8 < e.vbase + 2 ^ e.bits ∧ e.vbase < pkt p 40 8 + pkt p 48 8)))) := by
  refine commandDoes (fun _ _ => rfl) (fun _ _ => rfl) fun s0 s n q p _ _ _ hm _ hpre => ?_
  obtain ⟨hstage, htenant, hown, hpart⟩ := hpre
  have hstages : ¬ (pkt p 32 1 ≠ 1 ∧ pkt p 32 1 ≠ 2) := by omega
  have hdenied : ¬ (pkt p 32 1 = 2 ∧ q.priv < 2) := by omega
  have hreach : ¬ (1 < pkt p 33 1) := by omega
  have hwide : ¬ (pkt p 33 1 = 1 ∧ pkt p 35 1 ≠ 0) := by omega
  have hlimit : ¬ (15 < pkt p 34 1) := by omega
  have hother : ¬ (q.priv < 2 ∧ pkt p 34 1 ≠ q.tenant) := by omega
  obtain ⟨y, hy, hyt⟩ := hpart
  have hforeign : ¬ (pkt p 33 1 = 0 ∧ q.priv < 2 ∧ (s.part? (pkt p 35 1)).any (fun x => x.tenant != q.tenant) = true) := by
    rintro ⟨-, hpriv, h⟩
    simp [hy, hyt, hown hpriv] at h
  have hmissing : ¬ (pkt p 33 1 = 0 ∧ (!(s.partsOf (pkt p 34 1)).contains (pkt p 35 1)) = true) := by
    rintro ⟨-, h⟩
    rw [← hyt, List.contains_iff_mem.2 (State.mem_partsOf hy)] at h
    cases h
  dsimp only
  rw [if_neg hstages, if_neg hdenied, if_neg hreach, if_neg hwide, if_neg hlimit, if_neg hother, if_neg hforeign,
    if_neg hmissing, if_pos hm]
  simpa [Answer.after] using State.invalidated s (pkt p 34 1) [pkt p 35 1] (pkt p 32 1) (pkt p 40 8) (pkt p 48 8) n q.head _

theorem invalidate_foreign : CommandDoes .invalidate 0x08 1 (fun p => pkt p 33 1 = 0 ∧ pkt p 32 1 = 1) [(32, 4), (40, 16)]
    (fun q p s => q.priv < 2 ∧ pkt p 34 1 ≤ 15 ∧ pkt p 34 1 = q.tenant ∧ ∃ y, s.part? (pkt p 35 1) = some y ∧ y.tenant ≠ q.tenant)
    (fun n q _ s t => readyWith t n q.head stCapability 35 ∧ t.tlb = s.tlb) := by
  refine commandDoes (fun _ _ => rfl) (fun _ _ => rfl) fun s0 s n q p _ _ hw hm _ hpre => ?_
  obtain ⟨hreach, hstage⟩ := hm
  obtain ⟨hpriv, htenant, hown, y, hy, hyt⟩ := hpre
  dsimp only
  rw [if_neg (by omega), if_neg (by omega), if_neg (by omega), if_neg (by omega), if_neg (by omega), if_neg (by omega),
    if_pos ⟨hreach, hpriv, by simp [hy, hyt]⟩]
  exact ⟨State.readyWith_packetReady hw _ _, State.modQueue_tlb _ _ _⟩

theorem invalidate_tenant : CommandDoes .invalidate 0x08 1 (fun p => pkt p 33 1 = 1) [(32, 4), (40, 16)]
    (fun q p _ => (pkt p 32 1 = 1 ∨ pkt p 32 1 = 2 ∧ 2 ≤ q.priv) ∧ pkt p 34 1 ≤ 15 ∧ (q.priv < 2 → pkt p 34 1 = q.tenant) ∧ pkt p 35 1 = 0)
    (fun _ _ p s t => t.mem = s.mem ∧ ∀ e, e ∈ t.tlb ↔ e ∈ s.tlb ∧ ¬ (e.part ∈ s.partsOf (pkt p 34 1) ∧ (pkt p 32 1 = 2 ∨ pkt p 48 8 = 0 ∨
      (pkt p 40 8 < e.vbase + 2 ^ e.bits ∧ e.vbase < pkt p 40 8 + pkt p 48 8)))) := by
  refine commandDoes (fun _ _ => rfl) (fun _ _ => rfl) fun s0 s n q p _ _ _ hm _ hpre => ?_
  obtain ⟨hstage, htenant, hown, hpart⟩ := hpre
  dsimp only
  rw [if_neg (by omega), if_neg (by omega), if_neg (by omega), if_neg (by omega), if_neg (by omega), if_neg (by omega),
    if_neg (by omega), if_neg (by omega), if_neg (by omega)]
  exact State.invalidated s (pkt p 34 1) (s.partsOf (pkt p 34 1)) (pkt p 32 1) (pkt p 40 8) (pkt p 48 8) n q.head _

/-! ## Keys, retention (R338, R341, R342) -/

theorem keyLive_fresh : CommandDoes .keyLive 0x0A 2 (fun p => pkt p 33 1 = 0) [(32, 2)]
    (fun _ p s => pkt p 32 1 ≤ 63 ∧ s.keys.get? (pkt p 32 1) = none)
    (fun n q p s t => okFor n q t ∧ t.mem = s.mem ∧ ∃ key, t.keys.get? (pkt p 32 1) = some (.live key)) := by
  refine commandDoes (fun _ _ => rfl) (fun p hm => by simp [hm]) fun s0 s n q p _ _ hw hm _ hpre => ?_
  obtain ⟨hslot, hfree⟩ := hpre
  dsimp only
  rw [if_neg (by omega), if_neg (by omega), if_neg (by simp [hfree])]
  refine ⟨okFor_after hw ?_ _ _, ?_⟩
  · rfl
  · simp [Answer.after, State.packetReady]

theorem keyDiscard_zeros : CommandDoes .keyDiscard 0x0A 2 (fun p => pkt p 33 1 = 1) [(32, 2)]
    (fun _ p s => pkt p 32 1 ≤ 63 ∧ s.keyLive (pkt p 32 1) = true)
    (fun n q p s t => okFor n q t ∧ t.keys.get? (pkt p 32 1) = some .discarded ∧
      ∀ a, t.mem.byte a = if s.lineOfKey (pkt p 32 1) (a / 128) = true then 0 else s.mem.byte a) := by
  refine commandDoes (fun _ _ => rfl) (fun p hm => by simp [hm]) fun s0 s n q p _ _ hw hm _ hpre => ?_
  obtain ⟨hslot, hlive⟩ := hpre
  rw [if_neg (by omega), State.discardKey, if_pos hlive]
  refine ⟨okFor_after hw ?_ _ _, ?_, fun a => ?_⟩
  · rfl
  · simp [Answer.after, State.packetReady]
  · rw [Answer.after, State.packetReady_mem]
    have hk := Memory.byte_keep s.mem (fun a => !s.lineOfKey (pkt p 32 1) (a / 128)) a
    refine Eq.trans hk ?_
    generalize s.lineOfKey (pkt p 32 1) (a / 128) = b
    cases b <;> rfl

theorem bits_lt (x lo n : Nat) : bits x lo n < 2 ^ n := Nat.mod_lt _ (by positivity)

/-- The words of a reserve are its number's. -/
theorem reserve_toNat (v : Nat) : (BitVec.ofNat 24 (bits v 40 24)).toNat = bits v 40 24 := by
  rw [BitVec.toNat_ofNat]
  exact Nat.mod_eq_of_lt (bits_lt _ _ _)

/-- A reserve that is enabled stands where it may. -/
theorem retain_base {en base g : Nat} (h : en = 1 → base % 2 ^ 34 = 0 ∧ inCapacity base = true ∧ homeDie base = g / 8) :
    ¬ (en == 1 && (base % 2 ^ 34 != 0 || !inCapacity base || homeDie base != g / 8)) = true := by
  by_cases he : en = 1
  · obtain ⟨hlow, hin, hdie⟩ := h he
    rw [hlow, hin, hdie]
    simp
  · simp [he]

theorem retain_writes : CommandDoes .retain 0x0C 2 (fun _ => True) [(32, 1), (40, 8)]
    (fun _ p s => pkt p 32 1 ≤ 31 ∧ bits (pkt p 40 8) 30 10 ≤ 1000 ∧ (bits (pkt p 40 8) 0 1 = 1 →
      bits (pkt p 40 8) 40 24 * 2 ^ 24 % 2 ^ 34 = 0 ∧ inCapacity (bits (pkt p 40 8) 40 24 * 2 ^ 24) = true ∧
      homeDie (bits (pkt p 40 8) 40 24 * 2 ^ 24) = pkt p 32 1 / 8) ∧
      let r := s.retention.getD (pkt p 32 1) Retention.reset
      (r.state = 0 ∨ r.reserve.toNat = bits (pkt p 40 8) 40 24))
    (fun n q p s t => okFor n q t ∧ ∃ r, t.retention.get? (pkt p 32 1) = some r ∧ r.idle = bits (pkt p 40 8) 30 10 ∧
      r.wake = bits (pkt p 40 8) 10 20 ∧ r.en = (bits (pkt p 40 8) 0 1 == 1) ∧
      r.state = (s.retention.getD (pkt p 32 1) Retention.reset).state ∧ r.reserve.toNat = bits (pkt p 40 8) 40 24) := by
  refine commandDoes (fun _ _ => rfl) (fun _ _ => rfl) fun s0 s n q p _ _ hw _ _ hpre => ?_
  obtain ⟨hgroup, hidle, hbase, hr⟩ := hpre
  dsimp only at hr ⊢
  rw [if_neg (by omega), if_neg (by omega), if_neg (retain_base hbase), if_neg]
  · refine ⟨okFor_after hw ?_ _ _, ?_⟩
    · rfl
    · rw [Answer.after, State.packetReady, State.modQueue_retention, Table.get?_put_self]
      exact ⟨_, rfl, rfl, rfl, rfl, rfl, reserve_toNat _⟩
  · rintro ⟨hstate, hne⟩
    exact hne (BitVec.eq_of_toNat_eq ((reserve_toNat _).trans (hr.resolve_left hstate).symm))

theorem retain_ignored : CommandDoes .retain 0x0C 2 (fun _ => True) [(32, 1), (40, 8)]
    (fun _ p s => pkt p 32 1 ≤ 31 ∧ bits (pkt p 40 8) 30 10 ≤ 1000 ∧ (bits (pkt p 40 8) 0 1 = 1 →
      bits (pkt p 40 8) 40 24 * 2 ^ 24 % 2 ^ 34 = 0 ∧ inCapacity (bits (pkt p 40 8) 40 24 * 2 ^ 24) = true ∧
      homeDie (bits (pkt p 40 8) 40 24 * 2 ^ 24) = pkt p 32 1 / 8) ∧
      let r := s.retention.getD (pkt p 32 1) Retention.reset
      r.state ≠ 0 ∧ r.reserve.toNat ≠ bits (pkt p 40 8) 40 24)
    (fun n q _ s t => okFor n q t ∧ t.retention = s.retention) := by
  refine commandDoes (fun _ _ => rfl) (fun _ _ => rfl) fun s0 s n q p _ _ hw _ _ hpre => ?_
  obtain ⟨hgroup, hidle, hbase, hstate, hreserve⟩ := hpre
  dsimp only at hstate hreserve ⊢
  rw [if_neg (by omega), if_neg (by omega), if_neg (retain_base hbase), if_pos ⟨hstate, fun he => hreserve (by rw [← he, reserve_toNat])⟩]
  exact ⟨okFor_after hw rfl _ _, State.modQueue_retention _ _ _⟩

/-! ## Frames (R296, R339) -/

theorem State.writeFrame_queues (s : State) (f x) : (s.writeFrame f x).queues = s.queues := by
  unfold State.writeFrame
  dsimp only
  split <;> rfl

theorem State.writeFrame_frames (s : State) (f x) : (s.writeFrame f x).frames = s.frames.put f x := by
  unfold State.writeFrame
  dsimp only
  split <;> rfl

/-- A frame that is made cleared reads zeros, and the others keep their bytes. -/
theorem State.writeFrame_byte (s : State) (f : Nat) {x : Frame} (hx : x.cleared = true) (a : Nat) :
    (s.writeFrame f x).mem.byte a = if frameOf a = f then 0 else s.mem.byte a := by
  unfold State.writeFrame
  dsimp only
  rw [if_neg (by simp [hx])]
  refine (Memory.byte_keep s.mem (fun a => frameOf a != f) a).trans ?_
  by_cases h : frameOf a = f <;> simp [h]

/-- The state in which a range of frames has been written. -/
def State.writeFrames (s : State) (first n : Nat) (x : Frame) : State := (List.range n).foldl (fun s i => s.writeFrame (first + i) x) s

theorem State.writeFrames_succ (s : State) (first n : Nat) (x : Frame) :
    s.writeFrames first (n + 1) x = (s.writeFrames first n x).writeFrame (first + n) x := by
  simp [State.writeFrames, List.range_succ]

theorem State.writeFrames_queues (s : State) (first n x) : (s.writeFrames first n x).queues = s.queues := by
  induction n with
  | zero => rfl
  | succ n ih => rw [State.writeFrames_succ, State.writeFrame_queues, ih]

theorem State.writeFrames_get? (s : State) (first n x) {i : Nat} (h : i < n) :
    (s.writeFrames first n x).frames.get? (first + i) = some x := by
  induction n with
  | zero => omega
  | succ n ih =>
    rw [State.writeFrames_succ, State.writeFrame_frames, Table.get?_put]
    split
    · rfl
    · exact ih (by omega)

theorem State.writeFrames_byte (s : State) (first n : Nat) {x : Frame} (hx : x.cleared = true) {a : Nat} (hlo : first ≤ frameOf a)
    (hhi : frameOf a < first + n) : (s.writeFrames first n x).mem.byte a = 0 := by
  induction n with
  | zero => omega
  | succ n ih =>
    rw [State.writeFrames_succ, State.writeFrame_byte _ _ hx]
    split
    · rfl
    · exact ih (by omega)

theorem frame_writes : CommandDoes .frame 0x0B 2 (fun _ => True) [(32, 18)]
    (fun _ p _ => pkt p 32 8 % 32768 = 0 ∧ isFrame (pkt p 32 8 / 32768) = true ∧ pkt p 40 8 ≠ 0 ∧
      isFrame (pkt p 32 8 / 32768 + pkt p 40 8 - 1) = true ∧ inHbm (pkt p 32 8) = inHbm (pkt p 32 8 + 32768 * (pkt p 40 8 - 1)) ∧
      pkt p 48 1 ≤ 63 ∧ pkt p 49 1 ≤ 1)
    (fun n q p _ t => okFor n q t ∧ (∀ i < pkt p 40 8, t.frames.get? (pkt p 32 8 / 32768 + i) =
      some { cleared := pkt p 49 1 == 1, key := pkt p 48 1 }) ∧
      (pkt p 49 1 = 1 → ∀ a, pkt p 32 8 ≤ a → a < pkt p 32 8 + 32768 * pkt p 40 8 → t.mem.byte a = 0)) := by
  refine commandDoes (fun _ _ => rfl) (fun _ _ => rfl) fun s0 s n q p _ _ hw _ _ hpre => ?_
  obtain ⟨halign, hfirst, hlen, hlast, htier, hkey, hclear⟩ := hpre
  dsimp only
  rw [if_neg (by simp [halign, hfirst]), if_neg (by simp [hlen, hlast, ← htier]), if_neg (by omega), if_neg (by omega)]
  refine ⟨okFor_after hw (State.writeFrames_queues (s.dropLines _) _ _ _) _ _, fun i hi => ?_, fun hone a hlo hhi => ?_⟩
  · rw [Answer.after, State.packetReady, State.modQueue_frames]
    exact State.writeFrames_get? _ _ _ _ hi
  · rw [Answer.after, State.packetReady_mem]
    refine State.writeFrames_byte _ _ _ (by simp [hone]) ?_ ?_ <;> unfold frameOf <;> omega

/-! ## Partitions (R20, R395) -/

/-- The state in which a partition holds clusters. -/
def State.giveClusters (s : State) (part : Nat) (ns : List Nat) : State :=
  ns.foldl (fun s n => s.modCluster n fun c => { c with holder := some part, holders := [] }) s

theorem State.giveClusters_cons (s : State) (part n : Nat) (ns : List Nat) : s.giveClusters part (n :: ns) =
    (s.modCluster n fun c => { c with holder := some part, holders := [] }).giveClusters part ns := rfl

theorem State.giveClusters_queues (s : State) (part ns) : (s.giveClusters part ns).queues = s.queues :=
  List.foldlRecOn (motive := fun t : State => t.queues = s.queues) _ _ rfl fun _ h _ _ => h

theorem State.giveClusters_parts (s : State) (part ns) : (s.giveClusters part ns).parts = s.parts :=
  List.foldlRecOn (motive := fun t : State => t.parts = s.parts) _ _ rfl fun _ h _ _ => h

theorem State.modCluster_holder (s : State) (part m n : Nat) :
    ((s.modCluster m fun c => { c with holder := some part, holders := [] }).cluster n).holder =
      if n = m then some part else (s.cluster n).holder := by
  unfold State.cluster State.modCluster Table.getD
  rw [Table.get?_put]
  split <;> rfl

theorem State.giveClusters_holder (s : State) (part : Nat) (ns : List Nat) (n : Nat) :
    ((s.giveClusters part ns).cluster n).holder = if n ∈ ns then some part else (s.cluster n).holder := by
  induction ns generalizing s with
  | nil => rfl
  | cons m ns ih =>
    rw [State.giveClusters_cons, ih, State.modCluster_holder]
    by_cases h : n = m <;> simp [h]

/-- The state in which a partition has been made. -/
def State.allocate (s : State) (part : Nat) (x : Part) (ns : List Nat) : State :=
  { s with parts := s.parts.put part x }.giveClusters part ns

theorem State.allocate_queues (s : State) (part x ns) : (s.allocate part x ns).queues = s.queues := State.giveClusters_queues _ _ _

theorem State.allocate_part? (s : State) (part x ns) : (s.allocate part x ns).part? part = some x := by
  rw [State.allocate, State.part?, State.giveClusters_parts, Table.get?_put_self]

theorem State.allocate_holder (s : State) (part x) {ns} {n : Nat} (h : n ∈ ns) : ((s.allocate part x ns).cluster n).holder = some part := by
  rw [State.allocate, State.giveClusters_holder, if_pos h]

/-- A packet's mask of clusters, bit by bit. -/
theorem mem_maskClusters (p : BitVec 512) (n : Nat) :
    n ∈ (List.range 32).filter (BitVec.ofNat 32 (pkt p 36 4)).getLsbD ↔ n < 32 ∧ (pkt p 36 4).testBit n = true := by
  simp only [List.mem_filter, List.mem_range, BitVec.getLsbD_ofNat, Bool.and_eq_true, decide_eq_true_eq]
  tauto

theorem mask_ne_zero {p : BitVec 512} (h : pkt p 36 4 ≠ 0) : BitVec.ofNat 32 (pkt p 36 4) ≠ 0 := fun h0 => h (by
  have hlt : pkt p 36 4 < 2 ^ 32 := BitVec.isLt _
  have := congrArg BitVec.toNat h0
  rwa [BitVec.toNat_ofNat, Nat.mod_eq_of_lt hlt] at this)

theorem partition_allocates : CommandDoes .partition 0x0D 2 (fun p => pkt p 36 4 ≠ 0) [(32, 2), (36, 4)]
    (fun _ p s => pkt p 32 1 ≤ 15 ∧ pkt p 33 1 ≤ 15 ∧ s.part? (pkt p 32 1) = none ∧
      (∀ e ∈ s.parts, e.2.clusters &&& BitVec.ofNat 32 (pkt p 36 4) = 0) ∧
      ∀ n < 32, (pkt p 36 4).testBit n = true → (s.cluster n).shared = false)
    (fun n q p _ t => okFor n q t ∧ t.part? (pkt p 32 1) =
        some { tenant := pkt p 33 1, clusters := BitVec.ofNat 32 (pkt p 36 4), root1 := none, power := 1, resetting := false } ∧
      ∀ n < 32, (pkt p 36 4).testBit n = true → (t.cluster n).holder = some (pkt p 32 1)) := by
  refine commandDoes (fun _ _ => rfl) (fun _ _ => rfl) fun s0 s n q p _ _ hw hm _ hpre => ?_
  obtain ⟨hpart, htenant, hfree, hdisjoint, hshared⟩ := hpre
  have htaken : ¬ ((s.parts.any fun e => (e.2.clusters &&& BitVec.ofNat 32 (pkt p 36 4)) != 0) ||
      ((List.range 32).filter (BitVec.ofNat 32 (pkt p 36 4)).getLsbD).any fun n => (s.cluster n).shared) = true := by
    rw [Bool.or_eq_true, List.any_eq_true, List.any_eq_true]
    rintro (⟨e, he, hne⟩ | ⟨k, hk, hset⟩)
    · exact bne_iff_ne.1 hne (hdisjoint e he)
    · obtain ⟨hlt, hbit⟩ := (mem_maskClusters p k).1 hk
      rw [hshared k hlt hbit] at hset
      cases hset
  dsimp only
  rw [if_neg (by omega), if_neg (by omega), if_pos (bne_iff_ne.2 (mask_ne_zero hm)), if_neg (by simp [hfree]), if_neg htaken]
  refine ⟨okFor_after hw (State.allocate_queues s _ _ _) _ _, ?_, fun k hk hset => ?_⟩
  · rw [Answer.after, State.packetReady, State.part?, State.modQueue_parts]
    exact State.allocate_part? s _ _ _
  · rw [Answer.after, State.packetReady, State.cluster, State.modQueue_clusters]
    exact State.allocate_holder s _ _ ((mem_maskClusters p k).2 ⟨hk, hset⟩)

/-! ## What the end of launches and queues leaves alone -/

section
variable {α : Type} (f : Queue → α)

theorem State.discardKey_seen (s : State) (slot) : (s.discardKey slot).seen f = s.seen f := by
  unfold State.discardKey
  exact seen_ite rfl rfl

theorem State.freeRecord_seen (s : State) (die m) : (s.freeRecord die m).seen f = s.seen f := rfl

theorem State.modLaunch_seen (s : State) (l : Nat) {g : Launch → Launch} (hg : ∀ l, (g l).part = l.part) :
    (s.modLaunch l g).seen f = s.seen f := by
  unfold State.modLaunch
  split
  case h_1 x e =>
    have hl id : ((s.launches.put l (g x)).get? id).map (·.part) = (s.launches.get? id).map (·.part) := by
      rw [Table.get?_put]
      split
      · next h => rw [h, e, Option.map_some, Option.map_some, hg]
      · rfl
    unfold State.seen
    simp only [hl]
  · rfl

theorem State.withdraw_seen (s : State) (launch) : (s.withdraw launch).seen f = s.seen f := by
  unfold State.withdraw
  dsimp only
  refine (State.modLaunch_seen f _ _ ?_).trans ?_
  · exact fun _ => rfl
  exact foldl_seen (fun s r => foldl_seen (fun s m => seen_ite (State.freeRecord_seen f s _ _) rfl) _ _) _ _

theorem State.releaseFaults_seen (s : State) (launch) : (s.releaseFaults launch).seen f = s.seen f := by
  unfold State.releaseFaults
  refine foldl_seen (fun s e => foldl_seen (fun s u => ?_) _ _) _ _
  dsimp only
  split
  · exact State.deliver_seen f _ _ _ _
  · rfl

theorem State.releaseBlock_seen (s : State) (key) : (s.releaseBlock key).seen f = s.seen f := rfl

theorem State.releaseChutes_seen (s : State) (launch) : (s.releaseChutes launch).seen f = s.seen f := by
  unfold State.releaseChutes
  exact foldl_seen (fun s e => State.releaseBlock_seen f s _) _ _

theorem State.setLine_seen (s : State) (n x) : (s.setLine n x).seen f = s.seen f := rfl

theorem State.zeroRing_seen (s : State) (ring) : (s.zeroRing ring).seen f = s.seen f := by
  unfold State.zeroRing
  exact State.wakeLines_seen f _ _

theorem State.readTail_seen {s t : State} {q n} (e : s.readTail q = some (n, t)) : t.seen f = s.seen f := by
  unfold State.readTail at e
  split at e <;> cases e
  exact State.vread_seen f ‹_›

end

/-- Launches that are seen alike are seen alike once one of them is gone. -/
theorem seen_del {α : Type} {f : Queue → α} {s t : State} (h : t.seen f = s.seen f) (launch : Nat) :
    State.seen f { t with launches := t.launches.del launch } = State.seen f { s with launches := s.launches.del launch } := by
  have hd id : ((t.launches.del launch).get? id).map (·.part) = ((s.launches.del launch).get? id).map (·.part) := by
    rw [Table.get?_del, Table.get?_del]
    split
    · rfl
    · exact seen_launch h id
  have hq : (fun id => (t.queues.get? id).map f) = fun id => (s.queues.get? id).map f := funext (seen_queue h)
  unfold State.seen
  simp only [hd, seen_parts h, seen_tlb h, hq]

section
variable {α : Type} {f : Queue → α} (hf : ∀ a b : Queue, a.essence = b.essence → f a = f b)
include hf

theorem State.voidRefs_seen (s : State) (qid) : (s.voidRefs qid).seen f = s.seen f := by
  unfold State.voidRefs
  split
  · rfl
  · next q e =>
    dsimp only
    split <;> exact State.seen_putQueue (s := s) (q' := { q with life := q.life + 1 }) e (hf _ _ rfl)

theorem State.packetReady_seen (s : State) (qid index status detail) : (s.packetReady qid index status detail).seen f = s.seen f :=
  State.modQueue_seen s qid fun _ => hf _ _ rfl

theorem State.completePacket_seen (s : State) (qid p status detail launch signal) :
    (s.completePacket qid p status detail launch signal).seen f = s.seen f := by
  unfold State.completePacket
  split
  · rfl
  · next q e =>
    refine (State.cpWrite_seen (fun a b h _ => hf a b h) _ _ _).trans (State.seen_putQueue e (hf _ _ ?_))
    split <;> rfl

theorem State.completeStarted_seen (s : State) (qid index) : (s.completeStarted qid index).seen f = s.seen f := by
  unfold State.completeStarted
  split
  · rfl
  · split
    · rfl
    · exact seen_ite ((State.completePacket_seen hf _ _ _ _ _ _ _).trans (State.modQueue_seen s qid fun _ => hf _ _ rfl))
        ((State.completePacket_seen hf _ _ _ _ _ _ _).trans (State.modQueue_seen s qid fun _ => hf _ _ rfl))

/-- A launch that ends leaves the other launches, and what is seen of the queues. -/
theorem State.finishLaunch_seen (s : State) (launch status) :
    (s.finishLaunch launch status).seen f = State.seen f { s with launches := s.launches.del launch } := by
  unfold State.finishLaunch
  split
  · next e =>
    have hd id : (s.launches.del launch).get? id = s.launches.get? id := by
      rw [Table.get?_del]
      split
      · next h => rw [h, e]
      · rfl
    unfold State.seen
    simp only [hd]
  · exact (State.packetReady_seen hf _ _ _ _ _).trans (seen_del (State.releaseChutes_seen f s launch) launch)

theorem State.discardLaunch_seen (s : State) (launch) :
    (s.discardLaunch launch).seen f = State.seen f { s with launches := s.launches.del launch } := by
  unfold State.discardLaunch
  refine (State.finishLaunch_seen hf _ _ _).trans (seen_del ?_ _)
  refine (foldl_seen (fun s k => State.releaseBlock_seen f s k) _ _).trans ?_
  exact (State.releaseFaults_seen f _ _).trans (State.withdraw_seen f _ _)

end

theorem Table.get?_dels {β : Type} (ids : List Nat) (t : Table β) (id : Nat) :
    (ids.foldl Table.del t).get? id = if id ∈ ids then none else t.get? id := by
  induction ids generalizing t with
  | nil => rfl
  | cons a ids ih =>
    rw [List.foldl_cons, ih, Table.get?_del]
    by_cases h : id = a <;> simp [h]

/-- The keys of the entries of a table that name a number. -/
def Table.keysOf {β : Type} (t : Table β) (g : β → Nat) (n : Nat) : List Nat := (t.filter fun e => g e.2 == n).map (·.1)

theorem Table.mem_keysOf {β : Type} {t : Table β} {g : β → Nat} {n id : Nat} (h : (t.get? id).map g = some n) : id ∈ t.keysOf g n := by
  obtain ⟨x, hx, hn⟩ := Option.map_eq_some_iff.1 h
  exact List.mem_map.2 ⟨(id, x), List.mem_filter.2 ⟨Table.mem_of_get? hx, beq_iff_eq.2 hn⟩, rfl⟩

/-! ## The end of a partition's launches -/

section
variable {α : Type} {f : Queue → α} (hf : ∀ a b : Queue, a.essence = b.essence → f a = f b)
include hf

theorem State.discardPart_seen (s : State) (p) :
    (s.discardPart p).seen f = State.seen f { s with launches := (s.launches.keysOf (·.part) p).foldl Table.del s.launches } := by
  have hd (ids : List Nat) (s : State) :
      (ids.foldl (fun s l => s.discardLaunch l) s).seen f = State.seen f { s with launches := ids.foldl Table.del s.launches } := by
    induction ids using List.reverseRecOn with
    | nil => rfl
    | append_singleton ids a ih =>
      simp only [List.foldl_append, List.foldl_cons, List.foldl_nil]
      exact (State.discardLaunch_seen hf _ _).trans (seen_del ih a)
  exact hd _ s

theorem State.discardPart_launches {s : State} {p id : Nat} {l : Launch} (h : (s.discardPart p).launches.get? id = some l) :
    l.part ≠ p := by
  intro hp
  have hs := seen_launch (State.discardPart_seen hf s p) id
  rw [h, Table.get?_dels, Option.map_some, hp] at hs
  split at hs
  · cases hs
  · next hn => exact hn (Table.mem_keysOf hs.symm)

end

/-! ## Queues that are mapped to slots keep their partitions -/

theorem Queue.part_of_essence {a b : Queue} (h : a.essence = b.essence) : a.part = b.part := congrArg (·.1) h

theorem State.begin_part (s : State) (qid p) : (s.begin qid p).seen Queue.part = s.seen Queue.part := by
  unfold State.begin
  split
  · rfl
  · next q e => exact (State.cpWrite_seen (fun _ _ h _ => Queue.part_of_essence h) _ _ _).trans (State.seen_putQueue e rfl)

theorem State.rejectBad_part (s : State) (qid) : (s.rejectBad qid).seen Queue.part = s.seen Queue.part := by
  unfold State.rejectBad State.runPacket
  dsimp only
  split
  · rfl
  split
  · rfl
  refine seen_ite rfl ?_
  split
  · exact (State.packetReady_seen (fun _ _ => Queue.part_of_essence) _ _ _ _ _).trans (State.begin_part s _ _)
  · next h => (repeat' split at h) <;> cases h
  · next h => (repeat' split at h) <;> cases h
  · rfl

theorem State.readPacket_part (s : State) (qid q) : (s.readPacket qid q).seen Queue.part = s.seen Queue.part := by
  unfold State.readPacket
  refine seen_ite rfl ?_
  split
  · exact State.modQueue_seen s qid fun _ => rfl
  split
  · rfl
  · refine (State.modQueue_seen _ qid fun q => ?_).trans (State.vread_seen _ ‹_›)
    split <;> rfl

theorem State.tailRead_part (s : State) (qid) : (s.tailRead qid).seen Queue.part = s.seen Queue.part := by
  have hflush : (s.flushWrites qid).seen Queue.part = s.seen Queue.part :=
    State.flushWrites_seen (fun _ _ h _ => Queue.part_of_essence h) s qid
  unfold State.tailRead
  dsimp only
  split
  · exact hflush
  refine (seen_ite (u := s.flushWrites qid) rfl ?_).trans hflush
  split
  · rfl
  next t s' hread =>
  have hs := State.readTail_seen Queue.part hread
  refine seen_ite ?_ (seen_ite (State.rejectBad_part _ _) ?_)
  · refine (State.completePacket_seen (fun _ _ => Queue.part_of_essence) _ _ _ _ _ _ _).trans ?_
    refine Eq.trans (State.modQueue_seen s' qid ?_) hs
    exact fun _ => rfl
  · refine (State.rejectBad_part _ _).trans ((State.readPacket_part _ _ _).trans ?_)
    refine Eq.trans (State.modQueue_seen s' qid ?_) hs
    exact fun _ => rfl

theorem State.refer_part (s : State) (qid) : (s.refer qid).seen Queue.part = s.seen Queue.part := by
  unfold State.refer
  split
  · rfl
  next q e =>
  split
  · rfl
  next slot _ => exact State.seen_putQueue (s := s) (q' := { q with gen := s.slotGens.getD slot 0 }) e rfl

theorem State.mapQueue_part (s : State) (qid slot) : (s.mapQueue qid slot).seen Queue.part = s.seen Queue.part := by
  unfold State.mapQueue
  split
  · rfl
  next q e => exact (State.tailRead_part _ _).trans ((State.refer_part _ _).trans (State.seen_putQueue e rfl))

theorem State.unmapQueue_part (s : State) (qid) : (s.unmapQueue qid).seen Queue.part = s.seen Queue.part := by
  unfold State.unmapQueue
  split
  · rfl
  next q e => exact State.seen_putQueue (s := s) (q' := { q with slot := none, unmappedAt := s.ck, giveUp := false }) e rfl

theorem State.mapDie_part (s : State) (die n) : (s.mapDie die n).seen Queue.part = s.seen Queue.part := by
  induction n generalizing s with
  | zero => rfl
  | succ n ih =>
    unfold State.mapDie
    split
    · rfl
    split
    · exact (ih _).trans (State.mapQueue_part _ _ _)
    refine seen_ite rfl ?_
    split
    · refine seen_ite (State.modQueue_seen s _ fun _ => rfl) ?_
      split
      · exact (ih _).trans ((State.mapQueue_part _ _ _).trans (State.unmapQueue_part _ _))
      · rfl
    · rfl

theorem State.mapQueues_part (s : State) : s.mapQueues.seen Queue.part = s.seen Queue.part :=
  foldl_seen (fun s d => State.mapDie_part s d 64) _ _

/-- The state in which queues are no more: their references are void, and their slots are free. -/
def State.dropQueues (s : State) (ids : List Nat) : State :=
  ids.foldl (fun s q =>
    let s := (s.voidRefs q).unmapQueue q
    { s with queues := s.queues.del q }) s

theorem State.dropQueues_part (s : State) (ids : List Nat) (id : Nat) :
    ((s.dropQueues ids).queues.get? id).map (·.part) = if id ∈ ids then none else (s.queues.get? id).map (·.part) := by
  induction ids generalizing s with
  | nil => rfl
  | cons a ids ih =>
    refine (ih _).trans ?_
    have hv := seen_queue ((State.unmapQueue_part (s.voidRefs a) a).trans (State.voidRefs_seen (fun _ _ => Queue.part_of_essence) s a)) id
    dsimp only at hv ⊢
    rw [Table.get?_del]
    by_cases h : id = a
    · simp [h]
    · rw [if_neg h, hv]
      simp [h]

/-- What of a state is seen once its complexes have mapped their queues, and a packet is ready. -/
theorem State.ready_mapQueues_part (s : State) (queue index status detail) :
    (s.mapQueues.packetReady queue index status detail).seen Queue.part = s.seen Queue.part :=
  (State.packetReady_seen (fun _ _ => Queue.part_of_essence) _ _ _ _ _).trans (State.mapQueues_part s)

/-- No queue of a partition is left where its queues have been dropped. -/
theorem State.dropQueues_gone (s : State) {t u : State} {part : Nat} (hu : u.queues = (s.dropQueues (s.queues.keysOf (·.part) part)).queues)
    (ht : t.seen Queue.part = u.seen Queue.part) {id : Nat} {y : Queue} (hy : t.queues.get? id = some y) : y.part ≠ part := by
  intro hp
  have h := seen_queue ht id
  rw [hy, hu, Option.map_some, hp] at h
  have hk := h.trans (State.dropQueues_part s _ id)
  split at hk
  · cases hk
  · next hn => exact hn (Table.mem_keysOf hk.symm)

theorem partition_frees : CommandDoes .partition 0x0D 2 (fun p => pkt p 36 4 = 0) [(32, 2), (36, 4)]
    (fun _ p s => pkt p 32 1 ≤ 15 ∧ pkt p 33 1 ≤ 15 ∧ ∃ x, s.part? (pkt p 32 1) = some x ∧ x.resetting = false)
    (fun _ _ p _ t => t.part? (pkt p 32 1) = none ∧ (∀ e ∈ t.tlb, e.part ≠ pkt p 32 1) ∧
      ∀ id y, t.queues.get? id = some y → y.part ≠ pkt p 32 1) := by
  refine commandDoes (fun _ _ => rfl) (fun _ _ => rfl) fun s0 s n q p _ _ hw hm _ hpre => ?_
  obtain ⟨hpart, htenant, x, hx, hidle⟩ := hpre
  dsimp only
  rw [if_neg (by omega), if_neg (by omega), if_neg (by simp [hm]), hx]
  dsimp only
  rw [if_neg (by simp [hidle]), Answer.after]
  generalize (s.keysOfPart (pkt p 32 1)).foldl (fun s k => s.discardKey k) (s.discardPart (pkt p 32 1)) = v
  refine ⟨?_, fun e he => ?_, fun id y hy => ?_⟩
  · rw [State.part?, seen_parts (State.ready_mapQueues_part _ _ _ _ _)]
    exact (Table.get?_del _ _ _).trans (if_pos rfl)
  · rw [seen_tlb (State.ready_mapQueues_part _ _ _ _ _)] at he
    exact bne_iff_ne.1 (List.mem_filter.1 he).2
  · refine State.dropQueues_gone v ?_ (State.ready_mapQueues_part _ _ _ _ _) hy
    rfl

/-! ## RESET.PART (R397, R437) -/

/-- A partition that RESET.PART has halted: its queues are stopped, and its launches are gone. -/
structure State.Halted (s : State) (part : Nat) : Prop where
  queues : ∀ id y, s.queues.get? id = some y → y.part = part → y.stopped = true ∧ y.current = none
  launches : ∀ id l, s.launches.get? id = some l → l.part ≠ part

theorem State.Halted.congr {part : Nat} {s t : State} (h : s.Halted part) (e : t.seen Queue.essence = s.seen Queue.essence) :
    t.Halted part := by
  refine ⟨fun id y hy hp => ?_, fun id l hl hp => ?_⟩
  · obtain ⟨z, hz, he⟩ := Option.map_eq_some_iff.1 ((seen_queue e id).symm.trans (congrArg (Option.map Queue.essence) hy))
    obtain ⟨hpart, hstop, hcur⟩ : z.part = y.part ∧ z.stopped = y.stopped ∧ z.current = y.current := by
      simpa [Queue.essence] using he
    rw [← hstop, ← hcur]
    exact h.queues id z hz (hpart.trans hp)
  · obtain ⟨m, hm, he⟩ := Option.map_eq_some_iff.1 ((seen_launch e id).symm.trans (congrArg (Option.map (·.part)) hl))
    exact h.launches id m hm (he.trans hp)

/-- What RESET.PART makes of a queue. -/
def Queue.halt (part : Nat) (q : Queue) : Queue :=
  if q.part = part then { q with stopped := true, current := none, ahead := [], unlanded := none } else q

theorem Queue.essence_halt {part : Nat} {y q : Queue} (h : y.essence = (q.halt part).essence) (hp : y.part = part) :
    y.stopped = true ∧ y.current = none := by
  obtain ⟨hpart, hstop, hcur⟩ : y.part = (q.halt part).part ∧ y.stopped = (q.halt part).stopped ∧ y.current = (q.halt part).current := by
    simpa [Queue.essence] using h
  rw [hstop, hcur]
  unfold Queue.halt at hpart ⊢
  split at hpart
  · next hq => simp [hq]
  · next hq => exact absurd (hpart.symm.trans hp) hq

/-- The state in which a partition's queues and launches have been ended. -/
def State.haltPart (s : State) (part : Nat) : State :=
  { s with queues := s.queues.map fun (e : Nat × Queue) => (e.1, e.2.halt part) }.discardPart part

theorem State.haltPart_halted (s : State) (part : Nat) : (s.haltPart part).Halted part := by
  refine ⟨fun id y hy hp => ?_, fun id l hl => State.discardPart_launches (fun _ _ h => h) hl⟩
  have hs := seen_queue (State.discardPart_seen (fun _ _ h => h)
    { s with queues := s.queues.map fun (e : Nat × Queue) => (e.1, e.2.halt part) } part) id
  have hg := hs.trans (congrArg (Option.map Queue.essence) (Table.get?_map (Queue.halt part) s.queues id))
  obtain ⟨z, hz, he⟩ := Option.map_eq_some_iff.1 (hg.symm.trans (congrArg (Option.map Queue.essence) hy))
  obtain ⟨q, -, rfl⟩ := Option.map_eq_some_iff.1 hz
  exact Queue.essence_halt he.symm hp

theorem State.zeroRing_byte (s : State) (ring a : Nat) (hlo : ringBase ring ≤ a) (hhi : a < ringBase ring + 0x8000) :
    (s.zeroRing ring).mem.byte a = 0 := by
  have hk := Memory.byte_keep s.mem (fun pa => !(decide (ringBase ring ≤ pa) && decide (pa < ringBase ring + 0x8000))) a
  exact hk.trans (by simp [hlo, hhi])

/-- What a packet that resets a partition brings about. -/
def State.wasReset (t : State) (part : Nat) : Prop :=
  (∃ x, t.part? part = some x ∧ x.resetting = true) ∧
    (∀ id y, t.queues.get? id = some y → y.part = part → y.stopped = true ∧ y.current = none) ∧
    (∀ id l, t.launches.get? id = some l → l.part ≠ part) ∧
    ∀ a, ringBase part ≤ a → a < ringBase part + 0x8000 → t.mem.byte a = 0

theorem State.Halted.wasReset {s : State} {part : Nat} (h : s.Halted part) (x : Part) (ps cs bs) :
    State.wasReset { s.zeroRing part with
      parts := (s.zeroRing part).parts.put part { x with resetting := true }, probes := ps, credits := cs, banks := bs } part := by
  obtain ⟨hqueues, hlaunches⟩ := h.congr (State.zeroRing_seen Queue.essence s part)
  refine ⟨⟨{ x with resetting := true }, Table.get?_put_self _ _ _, rfl⟩, hqueues, hlaunches, fun a hlo hhi => ?_⟩
  exact State.zeroRing_byte _ _ _ hlo hhi

/-- RESET.PART resets a partition that there is, unless a completion of its launches waits for a line. -/
theorem resetPart_resets : CommandDoes .resetPart 0x0E 2 (fun _ => True) [(32, 1)] (fun _ p s => (s.part? (pkt p 32 1)).isSome = true)
    (fun n _ p s t => t.wasReset (pkt p 32 1) ∨
      (∃ q', t.queues.get? n = some q' ∧ q'.current = some p) ∧ ∃ e ∈ s.launches, e.2.part = pkt p 32 1) := by
  refine commandDoes (fun _ _ => rfl) (fun _ _ => rfl) fun s0 s n q p hq hcur hw hm _ hpre => ?_
  obtain ⟨x, hx⟩ := Option.isSome_iff_exists.1 hpre
  dsimp only
  rw [hx]
  dsimp only
  split
  case isTrue hwaits =>
    obtain ⟨e, he, -⟩ := List.any_eq_true.1 hwaits
    exact .inr ⟨⟨q, hq, hcur⟩, e, (List.mem_filter.1 he).1, beq_iff_eq.1 (List.mem_filter.1 he).2⟩
  case isFalse =>
    refine .inl (State.Halted.wasReset ?_ _ _ _ _)
    refine (State.haltPart_halted s (pkt p 32 1)).congr ?_
    refine (foldl_seen (fun s n => State.setLine_seen _ s _ _) _ _).trans ?_
    refine (foldl_seen (fun s k => State.discardKey_seen _ s k) _ _).trans ?_
    refine (foldl_seen (fun s k => State.voidRefs_seen (fun _ _ h => h) s k) _ _).trans ?_
    exact foldl_seen (fun s e => State.completeStarted_seen (fun _ _ h => h) s _ _) _ _

theorem CommandDoes.mono {ctor code minPriv mine used pre pre' eff eff'} (h : CommandDoes ctor code minPriv mine used pre eff)
    (hpre : ∀ q p s, pre' q p s → pre q p s) (heff : ∀ n q p s t, pre' q p s → eff n q p s t → eff' n q p s t) :
    CommandDoes ctor code minPriv mine used pre' eff' := by
  obtain ⟨hdoes, hdenied⟩ := h
  refine ⟨fun s n q p ho hp hs hpre' => ?_, hdenied⟩
  obtain ⟨hpriv, hstray, hpre'⟩ := hpre'
  obtain ⟨t, ht, he⟩ := hdoes s n q p ho hp hs ⟨hpriv, hstray, hpre _ _ _ hpre'⟩
  exact ⟨t, ht, heff _ _ _ _ _ hpre' he⟩

theorem resetPart_idle : CommandDoes .resetPart 0x0E 2 (fun _ => True) [(32, 1)]
    (fun _ p s => (s.part? (pkt p 32 1)).isSome = true ∧ ∀ e ∈ s.launches, e.2.part ≠ pkt p 32 1)
    (fun _ _ p _ t => t.wasReset (pkt p 32 1)) := by
  refine resetPart_resets.mono (fun _ _ _ h => h.1) fun n q p s t hpre h => h.resolve_right ?_
  rintro ⟨-, e, he, hp⟩
  exact hpre.2 e he hp

theorem resetPart_waits : CommandDoes .resetPart 0x0E 2 (fun _ => True) [(32, 1)] (fun _ p s => (s.part? (pkt p 32 1)).isSome = true)
    (fun n _ p _ t => t.wasReset (pkt p 32 1) ∨ ∃ q', t.queues.get? n = some q' ∧ q'.current = some p) :=
  resetPart_resets.mono (fun _ _ _ h => h) fun _ _ _ _ _ _ h => h.imp_right And.left

/-! ## CLUSTER_WIPE (R459) -/

/-- A core that a wipe names is wiped, also where nothing is listed of it. -/
theorem Table.getD_wiped (t : Table Core) (mine : Nat → Bool) {core : Nat} (h : mine core = true) :
    Table.getD (t.map fun e => (e.1, if mine e.1 then e.2.wiped else e.2)) core Core.reset = (t.getD core Core.reset).wiped := by
  have hg := Table.get?_mapKey (fun n (c : Core) => if mine n then c.wiped else c) t core
  refine (congrArg (·.getD Core.reset) hg).trans ?_
  rw [h, Table.getD]
  cases t.get? core <;> rfl

theorem clusterWipe_wipes (s : State) (part : Nat) (x : Part) (hx : s.part? part = some x) (hr : x.resetting = true) :
    ∃ t, exec (.clusterWipe part) s = .next t ∧ t.part? part = some { x with resetting := false } ∧ t.mem = s.mem ∧
      ∀ core, (s.cluster (core / 4)).holder = some part → t.core core = (s.core core).wiped := by
  have harm : exec (.clusterWipe part) s = execClusterWipe part s := rfl
  rw [harm, execClusterWipe, hx]
  dsimp only
  rw [if_neg (by simp [hr])]
  refine ⟨_, rfl, Table.get?_put_self _ _ _, rfl, fun core hcore => ?_⟩
  exact Table.getD_wiped s.cores (fun n => (s.cluster (n / 4)).holder == some part) (beq_iff_eq.2 hcore)

theorem clusterWipe_idle (s : State) (part : Nat) (x : Part) (hx : s.part? part = some x) (hr : x.resetting = false) :
    exec (.clusterWipe part) s = .next s := by
  have harm : exec (.clusterWipe part) s = execClusterWipe part s := rfl
  rw [harm, execClusterWipe, hx]
  dsimp only
  rw [if_pos (by simp [hr])]

/-- Settles O26: each command's clause is its own lemma; RESET.PART's two follow from what it does to any partition. -/
theorem systemCommands : Obligations.SystemCommands :=
  ⟨setRoot_part, setRoot_tenant, invalidate_part, invalidate_foreign, invalidate_tenant, setGrant_tenant, keyLive_fresh, keyDiscard_zeros,
    frame_writes, retain_writes, retain_ignored, partition_allocates, partition_frees, ⟨resetPart_idle, resetPart_waits⟩, clusterWipe_wipes,
    clusterWipe_idle⟩

end Sys2Proof.Machine
end

section
/-! PROOFS. The one rounding (R30 to R32): a format's magnitudes in order, what `roundNum` picks among them, and that a number between the same
neighbours is rounded alike. -/

namespace Sys2Proof.Machine

/-! ## Magnitudes of a format -/

/-- What the magnitude bits g stand for: those of a finite value, and on in the same way past the largest. -/
def Fmt.value (f : Fmt) (g : Nat) : ℚ :=
  if g < 2 ^ f.fw then (g : ℚ) * 2 ^ f.qmin else ((g % 2 ^ f.fw + 2 ^ f.fw : Nat) : ℚ) * 2 ^ (f.qmin + (g / 2 ^ f.fw : Nat) - 1)

/-- Multiples r of the unit 2^(qmin + d), in the binades where that is the unit. -/
theorem Fmt.value_eq (f : Fmt) (d r : Nat) (hr : r ≤ 2 ^ (f.fw + 1)) (hd : d = 0 ∨ 2 ^ f.fw ≤ r) :
    f.value (d * 2 ^ f.fw + r) = r * 2 ^ (f.qmin + d) := by
  have hp : 0 < 2 ^ f.fw := Nat.two_pow_pos _
  rw [pow_succ] at hr
  unfold Fmt.value
  rcases Nat.lt_or_ge r (2 ^ f.fw) with hlt | hge
  · obtain rfl : d = 0 := by omega
    simp [hlt]
  · rw [if_neg (by nlinarith)]
    rcases Nat.lt_or_ge r (2 ^ f.fw * 2) with h2 | h2
    · obtain ⟨r', rfl⟩ := Nat.exists_eq_add_of_le hge
      have e : d * 2 ^ f.fw + (2 ^ f.fw + r') = r' + 2 ^ f.fw * (d + 1) := by ring
      rw [e, Nat.add_mul_mod_self_left, Nat.mod_eq_of_lt (by omega), Nat.add_mul_div_left _ _ hp, Nat.div_eq_of_lt (by omega)]
      rw [add_comm r']
      congr 2
      push_cast
      ring
    · obtain rfl : r = 2 ^ f.fw * 2 := by omega
      have e : d * 2 ^ f.fw + 2 ^ f.fw * 2 = 2 ^ f.fw * (d + 2) := by ring
      rw [e, Nat.mul_mod_right, Nat.mul_div_cancel_left _ hp]
      have hz : f.qmin + ((d + 2 : Nat) : Int) - 1 = (f.qmin + d) + 1 := by push_cast; ring
      rw [hz, zpow_add₀ (by norm_num) _ 1]
      push_cast
      ring

/-- Every magnitude is such a multiple. -/
theorem Fmt.exists_unit (f : Fmt) (g : Nat) : ∃ d r, g = d * 2 ^ f.fw + r ∧ r < 2 ^ (f.fw + 1) ∧ (d = 0 ∨ 2 ^ f.fw ≤ r) := by
  have hp : 0 < 2 ^ f.fw := Nat.two_pow_pos _
  have hdiv := Nat.div_add_mod g (2 ^ f.fw)
  have hmod := Nat.mod_lt g hp
  rcases hq : g / 2 ^ f.fw with _ | d
  · exact ⟨0, g, by simp, by rw [hq] at hdiv; rw [pow_succ]; omega, .inl rfl⟩
  · refine ⟨d, g % 2 ^ f.fw + 2 ^ f.fw, ?_, by rw [pow_succ]; omega, .inr (by omega)⟩
    rw [hq] at hdiv
    linarith [mul_add (2 ^ f.fw) d 1, mul_comm d (2 ^ f.fw)]

theorem Fmt.value_lt_succ (f : Fmt) (g : Nat) : f.value g < f.value (g + 1) := by
  obtain ⟨d, r, rfl, hr, hd⟩ := f.exists_unit g
  rw [add_assoc, f.value_eq d r hr.le hd, f.value_eq d (r + 1) hr (hd.imp_right fun h => h.trans r.le_succ)]
  push_cast
  linarith [zpow_pos (by norm_num : (0 : ℚ) < 2) (f.qmin + d)]

theorem Fmt.value_strictMono (f : Fmt) : StrictMono f.value := strictMono_nat_of_lt_succ f.value_lt_succ

@[simp] theorem Fmt.value_zero (f : Fmt) : f.value 0 = 0 := by simp [Fmt.value]

theorem Fmt.value_nonneg (f : Fmt) (g : Nat) : 0 ≤ f.value g := by
  rw [← f.value_zero]; exact f.value_strictMono.monotone (Nat.zero_le g)

/-! ## Rounding to a unit -/

/-- A magnitude A that lies between two neighbours with the given middle goes to the greater one; `odd` says that the lower one is odd. -/
def goesUp (rnd : Nat) (n : Bool) (middle A : ℚ) (odd : Prop) : Prop :=
  match rnd with
  | 0 => middle < A ∨ (middle = A ∧ odd)
  | 1 => False
  | 2 => n = true
  | _ => n = false

/-- r is F, or F + 1 where A lies above lo, the value of F, and goes up. -/
def picks (rnd : Nat) (n : Bool) (A lo hi : ℚ) (F r : Nat) : Prop :=
  (r = F ∧ (A = lo ∨ ¬ goesUp rnd n ((lo + hi) / 2) A (F % 2 = 1))) ∨ (r = F + 1 ∧ A ≠ lo ∧ goesUp rnd n ((lo + hi) / 2) A (F % 2 = 1))

theorem roundShift_picks (rnd : Nat) (n : Bool) (m k : Nat) {A u : ℚ} (hu : 0 < u) (hA : A = (m : ℚ) / 2 ^ k * u) :
    picks rnd n A ((m / 2 ^ k : Nat) * u) (((m / 2 ^ k : Nat) + 1) * u) (m / 2 ^ k) (roundShift rnd n m k) := by
  have hp : (0 : ℚ) < 2 ^ k := by positivity
  have hdiv : (m : ℚ) = 2 ^ k * (m / 2 ^ k : Nat) + (m % 2 ^ k : Nat) := by exact_mod_cast (Nat.div_add_mod m (2 ^ k)).symm
  have hA' : A = (m / 2 ^ k : Nat) * u + (m % 2 ^ k : Nat) / 2 ^ k * u := by rw [hA, hdiv]; field_simp
  unfold roundShift picks
  generalize m / 2 ^ k = F at *
  generalize m % 2 ^ k = r at *
  have hmid : ((F * u + (F + 1) * u) / 2 < A ↔ 2 ^ k < 2 * r) ∧ ((F * u + (F + 1) * u) / 2 = A ↔ 2 * r = 2 ^ k) := by
    have e : A - (F * u + (F + 1) * u) / 2 = (2 * r - 2 ^ k) * (u / (2 * 2 ^ k)) := by rw [hA']; field_simp; ring
    have hpos : 0 < u / (2 * 2 ^ k) := by positivity
    constructor
    · rw [← sub_pos, e, mul_pos_iff_of_pos_right hpos, sub_pos]; exact_mod_cast Iff.rfl
    · rw [eq_comm, ← sub_eq_zero, e, mul_eq_zero_iff_right hpos.ne', sub_eq_zero]; exact_mod_cast Iff.rfl
  have hex : A = F * u ↔ r = 0 := by
    rw [hA', add_eq_left, mul_eq_zero_iff_right hu.ne', div_eq_zero_iff]; simp
  simp only [goesUp, hmid.1, hmid.2, hex]
  match rnd with
  | 0 => split_ifs <;> simp_all
  | 1 => split_ifs <;> simp_all
  | 2 => split_ifs <;> simp_all
  | _ + 3 => split_ifs <;> simp_all

/-- A magnitude as a multiple of 2^q: its whole part F, and the choice between F and F + 1. -/
theorem toScale_picks (rnd : Nat) (n : Bool) (m : Nat) (e q : Int) : ∃ F : Nat,
    (F : ℚ) * 2 ^ q ≤ m * 2 ^ e ∧ (m : ℚ) * 2 ^ e < (F + 1) * 2 ^ q ∧
    ((toScale rnd n m e q).2 = true ↔ (m : ℚ) * 2 ^ e = F * 2 ^ q) ∧
    picks rnd n (m * 2 ^ e) (F * 2 ^ q) ((F + 1) * 2 ^ q) F (toScale rnd n m e q).1 := by
  have hu : (0 : ℚ) < 2 ^ q := by positivity
  unfold toScale
  by_cases hq : q ≤ e
  · have hA : (m : ℚ) * 2 ^ e = ((m * 2 ^ (e - q).toNat : Nat) : ℚ) * 2 ^ q := by
      obtain ⟨k, rfl⟩ := Int.le.dest hq
      rw [zpow_add₀ (by norm_num)]
      simp
      ring
    rw [if_pos hq]
    refine ⟨m * 2 ^ (e - q).toNat, hA.ge, ?_, ?_, .inl ⟨rfl, .inl hA⟩⟩
    · rw [hA]; linarith
    · simp [hA]
  · obtain ⟨k, hk⟩ := Int.le.dest (not_le.1 hq).le
    obtain rfl : q = e + k := hk.symm
    have hA : (m : ℚ) * 2 ^ e = (m : ℚ) / 2 ^ k * 2 ^ (e + k : Int) := by
      rw [zpow_add₀ (by norm_num), zpow_natCast]; field_simp
    rw [if_neg hq]
    simp only [add_sub_cancel_left, Int.toNat_natCast]
    have hdiv : (m : ℚ) = 2 ^ k * (m / 2 ^ k : Nat) + (m % 2 ^ k : Nat) := by exact_mod_cast (Nat.div_add_mod m (2 ^ k)).symm
    have hmod : ((m % 2 ^ k : Nat) : ℚ) < 2 ^ k := by exact_mod_cast Nat.mod_lt m (Nat.two_pow_pos k)
    have hp : (0 : ℚ) < 2 ^ k := by positivity
    refine ⟨m / 2 ^ k, ?_, ?_, ?_, roundShift_picks rnd n m k hu hA⟩
    · rw [hA]; gcongr; rw [le_div_iff₀ hp, mul_comm]; linarith [(m % 2 ^ k : Nat).cast_nonneg (α := ℚ)]
    · rw [hA]; gcongr; rw [div_lt_iff₀ hp]; linarith
    · rw [hA, mul_left_inj' hu.ne', div_eq_iff hp.ne', beq_iff_eq, mul_comm _ ((2 : ℚ) ^ k)]
      constructor
      · intro h; rw [h] at hdiv; simpa using hdiv
      · intro h; rw [← h] at hdiv; exact_mod_cast (left_eq_add.1 hdiv)

/-! ## Rounding to a format -/

theorem bitLen_bounds {m : Nat} (h : m ≠ 0) : 1 ≤ bitLen m ∧ 2 ^ (bitLen m - 1) ≤ m ∧ m < 2 ^ bitLen m := by
  unfold bitLen
  rw [if_neg h]
  exact ⟨by omega, by simpa using Nat.log2_self_le h, Nat.lt_log2_self⟩

theorem bitLen_eq {m k : Nat} (hk : 1 ≤ k) (hl : 2 ^ (k - 1) ≤ m) (hu : m < 2 ^ k) : bitLen m = k := by
  have hm : m ≠ 0 := by have := Nat.two_pow_pos (k - 1); omega
  obtain ⟨h1, h2, h3⟩ := bitLen_bounds hm
  have ha := (Nat.pow_lt_pow_iff_right (by norm_num)).1 (h2.trans_lt hu)
  have hb := (Nat.pow_lt_pow_iff_right (by norm_num)).1 (hl.trans_lt h3)
  omega

/-- The binade of a number that is not zero: from 2^top on, below twice that. -/
theorem binade {m : Nat} (h : m ≠ 0) (e : Int) :
    (2 : ℚ) ^ (e + bitLen m - 1) ≤ m * 2 ^ e ∧ (m : ℚ) * 2 ^ e < 2 ^ (e + bitLen m) := by
  obtain ⟨h1, h2, h3⟩ := bitLen_bounds h
  have hz : (0 : ℚ) < 2 ^ e := by positivity
  constructor
  · have hz' : e + (bitLen m : Int) - 1 = ((bitLen m - 1 : Nat) : Int) + e := by omega
    rw [hz', zpow_add₀ (by norm_num), zpow_natCast]
    gcongr
    exact_mod_cast h2
  · rw [add_comm e, zpow_add₀ (by norm_num), zpow_natCast]
    gcongr
    exact_mod_cast h3

/-- A, rounded to the format's precision with an unbounded exponent, lies below the least normal value (R31, R42). -/
def Fmt.Tiny (f : Fmt) (rnd : Nat) (n : Bool) (A : ℚ) : Prop :=
  let leastNormal := (2 : ℚ) ^ (1 - (f.bias : Int))
  let below := (2 : ℚ) ^ (-(f.bias : Int) - (f.fw : Int))
  match rnd with
  | 0 => A < leastNormal - below / 2
  | 1 => A < leastNormal
  | 2 => if n then A ≤ leastNormal - below else A < leastNormal
  | _ => if n then A < leastNormal else A ≤ leastNormal - below

/-- Bits and flags are the rounding of a magnitude A > 0 under a sign: lo is the greatest magnitude not above A, g the one picked. -/
def Fmt.Rounds (f : Fmt) (rnd : Nat) (n : Bool) (A : ℚ) (lo g : Nat) (r : FRes) : Prop :=
  f.value lo ≤ A ∧ A < f.value (lo + 1) ∧ picks rnd n A (f.value lo) (f.value (lo + 1)) lo g ∧
  ∃ exact tiny : Bool, (exact = true ↔ A = f.value lo) ∧ (tiny = true ↔ f.Tiny rnd n A) ∧
    r = if f.largest < g then (f.overflow rnd n, flagOF ||| flagIX)
      else (f.signBit n + g, flagIf (!exact) flagIX ||| flagIf (!exact && tiny) flagUF)

/-- A multiple of 2^q lies below A at least as far as A's binade reaches. -/
theorem two_pow_le_of_unit {F k : Nat} {q : Int} {A : ℚ} (hA : (2 : ℚ) ^ (q + k) ≤ A) (hF : A < (F + 1) * 2 ^ q) : 2 ^ k ≤ F := by
  have hz : (0 : ℚ) < 2 ^ q := by positivity
  rw [add_comm, zpow_add₀ (by norm_num), zpow_natCast] at hA
  have : (2 : ℚ) ^ k < F + 1 := lt_of_mul_lt_mul_right (hA.trans_lt hF) hz.le
  exact Nat.lt_succ_iff.1 (by exact_mod_cast this)

theorem lt_two_pow_of_unit {F k : Nat} {q : Int} {A : ℚ} (hA : A < 2 ^ (q + k)) (hF : F * 2 ^ q ≤ A) : F < 2 ^ k := by
  have hz : (0 : ℚ) < 2 ^ q := by positivity
  rw [add_comm, zpow_add₀ (by norm_num), zpow_natCast] at hA
  have : (F : ℚ) < 2 ^ k := lt_of_mul_lt_mul_right (hF.trans_lt hA) hz.le
  exact_mod_cast this

theorem picks_le {rnd : Nat} {n : Bool} {A lo hi : ℚ} {F r : Nat} (h : picks rnd n A lo hi F r) : F ≤ r ∧ r ≤ F + 1 := by
  rcases h with ⟨rfl, -⟩ | ⟨rfl, -⟩ <;> omega

section Tiny
variable (f : Fmt) (rnd : Nat) (n : Bool) {A : ℚ}

theorem Fmt.tiny_of_lt (h : A < 2 ^ (-(f.bias : Int))) : f.Tiny rnd n A := by
  have hhalf : (2 : ℚ) ^ (1 - (f.bias : Int)) = 2 * 2 ^ (-(f.bias : Int)) := by
    rw [sub_eq_add_neg, zpow_add₀ (by norm_num)]; norm_num
  have hle : (2 : ℚ) ^ (-(f.bias : Int) - (f.fw : Int)) ≤ 2 ^ (-(f.bias : Int)) := zpow_le_zpow_right₀ (by norm_num) (by omega)
  have hb : (0 : ℚ) < 2 ^ (-(f.bias : Int) - (f.fw : Int)) := by positivity
  unfold Fmt.Tiny
  split <;> (try split_ifs) <;> linarith

theorem Fmt.not_tiny_of_le (h : (2 : ℚ) ^ (1 - (f.bias : Int)) ≤ A) : ¬ f.Tiny rnd n A := by
  have hb : (0 : ℚ) < 2 ^ (-(f.bias : Int) - (f.fw : Int)) := by positivity
  unfold Fmt.Tiny
  split <;> (try split_ifs) <;> linarith

/-- Between the last two numbers before the least normal value, a tiny one is one that does not go up. -/
theorem Fmt.tiny_iff_of_last {F r : Nat} {u : ℚ} (hu : u = 2 ^ (-(f.bias : Int) - (f.fw : Int))) (hF : F + 1 = 2 ^ (f.fw + 1))
    (h1 : F * u ≤ A) (h2 : A < (F + 1) * u) (hp : picks rnd n A (F * u) ((F + 1) * u) F r) : f.Tiny rnd n A ↔ r = F := by
  have hln : (2 : ℚ) ^ (1 - (f.bias : Int)) = (F + 1) * u := by
    have hF' : ((F : ℚ) + 1) = 2 ^ (f.fw + 1) := by exact_mod_cast hF
    rw [hF', hu, ← zpow_natCast, ← zpow_add₀ (by norm_num)]; congr 1; push_cast; ring
  have hodd : F % 2 = 1 := by rw [pow_succ] at hF; omega
  have hpos : 0 < u := by rw [hu]; positivity
  have hmid : (F * u + (F + 1) * u) / 2 = (F + 1) * u - u / 2 := by ring
  have hlow : (F + 1) * u - u = F * u := by ring
  unfold Fmt.Tiny
  simp only [hln, ← hu, hlow]
  rcases hp with ⟨rfl, hA⟩ | ⟨rfl, hne, hup⟩
  · refine iff_of_true ?_ rfl
    rcases hA with rfl | hA
    · split <;> (try split_ifs) <;> linarith
    · unfold goesUp at hA
      split <;> simp_all
      exact lt_of_le_of_ne hA.1 (Ne.symm hA.2)
  · refine iff_of_false ?_ (by omega)
    have hlt := lt_of_le_of_ne h1 (Ne.symm hne)
    unfold goesUp at hup
    rw [hmid] at hup
    split <;> simp_all
    rcases hup with h | h <;> linarith

/-- The test of `roundNum` for a tiny result, as R42 has it. -/
theorem Fmt.tiny_iff {top : Int} {F r : Nat} (hlo : (2 : ℚ) ^ top ≤ A) (hhi : A < 2 ^ (top + 1))
    (h1 : (F : ℚ) * 2 ^ (top - f.fw) ≤ A) (h2 : A < (F + 1) * 2 ^ (top - f.fw))
    (hp : picks rnd n A (F * 2 ^ (top - f.fw)) ((F + 1) * 2 ^ (top - f.fw)) F r) :
    top - f.fw + (bitLen r : Int) - 1 < 1 - (f.bias : Int) ↔ f.Tiny rnd n A := by
  have hF := two_pow_le_of_unit (k := f.fw) (q := top - f.fw) (by simpa using hlo) h2
  have hF' := lt_two_pow_of_unit (k := f.fw + 1) (q := top - f.fw) (by convert hhi using 2; push_cast; ring) h1
  obtain ⟨hr1, hr2⟩ := picks_le hp
  -- the rounded magnitude stays in the binade, or is the first of the next
  have hlen : (r < 2 ^ (f.fw + 1) ∧ bitLen r = f.fw + 1) ∨ (r = 2 ^ (f.fw + 1) ∧ bitLen r = f.fw + 2) := by
    rcases Nat.lt_or_ge r (2 ^ (f.fw + 1)) with h | h
    · exact .inl ⟨h, bitLen_eq (by omega) (by simpa using hF.trans hr1) h⟩
    · obtain rfl : r = 2 ^ (f.fw + 1) := by omega
      exact .inr ⟨rfl, bitLen_eq (by omega) le_rfl (Nat.pow_lt_pow_right (by norm_num) (by omega))⟩
  rcases lt_trichotomy top (-(f.bias : Int)) with htop | htop | htop
  · exact iff_of_true (by omega) (f.tiny_of_lt rnd n (hhi.trans_le (zpow_le_zpow_right₀ (by norm_num) (by omega))))
  · subst htop
    rcases Nat.lt_or_ge (F + 1) (2 ^ (f.fw + 1)) with h | h
    · refine iff_of_true (by omega) ?_
      have hu : (0 : ℚ) < 2 ^ (-(f.bias : Int) - (f.fw : Int)) := by positivity
      have hln : (2 : ℚ) ^ (1 - (f.bias : Int)) = 2 ^ (f.fw + 1) * 2 ^ (-(f.bias : Int) - (f.fw : Int)) := by
        rw [← zpow_natCast, ← zpow_add₀ (by norm_num)]; congr 1; push_cast; ring
      have h' : (F : ℚ) + 1 ≤ 2 ^ (f.fw + 1) - 1 := by rw [le_sub_iff_add_le]; exact_mod_cast h
      have hA := h2.trans_le (mul_le_mul_of_nonneg_right h' hu.le)
      unfold Fmt.Tiny
      split <;> (try split_ifs) <;> linarith
    · rw [f.tiny_iff_of_last rnd n rfl (by omega) h1 h2 hp]
      omega
  · exact iff_of_false (by omega) (f.not_tiny_of_le rnd n ((zpow_le_zpow_right₀ (by norm_num) (by omega)).trans hlo))

end Tiny

/-- `roundNum` rounds. -/
theorem Fmt.rounds_roundNum (f : Fmt) (hfw : 1 ≤ f.fw) (rnd : Nat) (n : Bool) {m : Nat} (hm : m ≠ 0) (e : Int) :
    ∃ lo g, f.Rounds rnd n (m * 2 ^ e) lo g (f.roundNum rnd n m e) := by
  obtain ⟨hlow, hhigh⟩ := binade hm e
  unfold Fmt.roundNum
  generalize htop : e + (bitLen m : Int) - 1 = top at *
  have hhigh : (m : ℚ) * 2 ^ e < 2 ^ (top + 1) := by convert hhigh using 2; omega
  set q : Int := if top - (f.fw : Int) < f.qmin then f.qmin else top - (f.fw : Int) with hq
  have hq1 : f.qmin ≤ q := by rw [hq]; split_ifs <;> omega
  have hq2 : top - f.fw ≤ q := by rw [hq]; split_ifs <;> omega
  have hq3 : q = f.qmin ∨ q = top - f.fw := by rw [hq]; split_ifs <;> tauto
  obtain ⟨F, h1, h2, hex, hp⟩ := toScale_picks rnd n m e q
  obtain ⟨F', h1', h2', -, hp'⟩ := toScale_picks rnd n m e (top - f.fw)
  have hF : F < 2 ^ (f.fw + 1) := by
    refine lt_two_pow_of_unit (hhigh.trans_le (zpow_le_zpow_right₀ (by norm_num) ?_)) h1
    push_cast; omega
  obtain ⟨d, hd⟩ := Int.le.dest hq1
  have hd0 : d = 0 ∨ 2 ^ f.fw ≤ F := by
    rcases hq3 with h | h
    · left; omega
    · right; exact two_pow_le_of_unit (by rw [h]; simpa using hlow) h2
  have hlo : f.value (d * 2 ^ f.fw + F) = F * 2 ^ q := by rw [f.value_eq d F hF.le hd0, hd]
  have hhi : f.value (d * 2 ^ f.fw + F + 1) = (F + 1) * 2 ^ q := by
    rw [add_assoc, f.value_eq d (F + 1) hF (hd0.imp_right fun h => h.trans F.le_succ), hd]; push_cast; rfl
  have hpar : (d * 2 ^ f.fw + F) % 2 = F % 2 := by
    obtain ⟨k, hk⟩ := Nat.exists_eq_add_of_le' hfw
    rw [hk, pow_succ, ← mul_assoc]; omega
  have hdq : (q - f.qmin).toNat = d := by omega
  refine ⟨d * 2 ^ f.fw + F, d * 2 ^ f.fw + (toScale rnd n m e q).1, hlo ▸ h1, hhi ▸ h2, ?_, (toScale rnd n m e q).2,
    decide (top - f.fw + (bitLen (toScale rnd n m e (top - f.fw)).1 : Int) - 1 < 1 - (f.bias : Int)), hlo ▸ hex, ?_, ?_⟩
  · rw [hlo, hhi]
    unfold picks at hp ⊢
    rw [hpar]
    exact hp.imp (And.imp_left fun h => by omega) (And.imp_left fun h => by omega)
  · rw [decide_eq_true_iff]
    exact f.tiny_iff rnd n hlow hhigh h1' h2' hp'
  · simp only [← hq, hdq]

/-! ## Numbers between the same neighbours -/

/-- A number with so few significant bits that no number with more fits between it and the next such. -/
def Fmt.Coarse (f : Fmt) (T : ℚ) : Prop := ∃ (k : Nat) (j : Int), k ≤ 2 ^ (f.fw + 2) ∧ T = k * 2 ^ j

/-- No coarse number lies between two successive multiples of a fine unit. -/
theorem Fmt.Coarse.le_or_le {f : Fmt} {T : ℚ} (h : f.Coarse T) {M : Nat} (hM : 2 ^ (f.fw + 2) ≤ M) (E : Int) :
    T ≤ M * 2 ^ E ∨ (M + 1) * 2 ^ E ≤ T := by
  obtain ⟨k, j, hk, rfl⟩ := h
  have hE : (0 : ℚ) < 2 ^ E := by positivity
  rcases le_total E j with hj | hj
  · obtain ⟨i, rfl⟩ := Int.le.dest hj
    have e : (k : ℚ) * 2 ^ (E + (i : Int)) = ((k * 2 ^ i : Nat) : ℚ) * 2 ^ E := by
      rw [zpow_add₀ (by norm_num), zpow_natCast]; push_cast; ring
    rw [e]
    rcases Nat.lt_or_ge M (k * 2 ^ i) with h | h
    · right; gcongr; exact_mod_cast h
    · left; gcongr
  · left
    calc (k : ℚ) * 2 ^ j ≤ M * 2 ^ j := by gcongr; exact_mod_cast hk.trans hM
      _ ≤ M * 2 ^ E := by gcongr; norm_num

/-- Two magnitudes that every coarse number separates from none, or both, in the same direction. -/
def Fmt.Alike (f : Fmt) (A B : ℚ) : Prop := ∀ T, f.Coarse T → (T < A ↔ T < B) ∧ (A < T ↔ B < T)

theorem Fmt.alike_of_between (f : Fmt) {M : Nat} (hM : 2 ^ (f.fw + 2) ≤ M) {E : Int} {A B : ℚ} (hA : (M : ℚ) * 2 ^ E < A)
    (hA' : A < (M + 1) * 2 ^ E) (hB : (M : ℚ) * 2 ^ E < B) (hB' : B < (M + 1) * 2 ^ E) : f.Alike A B := by
  intro T hT
  rcases hT.le_or_le hM E with h | h
  · exact ⟨iff_of_true (h.trans_lt hA) (h.trans_lt hB), iff_of_false (h.trans_lt hA).not_gt (h.trans_lt hB).not_gt⟩
  · exact ⟨iff_of_false (hA'.trans_le h).not_gt (hB'.trans_le h).not_gt, iff_of_true (hA'.trans_le h) (hB'.trans_le h)⟩

theorem Fmt.coarse_value (f : Fmt) (g : Nat) : f.Coarse (f.value g) := by
  obtain ⟨d, r, rfl, hr, hd⟩ := f.exists_unit g
  exact ⟨r, _, hr.le.trans (Nat.pow_le_pow_right (by norm_num) (by omega)), f.value_eq d r hr.le hd⟩

/-- The middle of two neighbours has one bit more. -/
theorem Fmt.coarse_middle (f : Fmt) (g : Nat) : f.Coarse ((f.value g + f.value (g + 1)) / 2) := by
  obtain ⟨d, r, rfl, hr, hd⟩ := f.exists_unit g
  refine ⟨2 * r + 1, f.qmin + d - 1, by rw [pow_succ]; omega, ?_⟩
  rw [add_assoc, f.value_eq d r hr.le hd, f.value_eq d (r + 1) hr (hd.imp_right fun h => h.trans r.le_succ), zpow_sub₀ (by norm_num)]
  push_cast
  ring

theorem Fmt.Alike.eq_iff {f : Fmt} {A B T : ℚ} (h : f.Alike A B) (hT : f.Coarse T) : A = T ↔ B = T := by
  obtain ⟨h1, h2⟩ := h T hT
  simp only [eq_iff_le_not_lt, ← not_lt, h1, h2]

theorem Fmt.Alike.tiny_iff {f : Fmt} {A B : ℚ} (h : f.Alike A B) (rnd : Nat) (n : Bool) : f.Tiny rnd n A ↔ f.Tiny rnd n B := by
  have hsplit (k : Nat) : (2 : ℚ) ^ (1 - (f.bias : Int)) = 2 ^ (f.fw + 1 + k) * 2 ^ (-(f.bias : Int) - (f.fw : Int) - k) := by
    rw [← zpow_natCast, ← zpow_add₀ (by norm_num)]; congr 1; push_cast; ring
  have hp : 1 ≤ 2 ^ (f.fw + 1) := Nat.one_le_two_pow
  have c0 : f.Coarse (2 ^ (1 - (f.bias : Int))) := ⟨1, 1 - (f.bias : Int), Nat.one_le_two_pow, by simp⟩
  have c1 : f.Coarse (2 ^ (1 - (f.bias : Int)) - 2 ^ (-(f.bias : Int) - (f.fw : Int))) :=
    ⟨2 ^ (f.fw + 1) - 1, -(f.bias : Int) - (f.fw : Int), by rw [pow_succ 2 (f.fw + 1)]; omega, by
      rw [Nat.cast_sub hp, hsplit 0]; push_cast; ring_nf⟩
  have c2 : f.Coarse (2 ^ (1 - (f.bias : Int)) - 2 ^ (-(f.bias : Int) - (f.fw : Int)) / 2) :=
    ⟨2 ^ (f.fw + 2) - 1, -(f.bias : Int) - (f.fw : Int) - 1, Nat.sub_le _ _, by
      have hb : (2 : ℚ) ^ (-(f.bias : Int) - (f.fw : Int)) = 2 * 2 ^ (-(f.bias : Int) - (f.fw : Int) - 1) := by
        rw [zpow_sub₀ (by norm_num) _ 1]; ring
      rw [Nat.cast_sub Nat.one_le_two_pow, hsplit 1, hb]; push_cast; ring⟩
  unfold Fmt.Tiny
  split
  · exact (h _ c2).2
  · exact (h _ c0).2
  · split_ifs
    · simp only [← not_lt, (h _ c1).1]
    · exact (h _ c0).2
  · split_ifs
    · exact (h _ c0).2
    · simp only [← not_lt, (h _ c1).1]

/-- Numbers between the same neighbours are rounded alike. -/
theorem Fmt.Rounds.congr {f : Fmt} {rnd : Nat} {n : Bool} {A B : ℚ} {lo g : Nat} {r : FRes} (h : f.Rounds rnd n A lo g r) (hAB : f.Alike A B) :
    f.Rounds rnd n B lo g r := by
  obtain ⟨h1, h2, hp, exact, tiny, hex, ht, hr⟩ := h
  refine ⟨?_, (hAB _ (f.coarse_value (lo + 1))).2.1 h2, ?_, exact, tiny, hex.trans (hAB.eq_iff (f.coarse_value lo)),
    ht.trans (hAB.tiny_iff rnd n), hr⟩
  · rw [← not_lt] at h1 ⊢
    rwa [← (hAB _ (f.coarse_value lo)).2]
  · have hm := f.coarse_middle lo
    have hup : goesUp rnd n ((f.value lo + f.value (lo + 1)) / 2) A (lo % 2 = 1) ↔
        goesUp rnd n ((f.value lo + f.value (lo + 1)) / 2) B (lo % 2 = 1) := by
      unfold goesUp
      split
      · rw [(hAB _ hm).1, eq_comm, hAB.eq_iff hm, eq_comm]
      all_goals rfl
    unfold picks at hp ⊢
    simpa only [← hup, ← hAB.eq_iff (f.coarse_value lo), ne_eq] using hp

/-! ## The four formats -/

/-- The formats of R23 and R24. -/
def formats : List Fmt := [fp32, bf16, fp16, e4m3]

theorem Fmt.fw_pos {f : Fmt} (hf : f ∈ formats) : 1 ≤ f.fw := by fin_cases hf <;> decide

theorem Fmt.largest_lt {f : Fmt} (hf : f ∈ formats) : f.largest < 2 ^ (f.ew + f.fw) := by fin_cases hf <;> decide

/-- The largest magnitude is the last before the exponent of all ones, or before the one NaN of a format without infinities. -/
theorem Fmt.le_largest_iff {f : Fmt} (hf : f ∈ formats) {g : Nat} (hg : g < 2 ^ (f.ew + f.fw)) :
    g ≤ f.largest ↔ if f.ieee then g / 2 ^ f.fw ≠ 2 ^ f.ew - 1 else g ≠ 2 ^ (f.ew + f.fw) - 1 := by
  fin_cases hf <;> simp [fp32, bf16, fp16, e4m3, Fmt.largest] at hg ⊢ <;> omega

/-- The three fields of an encoding. -/
theorem Fmt.bits_signed (f : Fmt) (n : Bool) {g : Nat} (hg : g < 2 ^ (f.ew + f.fw)) :
    bits (f.signBit n + g) (f.ew + f.fw) 1 = n.toNat ∧ bits (f.signBit n + g) f.fw f.ew = g / 2 ^ f.fw ∧
    bits (f.signBit n + g) 0 f.fw = g % 2 ^ f.fw ∧ bits (f.signBit n + g) 0 (f.ew + f.fw) = g := by
  have hp : 0 < 2 ^ f.fw := Nat.two_pow_pos _
  have hdiv : g / 2 ^ f.fw < 2 ^ f.ew := by rw [Nat.div_lt_iff_lt_mul hp, ← pow_add]; exact hg
  unfold bits Fmt.signBit
  cases n
  · simp [Nat.div_eq_of_lt hg, Nat.mod_eq_of_lt hdiv, Nat.mod_eq_of_lt hg]
  · have e : 2 ^ (f.ew + f.fw) + g = g + 2 ^ f.fw * 2 ^ f.ew := by ring
    refine ⟨?_, ?_, ?_, ?_⟩
    · simp [Nat.add_div_left _ (Nat.two_pow_pos (f.ew + f.fw)), Nat.div_eq_of_lt hg]
    · rw [if_pos rfl, e, Nat.add_mul_div_left _ _ hp, Nat.add_mod_right, Nat.mod_eq_of_lt hdiv]
    · rw [if_pos rfl, e, pow_zero, Nat.div_one, Nat.add_mul_mod_self_left]
    · rw [if_pos rfl, pow_zero, Nat.div_one, Nat.add_mod_left, Nat.mod_eq_of_lt hg]

/-- Bits of a sign and a magnitude up to the largest stand for a number. -/
theorem Fmt.decode_magnitude {f : Fmt} (hf : f ∈ formats) (n : Bool) {g : Nat} (hg : g ≤ f.largest) :
    ∃ m e, f.decode (f.signBit n + g) = .num n m e ∧ (m : ℚ) * 2 ^ e = f.value g := by
  have hlt := hg.trans_lt (f.largest_lt hf)
  obtain ⟨h1, h2, h3, h4⟩ := f.bits_signed n hlt
  have hn : (n.toNat == 1) = n := by cases n <;> rfl
  have hsplit := (f.le_largest_iff hf hlt).1 hg
  have hdec : f.decode (f.signBit n + g) =
      if g / 2 ^ f.fw = 0 then .num n (g % 2 ^ f.fw) f.qmin else .num n (g % 2 ^ f.fw + 2 ^ f.fw) (f.qmin + (g / 2 ^ f.fw : Nat) - 1) := by
    unfold Fmt.decode
    simp only [h1, h2, h3, h4, hn]
    cases hi : f.ieee <;> simp_all
  have hz : g / 2 ^ f.fw = 0 ↔ g < 2 ^ f.fw := by simp [Nat.div_eq_zero_iff]
  rw [hdec]
  unfold Fmt.value
  split_ifs with hc hc' hc'
  · exact ⟨_, _, rfl, by rw [Nat.mod_eq_of_lt hc']⟩
  · exact absurd (hz.1 hc) hc'
  · exact absurd (hz.2 hc') hc
  · exact ⟨_, _, rfl, rfl⟩

/-- A finite value's bits are a sign and a magnitude. -/
theorem Fmt.exists_magnitude {f : Fmt} (hf : f ∈ formats) {c : Nat} (hc : f.finites c) : ∃ n g, g ≤ f.largest ∧ c = f.signBit n + g := by
  obtain ⟨hw, hfin⟩ := hc
  have hw' : c < 2 ^ (f.ew + f.fw) + 2 ^ (f.ew + f.fw) := by rw [Fmt.width, show 1 + f.ew + f.fw = f.ew + f.fw + 1 by ring, pow_succ] at hw; omega
  obtain ⟨n, g, hg, rfl⟩ : ∃ n g, g < 2 ^ (f.ew + f.fw) ∧ c = f.signBit n + g := by
    rcases Nat.lt_or_ge c (2 ^ (f.ew + f.fw)) with h | h
    · exact ⟨false, c, h, by simp [Fmt.signBit]⟩
    · exact ⟨true, c - 2 ^ (f.ew + f.fw), by omega, by simp [Fmt.signBit]; omega⟩
  refine ⟨n, g, ?_, rfl⟩
  rw [f.le_largest_iff hf hg]
  obtain ⟨-, h2, -, h4⟩ := f.bits_signed n hg
  unfold Fmt.decode at hfin
  simp only [h2, h4] at hfin
  split_ifs with hi
  · intro he
    simp only [hi, he, beq_self_eq_true, Bool.and_self, if_true] at hfin
    split_ifs at hfin <;> simp [Fp.finite] at hfin
  · intro he
    simp [hi, he, Fp.finite] at hfin

/-- The signed value of a magnitude. -/
def signedValue (n : Bool) (A : ℚ) : ℚ := (if n then -1 else 1) * A

theorem Fp.rat_num (n : Bool) (m : Nat) (e : Int) : (Fp.num n m e).rat = signedValue n (m * 2 ^ e) := by
  simp [Fp.rat, signedValue]

theorem abs_signedValue (n : Bool) {A : ℚ} (h : 0 ≤ A) : |signedValue n A| = A := by
  cases n <;> simp [signedValue, abs_of_nonneg h]

theorem Fmt.rat_magnitude {f : Fmt} (hf : f ∈ formats) (n : Bool) {g : Nat} (hg : g ≤ f.largest) :
    (f.decode (f.signBit n + g)).rat = signedValue n (f.value g) := by
  obtain ⟨m, e, hd, hv⟩ := f.decode_magnitude hf n hg
  rw [hd, Fp.rat_num, hv]

theorem Fmt.finites_magnitude {f : Fmt} (hf : f ∈ formats) (n : Bool) {g : Nat} (hg : g ≤ f.largest) : f.finites (f.signBit n + g) := by
  obtain ⟨m, e, hd, -⟩ := f.decode_magnitude hf n hg
  refine ⟨?_, by rw [hd]; rfl⟩
  have := f.largest_lt hf
  rw [Fmt.width, show 1 + f.ew + f.fw = f.ew + f.fw + 1 by ring, pow_succ]
  unfold Fmt.signBit
  split_ifs <;> omega

/-- The largest magnitude has the unit of its predecessor; its parity is that of R31's and R32's ties. -/
theorem Fmt.value_largest {f : Fmt} (hf : f ∈ formats) :
    f.value (f.largest + 1) = f.value f.largest + (f.value f.largest - f.value (f.largest - 1)) ∧ 1 ≤ f.largest ∧
      (f.largest % 2 = 1 ↔ f.ieee = true) := by
  fin_cases hf <;> refine ⟨?_, by decide, by decide⟩ <;> norm_num [Fmt.value, Fmt.largest, Fmt.qmin, fp32, bf16, fp16, e4m3]

/-! ## What a rounding gives -/

/-- A lies past the largest magnitude as R31 bounds it: by half a unit under nearest, by a unit toward zero, at all away from it. -/
def Fmt.Overflows (f : Fmt) (rnd : Nat) (n : Bool) (A : ℚ) : Prop :=
  let most := f.value f.largest
  let unit := most - f.value (f.largest - 1)
  match rnd with
  | 0 => if f.ieee then most + unit / 2 ≤ A else most + unit / 2 < A
  | 1 => most + unit ≤ A
  | 2 => if n then most < A else most + unit ≤ A
  | _ => if n then most + unit ≤ A else most < A

theorem Fmt.overflows_nearest (f : Fmt) (n : Bool) (A : ℚ) : f.Overflows 0 n A ↔
    if f.ieee then f.value f.largest + (f.value f.largest - f.value (f.largest - 1)) / 2 ≤ A
      else f.value f.largest + (f.value f.largest - f.value (f.largest - 1)) / 2 < A := Iff.rfl

section Rounds
variable {f : Fmt} {rnd : Nat} {n : Bool} {A : ℚ} {lo g : Nat} {r : FRes}

theorem Fmt.value_le_iff (f : Fmt) {a b : Nat} : f.value a ≤ f.value b ↔ a ≤ b := f.value_strictMono.le_iff_le

/-- The magnitudes not above A are those up to lo. -/
theorem Fmt.Rounds.le_lo_iff (h : f.Rounds rnd n A lo g r) (c : Nat) : f.value c ≤ A ↔ c ≤ lo := by
  obtain ⟨h1, h2, -⟩ := h
  exact ⟨fun hc => Nat.lt_succ_iff.1 (f.value_strictMono.lt_iff_lt.1 (hc.trans_lt h2)), fun hc => ((f.value_le_iff).2 hc).trans h1⟩

theorem Fmt.Rounds.up (h : f.Rounds rnd n A lo g r) :
    (g = lo ∧ (A = f.value lo ∨ ¬ goesUp rnd n ((f.value lo + f.value (lo + 1)) / 2) A (lo % 2 = 1))) ∨
    (g = lo + 1 ∧ f.value lo < A ∧ goesUp rnd n ((f.value lo + f.value (lo + 1)) / 2) A (lo % 2 = 1)) := by
  obtain ⟨h1, -, hp, -⟩ := h
  exact hp.imp_right fun ⟨hg, hne, hup⟩ => ⟨hg, lt_of_le_of_ne h1 hne.symm, hup⟩

theorem Fmt.Rounds.exact_iff (h : f.Rounds rnd n A lo g r) : f.value g = A ↔ A = f.value lo := by
  have h2 := h.2.1
  rcases h.up with ⟨rfl, -⟩ | ⟨rfl, hlt, -⟩
  · exact eq_comm
  · exact iff_of_false h2.ne' hlt.ne'

/-- Toward zero, and in a direction toward zero: the greatest magnitude not above A. -/
theorem Fmt.Rounds.eq_lo (h : f.Rounds rnd n A lo g r) (hd : ∀ middle odd, ¬ goesUp rnd n middle A odd) : g = lo := by
  rcases h.up with ⟨hg, -⟩ | ⟨-, -, hup⟩
  · exact hg
  · exact absurd hup (hd _ _)

/-- In a direction away from zero: the least magnitude not below A. -/
theorem Fmt.Rounds.ge_iff (h : f.Rounds rnd n A lo g r) (hd : ∀ middle odd, goesUp rnd n middle A odd) (c : Nat) : A ≤ f.value c ↔ g ≤ c := by
  have hlow := h.le_lo_iff c
  rcases h.up with ⟨rfl, he | he⟩ | ⟨rfl, hlt, -⟩
  · rw [he, f.value_le_iff]
  · exact absurd (hd _ _) he
  · constructor
    · intro hc
      rcases hc.lt_or_eq with hc | hc
      · have := (not_congr hlow).1 (not_le.2 hc); omega
      · rw [hc, f.value_strictMono.lt_iff_lt] at hlt; omega
    · intro hc
      exact h.2.1.le.trans (f.value_le_iff.2 hc)

/-- Under nearest no magnitude lies nearer, and of two that lie as near the even one is picked. -/
theorem Fmt.Rounds.nearest (h : f.Rounds 0 n A lo g r) (c : Nat) :
    |f.value g - A| ≤ |f.value c - A| ∧ (|f.value g - A| = |f.value c - A| → g = c ∨ g % 2 = 0) := by
  have h1 := h.1
  have h2 := h.2.1
  have hc : (c = lo ∨ f.value c < f.value lo) ∨ (c = lo + 1 ∨ f.value (lo + 1) < f.value c) := by
    rcases lt_trichotomy c lo with hc | hc | hc
    · exact .inl (.inr (f.value_strictMono hc))
    · exact .inl (.inl hc)
    · rcases Nat.lt_or_eq_of_le (Nat.succ_le_of_lt hc) with hc | hc
      · exact .inr (.inr (f.value_strictMono hc))
      · exact .inr (.inl hc.symm)
  have hbelow (hle : f.value c ≤ A) : |f.value c - A| = A - f.value c := by rw [abs_of_nonpos (by linarith)]; ring
  have habove (hle : A ≤ f.value c) : |f.value c - A| = f.value c - A := abs_of_nonneg (by linarith)
  rcases h.up with ⟨rfl, hup⟩ | ⟨rfl, hlt, hup⟩
  · rw [abs_of_nonpos (by linarith : f.value g - A ≤ 0)]
    simp only [goesUp, not_or, not_lt, not_and] at hup
    rcases hc with (rfl | hc) | (rfl | hc)
    · rw [hbelow h1]; exact ⟨by linarith, fun _ => .inl rfl⟩
    · rw [hbelow (by linarith)]; exact ⟨by linarith, fun e => by linarith⟩
    · rw [habove h2.le]
      rcases hup with he | ⟨hm, ho⟩
      · exact ⟨by linarith, fun e => by linarith⟩
      · exact ⟨by linarith, fun e => .inr (by have := ho (by linarith); omega)⟩
    · rw [habove (by linarith)]
      rcases hup with he | ⟨hm, ho⟩ <;> exact ⟨by linarith, fun e => by linarith⟩
  · rw [abs_of_nonneg (by linarith : 0 ≤ f.value (lo + 1) - A)]
    simp only [goesUp] at hup
    have hm : (f.value lo + f.value (lo + 1)) / 2 ≤ A := by rcases hup with h | h <;> linarith
    rcases hc with (rfl | hc) | (rfl | hc)
    · rw [hbelow h1]
      refine ⟨by linarith, fun e => ?_⟩
      rcases hup with h | h
      · linarith
      · exact .inr (by omega)
    · rw [hbelow (by linarith)]; exact ⟨by linarith, fun e => by linarith⟩
    · rw [habove h2.le]; exact ⟨le_rfl, fun _ => .inl rfl⟩
    · rw [habove (by linarith)]; exact ⟨by linarith, fun e => by linarith⟩

theorem Fmt.Rounds.overflow_iff (h : f.Rounds rnd n A lo g r) (hf : f ∈ formats) : f.largest < g ↔ f.Overflows rnd n A := by
  obtain ⟨hnext, -, hodd⟩ := f.value_largest hf
  have down (hd : ∀ middle odd, ¬ goesUp rnd n middle A odd) :
      f.largest < g ↔ f.value f.largest + (f.value f.largest - f.value (f.largest - 1)) ≤ A := by
    rw [← hnext, h.le_lo_iff, h.eq_lo hd]; exact Iff.rfl
  have up (hd : ∀ middle odd, goesUp rnd n middle A odd) : f.largest < g ↔ f.value f.largest < A := by
    rw [← not_le, ← h.ge_iff hd, not_le]
  match rnd with
  | 0 =>
    rw [f.overflows_nearest]
    have h2 := h.2.1
    have hstep := f.value_lt_succ f.largest
    rcases lt_trichotomy lo f.largest with hlo | rfl | hlo
    · have hle : f.value (lo + 1) ≤ f.value f.largest := f.value_le_iff.2 hlo
      have hg : g ≤ lo + 1 := (picks_le h.2.2.1).2
      exact iff_of_false (by omega) (by split_ifs <;> linarith)
    · have hmid : (f.value f.largest + f.value (f.largest + 1)) / 2 = f.value f.largest + (f.value f.largest - f.value (f.largest - 1)) / 2 := by
        rw [hnext]; ring
      rcases h.up with ⟨hg, hup⟩ | ⟨hg, hlt, hup⟩
      · refine iff_of_false (by omega) ?_
        simp only [goesUp, hmid, hodd, not_or, not_lt, not_and] at hup
        rcases hup with he | ⟨hm, ho⟩
        · split_ifs <;> linarith
        · split_ifs with hi
          · exact fun hle => ho (le_antisymm hle hm) hi
          · exact hm.not_gt
      · refine iff_of_true (by omega) ?_
        simp only [goesUp, hmid, hodd] at hup
        rcases hup with hm | ⟨hm, ho⟩
        · split_ifs
          · exact hm.le
          · exact hm
        · rw [if_pos ho]; exact hm.le
    · have hle := (h.le_lo_iff (f.largest + 1)).2 hlo
      exact iff_of_true (hlo.trans_le (picks_le h.2.2.1).1) (by split_ifs <;> linarith)
  | 1 => exact down fun _ _ => id
  | 2 =>
    cases n
    · exact down fun _ _ => by simp [goesUp]
    · exact up fun _ _ => rfl
  | _ + 3 =>
    cases n
    · exact up fun _ _ => rfl
    · exact down fun _ _ => by simp [goesUp]

end Rounds

theorem signedValue_sub (n : Bool) (A B : ℚ) : |signedValue n A - signedValue n B| = |A - B| := by
  cases n
  · simp [signedValue]
  · rw [← abs_neg]; simp only [signedValue]; congr 1; simp; ring

theorem signedValue_inj {n : Bool} {A B : ℚ} : signedValue n A = signedValue n B ↔ A = B := by
  cases n <;> simp [signedValue]

/-- The flags of a result within the range. -/
theorem rounding_flags (exact tiny : Bool) :
    let fl := flagIf (!exact) flagIX ||| flagIf (!exact && tiny) flagUF
    fl.getLsbD 0 = !exact ∧ fl.getLsbD 1 = (!exact && tiny) ∧ fl.getLsbD 2 = false ∧ fl.toNat < 8 := by
  revert exact tiny; decide

section RoundedTo
variable {f : Fmt} (hf : f ∈ formats) {n : Bool} {A : ℚ} {lo g : Nat} {r : FRes}
include hf

theorem Fmt.finites_iff (c : Nat) : f.finites c ↔ ∃ n g, g ≤ f.largest ∧ c = f.signBit n + g :=
  ⟨f.exists_magnitude hf, fun ⟨n, _, hg, hc⟩ => hc ▸ f.finites_magnitude hf n hg⟩

theorem Fmt.Rounds.nearestTo (h : f.Rounds 0 n A lo g r) (hA : 0 < A) (hg : g ≤ f.largest) : NearestTo f (signedValue n A) (f.signBit n + g) := by
  intro c hc
  obtain ⟨n', c', hc', rfl⟩ := f.exists_magnitude hf hc
  rw [f.rat_magnitude hf n hg, f.rat_magnitude hf n' hc', signedValue_sub]
  have hpar : (f.signBit n + g) % 2 = g % 2 := by
    obtain ⟨k, hk⟩ := Nat.exists_eq_add_of_le' (f.fw_pos hf)
    unfold Fmt.signBit
    rw [hk, ← add_assoc, pow_succ]
    split_ifs <;> omega
  rw [hpar]
  have hv := f.value_nonneg c'
  by_cases hn : n' = n
  · subst hn
    rw [signedValue_sub, signedValue_inj]
    exact (h.nearest c').imp_right fun hnear e => (hnear e).imp_left (congrArg f.value)
  · have hdist : |signedValue n' (f.value c') - signedValue n A| = f.value c' + A := by
      cases n <;> cases n' <;> simp only [signedValue, Bool.false_eq_true, if_true, if_false, not_true_eq_false] at hn ⊢
      · rw [abs_of_nonpos (by linarith)]; ring
      · rw [abs_of_nonneg (by linarith)]; ring
    obtain ⟨h0, h0'⟩ := h.nearest 0
    rw [f.value_zero, zero_sub, abs_neg, abs_of_pos hA] at h0 h0'
    rw [hdist]
    refine ⟨by linarith, fun e => .inr ?_⟩
    rcases h0' (by linarith) with rfl | h
    · rfl
    · exact h

/-- Away from zero or toward it, no value of the format lies between the number and its rounding. -/
theorem Fmt.Rounds.between {rnd : Nat} (h : f.Rounds rnd n A lo g r) (hA : 0 < A) (hg : g ≤ f.largest) (up : Bool)
    (hd : ∀ middle odd, goesUp rnd n middle A odd ↔ up = true) :
    if up = n then (f.decode (f.signBit n + g)).rat ≤ signedValue n A ∧
        ∀ c, f.finites c → (f.decode c).rat ≤ signedValue n A → (f.decode c).rat ≤ (f.decode (f.signBit n + g)).rat
      else signedValue n A ≤ (f.decode (f.signBit n + g)).rat ∧
        ∀ c, f.finites c → signedValue n A ≤ (f.decode c).rat → (f.decode (f.signBit n + g)).rat ≤ (f.decode c).rat := by
  rw [f.rat_magnitude hf n hg]
  have hv := f.value_nonneg g
  cases up with
  | true =>
    have hge := h.ge_iff fun m o => (hd m o).2 rfl
    have hAg := (hge g).2 le_rfl
    cases n with
    | true =>
      refine ⟨by simpa [signedValue] using hAg, fun c hc hle => ?_⟩
      obtain ⟨n', c', hc', rfl⟩ := f.exists_magnitude hf hc
      rw [f.rat_magnitude hf n' hc'] at hle ⊢
      have hv' := f.value_nonneg c'
      cases n'
      · simp [signedValue] at hle; linarith
      · simp only [signedValue, if_true, neg_mul, one_mul, neg_le_neg_iff] at hle ⊢
        exact f.value_le_iff.2 ((hge c').1 hle)
    | false =>
      refine ⟨by simpa [signedValue] using hAg, fun c hc hle => ?_⟩
      obtain ⟨n', c', hc', rfl⟩ := f.exists_magnitude hf hc
      rw [f.rat_magnitude hf n' hc'] at hle ⊢
      have hv' := f.value_nonneg c'
      cases n'
      · simp only [signedValue, Bool.false_eq_true, if_false, one_mul] at hle ⊢
        exact f.value_le_iff.2 ((hge c').1 hle)
      · simp [signedValue] at hle; linarith
  | false =>
    have hg' := h.eq_lo fun m o hup => by simpa using (hd m o).1 hup
    have hle_iff := h.le_lo_iff
    rw [← hg'] at hle_iff
    have hAg := (hle_iff g).2 le_rfl
    cases n with
    | true =>
      refine ⟨by simpa [signedValue] using hAg, fun c hc hle => ?_⟩
      obtain ⟨n', c', hc', rfl⟩ := f.exists_magnitude hf hc
      rw [f.rat_magnitude hf n' hc'] at hle ⊢
      have hv' := f.value_nonneg c'
      cases n'
      · simp [signedValue]; linarith
      · simp only [signedValue, if_true, neg_mul, one_mul, neg_le_neg_iff] at hle ⊢
        exact f.value_le_iff.2 ((hle_iff c').1 hle)
    | false =>
      refine ⟨by simpa [signedValue] using hAg, fun c hc hle => ?_⟩
      obtain ⟨n', c', hc', rfl⟩ := f.exists_magnitude hf hc
      rw [f.rat_magnitude hf n' hc'] at hle ⊢
      have hv' := f.value_nonneg c'
      cases n'
      · simp only [signedValue, Bool.false_eq_true, if_false, one_mul] at hle ⊢
        exact f.value_le_iff.2 ((hle_iff c').1 hle)
      · simp [signedValue]; linarith

/-- A rounding is one as the statements describe it. -/
theorem Fmt.Rounds.roundedTo {rnd : Nat} (hrnd : rnd < 4) (hA : 0 < A) (h : f.Rounds rnd n A lo g r) :
    RoundedTo f rnd n (signedValue n A) r.1 r.2 := by
  have hover := h.overflow_iff hf
  have hexact := h.exact_iff
  have hmost (c : Nat) (hc : c ≤ f.largest) : (f.decode c).rat = f.value c := by
    have := f.rat_magnitude hf false hc
    simpa [Fmt.signBit, signedValue] using this
  obtain ⟨-, -, -, exact, tiny, hex, ht, hr⟩ := id h
  unfold RoundedTo
  simp only [abs_signedValue n hA.le, hmost _ le_rfl, hmost _ (Nat.sub_le _ 1)]
  by_cases hg : f.largest < g
  · obtain rfl : r = (f.overflow rnd n, flagOF ||| flagIX) := by rw [hr, if_pos hg]
    have hof : (flagOF ||| flagIX).getLsbD 2 = true := by decide
    have hno {p : Prop} (h : (flagOF ||| flagIX).getLsbD 2 = false) : p := by rw [hof] at h; contradiction
    have hlt : (flagOF ||| flagIX).toNat < 8 := by decide
    exact ⟨iff_of_true hof (hover.1 hg), hlt, hno, fun _ => ⟨rfl, rfl⟩, hno⟩
  · have hg' := not_lt.1 hg
    obtain rfl : r = (f.signBit n + g, flagIf (!exact) flagIX ||| flagIf (!exact && tiny) flagUF) := by rw [hr, if_neg hg]
    obtain ⟨hix, huf, hof, hlt⟩ := rounding_flags exact tiny
    have hne : (f.decode (f.signBit n + g)).rat ≠ signedValue n A ↔ exact = false := by
      rw [f.rat_magnitude hf n hg', ne_eq, signedValue_inj, hexact, ← hex, Bool.not_eq_true]
    dsimp only
    rw [hix, huf, hof]
    refine ⟨iff_of_false (by simp) fun h => hg (hover.2 h), hlt, fun _ => ?_, fun h => absurd h (by simp),
      fun _ => ⟨f.finites_magnitude hf n hg', ?_, ?_, ?_, ?_, ?_⟩⟩
    · rw [hne, Bool.and_eq_true, Bool.not_eq_true', ht]; exact Iff.rfl
    · rw [hne, Bool.not_eq_true']
    · rintro rfl; exact h.nearestTo hf hA hg'
    · rintro rfl
      rw [f.rat_magnitude hf n hg', abs_signedValue n (f.value_nonneg g), h.eq_lo fun _ _ => id]
      refine ⟨h.1, fun c hc hle => ?_⟩
      obtain ⟨n', c', hc', rfl⟩ := f.exists_magnitude hf hc
      rw [f.rat_magnitude hf n' hc', abs_signedValue n' (f.value_nonneg c')] at hle ⊢
      exact f.value_le_iff.2 ((h.le_lo_iff c').1 hle)
    · rintro rfl
      simpa using h.between hf hA hg' n fun _ _ => Iff.rfl
    · rintro rfl
      have := h.between hf hA hg' (!n) fun _ _ => by simp [goesUp]
      rwa [if_neg (by cases n <;> decide)] at this

end RoundedTo

/-- Settles O11: `roundNum` rounds, and a rounding is as R30 to R32 describe it. -/
theorem floatRounding : Obligations.FloatRounding := by
  intro f hf rnd m n e hrnd hm
  obtain ⟨lo, g, h⟩ := f.rounds_roundNum (f.fw_pos hf) rnd n hm e
  have hA : 0 < (m : ℚ) * 2 ^ e := by positivity
  rw [Fp.rat_num]
  exact h.roundedTo hf hrnd hA

end Sys2Proof.Machine
end

section
/-! PROOFS. Lane instructions (R43, R44, R53, R62): the flags of a fixed-latency one, the result that a variable-latency one puts on its way, and
where the unit goes on. -/

namespace Sys2Proof.Machine

/-! ## The end of an instruction -/

/-- What the end of an instruction leaves of a crew: registers, flags, tokens and results on their way. -/
def Crew.data (c : Crew) : Table (List Word) × Table Word × Table (List Word) × BitVec 7 × Table Nat × List Result :=
  (c.pool, c.sregs, c.oregs, c.fflags, c.tokens, c.out)

@[simp] theorem Crew.data_modUnit (c : Crew) (u : Nat) (f : CrewUnit → CrewUnit) : (c.modUnit u f).data = c.data := by simp [Crew.data]

@[simp] theorem Crew.data_pushLast (c : Crew) (p : Nat) (r : Option (List Word)) : (c.pushLast p r).data = c.data := by
  unfold Crew.pushLast
  split
  · split_ifs <;> rfl
  · rfl

theorem Crew.data_park (c : Crew) (u : Nat) : (c.park u).data = c.data := by
  unfold Crew.park Crew.leaveMarker
  split_ifs <;> exact Crew.data_modUnit c u _

theorem Crew.data_issued (c : Crew) (u : Nat) (step : Bool) : (c.issued u step).data = c.data := by
  have e (c' : Crew) (d : Capsule) : (if c'.cap.mode then { c' with cap := d } else c').data = c'.data := by split <;> rfl
  exact (e _ _).trans (Crew.data_modUnit c u _)

/-- A unit's PC. -/
def Crew.pcOf (c : Crew) (u : Nat) : Option Dword := (c.units.get? u).map (·.pc)

theorem Crew.pcOf_modUnit (c : Crew) (u v : Nat) {f : CrewUnit → CrewUnit} (h : ∀ y, (f y).pc = y.pc) :
    (c.modUnit v f).pcOf u = c.pcOf u := by
  unfold Crew.pcOf
  by_cases huv : u = v
  · subst huv
    rw [Crew.modUnit_get?_self, Option.map_map]
    exact congrFun (congrArg _ (funext h)) _
  · rw [Crew.modUnit_get?_of_ne c f huv]

theorem Crew.pcOf_park (c : Crew) (u v : Nat) : (c.park v).pcOf u = c.pcOf u := by
  unfold Crew.park Crew.leaveMarker
  split_ifs <;> exact Crew.pcOf_modUnit c u v fun _ => rfl

theorem Crew.pcOf_issued (c : Crew) (u v : Nat) (step : Bool) : (c.issued v step).pcOf u = c.pcOf u := by
  have e (c' : Crew) (d : Capsule) : (if c'.cap.mode then { c' with cap := d } else c').pcOf u = c'.pcOf u := by split <;> rfl
  exact (e _ _).trans (Crew.pcOf_modUnit c u v fun _ => rfl)

theorem State.noteIssue_crews (s : State) (x : Ctx) : (s.noteIssue x).crews = (s.noteStop x).crews := by
  unfold State.noteIssue
  cases x.isPair <;> simp

theorem State.noteIssue_blocks (s : State) (x : Ctx) : (s.noteIssue x).blocks = s.blocks := by
  unfold State.noteIssue State.noteStop
  cases x.isPair <;> split_ifs <;> simp [State.modUnit]

@[simp] theorem Ctx.ends_mem (x : Ctx) (t : State) : (x.ends t).mem = t.mem := by
  rw [Ctx.ends, State.noteIssue_mem, State.finish, State.modCrew_mem]

@[simp] theorem Ctx.ends_blocks (x : Ctx) (t : State) : (x.ends t).blocks = t.blocks := by
  rw [Ctx.ends, State.noteIssue_blocks, State.finish, State.modCrew_blocks]

/-- A unit that has gone on from a stop point differs in the ck that it notes. -/
theorem State.noteStop_crew (s : State) (x : Ctx) (k : Nat) :
    (s.noteStop x).crews.get? k = s.crews.get? k ∨
      k = x.k ∧ (s.noteStop x).crews.get? k = (s.crews.get? k).map fun c => c.modUnit x.u fun h => { h with stopAt := s.ck } := by
  unfold State.noteStop State.modUnit
  split_ifs
  · by_cases hk : k = x.k
    · subst hk
      exact .inr ⟨rfl, by rw [State.modCrew_get?_self, State.modLaunch_crews]⟩
    · exact .inl (by rw [State.modCrew_get?_of_ne _ _ hk, State.modLaunch_crews])
  · exact .inl rfl

theorem Ctx.ends_other (x : Ctx) (t : State) {k : Nat} (hk : k ≠ x.k) : (x.ends t).crews.get? k = t.crews.get? k := by
  rw [Ctx.ends, State.noteIssue_crews]
  rcases State.noteStop_crew (t.finish x x.a.sw) x k with h | ⟨h, -⟩
  · rw [h, State.finish, State.modCrew_get?_of_ne _ _ hk]
  · exact absurd h hk

/-- The crew of an instruction that has ended: its data as the effect left them, its unit at the next instruction. -/
theorem Ctx.ends_crew (x : Ctx) (t : State) {c : Crew} (hc : t.crews.get? x.k = some c) :
    ∃ c', (x.ends t).crews.get? x.k = some c' ∧ c'.data = c.data ∧ ((c.units.get? x.u).isSome → c'.pcOf x.u = some (skipTail x.next)) := by
  have hfin : ∃ c', (t.finish x x.a.sw).crews.get? x.k = some c' ∧ c'.data = c.data ∧
      ((c.units.get? x.u).isSome → c'.pcOf x.u = some (skipTail x.next)) := by
    have hpc (c1 : Crew) (h : (c1.pcOf x.u).isSome) :
        (c1.modUnit x.u fun h => { h with pc := skipTail (x.h.pc + BitVec.ofNat 64 x.len), origin := x.h.pc }).pcOf x.u = some (skipTail x.next) := by
      obtain ⟨y, hy⟩ := Option.isSome_iff_exists.1 (by simpa [Crew.pcOf] using h)
      rw [Crew.pcOf, Crew.modUnit_get?_self, hy]
      rfl
    have hsome (h : (c.units.get? x.u).isSome) : ((c.issued x.u x.stepping).pcOf x.u).isSome := by
      rw [Crew.pcOf_issued]; simpa [Crew.pcOf] using h
    rw [State.finish, State.modCrew_get?_self, hc]
    refine ⟨_, rfl, ?_, fun h => ?_⟩ <;> dsimp only <;> split_ifs
    · rw [Crew.data_park, Crew.data_modUnit, Crew.data_issued]
    · rw [Crew.data_modUnit, Crew.data_issued]
    · rw [Crew.pcOf_park, hpc _ (hsome h)]
    · exact hpc _ (hsome h)
  obtain ⟨c', hc', hd, hp⟩ := hfin
  rw [Ctx.ends, State.noteIssue_crews]
  rcases State.noteStop_crew (t.finish x x.a.sw) x x.k with h | ⟨-, h⟩
  · exact ⟨c', by rw [h, hc'], hd, hp⟩
  · rw [hc', Option.map_some] at h
    exact ⟨_, h, by rw [Crew.data_modUnit, hd],
      fun hs => (Crew.pcOf_modUnit _ _ _ (f := fun y => { y with stopAt := (t.finish x x.a.sw).ck }) fun _ => rfl).trans (hp hs)⟩

theorem Ctx.ends_goesOn (x : Ctx) (t : State) {c : Crew} (hc : t.crews.get? x.k = some c) (hu : (c.units.get? x.u).isSome) : x.goesOn (x.ends t) := by
  obtain ⟨c', hc', -, hp⟩ := x.ends_crew t hc
  obtain ⟨y, hy, hpc⟩ := Option.map_eq_some_iff.1 (hp hu)
  exact ⟨y, by simp [Ctx.unitIn, hc', hy], hpc⟩

/-! ## Fixed-latency instructions -/

/-- A register write changes no flag. -/
theorem Crew.writeReg_fflags (c : Crew) (u : Nat) (w : RegWrite) : (c.writeReg u w).fflags = c.fflags := by
  unfold Crew.writeReg
  split <;> simp

theorem Crew.wrote_fflags (c : Crew) (u : Nat) (ws : List RegWrite) : (ws.foldl (fun c w => c.writeReg u w) c).fflags = c.fflags := by
  induction ws generalizing c with
  | nil => rfl
  | cons w ws ih => rw [List.foldl_cons, ih, Crew.writeReg_fflags]

@[simp] theorem State.clearSoft_crews (s : State) (k : Nat) (ws : List RegWrite) : (s.clearSoft k ws).crews = s.crews := by
  unfold State.clearSoft
  split_ifs <;> rfl

/-- The flags of a lane instruction: of the active lanes, or of the one result of a scalar shape. -/
theorem perLane_flags (wide : Bool) (f : Ctx → State → Nat → LaneRes) (x : Ctx) (s : State) :
    (perLane wide f x s).flags = x.joined fun l => (f x s l).fl := by
  unfold perLane Ctx.joined
  dsimp only
  split_ifs <;> rfl

theorem Ctx.flagsIn_fixedLane (x : Ctx) (sem : LaneSem) (s : State) (hc : s.crews.get? x.k = some x.c) :
    x.flagsIn (applyRes x s (fixedLane sem x s)) = some (x.c.fflags ||| (sem x s).flags) := by
  have hcrew : ((s.modCrew x.k fun c => (c.applyLane x.u (sem x s)).pushLast x.pipe ((c.applyLane x.u (sem x s)).lastOf x.a.dst)).clearSoft x.k
      (sem x s).writes).crews.get? x.k = some ((x.c.applyLane x.u (sem x s)).pushLast x.pipe ((x.c.applyLane x.u (sem x s)).lastOf x.a.dst)) := by
    rw [State.clearSoft_crews, State.modCrew_get?_self, hc]; rfl
  obtain ⟨c', hc', hd, -⟩ := x.ends_crew _ hcrew
  have hfl : c'.fflags = x.c.fflags ||| (sem x s).flags := by
    rw [Crew.data_pushLast] at hd
    have : c'.fflags = (x.c.applyLane x.u (sem x s)).fflags := congrArg (fun d => d.2.2.2.1) hd
    rw [this, Crew.applyLane, Crew.mergeFlags]
    dsimp only
    rw [Crew.wrote_fflags]
  show (Table.get? (x.ends _).crews x.k).map _ = _
  rw [hc', Option.map_some, hfl]

/-- An opcode's destination is a register or zero (R53). -/
def LaneDst (op : Nat) : Prop := ∀ a : Args, a.ok op = true → (a.dst.isReg || a.dst == .zero) = true

/-- An opcode's destination, by the row of its operand table. -/
theorem Args.dst_accepted {op : Nat} {a : Args} {r : Row} (h : a.ok op = true) (h0 : (op == 0) = false) (hr : row? op = some r) :
    r.dst.accepts false a.dst = true := by
  unfold Args.ok Row.accepts at h
  rw [h0, hr] at h
  simp only [Bool.false_eq_true, if_false, Bool.and_eq_true] at h
  tauto

theorem laneDst_of_row {op : Nat} {r : Row} (h0 : (op == 0) = false) (hr : row? op = some r) (hd : r.dst = .dst) : LaneDst op := by
  intro a h
  have := Args.dst_accepted h h0 hr
  rw [hd] at this
  simpa [Slot.accepts, or_comm] using this

/-- A fixed-latency instruction gives its lanes' results. -/
theorem givesFloat_of_lane {op : Nat} {ctor : Args → Instr} {Q : Ctx → Nat → Word → BitVec 7 → Prop} (f : Ctx → State → Nat → LaneRes)
    (harm : ∀ a s, exec (ctor a) s = issue op a (fixedLane (perLane false f)) s) (hdst : LaneDst op)
    (hQ : ∀ x s l, x.a.ok op = true → Q x l (f x s l).lo (f x s l).fl) : GivesFloat op ctor Q := by
  intro x s hready
  obtain ⟨-, hc, hu, -, -⟩ := Ctx.ready_at hready
  have hok := Ctx.ready_ok hready
  refine ⟨_, fun l => (f x (x.start s) l).lo, fun l => (f x (x.start s) l).fl, (harm _ _).trans (issue_ready hready _), fun l hl => ?_, ?_,
    fun l _ => hQ x _ l hok⟩
  · exact Ctx.reads_fixedLane_word x f (x.start s) (by simpa using hc) hu (hdst _ hok) hl
  · rw [Ctx.flagsIn_fixedLane x _ _ (by simpa using hc), perLane_flags]

/-! ## Variable-latency instructions -/

/-- The result that a variable-latency instruction puts on its way. -/
def Ctx.sent (x : Ctx) (s : State) (o : LaneOut) : Result :=
  { id := x.c.nextId, due := s.ck + 1, unit := x.u, writes := o.writes, flags := o.flags, parts := 0, ldc := false, tok := none }

/-- The effect of a variable-latency instruction: its result is the youngest on its way, and nothing else of the crew's data changes. -/
theorem Ctx.sends (x : Ctx) (s : State) (sem : LaneSem) (hc : s.crews.get? x.k = some x.c) (hu : x.c.units.get? x.u = some x.h) :
    ∃ t c, applyRes x s (variableLane sem x s) = t ∧ t.crews.get? x.k = some c ∧
      c.data = (x.c.pool, x.c.sregs, x.c.oregs, x.c.fflags, x.c.tokens, x.c.out ++ [x.sent s (sem x s)]) ∧ x.goesOn t ∧
      t.mem = s.mem ∧ t.blocks = s.blocks ∧ ∀ k, k ≠ x.k → t.crews.get? k = s.crews.get? k := by
  have hcrew := congrArg (Option.map fun c : Crew => (c.addResult { x.sent s (sem x s) with id := 0 }).pushLast x.pipe none) hc
  rw [← State.modCrew_get?_self, Option.map_some] at hcrew
  have hunits : (((x.c.addResult { x.sent s (sem x s) with id := 0 }).pushLast x.pipe none).units.get? x.u).isSome := by
    have e : ((x.c.addResult { x.sent s (sem x s) with id := 0 }).pushLast x.pipe none).units = x.c.units := by
      unfold Crew.pushLast; split
      · split_ifs <;> rfl
      · rfl
    rw [e, hu]; rfl
  obtain ⟨c', hc', hd, -⟩ := x.ends_crew _ hcrew
  refine ⟨_, c', rfl, hc', ?_, x.ends_goesOn _ hcrew hunits, ?_, ?_, fun k hk => ?_⟩
  · rw [hd, Crew.data_pushLast]; rfl
  · exact (x.ends_mem _).trans (State.modCrew_mem ..)
  · exact (x.ends_blocks _).trans (State.modCrew_blocks ..)
  · exact (x.ends_other _ hk).trans (State.modCrew_get?_of_ne _ _ hk)

theorem Ctx.awaits_sent (x : Ctx) {s t : State} {o : LaneOut} {c : Crew} (hc : t.crews.get? x.k = some c)
    (hd : c.data = (x.c.pool, x.c.sregs, x.c.oregs, x.c.fflags, x.c.tokens, x.c.out ++ [x.sent s o])) : x.awaits s t (x.sent s o) := by
  have hout : c.out = x.c.out ++ [x.sent s o] := congrArg (fun d => d.2.2.2.2.2) hd
  exact ⟨by simp [State.youngest, hc, hout], rfl, rfl, rfl⟩

/-- The registers once the result of a lane instruction has returned. -/
theorem Ctx.readsIn_after (x : Ctx) (f : Ctx → State → Nat → LaneRes) (s : State) (hu : x.c.units.get? x.u = some x.h)
    (hd : (x.a.dst.isReg || x.a.dst == .zero) = true) {l : Nat} (hl : l < 96) (s' : State) :
    x.readsIn (x.after (x.sent s' (perLane false f x s))) x.a.dst l = x.landed x.a.dst (fun l => (f x s l).lo) l := by
  have hc : (s.setCrew x.k x.c).crews.get? x.k = some x.c := by simp
  have hp : plainOpnd x.a.dst = true := by revert hd; unfold plainOpnd; cases x.a.dst.isReg <;> simp +contextual
  have h := Ctx.reads_fixedLane_word x (fun x _ l => f x s l) (s.setCrew x.k x.c) hc hu hd hl
  rw [Ctx.reads_fixedLane x _ _ hc hp] at h
  rw [← h]
  unfold Ctx.reads Ctx.readsIn
  rw [State.setCrew_crews, Table.get?_put_self]
  rfl

/-- A variable-latency instruction sends its lanes' results. -/
theorem sendsFloat_of_lane {op : Nat} {ctor : Args → Instr} {Q : Ctx → Nat → Word → BitVec 7 → Prop} (f : Ctx → State → Nat → LaneRes)
    (harm : ∀ a s, exec (ctor a) s = issue op a (variableLane (perLane false f)) s) (hdst : LaneDst op)
    (hQ : ∀ x s l, x.a.ok op = true → Q x l (f x s l).lo (f x s l).fl) : SendsFloat op ctor Q := by
  intro x s hready
  obtain ⟨-, hc, hu, -, -⟩ := Ctx.ready_at hready
  have hok := Ctx.ready_ok hready
  have hc' : (x.start s).crews.get? x.k = some x.c := by simpa using hc
  obtain ⟨t, c, ht, hcrew, hd, -⟩ := x.sends (x.start s) (perLane false f) hc' hu
  have hw := x.awaits_sent hcrew hd
  refine ⟨t, _, fun l => (f x (x.start s) l).lo, fun l => (f x (x.start s) l).fl,
    ((harm _ _).trans (issue_ready hready _)).trans (congrArg _ ht), hw, fun l hl => ?_, perLane_flags _ _ _ _, fun l _ => hQ x _ l hok⟩
  exact x.readsIn_after f _ hu (hdst _ hok) hl _

end Sys2Proof.Machine
end

section
/-! PROOFS. Quotients and roots (R35, R153, R158): a value known to a fine unit with a sticky bit below it is rounded as the exact one. -/

namespace Sys2Proof.Machine

/-! ## Words and values -/

/-- An encoding's bits above its width do not matter. -/
theorem Fmt.decode_mod (f : Fmt) (x : Nat) : f.decode (x % 2 ^ f.width) = f.decode x := by
  have hb (lo w : Nat) (h : lo + w ≤ f.width) : bits (x % 2 ^ f.width) lo w = bits x lo w := by
    unfold bits
    obtain ⟨k, hk⟩ := Nat.exists_eq_add_of_le h
    rw [hk, add_assoc, pow_add 2 lo, Nat.mod_mul_right_div_self, pow_add 2 w, Nat.mod_mod_of_dvd _ (Dvd.intro _ rfl)]
  unfold Fmt.decode
  rw [hb _ _ (by unfold Fmt.width; omega), hb _ _ (by unfold Fmt.width; omega), hb _ _ (by unfold Fmt.width; omega),
    hb _ _ (by unfold Fmt.width; omega)]

theorem fpOf_wordOf (n : Nat) : fpOf (wordOf n) = fp32.decode n := by
  rw [← fp32.decode_mod]
  rfl

theorem fp32_mem : fp32 ∈ formats := by decide

/-- A rounding's bits fit the format. -/
theorem Fmt.Rounds.lt_width {f : Fmt} (hf : f ∈ formats) {rnd : Nat} {n : Bool} {A : ℚ} {lo g : Nat} {r : FRes}
    (h : f.Rounds rnd n A lo g r) : r.1 < 2 ^ f.width := by
  have hinf : ∀ n, f.infinity n < 2 ^ f.width := by fin_cases hf <;> decide
  have hmax : ∀ n, f.signBit n + f.largest < 2 ^ f.width := by fin_cases hf <;> decide
  have hover : f.overflow rnd n < 2 ^ f.width := by
    unfold Fmt.overflow
    dsimp only
    split_ifs
    · exact hinf n
    · exact hmax n
  obtain ⟨-, -, -, exact, tiny, -, -, rfl⟩ := h
  split_ifs with hg
  · exact hover
  · exact (f.finites_magnitude hf n (not_lt.1 hg)).1

theorem toNat_wordOf {n : Nat} (h : n < 2 ^ 32) : (wordOf n).toNat = n := by
  rw [wordOf, BitVec.toNat_ofNat, Nat.mod_eq_of_lt h]

/-- A finite value's parts. -/
theorem Fmt.decode_bounds {f : Fmt} (hf : f ∈ formats) {x : Nat} {n : Bool} {m : Nat} {e : Int} (h : f.decode x = .num n m e) :
    m < 2 ^ (f.fw + 1) ∧ f.qmin ≤ e ∧ -149 ≤ e ∧ e + f.fw ≤ 127 := by
  have hm : bits x 0 f.fw < 2 ^ f.fw := Nat.mod_lt _ (Nat.two_pow_pos _)
  have he : bits x f.fw f.ew < 2 ^ f.ew := Nat.mod_lt _ (Nat.two_pow_pos _)
  unfold Fmt.decode at h
  dsimp only at h
  split_ifs at h with hall _ hnan hsub <;> obtain ⟨-, rfl, rfl⟩ := Fp.num.inj h
  · refine ⟨hm.trans (Nat.pow_lt_pow_right (by norm_num) (Nat.lt_succ_self _)), le_rfl, ?_⟩
    fin_cases hf <;> decide
  · refine ⟨by rw [pow_succ]; omega, by omega, ?_⟩
    generalize bits x f.fw f.ew = E at *
    fin_cases hf <;> simp [fp32, bf16, fp16, e4m3, Fmt.qmin] at hall he hsub ⊢ <;> omega

theorem fp32_bounds {x : Nat} {n : Bool} {m : Nat} {e : Int} (h : fp32.decode x = .num n m e) : m < 2 ^ 24 ∧ -149 ≤ e ∧ e ≤ 104 := by
  obtain ⟨hm, -, he, he'⟩ := Fmt.decode_bounds fp32_mem h
  exact ⟨hm, he, by rw [show fp32.fw = 23 from rfl] at he'; omega⟩

/-! ## The sticky bit -/

/-- A value whose whole part M in a fine unit is known, with a sticky bit for the rest, is rounded as it is. -/
theorem Fmt.rounds_roundSticky (f : Fmt) (hfw : 1 ≤ f.fw) (rnd : Nat) (n : Bool) {M : Nat} (hM : 2 ^ (f.fw + 2) ≤ M) {E : Int} {A : ℚ}
    {st : Bool} (h1 : (M : ℚ) * 2 ^ E ≤ A) (h2 : A < (M + 1) * 2 ^ E) (hst : st = true ↔ A ≠ M * 2 ^ E) :
    ∃ lo g, f.Rounds rnd n A lo g (f.roundSticky rnd n M E st) := by
  have hM0 : M ≠ 0 := by have := Nat.two_pow_pos (f.fw + 2); omega
  unfold Fmt.roundSticky
  cases st with
  | false =>
    have hA : A = M * 2 ^ E := by simpa using hst
    rw [hA, if_neg (by simp), if_neg hM0]
    exact f.rounds_roundNum hfw rnd n hM0 E
  | true =>
    have hA := lt_of_le_of_ne h1 (hst.1 rfl).symm
    have hE : (0 : ℚ) < 2 ^ E := by positivity
    have hhalf : ((2 * M + 1 : Nat) : ℚ) * 2 ^ (E - 1) = (M + 1 / 2) * 2 ^ E := by
      rw [zpow_sub₀ (by norm_num)]; push_cast; ring
    obtain ⟨lo, g, h⟩ := f.rounds_roundNum hfw rnd n (Nat.succ_ne_zero (2 * M)) (E - 1)
    refine ⟨lo, g, h.congr (f.alike_of_between hM ?_ ?_ hA h2)⟩
    · rw [hhalf]; gcongr; linarith
    · rw [hhalf]; gcongr; linarith

/-! ## Quotients -/

theorem lt_two_pow_bitLen (m : Nat) : m < 2 ^ bitLen m := by
  rcases eq_or_ne m 0 with rfl | h
  · decide
  · exact (bitLen_bounds h).2.2

/-- `divNat` gives the whole part of a quotient in a unit 2^-k, with at least 64 bits, and whether a rest is left. -/
theorem divNat_spec {m m' : Nat} (hm : m ≠ 0) (hm' : m' ≠ 0) :
    2 ^ 64 ≤ (divNat m m').1 ∧ ((divNat m m').1 : ℚ) / 2 ^ (divNat m m').2.1 ≤ (m : ℚ) / m' ∧
    (m : ℚ) / m' < ((divNat m m').1 + 1) / 2 ^ (divNat m m').2.1 ∧
    ((divNat m m').2.2 = true ↔ (m : ℚ) / m' ≠ (divNat m m').1 / 2 ^ (divNat m m').2.1) := by
  unfold divNat
  dsimp only
  generalize hk : 64 + bitLen m' = k
  have hpos : (0 : ℚ) < m' := by positivity
  have hp : (0 : ℚ) < 2 ^ k := by positivity
  have hdiv : (m : ℚ) * 2 ^ k = m' * (m * 2 ^ k / m' : Nat) + (m * 2 ^ k % m' : Nat) := by
    exact_mod_cast (Nat.div_add_mod (m * 2 ^ k) m').symm
  have hmod : ((m * 2 ^ k % m' : Nat) : ℚ) < m' := by exact_mod_cast Nat.mod_lt _ (Nat.pos_of_ne_zero hm')
  refine ⟨?_, ?_, ?_, ?_⟩
  · rw [Nat.le_div_iff_mul_le (Nat.pos_of_ne_zero hm'), ← hk, pow_add]
    have := (lt_two_pow_bitLen m').le
    calc 2 ^ 64 * m' ≤ 2 ^ 64 * 2 ^ bitLen m' := by gcongr
      _ ≤ m * (2 ^ 64 * 2 ^ bitLen m') := Nat.le_mul_of_pos_left _ (Nat.pos_of_ne_zero hm)
  · rw [div_le_div_iff₀ hp hpos]
    linarith [(m * 2 ^ k % m' : Nat).cast_nonneg (α := ℚ)]
  · rw [div_lt_div_iff₀ hpos hp]
    linarith
  · rw [ne_eq, div_eq_div_iff hpos.ne' hp.ne', bne_iff_ne, not_iff_not, hdiv]
    constructor
    · intro h; rw [h]; push_cast; ring
    · intro h
      have : ((m * 2 ^ k % m' : Nat) : ℚ) = 0 := by linarith
      exact_mod_cast this

/-- A quotient, scaled by 2^e and rounded once. -/
theorem Fmt.rounds_quotient (f : Fmt) (hf : f ∈ formats) (rnd : Nat) (n : Bool) {m m' : Nat} (hm : m ≠ 0) (hm' : m' ≠ 0) (e : Int) :
    ∃ lo g, f.Rounds rnd n ((m : ℚ) / m' * 2 ^ e) lo g
      (f.roundSticky rnd n (divNat m m').1 (e - (divNat m m').2.1) (divNat m m').2.2) := by
  obtain ⟨hbits, h1, h2, hst⟩ := divNat_spec hm hm'
  generalize divNat m m' = d at *
  have hfw : f.fw + 2 ≤ 64 := by fin_cases hf <;> decide
  have he : (0 : ℚ) < 2 ^ e := by positivity
  have hz (a : ℚ) : a * 2 ^ (e - (d.2.1 : Int)) = a / 2 ^ d.2.1 * 2 ^ e := by
    rw [zpow_sub₀ (by norm_num), zpow_natCast]; ring
  refine f.rounds_roundSticky (f.fw_pos hf) rnd n ((Nat.pow_le_pow_right (by norm_num) hfw).trans hbits) ?_ ?_ ?_
  · rw [hz]; gcongr
  · rw [hz]; gcongr
  · rw [hz, hst, ne_eq, ne_eq, mul_left_inj' he.ne']

theorem signedValue_div (a b : Bool) (A B : ℚ) : signedValue a A / signedValue b B = signedValue (a != b) (A / B) := by
  cases a <;> cases b <;> simp [signedValue, neg_div, div_neg]

theorem fDiv_num (rnd : Nat) (n n' : Bool) {m m' : Nat} (hm : m ≠ 0) (hm' : m' ≠ 0) (e e' : Int) :
    fDiv rnd (.num n m e) (.num n' m' e') =
      fp32.roundSticky rnd (n != n') (divNat m m').1 (e - e' - (divNat m m').2.1) (divNat m m').2.2 := by
  unfold fDiv
  simp [anyNan, Fp.isNan, Fp.neg?, hm, hm']

/-- FDIV of finite operands that are not zero. -/
theorem fDiv_roundedTo {rnd : Nat} (hrnd : rnd < 4) {x y : Fp} (hx : x.finite = true) (hy : y.finite = true) (hx0 : x.isZero = false)
    (hy0 : y.isZero = false) :
    RoundedTo fp32 rnd (x.neg? != y.neg?) (x.rat / y.rat) (wordOf (fDiv rnd x y).1).toNat (fDiv rnd x y).2 := by
  match x, y with
  | .num n m e, .num n' m' e' =>
    have hm : m ≠ 0 := by simpa [Fp.isZero] using hx0
    have hm' : m' ≠ 0 := by simpa [Fp.isZero] using hy0
    obtain ⟨lo, g, h⟩ := fp32.rounds_quotient fp32_mem rnd (n != n') hm hm' (e - e')
    rw [← fDiv_num rnd n n' hm hm' e e'] at h
    have hA : (m : ℚ) * 2 ^ e / (m' * 2 ^ e') = m / m' * 2 ^ (e - e') := by rw [zpow_sub₀ (by norm_num)]; field_simp
    rw [Fp.rat_num, Fp.rat_num, signedValue_div, hA, toNat_wordOf (h.lt_width fp32_mem)]
    exact h.roundedTo fp32_mem hrnd (by positivity)

theorem fRcp_num (n : Bool) {m : Nat} (hm : m ≠ 0) (e : Int) :
    fRcp (.num n m e) = fp32.roundSticky 0 n (divNat 1 m).1 (-e - (divNat 1 m).2.1) (divNat 1 m).2.2 := by
  simp [fRcp, hm]

/-- RCP of a finite operand that is not zero. -/
theorem fRcp_roundedTo {x : Fp} (hx : x.finite = true) (hx0 : x.isZero = false) :
    RoundedTo fp32 0 x.neg? (1 / x.rat) (wordOf (fRcp x).1).toNat (fRcp x).2 := by
  match x with
  | .num n m e =>
    have hm : m ≠ 0 := by simpa [Fp.isZero] using hx0
    obtain ⟨lo, g, h⟩ := fp32.rounds_quotient fp32_mem 0 n one_ne_zero hm (-e)
    rw [← fRcp_num n hm e] at h
    have hA : 1 / signedValue n (m * 2 ^ e) = signedValue n ((1 : Nat) / m * 2 ^ (-e)) := by
      rw [zpow_neg]; cases n <;> simp [signedValue] <;> field_simp
    rw [Fp.rat_num, hA, toNat_wordOf (h.lt_width fp32_mem)]
    exact h.roundedTo fp32_mem (by norm_num) (by positivity)

/-! ## Roots -/

theorem isqrtFrom_spec (n i r : Nat) (h1 : r * r ≤ n) (h2 : n < (r + 2 ^ i) * (r + 2 ^ i)) :
    isqrtFrom n i r * isqrtFrom n i r ≤ n ∧ n < (isqrtFrom n i r + 1) * (isqrtFrom n i r + 1) := by
  induction i generalizing r with
  | zero => exact ⟨h1, by simpa [isqrtFrom] using h2⟩
  | succ i ih =>
    rw [isqrtFrom]
    split_ifs with h
    · exact ih _ h (by rw [pow_succ] at h2; convert h2 using 2 <;> ring)
    · exact ih _ h1 (not_le.1 h)

/-- `isqrt` is the whole part of the root. -/
theorem isqrt_spec (n : Nat) : isqrt n * isqrt n ≤ n ∧ n < (isqrt n + 1) * (isqrt n + 1) := by
  refine isqrtFrom_spec n _ 0 (Nat.zero_le _) ?_
  rw [zero_add, ← pow_add]
  exact (lt_two_pow_bitLen n).trans_le (Nat.pow_le_pow_right (by norm_num) (by omega))

/-- A result is the FP32 value nearest to the root of S: no finite value lies nearer, and IX says that it is not the root. -/
def NearestRoot (S w : ℚ) (fl : BitVec 7) : Prop :=
  0 < w ∧ (fl.getLsbD 0 = true ↔ w ^ 2 ≠ S) ∧ ∀ c, fp32.finites c → 0 ≤ (fp32.decode c).rat →
    ((fp32.decode c).rat < w → ((fp32.decode c).rat + w) ^ 2 ≤ 4 * S) ∧ (w < (fp32.decode c).rat → 4 * S ≤ ((fp32.decode c).rat + w) ^ 2)

/-- Every coarse number lies on the same side of A as its square of S. -/
def Fmt.RootAlike (f : Fmt) (A S : ℚ) : Prop := ∀ T, 0 ≤ T → f.Coarse T → (T < A ↔ T ^ 2 < S) ∧ (A < T ↔ S < T ^ 2)

theorem Fmt.rootAlike_of_between (f : Fmt) {M : Nat} (hM : 2 ^ (f.fw + 2) ≤ M) {E : Int} {A S : ℚ} (hA : (M : ℚ) * 2 ^ E < A)
    (hA' : A < (M + 1) * 2 ^ E) (hS : ((M : ℚ) * 2 ^ E) ^ 2 < S) (hS' : S < ((M + 1) * 2 ^ E) ^ 2) : f.RootAlike A S := by
  intro T h0 hT
  rcases hT.le_or_le hM E with h | h
  · have hsq : T ^ 2 ≤ ((M : ℚ) * 2 ^ E) ^ 2 := by gcongr
    exact ⟨iff_of_true (h.trans_lt hA) (hsq.trans_lt hS), iff_of_false (h.trans_lt hA).not_gt (hsq.trans_lt hS).not_gt⟩
  · have hsq : (((M : ℚ) + 1) * 2 ^ E) ^ 2 ≤ T ^ 2 := by gcongr
    exact ⟨iff_of_false (hA'.trans_le h).not_gt (hS'.trans_le hsq).not_gt, iff_of_true (hA'.trans_le h) (hS'.trans_le hsq)⟩

/-- The value that is rounded for the root of S. -/
theorem Fmt.rounds_root (f : Fmt) (hfw : 1 ≤ f.fw) {M : Nat} (hM : 2 ^ (f.fw + 2) ≤ M) {E : Int} {S : ℚ} {st : Bool}
    (h1 : ((M : ℚ) * 2 ^ E) ^ 2 ≤ S) (h2 : S < ((M + 1) * 2 ^ E) ^ 2) (hst : st = true ↔ S ≠ (M * 2 ^ E) ^ 2) :
    ∃ A lo g, 0 < A ∧ f.RootAlike A S ∧ f.Rounds 0 false A lo g (f.roundSticky 0 false M E st) := by
  have hM0 : (0 : ℚ) < M := by exact_mod_cast (Nat.two_pow_pos _).trans_le hM
  have hE : (0 : ℚ) < 2 ^ E := by positivity
  cases st with
  | false =>
    obtain ⟨lo, g, h⟩ := f.rounds_roundSticky hfw 0 false hM (E := E) (A := M * 2 ^ E) (st := false) le_rfl (by gcongr; linarith) (by simp)
    have hS : S = (M * 2 ^ E) ^ 2 := by simpa using hst
    refine ⟨_, lo, g, by positivity, fun T h0 _ => ?_, h⟩
    rw [hS, sq_lt_sq₀ h0 (by positivity), sq_lt_sq₀ (by positivity) h0]
    exact ⟨Iff.rfl, Iff.rfl⟩
  | true =>
    have ha : (M : ℚ) * 2 ^ E < (M + 1 / 2) * 2 ^ E := by gcongr; linarith
    have hb : ((M : ℚ) + 1 / 2) * 2 ^ E < (M + 1) * 2 ^ E := by gcongr; linarith
    obtain ⟨lo, g, h⟩ := f.rounds_roundSticky hfw 0 false hM (st := true) ha.le hb (by simpa using ha.ne')
    exact ⟨_, lo, g, by positivity, f.rootAlike_of_between hM ha hb (lt_of_le_of_ne h1 (hst.1 rfl).symm) h2, h⟩

/-- Under nearest, half the way to the magnitude before is not past A, nor A past half the way to the one after. -/
theorem Fmt.Rounds.middle_le {f : Fmt} {n : Bool} {A : ℚ} {lo g : Nat} {r : FRes} (h : f.Rounds 0 n A lo g r) {c : Nat} (hc : c < g) :
    (f.value c + f.value g) / 2 ≤ A := by
  have hlt := f.value_strictMono hc
  have := (h.nearest c).1
  by_contra hA
  rcases abs_cases (f.value g - A) with e | e <;> rcases abs_cases (f.value c - A) with e' | e' <;> linarith

theorem Fmt.Rounds.le_middle {f : Fmt} {n : Bool} {A : ℚ} {lo g : Nat} {r : FRes} (h : f.Rounds 0 n A lo g r) {c : Nat} (hc : g < c) :
    A ≤ (f.value g + f.value c) / 2 := by
  have hlt := f.value_strictMono hc
  have := (h.nearest c).1
  by_contra hA
  rcases abs_cases (f.value g - A) with e | e <;> rcases abs_cases (f.value c - A) with e' | e' <;> linarith

/-- The rounded root is the nearest value, where the root lies in the format's range. -/
theorem nearestRoot_of_rounds {A S : ℚ} {lo g : Nat} {r : FRes} (h : fp32.Rounds 0 false A lo g r) (hAS : fp32.RootAlike A S)
    (hlow : fp32.value 1 ^ 2 ≤ S) (hhigh : S < fp32.value fp32.largest ^ 2) :
    r.1 < 2 ^ 32 ∧ NearestRoot S (fp32.decode r.1).rat r.2 := by
  refine ⟨h.lt_width fp32_mem, ?_⟩
  have side (c : Nat) := hAS _ (fp32.value_nonneg c) (fp32.coarse_value c)
  have hg1 : 1 ≤ g := by
    refine le_trans ?_ (picks_le h.2.2.1).1
    rw [← h.le_lo_iff, ← not_lt, (side 1).2, not_lt]
    exact hlow
  have hg : g ≤ fp32.largest := by
    have hlt : ¬ fp32.largest ≤ lo := by
      rw [← h.le_lo_iff, not_le, (side _).2]
      exact hhigh
    have := (picks_le h.2.2.1).2
    omega
  have hrat : (fp32.decode r.1).rat = fp32.value g := by
    have hr : r.1 = fp32.signBit false + g := by
      obtain ⟨-, -, -, exact, tiny, -, -, rfl⟩ := h
      rw [if_neg (not_lt.2 hg)]
    rw [hr, fp32.rat_magnitude fp32_mem false hg]
    simp [signedValue]
  have hix : r.2.getLsbD 0 = true ↔ fp32.value g ≠ A := by
    obtain ⟨-, -, -, exact, tiny, hex, -, hr⟩ := id h
    rw [ne_eq, h.exact_iff, ← hex, hr, if_neg (not_lt.2 hg), (rounding_flags exact tiny).1]
    simp
  have hsq : fp32.value g = A ↔ fp32.value g ^ 2 = S := by
    obtain ⟨h1, h2⟩ := side g
    rw [eq_iff_le_not_lt, eq_iff_le_not_lt (a := fp32.value g ^ 2), ← not_lt, h1, h2, not_lt]
  refine ⟨?_, by rw [hix, hrat, ne_eq, hsq], fun c hc h0 => ?_⟩
  · rw [hrat, ← fp32.value_zero]
    exact fp32.value_strictMono hg1
  obtain ⟨c', hc'⟩ : ∃ c', (fp32.decode c).rat = fp32.value c' := by
    obtain ⟨n, c', hle, rfl⟩ := fp32.exists_magnitude fp32_mem hc
    rw [fp32.rat_magnitude fp32_mem n hle] at h0 ⊢
    cases n
    · exact ⟨c', by simp [signedValue]⟩
    · have hv := fp32.value_nonneg c'
      exact ⟨0, by simp [signedValue] at h0 ⊢; linarith⟩
  rw [hrat, hc']
  have hv := fp32.value_nonneg c'
  have hvg := fp32.value_nonneg g
  constructor
  · intro hlt
    have hcg := fp32.value_strictMono.lt_iff_lt.1 hlt
    obtain ⟨g', rfl⟩ := Nat.exists_eq_add_of_le' hg1
    have hv' := fp32.value_nonneg g'
    have hcg' : fp32.value c' ≤ fp32.value g' := fp32.value_le_iff.2 (Nat.lt_succ_iff.1 hcg)
    have hm := (hAS _ (by linarith) (fp32.coarse_middle g')).2.not.1 (not_lt.2 (h.middle_le (Nat.lt_succ_self g')))
    have hmono : (fp32.value c' + fp32.value (g' + 1)) ^ 2 ≤ (fp32.value g' + fp32.value (g' + 1)) ^ 2 := by gcongr
    linarith [not_lt.1 hm]
  · intro hlt
    have hcg := fp32.value_strictMono.lt_iff_lt.1 hlt
    have hcg' : fp32.value (g + 1) ≤ fp32.value c' := fp32.value_le_iff.2 hcg
    have hv' := fp32.value_nonneg (g + 1)
    have hm := (hAS _ (by linarith) (fp32.coarse_middle g)).1.not.1 (not_lt.2 (h.le_middle (Nat.lt_succ_self g)))
    have hmono : (fp32.value g + fp32.value (g + 1)) ^ 2 ≤ (fp32.value c' + fp32.value g) ^ 2 := by
      rw [add_comm (fp32.value c')]; gcongr
    linarith [not_lt.1 hm]

/-- Enough bits of a root: its whole part is not small. -/
theorem two_pow_le_isqrt {n k : Nat} (h : 2 ^ (2 * k) ≤ n) : 2 ^ k ≤ isqrt n := by
  by_contra hlt
  have h2 := (isqrt_spec n).2
  have : (isqrt n + 1) * (isqrt n + 1) ≤ 2 ^ k * 2 ^ k := Nat.mul_le_mul (by omega) (by omega)
  rw [← pow_add, ← two_mul] at this
  omega

/-- The range of the roots: squares of the least and the greatest finite value. -/
theorem fp32_square_range : fp32.value 1 ^ 2 = (2 : ℚ) ^ (-298 : Int) ∧ (2 : ℚ) ^ (254 : Int) ≤ fp32.value fp32.largest ^ 2 := by
  have h1 : fp32.value 1 = (2 : ℚ) ^ (-149 : Int) := by norm_num [Fmt.value, fp32, Fmt.qmin]
  refine ⟨by rw [h1, ← zpow_natCast, ← zpow_mul]; norm_num, ?_⟩
  norm_num [Fmt.value, fp32, Fmt.qmin, Fmt.largest]

theorem sq_zpow (a : ℚ) (E : Int) : (a * 2 ^ E) ^ 2 = a * a * 2 ^ (2 * E) := by
  rw [two_mul, zpow_add₀ (by norm_num)]; ring

/-- SQRT of a number greater than zero. -/
theorem fSqrt_nearest {m : Nat} (hm : m ≠ 0) (hm24 : m < 2 ^ 24) {e : Int} (he : -149 ≤ e) (he' : e ≤ 104) :
    (fSqrt (.num false m e)).1 < 2 ^ 32 ∧ NearestRoot (m * 2 ^ e) (fp32.decode (fSqrt (.num false m e)).1).rat (fSqrt (.num false m e)).2 := by
  have hfn : fSqrt (.num false m e) =
      let k : Nat := if e % 2 = 0 then 128 else 129
      fp32.roundSticky 0 false (isqrt (m * 2 ^ k)) ((e - (k : Int)) / 2) (isqrt (m * 2 ^ k) * isqrt (m * 2 ^ k) != m * 2 ^ k) := by
    simp [fSqrt, hm]
  rw [hfn]
  dsimp only
  generalize hk : (if e % 2 = 0 then 128 else 129 : Nat) = k
  have hk128 : 128 ≤ k := by split_ifs at hk <;> omega
  have heven : 2 * ((e - (k : Int)) / 2) = e - k := by split_ifs at hk <;> omega
  obtain ⟨h1, h2⟩ := isqrt_spec (m * 2 ^ k)
  have hbits : 2 ^ 64 ≤ isqrt (m * 2 ^ k) := two_pow_le_isqrt
    ((Nat.pow_le_pow_right (by norm_num) hk128).trans (Nat.le_mul_of_pos_left _ (Nat.pos_of_ne_zero hm)))
  generalize isqrt (m * 2 ^ k) = M at *
  have hS : (m : ℚ) * 2 ^ e = ((m * 2 ^ k : Nat) : ℚ) * 2 ^ (e - (k : Int)) := by
    rw [zpow_sub₀ (by norm_num), zpow_natCast]; push_cast; field_simp
  have hz : (0 : ℚ) < 2 ^ (e - (k : Int)) := by positivity
  obtain ⟨A, lo, g, -, hAS, h⟩ := fp32.rounds_root (by decide) (M := M) (E := (e - (k : Int)) / 2) (S := m * 2 ^ e) (st := M * M != m * 2 ^ k)
    ((by decide : 2 ^ (fp32.fw + 2) ≤ 2 ^ 64).trans hbits)
    (by rw [sq_zpow, heven, hS]; gcongr; exact_mod_cast h1) (by rw [sq_zpow, heven, hS]; gcongr; exact_mod_cast h2)
    (by rw [sq_zpow, heven, hS, ne_eq, mul_left_inj' hz.ne', bne_iff_ne, ne_comm, ne_eq]; norm_cast)
  obtain ⟨hr1, hr2⟩ := fp32_square_range
  refine nearestRoot_of_rounds h hAS ?_ (lt_of_lt_of_le ?_ hr2)
  · rw [hr1]
    have hm1 : (1 : ℚ) ≤ m := by exact_mod_cast Nat.one_le_iff_ne_zero.2 hm
    calc (2 : ℚ) ^ (-298 : Int) ≤ 2 ^ e := zpow_le_zpow_right₀ (by norm_num) (by omega)
      _ ≤ m * 2 ^ e := le_mul_of_one_le_left (by positivity) hm1
  · have hm2 : (m : ℚ) < 2 ^ 24 := by exact_mod_cast hm24
    calc (m : ℚ) * 2 ^ e < 2 ^ 24 * 2 ^ e := by gcongr
      _ = 2 ^ (24 + e) := by rw [zpow_add₀ (by norm_num)]; norm_num
      _ ≤ 2 ^ (254 : Int) := zpow_le_zpow_right₀ (by norm_num) (by omega)

/-- RSQ of a number greater than zero. -/
theorem fRsq_nearest {m : Nat} (hm : m ≠ 0) (hm24 : m < 2 ^ 24) {e : Int} (he : -149 ≤ e) (he' : e ≤ 104) :
    (fRsq (.num false m e)).1 < 2 ^ 32 ∧ NearestRoot (1 / (m * 2 ^ e)) (fp32.decode (fRsq (.num false m e)).1).rat (fRsq (.num false m e)).2 := by
  have hfn : fRsq (.num false m e) =
      let t : Nat := if e % 2 = 0 then 192 else 193
      fp32.roundSticky 0 false (isqrt (2 ^ t / m)) (-((e + (t : Int)) / 2)) (isqrt (2 ^ t / m) * isqrt (2 ^ t / m) * m != 2 ^ t) := by
    simp [fRsq, hm]
  rw [hfn]
  dsimp only
  generalize ht : (if e % 2 = 0 then 192 else 193 : Nat) = t
  have ht192 : 192 ≤ t := by split_ifs at ht <;> omega
  have heven : 2 * (-((e + (t : Int)) / 2)) = -(e + t) := by split_ifs at ht <;> omega
  have hm0 := Nat.pos_of_ne_zero hm
  obtain ⟨h1, h2⟩ := isqrt_spec (2 ^ t / m)
  have hbits : 2 ^ 64 ≤ isqrt (2 ^ t / m) := two_pow_le_isqrt <| by
    rw [Nat.le_div_iff_mul_le hm0]
    calc 2 ^ (2 * 64) * m ≤ 2 ^ (2 * 64) * 2 ^ 24 := by gcongr
      _ ≤ 2 ^ t := by rw [← pow_add]; exact Nat.pow_le_pow_right (by norm_num) (by omega)
  rw [Nat.le_div_iff_mul_le hm0] at h1
  rw [Nat.div_lt_iff_lt_mul hm0] at h2
  generalize isqrt (2 ^ t / m) = M at *
  have hmq : (0 : ℚ) < m := by exact_mod_cast hm0
  have hS : 1 / ((m : ℚ) * 2 ^ e) = ((2 ^ t : Nat) : ℚ) / m * 2 ^ (-(e + (t : Int))) := by
    rw [zpow_neg, zpow_add₀ (by norm_num), zpow_natCast]; push_cast; field_simp
  have hz : (0 : ℚ) < 2 ^ (-(e + (t : Int))) := by positivity
  obtain ⟨A, lo, g, -, hAS, h⟩ := fp32.rounds_root (by decide) (M := M) (E := -((e + (t : Int)) / 2)) (S := 1 / (m * 2 ^ e))
    (st := M * M * m != 2 ^ t) ((by decide : 2 ^ (fp32.fw + 2) ≤ 2 ^ 64).trans hbits)
    (by rw [sq_zpow, heven, hS]; gcongr; rw [le_div_iff₀ hmq]; exact_mod_cast h1)
    (by rw [sq_zpow, heven, hS]; gcongr; rw [div_lt_iff₀ hmq]; exact_mod_cast h2)
    (by rw [sq_zpow, heven, hS, ne_eq, mul_left_inj' hz.ne', bne_iff_ne, ne_comm, ne_eq, div_eq_iff hmq.ne']; norm_cast)
  obtain ⟨hr1, hr2⟩ := fp32_square_range
  have hm1 : (1 : ℚ) ≤ m := by exact_mod_cast hm0
  have hm2 : (m : ℚ) < 2 ^ 24 := by exact_mod_cast hm24
  refine nearestRoot_of_rounds h hAS ?_ (lt_of_lt_of_le ?_ hr2)
  · rw [hr1, le_div_iff₀ (by positivity)]
    calc (2 : ℚ) ^ (-298 : Int) * (m * 2 ^ e) ≤ 2 ^ (-298 : Int) * (2 ^ 24 * 2 ^ (104 : Int)) := by gcongr; norm_num
      _ = 2 ^ (-298 + (24 + 104) : Int) := by rw [zpow_add₀ (by norm_num) (-298), zpow_add₀ (by norm_num) 24]; rfl
      _ ≤ 1 := zpow_le_one_of_nonpos₀ (by norm_num) (by norm_num)
  · rw [div_lt_iff₀ (by positivity)]
    calc (1 : ℚ) < 2 ^ (254 : Int) * (1 * 2 ^ (-149 : Int)) := by norm_num
      _ ≤ 2 ^ (254 : Int) * (m * 2 ^ e) := by gcongr; norm_num

/-! ## The instructions -/

theorem Ctx.fpOf_fw0 (x : Ctx) (l : Nat) : fpOf (x.fw0 l) = fp32.decode (x.fl0 l) := fpOf_wordOf _
theorem Ctx.fpOf_fw1 (x : Ctx) (l : Nat) : fpOf (x.fw1 l) = fp32.decode (x.fl1 l) := fpOf_wordOf _
theorem Ctx.fpOf_fw2 (x : Ctx) (l : Nat) : fpOf (x.fw2 l) = fp32.decode (x.fl2 l) := fpOf_wordOf _

theorem Ctx.rnd_lt (x : Ctx) : x.rnd < 4 := Nat.mod_lt _ (by norm_num)

/-- A finite value greater than zero. -/
theorem Fp.exists_of_pos {v : Fp} (hf : v.finite = true) (h : 0 < v.rat) : ∃ m e, v = .num false m e ∧ m ≠ 0 := by
  match v with
  | .num n m e =>
    rw [Fp.rat_num] at h
    have hz : (0 : ℚ) ≤ m * 2 ^ e := by positivity
    cases n
    · exact ⟨m, e, rfl, by rintro rfl; simp [signedValue] at h⟩
    · simp [signedValue] at h; linarith

/-- Settles O14: FDIV and RCP by the sticky bit's lemma, SQRT and RSQ by that of the roots. -/
theorem quotientsAndRoots : Obligations.QuotientsAndRoots := by
  refine ⟨sendsFloat_of_lane _ (fun _ _ => rfl) (laneDst_of_row rfl rfl rfl) fun x _ l _ hx hy hx0 hy0 => ?_,
    sendsFloat_of_lane _ (fun _ _ => rfl) (laneDst_of_row rfl rfl rfl) fun x _ l _ hx hx0 => ?_,
    sendsFloat_of_lane _ (fun _ _ => rfl) (laneDst_of_row rfl rfl rfl) fun x _ l _ hx hpos => ?_,
    sendsFloat_of_lane _ (fun _ _ => rfl) (laneDst_of_row rfl rfl rfl) fun x _ l _ hx hpos => ?_⟩
  · rw [x.fpOf_fw0, x.fpOf_fw1] at *
    exact fDiv_roundedTo x.rnd_lt hx hy hx0 hy0
  · rw [x.fpOf_fw0] at *
    exact fRcp_roundedTo hx hx0
  · rw [x.fpOf_fw0] at *
    obtain ⟨m, e, hd, hm⟩ := Fp.exists_of_pos hx hpos
    obtain ⟨hm24, he, he'⟩ := fp32_bounds hd
    have hq : (Fp.num false m e).rat = m * 2 ^ e := by rw [Fp.rat_num]; simp [signedValue]
    have hqpos : (0 : ℚ) < m * 2 ^ e := by positivity
    obtain ⟨-, h0, hix, hnear⟩ := fRsq_nearest hm hm24 he he'
    simp only [ofF, fpOf_wordOf, hd, hq]
    refine ⟨h0, by rw [hix, ne_eq, ne_eq, eq_div_iff hqpos.ne'], fun c hc hc0 => (hnear c hc hc0).imp (fun h hlt => ?_) fun h hlt => ?_⟩
    · rw [← le_div_iff₀ hqpos]
      exact (h hlt).trans_eq (mul_one_div _ _)
    · rw [← div_le_iff₀ hqpos]
      exact (mul_one_div _ _).symm.trans_le (h hlt)
  · rw [x.fpOf_fw0] at *
    obtain ⟨m, e, hd, hm⟩ := Fp.exists_of_pos hx hpos
    obtain ⟨hm24, he, he'⟩ := fp32_bounds hd
    have hq : (Fp.num false m e).rat = m * 2 ^ e := by rw [Fp.rat_num]; simp [signedValue]
    simp only [ofF, fpOf_wordOf, hd, hq]
    exact (fSqrt_nearest hm hm24 he he').2

end Sys2Proof.Machine
end

section
/-! PROOFS. Conversions (R32, R34, R159, R160) and the ternary unpack (R28, R161). -/

namespace Sys2Proof.Machine

/-! ## Numbers that a format has -/

/-- A number with the format's precision, not below its unit, is the value of some magnitude. -/
theorem Fmt.exists_value (f : Fmt) {m : Nat} (hm : m < 2 ^ (f.fw + 1)) (d : Nat) : ∃ g, f.value g = m * 2 ^ (f.qmin + d) := by
  induction d generalizing m with
  | zero => exact ⟨0 * 2 ^ f.fw + m, f.value_eq 0 m hm.le (.inl rfl)⟩
  | succ d ih =>
    rcases Nat.lt_or_ge m (2 ^ f.fw) with h | h
    · obtain ⟨g, hg⟩ := ih (m := 2 * m) (by rw [pow_succ]; omega)
      refine ⟨g, hg.trans ?_⟩
      rw [Nat.cast_succ, ← add_assoc, zpow_add₀ (by norm_num) _ 1]
      push_cast
      ring
    · exact ⟨(d + 1) * 2 ^ f.fw + m, f.value_eq (d + 1) m hm.le (.inr h)⟩

/-- Such a number is not changed by rounding. -/
theorem Fmt.roundNum_exact (f : Fmt) (hfw : 1 ≤ f.fw) (rnd : Nat) (n : Bool) {m : Nat} (hm0 : m ≠ 0) (hm : m < 2 ^ (f.fw + 1)) {e : Int}
    (he : f.qmin ≤ e) (hmax : (m : ℚ) * 2 ^ e ≤ f.value f.largest) :
    ∃ g, g ≤ f.largest ∧ f.value g = m * 2 ^ e ∧ f.roundNum rnd n m e = (f.signBit n + g, 0) := by
  obtain ⟨d, rfl⟩ := Int.le.dest he
  obtain ⟨c, hc⟩ := f.exists_value hm d
  obtain ⟨lo, g, h⟩ := f.rounds_roundNum hfw rnd n hm0 (f.qmin + d)
  rw [← hc] at h hmax ⊢
  have hlo : lo = c := le_antisymm (f.value_le_iff.1 h.1) ((h.le_lo_iff c).1 le_rfl)
  have hg : g = c := f.value_strictMono.injective (h.exact_iff.2 (by rw [hlo]))
  have hle := f.value_le_iff.1 hmax
  obtain ⟨-, -, -, exact, tiny, hex, -, hr⟩ := h
  have hexact : exact = true := hex.2 (by rw [hlo])
  refine ⟨c, hle, rfl, ?_⟩
  rw [hr, hg, if_neg (not_lt.2 hle), hexact]
  cases tiny <;> rfl

theorem fp32_value_largest : fp32.value fp32.largest = ((2 : ℚ) ^ 24 - 1) * 2 ^ (104 : Int) := by
  norm_num [Fmt.value, fp32, Fmt.qmin, Fmt.largest]

/-- Numbers within FP32's precision and range. -/
theorem fp32_roundNum_exact (rnd : Nat) (n : Bool) {m : Nat} (hm0 : m ≠ 0) {p : Nat} (hp : p ≤ 24) (hm : m < 2 ^ p) {e : Int} (he : -149 ≤ e)
    (he' : e + p ≤ 128) : ∃ g, g ≤ fp32.largest ∧ fp32.value g = m * 2 ^ e ∧ fp32.roundNum rnd n m e = (fp32.signBit n + g, 0) := by
  refine fp32.roundNum_exact (by decide) rnd n hm0 (hm.trans_le (Nat.pow_le_pow_right (by norm_num) hp)) he ?_
  obtain ⟨k, hk⟩ := Nat.exists_eq_add_of_le hp
  have hm' : (m : ℚ) ≤ 2 ^ p - 1 := by rw [le_sub_iff_add_le]; exact_mod_cast hm
  have hmono : ((2 : ℚ) ^ p - 1) * 2 ^ k ≤ 2 ^ 24 - 1 := by
    rw [hk, pow_add]
    linarith [one_le_pow₀ (by norm_num : (1 : ℚ) ≤ 2) (n := k)]
  rw [fp32_value_largest]
  calc (m : ℚ) * 2 ^ e ≤ (2 ^ p - 1) * 2 ^ ((k : Int) + 104) := by
        gcongr
        · linarith [m.cast_nonneg (α := ℚ)]
        · norm_num
        · omega
    _ = (2 ^ p - 1) * 2 ^ k * 2 ^ (104 : Int) := by rw [zpow_add₀ (by norm_num), zpow_natCast]; ring
    _ ≤ (2 ^ 24 - 1) * 2 ^ (104 : Int) := by gcongr

/-! ## Widening and narrowing (R34) -/

theorem fp32_decode_signBit (n : Bool) : fp32.decode (fp32.signBit n) = .num n 0 fp32.qmin := by cases n <;> decide
theorem fp32_decode_infinity (n : Bool) : fp32.decode (fp32.infinity n) = .inf n := by cases n <;> decide
theorem fp32_decode_nan : fp32.decode fp32.nan = .nan false := by decide

theorem wordOf_signBit (n : Bool) : wordOf (fp32.signBit n) = signWord n := by cases n <;> rfl
theorem wordOf_infinity (n : Bool) : wordOf (fp32.infinity n) = if n then 0xFF800000 else 0x7F800000 := by cases n <;> rfl

/-- What an element's number becomes in FP32: itself. -/
theorem Fmt.toF32_num {f : Fmt} (hf : f ∈ formats) {x : Nat} {n : Bool} {m : Nat} {e : Int} (hd : f.decode x = .num n m e) (hm : m ≠ 0) :
    ∃ m' e', f.toF32 x = fp32.roundNum 0 n m e ∧ (f.toF32 x).2 = 0 ∧ fp32.decode (f.toF32 x).1 = .num n m' e' ∧
      (m' : ℚ) * 2 ^ e' = m * 2 ^ e := by
  obtain ⟨hlt, -, he, he'⟩ := Fmt.decode_bounds hf hd
  have hfw : f.fw + 1 ≤ 24 := by fin_cases hf <;> decide
  obtain ⟨g, hg, hv, hr⟩ := fp32_roundNum_exact 0 n hm hfw hlt he (by push_cast; omega)
  obtain ⟨m', e', hdec, hval⟩ := fp32.decode_magnitude fp32_mem n hg
  have ht : f.toF32 x = fp32.roundNum 0 n m e := by simp [Fmt.toF32, hd, hm]
  exact ⟨m', e', ht, by rw [ht, hr], by rw [ht, hr, hdec], by rw [hval, hv]⟩

theorem Fmt.toF32_widens {f : Fmt} (hf : f ∈ formats) (x : Nat) : Widens (f.decode x) (wordOf (f.toF32 x).1) (f.toF32 x).2 := by
  cases hd : f.decode x with
  | nan g => simp only [Widens, Fmt.toF32, hd, Fmt.quiet]; exact ⟨by decide, rfl⟩
  | inf n =>
    have ht : f.toF32 x = (fp32.infinity n, 0) := by simp [Fmt.toF32, hd]
    rw [ht]
    exact ⟨wordOf_infinity n, rfl⟩
  | num n m e =>
    rcases eq_or_ne m 0 with rfl | hm
    · have ht : f.toF32 x = (fp32.signBit n, 0) := by simp [Fmt.toF32, hd]
      rw [ht]
      refine ⟨rfl, ?_, ?_, fun _ => wordOf_signBit n⟩ <;> rw [fpOf_wordOf, fp32_decode_signBit]
      · simp [Fp.rat_num]
      · rfl
    · obtain ⟨m', e', -, hfl, hdec, hval⟩ := Fmt.toF32_num hf hd hm
      refine ⟨hfl, ?_, ?_, fun h => absurd h hm⟩ <;> rw [fpOf_wordOf, hdec]
      · rw [Fp.rat_num, Fp.rat_num, hval]
      · rfl

section Narrowing
variable (f : Fmt) (rnd : Nat) {x : Nat}

theorem Fmt.ofF32_nan {g : Bool} (h : fp32.decode x = .nan g) : f.ofF32 rnd x = (f.nan, flagIf (g || !f.ieee) flagIV) := by
  simp [Fmt.ofF32, h]

theorem Fmt.ofF32_inf {n : Bool} (h : fp32.decode x = .inf n) :
    f.ofF32 rnd x = if f.ieee then (f.infinity n, 0) else (f.signBit n + f.largest, flagOF ||| flagIX) := by
  simp [Fmt.ofF32, h]

theorem Fmt.ofF32_num {n : Bool} {m : Nat} {e : Int} (h : fp32.decode x = .num n m e) :
    f.ofF32 rnd x = if m = 0 then (f.signBit n, 0) else f.roundNum rnd n m e := by
  simp [Fmt.ofF32, h]

/-- A number narrowed, in whatever dyadic writing. -/
theorem narrows_num {n : Bool} {m m' : Nat} {e e' : Int} (hval : (m' : ℚ) * 2 ^ e' = m * 2 ^ e) :
    Narrows f rnd (.num n m e) (if m' = 0 then (f.signBit n, 0) else f.roundNum rnd n m' e').1
      (if m' = 0 then ((f.signBit n, 0) : FRes) else f.roundNum rnd n m' e').2 := by
  have hz (a : Nat) (i : Int) : (a : ℚ) * 2 ^ i = 0 ↔ a = 0 := by
    rw [mul_eq_zero_iff_right (by positivity), Nat.cast_eq_zero]
  have h0 : m' = 0 ↔ m = 0 := by rw [← hz m' e', ← hz m e, hval]
  unfold Narrows
  dsimp only
  by_cases hm : m = 0
  · rw [if_pos hm, if_pos (h0.2 hm)]
    exact ⟨rfl, rfl⟩
  · have hm' := h0.not.2 hm
    rw [if_neg hm, if_neg hm']
    exact ⟨n, m', e', hm', by rw [Fp.rat_num, Fp.rat_num, hval], rfl⟩

theorem Fmt.ofF32_narrows (x : Nat) : Narrows f rnd (fp32.decode x) (f.ofF32 rnd x).1 (f.ofF32 rnd x).2 := by
  cases h : fp32.decode x with
  | nan g => rw [f.ofF32_nan rnd h]; exact ⟨rfl, rfl⟩
  | inf n => rw [f.ofF32_inf rnd h]; cases hi : f.ieee <;> simp [Narrows, hi, flagOF, flagIX]
  | num n m e => rw [f.ofF32_num rnd h]; exact narrows_num f rnd rfl

end Narrowing

theorem Fmt.roundNum_lt {f : Fmt} (hf : f ∈ formats) (rnd : Nat) (n : Bool) {m : Nat} (hm : m ≠ 0) (e : Int) :
    (f.roundNum rnd n m e).1 < 2 ^ f.width := by
  obtain ⟨lo, g, h⟩ := f.rounds_roundNum (f.fw_pos hf) rnd n hm e
  exact h.lt_width hf

theorem Fmt.ofF32_lt {f : Fmt} (hf : f ∈ formats) (rnd x : Nat) : (f.ofF32 rnd x).1 < 2 ^ f.width := by
  have hmax : ∀ n, f.signBit n + f.largest < 2 ^ f.width := fun n => (f.finites_magnitude hf n le_rfl).1
  cases h : fp32.decode x with
  | nan g =>
    have hnan : f.nan < 2 ^ f.width := by fin_cases hf <;> decide
    rw [f.ofF32_nan rnd h]
    exact hnan
  | inf n =>
    rw [f.ofF32_inf rnd h]
    split_ifs
    · fin_cases hf <;> cases n <;> decide
    · exact hmax n
  | num n m e =>
    rw [f.ofF32_num rnd h]
    split_ifs with hm
    · exact (Nat.le_add_right _ _).trans_lt (hmax n)
    · exact Fmt.roundNum_lt hf rnd n hm e

theorem bf16ToE4m3_eq (rnd x : Nat) :
    bf16ToE4m3 rnd x = ((e4m3.ofF32 rnd (bf16.toF32 x).1).1, (bf16.toF32 x).2 ||| (e4m3.ofF32 rnd (bf16.toF32 x).1).2) := rfl

theorem flags_zero_or (fl : BitVec 7) : 0 ||| fl = fl := BitVec.zero_or

theorem bf16ToE4m3_lt (rnd x : Nat) : (bf16ToE4m3 rnd x).1 < 2 ^ 8 := Fmt.ofF32_lt (f := e4m3) (by decide) rnd _

/-- BF16 to E4M3 through FP32 is the one narrowing: the first step is exact (R160). -/
theorem bf16ToE4m3_narrows (rnd x : Nat) : Narrows e4m3 rnd (bf16.decode x) (bf16ToE4m3 rnd x).1 (bf16ToE4m3 rnd x).2 := by
  have hbf : bf16 ∈ formats := by decide
  rw [bf16ToE4m3_eq]
  cases hd : bf16.decode x with
  | nan g =>
    have ht : bf16.toF32 x = fp32.quiet g := by simp [Fmt.toF32, hd]
    rw [ht, e4m3.ofF32_nan rnd (x := (fp32.quiet g).1) fp32_decode_nan]
    cases g <;> exact ⟨rfl, rfl⟩
  | inf n =>
    have ht : bf16.toF32 x = (fp32.infinity n, 0) := by simp [Fmt.toF32, hd]
    rw [ht, e4m3.ofF32_inf rnd (fp32_decode_infinity n), if_neg (by decide)]
    have hfl : (0 : BitVec 7) ||| (flagOF ||| flagIX) = 0x05 := by decide
    exact ⟨rfl, hfl⟩
  | num n m e =>
    rcases eq_or_ne m 0 with rfl | hm
    · have ht : bf16.toF32 x = (fp32.signBit n, 0) := by simp [Fmt.toF32, hd]
      rw [ht, e4m3.ofF32_num rnd (x := (fp32.signBit n, (0 : BitVec 7)).1) (fp32_decode_signBit n), flags_zero_or]
      exact narrows_num e4m3 rnd (by simp)
    · obtain ⟨m', e', -, hfl, hdec, hval⟩ := Fmt.toF32_num hbf hd hm
      rw [hfl, flags_zero_or, e4m3.ofF32_num rnd hdec]
      exact narrows_num e4m3 rnd hval

/-! ## Integers (R34) -/

theorem floor_eq_of_picks {A : ℚ} {F : Nat} (h1 : (F : ℚ) ≤ A) (h2 : A < F + 1) : ⌊A⌋ = F := by
  rw [Int.floor_eq_iff]; exact_mod_cast And.intro h1 h2

theorem ceil_eq_of_picks {A : ℚ} {F : Nat} (h1 : (F : ℚ) ≤ A) (h2 : A < F + 1) : ⌈A⌉ = if A = F then (F : Int) else F + 1 := by
  split_ifs with h
  · rw [h]; simp
  · rw [Int.ceil_eq_iff]
    push_cast
    exact ⟨by linarith [lt_of_le_of_ne h1 (Ne.symm h)], h2.le⟩

/-- Under nearest: below the middle, above it, and at it the even one. -/
theorem picks_nearest {n : Bool} {A : ℚ} {F r : Nat} (hp : picks 0 n A F (F + 1) F r) :
    (A < F + 1 / 2 → r = F) ∧ (F + 1 / 2 < A → r = F + 1) ∧ (A = F + 1 / 2 → r = if F % 2 = 0 then F else F + 1) := by
  have hmid : ((F : ℚ) + (F + 1)) / 2 = F + 1 / 2 := by ring
  unfold picks goesUp at hp
  rw [hmid] at hp
  rcases hp with ⟨rfl, hA⟩ | ⟨rfl, -, hup⟩
  · refine ⟨fun _ => rfl, fun h => ?_, fun h => ?_⟩ <;> rcases hA with hA | hA
    · linarith
    · exact absurd (.inl h) hA
    · linarith
    · split_ifs with he
      · rfl
      · exact absurd (.inr ⟨h.symm, by omega⟩) hA
  · refine ⟨fun h => ?_, fun _ => rfl, fun h => ?_⟩ <;> rcases hup with hlt | ⟨heq, hodd⟩
    · linarith
    · linarith
    · linarith
    · rw [if_neg (by omega)]

/-- Away from zero: the ceiling of the magnitude. -/
theorem picks_up {rnd : Nat} {n : Bool} {A : ℚ} {F r : Nat} (hp : picks rnd n A F (F + 1) F r) (hd : ∀ middle odd, goesUp rnd n middle A odd) :
    r = if A = F then F else F + 1 := by
  rcases hp with ⟨rfl, h | h⟩ | ⟨rfl, h, -⟩
  · rw [if_pos h]
  · exact absurd (hd _ _) h
  · rw [if_neg h]

theorem picks_down {rnd : Nat} {n : Bool} {A : ℚ} {F r : Nat} (hp : picks rnd n A F (F + 1) F r) (hd : ∀ middle odd, ¬ goesUp rnd n middle A odd) :
    r = F := by
  rcases hp with ⟨h, -⟩ | ⟨-, -, h⟩
  · exact h
  · exact absurd h (hd _ _)

/-- A signed magnitude between F and F + 1, rounded to an integer: F or F + 1 as the mode picks. -/
theorem roundRat_signedValue {rnd : Nat} (n : Bool) {A : ℚ} {F r : Nat} (h1 : (F : ℚ) ≤ A) (h2 : A < F + 1) (hp : picks rnd n A F (F + 1) F r) :
    roundRat rnd (signedValue n A) = if n then -(r : Int) else r := by
  have hF : (0 : ℚ) ≤ F := Nat.cast_nonneg F
  have hfl : ⌊A⌋ = F := by rw [Int.floor_eq_iff]; exact_mod_cast And.intro h1 h2
  have hce : ⌈A⌉ = ((if A = F then F else F + 1 : Nat) : Int) := by
    split_ifs with h
    · rw [h]; simp
    · rw [Int.ceil_eq_iff]
      push_cast
      exact ⟨by linarith [lt_of_le_of_ne h1 (Ne.symm h)], h2.le⟩
  cases n with
  | false =>
    have hq : signedValue false A = A := by simp [signedValue]
    rw [hq, if_neg (by decide)]
    match rnd with
    | 0 =>
      obtain ⟨hlow, hhigh, htie⟩ := picks_nearest hp
      simp only [roundRat, hfl, Int.cast_natCast]
      split_ifs with hlt hgt heven
      · rw [hlow (by linarith)]
      · rw [hhigh (by linarith)]; rfl
      · rw [htie (by linarith), if_pos (by omega)]
      · rw [htie (by linarith), if_neg (by omega)]; rfl
    | 1 =>
      rw [roundRat, if_neg (by linarith), hfl, picks_down hp fun _ _ => id]
    | 2 => rw [roundRat, hfl, picks_down hp fun _ _ => by simp [goesUp]]
    | _ + 3 => exact hce.trans (by rw [picks_up hp fun _ _ => rfl])
  | true =>
    have hq : signedValue true A = -A := by simp [signedValue]
    rw [hq, if_pos rfl]
    match rnd with
    | 0 =>
      obtain ⟨hlow, hhigh, htie⟩ := picks_nearest hp
      simp only [roundRat, Int.floor_neg, hce]
      by_cases hA : A = F
      · rw [if_pos hA, hlow (by linarith), if_pos (by rw [hA]; push_cast; linarith)]
      · rw [if_neg hA]
        push_cast
        split_ifs with hlt hgt heven
        · rw [hhigh (by linarith)]; push_cast; rfl
        · rw [hlow (by linarith)]; ring
        · rw [htie (by linarith), if_neg (by omega)]; push_cast; rfl
        · rw [htie (by linarith), if_pos (by omega)]; ring
    | 1 =>
      rw [roundRat, Int.ceil_neg, Int.floor_neg, hfl, hce, picks_down hp fun _ _ => id]
      split_ifs with h0 hA
      · rfl
      · rfl
      · exact absurd (lt_of_le_of_ne h1 (Ne.symm hA)) (by linarith)
    | 2 => rw [roundRat, Int.floor_neg, hce, picks_up hp fun _ _ => rfl]
    | _ + 3 =>
      rw [picks_down hp fun _ _ => by simp [goesUp], ← hfl, ← Int.ceil_neg]; rfl

theorem wrap_lt (w : Nat) (t : Int) : wrap w t < 2 ^ w := by
  have h0 : ((2 ^ w : Nat) : Int) ≠ 0 := by exact_mod_cast (Nat.two_pow_pos w).ne'
  have := Int.emod_nonneg t h0
  have := Int.emod_lt_of_pos t (by exact_mod_cast Nat.two_pow_pos w : (0 : Int) < ((2 ^ w : Nat) : Int))
  unfold wrap
  omega

theorem toNat_ofInt_wrap (w : Nat) (t : Int) : (BitVec.ofInt w t).toNat = wrap w t := BitVec.toNat_ofInt t

theorem wordOf_wrap (t : Int) : wordOf (wrap 32 t) = BitVec.ofInt 32 t := by
  rw [wordOf, wrap]
  apply BitVec.eq_of_toNat_eq
  have := Int.emod_nonneg t (by norm_num : ((2 ^ 32 : Nat) : Int) ≠ 0)
  have := Int.emod_lt_of_pos t (by norm_num : (0 : Int) < ((2 ^ 32 : Nat) : Int))
  rw [BitVec.toNat_ofNat, BitVec.toNat_ofInt, Nat.mod_eq_of_lt (by omega)]

/-- A rounded number taken into a range, as a conversion to an integer does (R34). -/
def ranged (t lo hi : Int) (exact : Bool) : FRes :=
  if t < lo then (wrap 32 lo, flagIV) else if hi < t then (wrap 32 hi, flagIV) else (wrap 32 t, flagIf (!exact) flagIX)

theorem f32ToInt_num (w rnd : Nat) {x : Nat} {n : Bool} {m : Nat} {e : Int} (h : fp32.decode x = .num n m e) :
    f32ToInt w rnd x = ranged (if n then -((roundInt rnd n m e).1 : Int) else (roundInt rnd n m e).1)
      (-(2 ^ (w - 1))) (2 ^ (w - 1) - 1) (roundInt rnd n m e).2 := by
  unfold f32ToInt ranged
  rw [h]
  push_cast
  rfl

theorem ranged_spec (t lo hi : Int) (exact : Bool) : ∃ r,
    (if t < lo then r = lo ∧ (ranged t lo hi exact).2 = 0x10 else if hi < t then r = hi ∧ (ranged t lo hi exact).2 = 0x10
      else r = t ∧ (ranged t lo hi exact).2 = if exact then 0 else 0x01) ∧ wordOf (ranged t lo hi exact).1 = BitVec.ofInt 32 r := by
  unfold ranged
  split_ifs with h1 h2 h3
  · exact ⟨lo, ⟨rfl, rfl⟩, wordOf_wrap lo⟩
  · exact ⟨hi, ⟨rfl, rfl⟩, wordOf_wrap hi⟩
  · exact ⟨t, ⟨rfl, by rw [h3]; rfl⟩, wordOf_wrap t⟩
  · exact ⟨t, ⟨rfl, by rw [Bool.not_eq_true] at h3; rw [h3]; rfl⟩, wordOf_wrap t⟩

/-- FP32 to an integer of w bits. -/
theorem f32ToInt_toInteger (w rnd x : Nat) :
    ∃ r, ToInteger w rnd (fp32.decode x) r (f32ToInt w rnd x).2 ∧ wordOf (f32ToInt w rnd x).1 = BitVec.ofInt 32 r := by
  cases hx : fp32.decode x with
  | nan g => exact ⟨0, ⟨rfl, by rw [f32ToInt, hx]; rfl⟩, by rw [f32ToInt, hx]; rfl⟩
  | inf n =>
    refine ⟨if n then -(2 ^ (w - 1)) else 2 ^ (w - 1) - 1, ⟨rfl, by rw [f32ToInt, hx]; rfl⟩, ?_⟩
    rw [f32ToInt, hx]
    dsimp only
    rw [wordOf_wrap]
    push_cast
    rfl
  | num n m e =>
    rw [f32ToInt_num w rnd hx]
    obtain ⟨F, h1, h2, hex, hp⟩ := toScale_picks rnd n m e 0
    rw [zpow_zero, mul_one] at h1 h2 hex hp
    rw [mul_one] at hp
    have ht : roundRat rnd (Fp.num n m e).rat = if n then -((roundInt rnd n m e).1 : Int) else (roundInt rnd n m e).1 := by
      rw [Fp.rat_num]; exact roundRat_signedValue n h1 h2 hp
    have hexact : ((roundRat rnd (Fp.num n m e).rat : Int) : ℚ) = (Fp.num n m e).rat ↔ (roundInt rnd n m e).2 = true := by
      have hsv : ((roundRat rnd (Fp.num n m e).rat : Int) : ℚ) = signedValue n ((roundInt rnd n m e).1 : Nat) := by
        rw [ht]; cases n <;> simp [signedValue]
      rw [hsv, Fp.rat_num, signedValue_inj]
      refine Iff.trans ?_ hex.symm
      rcases hp with ⟨hr, -⟩ | ⟨hr, hne, -⟩
      · rw [roundInt, hr, eq_comm]
      · rw [roundInt, hr]
        exact iff_of_false (by push_cast; exact h2.ne') hne
    obtain ⟨r, hr, hword⟩ := ranged_spec (if n then -((roundInt rnd n m e).1 : Int) else (roundInt rnd n m e).1)
      (-2 ^ (w - 1)) (2 ^ (w - 1) - 1) (roundInt rnd n m e).2
    refine ⟨r, ?_, hword⟩
    unfold ToInteger
    simp only [ht, ← hexact] at hr ⊢
    exact hr

/-! ## The instructions -/

theorem fp32_roundNum_lt (rnd : Nat) (n : Bool) {m : Nat} (hm : m ≠ 0) (e : Int) : (fp32.roundNum rnd n m e).1 < 2 ^ 32 :=
  Fmt.roundNum_lt fp32_mem rnd n hm e

theorem signedValue_natAbs (t : Int) : signedValue (decide (t < 0)) (t.natAbs : Nat) = t := by
  rw [Nat.cast_natAbs, Int.cast_abs, signedValue]
  by_cases hneg : t < 0
  · have hq : (t : ℚ) < 0 := by exact_mod_cast hneg
    simp [hneg, abs_of_neg hq]
  · have hq : (0 : ℚ) ≤ t := by exact_mod_cast not_lt.1 hneg
    simp [hneg, abs_of_nonneg hq]

theorem intToF32_zero (rnd : Nat) : intToF32 rnd 0 = (0, 0) := if_pos rfl

theorem intToF32_of_ne (rnd : Nat) {t : Int} (h : t ≠ 0) : intToF32 rnd t = fp32.roundNum rnd (decide (t < 0)) t.natAbs 0 := if_neg h

theorem intToF32_valueTo (rnd : Nat) (t : Int) : ValueTo rnd (t : ℚ) 0 (wordOf (intToF32 rnd t).1) (intToF32 rnd t).2 := by
  unfold ValueTo
  rcases eq_or_ne t 0 with rfl | ht
  · rw [intToF32_zero, if_pos Int.cast_zero]
    exact ⟨rfl, rfl⟩
  · have hm := Int.natAbs_ne_zero.2 ht
    rw [intToF32_of_ne rnd ht, if_neg (by exact_mod_cast ht), toNat_wordOf (fp32_roundNum_lt rnd _ hm 0)]
    exact ⟨decide (t < 0), t.natAbs, 0, hm, by rw [Fp.rat_num, zpow_zero, mul_one, signedValue_natAbs], Prod.mk.eta.symm⟩

/-- An integer of FP32's precision is exact. -/
theorem intToF32_exact (rnd : Nat) {t : Int} (ht : t.natAbs < 2 ^ 24) :
    (intToF32 rnd t).2 = 0 ∧ (fpOf (wordOf (intToF32 rnd t).1)).rat = t := by
  rcases eq_or_ne t 0 with rfl | h0
  · refine ⟨rfl, ?_⟩
    have hz : fpOf (wordOf (intToF32 rnd 0).1) = .num false 0 fp32.qmin := by
      have : fpOf (wordOf 0) = .num false 0 fp32.qmin := by decide
      simpa [intToF32] using this
    simp [hz, Fp.rat_num, signedValue]
  · have hm := Int.natAbs_ne_zero.2 h0
    obtain ⟨g, hg, hv, hr⟩ := fp32_roundNum_exact rnd (decide (t < 0)) hm le_rfl ht (e := 0) (by norm_num) (by norm_num)
    have he : intToF32 rnd t = (fp32.signBit (decide (t < 0)) + g, 0) := by rw [intToF32, if_neg h0, hr]
    rw [he, fpOf_wordOf]
    refine ⟨rfl, ?_⟩
    rw [fp32.rat_magnitude fp32_mem _ hg, hv, zpow_zero, mul_one, Nat.cast_natAbs, signedValue]
    by_cases hneg : t < 0
    · simp [hneg, abs_of_neg hneg]
    · simp [hneg, abs_of_nonneg (not_lt.1 hneg)]

theorem signed_eq_toInt (w x : Nat) : signed w x = (BitVec.ofNat w x).toInt := by
  unfold signed
  rw [BitVec.toInt_eq_toNat_cond, BitVec.toNat_ofNat]
  rcases w with _ | w
  · simp [Nat.mod_one]
  · rw [Nat.add_sub_cancel, pow_succ]
    split_ifs <;> omega

theorem signed_wrap {t : Int} (h1 : -128 ≤ t) (h2 : t ≤ 127) : signed 8 (wrap 8 t) = t := by
  unfold signed wrap
  split_ifs <;> omega

/-- Two elements in a word (R159). -/
theorem pack2_packs {f : Fmt} (hf : f ∈ formats) {w : Nat} (hw : f.width = w) (hw2 : w + w ≤ 32) (x : Ctx) (l : Nat) :
    Packs f w x l (x.pack2 w (f.ofF32 x.rnd) l).lo (x.pack2 w (f.ofF32 x.rnd) l).fl := by
  have hlt (y : Nat) : (f.ofF32 x.rnd y).1 < 2 ^ w := hw ▸ Fmt.ofF32_lt hf x.rnd y
  have hsum {a b : Nat} (ha : a < 2 ^ w) (hb : b < 2 ^ w) : (wordOf (a + b * 2 ^ w)).toNat = a + b * 2 ^ w := by
    refine toNat_wordOf (lt_of_lt_of_le ?_ (Nat.pow_le_pow_right (by norm_num) hw2))
    rw [pow_add]
    nlinarith
  unfold Packs Ctx.pack2
  by_cases h1 : x.a.in1 = .none
  · simp only [h1, if_true]
    exact ⟨_, 0, _, 0, Fmt.ofF32_narrows f x.rnd _, ⟨rfl, rfl⟩, hsum (hlt _) (Nat.two_pow_pos _), rfl⟩
  · simp only [if_neg h1]
    exact ⟨_, _, _, _, Fmt.ofF32_narrows f x.rnd _, Fmt.ofF32_narrows f x.rnd _, hsum (hlt _) (hlt _), rfl⟩

/-- Element i of CVT.E4M3.BF16. -/
def Ctx.quarter (x : Ctx) (l : Nat) (i : Fin 4) : FRes :=
  let o := if i.val < 2 then x.a.in0 else x.a.in1
  if o = .none then (0, 0) else bf16ToE4m3 x.rnd (bits (x.word o l).toNat (16 * (i.val % 2)) 16)

theorem Ctx.quarter_lt (x : Ctx) (l : Nat) (i : Fin 4) : (x.quarter l i).1 < 256 := by
  unfold Ctx.quarter
  dsimp only
  split_ifs
  · norm_num
  · exact bf16ToE4m3_lt _ _
  · norm_num
  · exact bf16ToE4m3_lt _ _

theorem Ctx.pack4_eq (x : Ctx) (l : Nat) : x.pack4 (bf16ToE4m3 x.rnd) l =
    ⟨wordOf ((x.quarter l 0).1 + 256 * ((x.quarter l 1).1 + 256 * ((x.quarter l 2).1 + 256 * (x.quarter l 3).1))), 0,
      (x.quarter l 0).2 ||| (x.quarter l 1).2 ||| (x.quarter l 2).2 ||| (x.quarter l 3).2⟩ := by
  have h : x.pack4 (bf16ToE4m3 x.rnd) l =
      ⟨wordOf ((x.quarter l 0).1 + 256 * ((x.quarter l 1).1 + 256 * ((x.quarter l 2).1 + 256 * ((x.quarter l 3).1 + 256 * 0)))), 0,
        0 ||| (x.quarter l 0).2 ||| (x.quarter l 1).2 ||| (x.quarter l 2).2 ||| (x.quarter l 3).2⟩ := rfl
  rw [h, flags_zero_or, mul_zero, add_zero]

/-- CVT.I8.I32 (R27). -/
theorem clampByte_spec (sat : Bool) (w : Word) :
    if sat then (clampByte sat w).lo = BitVec.ofInt 32 (max (-128) (min 127 w.toInt)) ∧
        (clampByte sat w).fl = flagIf (decide (w.toInt < -128 ∨ 127 < w.toInt)) 0x20
      else (clampByte sat w).lo = (w.setWidth 8).signExtend 32 ∧ (clampByte sat w).fl = 0 := by
  cases sat with
  | false =>
    refine ⟨?_, rfl⟩
    have h : BitVec.ofNat 8 (wrap 8 w.toInt) = w.setWidth 8 := by
      apply BitVec.eq_of_toNat_eq
      rw [BitVec.toNat_ofNat, Nat.mod_eq_of_lt (wrap_lt 8 _), ← toNat_ofInt_wrap, BitVec.toNat_setWidth, BitVec.toNat_ofInt]
      have := BitVec.toInt_eq_toNat_cond w
      split_ifs at this <;> omega
    calc (clampByte false w).lo = BitVec.ofInt 32 (signed 8 (wrap 8 w.toInt)) := rfl
      _ = (w.setWidth 8).signExtend 32 := by rw [signed_eq_toInt, h]; rfl
  | true =>
    have hlo : (clampByte true w).lo = BitVec.ofInt 32 (signed 8 (wrap 8 (if w.toInt < -128 then -128 else if 127 < w.toInt then 127 else w.toInt))) := rfl
    have hfl : (clampByte true w).fl = flagIf ((if w.toInt < -128 then -128 else if 127 < w.toInt then 127 else w.toInt) != w.toInt) 0x20 := rfl
    have hr : (if w.toInt < -128 then -128 else if 127 < w.toInt then 127 else w.toInt) = max (-128) (min 127 w.toInt) := by
      split_ifs <;> omega
    refine ⟨?_, ?_⟩
    · rw [hlo, hr, signed_wrap (by omega) (by omega)]
    · rw [hfl, hr]
      congr 1
      exact Bool.eq_iff_iff.2 (by rw [bne_iff_ne, decide_eq_true_iff]; omega)

theorem conversions : Conversions := by
  have hbf : bf16 ∈ formats := by decide
  have hf16 : fp16 ∈ formats := by decide
  have he : e4m3 ∈ formats := by decide
  refine ⟨givesFloat_of_lane _ (fun _ _ => rfl) (laneDst_of_row rfl rfl rfl) fun x _ l _ => Fmt.toF32_widens he _,
    givesFloat_of_lane _ (fun _ _ => rfl) (laneDst_of_row rfl rfl rfl) fun x _ l _ => Fmt.toF32_widens hbf _,
    givesFloat_of_lane _ (fun _ _ => rfl) (laneDst_of_row rfl rfl rfl) fun x _ l _ => Fmt.toF32_widens hf16 _,
    givesFloat_of_lane _ (fun _ _ => rfl) (laneDst_of_row rfl rfl rfl) fun x _ l _ => pack2_packs (w := 16) hbf rfl (by norm_num) x l,
    givesFloat_of_lane _ (fun _ _ => rfl) (laneDst_of_row rfl rfl rfl) fun x _ l _ => pack2_packs (w := 16) hf16 rfl (by norm_num) x l,
    givesFloat_of_lane _ (fun _ _ => rfl) (laneDst_of_row rfl rfl rfl) fun x _ l _ => pack2_packs (w := 8) he rfl (by norm_num) x l,
    givesFloat_of_lane _ (fun _ _ => rfl) (laneDst_of_row rfl rfl rfl) fun x _ l _ => ?_,
    givesFloat_of_lane _ (fun _ _ => rfl) (laneDst_of_row rfl rfl rfl) fun x _ l _ => f32ToInt_toInteger _ _ _,
    givesFloat_of_lane _ (fun _ _ => rfl) (laneDst_of_row rfl rfl rfl) fun x _ l _ => f32ToInt_toInteger _ _ _,
    givesFloat_of_lane _ (fun _ _ => rfl) (laneDst_of_row rfl rfl rfl) fun x _ l _ => intToF32_valueTo _ _,
    givesFloat_of_lane _ (fun _ _ => rfl) (laneDst_of_row rfl rfl rfl) fun x _ l _ => ?_,
    givesFloat_of_lane _ (fun _ _ => rfl) (laneDst_of_row rfl rfl rfl) fun x _ l _ => clampByte_spec _ _⟩
  · rw [x.pack4_eq]
    refine ⟨fun i => (x.quarter l i).1, fun i => (x.quarter l i).2, fun i => ?_, toNat_wordOf ?_, rfl⟩
    · unfold Ctx.quarter
      dsimp only
      split_ifs with h1 h2 h2
      · exact ⟨rfl, rfl⟩
      · exact bf16ToE4m3_narrows _ _
      · exact ⟨rfl, rfl⟩
      · exact bf16ToE4m3_narrows _ _
    · have := x.quarter_lt l
      linarith [this 0, this 1, this 2, this 3]
  · have hb : (BitVec.ofNat 8 (x.cvtByte l)).toInt.natAbs < 2 ^ 24 := by
      have h1 := BitVec.le_toInt (BitVec.ofNat 8 (x.cvtByte l))
      have h2 := BitVec.toInt_lt (x := BitVec.ofNat 8 (x.cvtByte l))
      norm_num at h1 h2
      omega
    rw [← signed_eq_toInt] at hb ⊢
    exact intToF32_exact _ hb

/-! ## The trits of a packed word -/

/-- Four bytes in a word. -/
theorem wordOf_bytes (a b c d : Int) :
    wordOf (wrap 8 a + 2 ^ 8 * wrap 8 b + 2 ^ 16 * wrap 8 c + 2 ^ 24 * wrap 8 d) =
      BitVec.ofInt 8 d ++ BitVec.ofInt 8 c ++ BitVec.ofInt 8 b ++ BitVec.ofInt 8 a := by
  have ha := wrap_lt 8 a
  have hb := wrap_lt 8 b
  have hc := wrap_lt 8 c
  have hd := wrap_lt 8 d
  apply BitVec.eq_of_toNat_eq
  rw [toNat_wordOf (by omega), BitVec.toNat_append, BitVec.toNat_append, BitVec.toNat_append]
  simp only [toNat_ofInt_wrap]
  rw [← Nat.shiftLeft_add_eq_or_of_lt ha, ← Nat.shiftLeft_add_eq_or_of_lt hb, ← Nat.shiftLeft_add_eq_or_of_lt hc]
  simp only [Nat.shiftLeft_eq]
  ring

theorem wordOf_byte (a : Int) : wordOf (wrap 8 a) = (BitVec.ofInt 8 a).setWidth 32 := by
  apply BitVec.eq_of_toNat_eq
  have ha := wrap_lt 8 a
  rw [toNat_wordOf (by omega), BitVec.toNat_setWidth, toNat_ofInt_wrap, Nat.mod_eq_of_lt (by omega)]

/-- Trit i of a selected byte, zero for a reserved code. -/
def unpacked (b i : Nat) : Int := if 242 < b then 0 else ((b / 3 ^ i % 3 : Nat) : Int) - 1

theorem tunpk_eq (b : Nat) : tunpk b =
    ⟨BitVec.ofInt 8 (unpacked b 3) ++ BitVec.ofInt 8 (unpacked b 2) ++ BitVec.ofInt 8 (unpacked b 1) ++ BitVec.ofInt 8 (unpacked b 0),
      (BitVec.ofInt 8 (unpacked b 4)).setWidth 32, flagIf (decide (242 < b)) 0x40⟩ := by
  unfold tunpk unpacked
  by_cases h : 242 < b
  · simp only [h, if_true, decide_true]; decide
  · simp only [h, if_false, decide_false, ← wordOf_bytes, ← wordOf_byte]; rfl

/-- What TUNPK gives a lane. -/
def Ctx.trits (x : Ctx) (l : Nat) : LaneRes :=
  let b := (x.word x.a.in0 l).toNat / 2 ^ (8 * (if x.a.in1 = .none then 0 else (x.word x.a.in1 l).toNat % 4)) % 256
  ⟨BitVec.ofInt 8 (unpacked b 3) ++ BitVec.ofInt 8 (unpacked b 2) ++ BitVec.ofInt 8 (unpacked b 1) ++ BitVec.ofInt 8 (unpacked b 0),
    (BitVec.ofInt 8 (unpacked b 4)).setWidth 32, flagIf (decide (242 < b)) 0x40⟩

theorem semTunpk_eq : semTunpk = perLane true fun x _ l => x.trits l :=
  congrArg (perLane true) (funext fun _ => funext fun _ => funext fun _ => tunpk_eq _)

theorem ternaryUnpack : TernaryUnpack := by
  intro x s hready
  obtain ⟨-, hc, hu, -, -⟩ := Ctx.ready_at hready
  have hc' : (x.start s).crews.get? x.k = some x.c := by simpa using hc
  have hdst : ((x.a.dst.isV || x.a.dst.isO) && x.a.dst.even) = true := Args.dst_accepted (Ctx.ready_ok hready) rfl (rfl : row? 0x8B = some _)
  have hd : ((x.a.dst.isReg && x.a.dst.even) || x.a.dst == .zero) = true := by
    obtain ⟨hvo, heven⟩ := Bool.and_eq_true_iff.1 hdst
    have : x.a.dst.isReg = true := by
      unfold Opnd.isReg
      rcases Bool.or_eq_true_iff.1 hvo with h | h <;> simp [h]
    simp [this, heven]
  have hexec : exec (.tunpk x.a) s = issue 0x8B x.a (fixedLane (perLane true fun x _ l => x.trits l)) s := semTunpk_eq ▸ rfl
  refine ⟨_, hexec.trans (issue_ready hready _), fun l hl => Ctx.reads_fixedLane_pair x _ (x.start s) hc' hu hd hl, ?_⟩
  rw [Ctx.flagsIn_fixedLane x _ _ hc', perLane_flags]
  rfl

/-- Settles O37: each conversion is one rounding of the value its operand decodes to, and a byte's trits are its digits of base three. -/
theorem formatConversions : Obligations.FormatConversions := ⟨conversions, ternaryUnpack⟩

end Sys2Proof.Machine
end

section
/-! PROOFS. What boot, resets, power and links leave unchanged (R447 to R450, R454 to R458, R460 to R462). -/

namespace Sys2Proof.Machine

/-! ## The boot service -/

/-- A request to a port whose link is up is served. -/
theorem State.request_up {s : State} (h : s.port0Up) (f : State → State) : s.request f = .next (f s) := by
  unfold State.request
  rw [if_neg (by rw [h]; exact Bool.false_ne_true)]

theorem identify_keeps (s : State) (h : s.port0Up) : ∃ r, exec .identify s = .next { s with replies := s.replies ++ [r] } := by
  change ∃ r, execIdentify s = _
  rw [execIdentify, State.request_up h]
  exact ⟨_, rfl⟩

theorem attest_keeps (s : State) (h : s.port0Up) (nonce : BitVec 256) :
    ∃ r, exec (.attest nonce) s = .next { s with replies := s.replies ++ [r] } := by
  change ∃ r, execAttest nonce s = _
  rw [execAttest, State.request_up h]
  split_ifs
  exacts [⟨_, rfl⟩, ⟨_, rfl⟩]

theorem spoilRead_keeps (s : State) (h : s.port0Up) (n : Nat) :
    ∃ r, exec (.spoilRead n) s = .next { s with replies := s.replies ++ [r] } := by
  change ∃ r, execSpoilRead n s = _
  rw [execSpoilRead, State.request_up h]
  split_ifs
  exacts [⟨_, rfl⟩, ⟨_, rfl⟩]

theorem start_verifies (s : State) (h : s.port0Up) (h1 : s.boot ≠ .running) (h2 : s.boot ≠ .verifying) (w : Requester) :
    ∃ r, exec (.start w) s = .next { s with boot := .verifying, replies := s.replies ++ [r] } := by
  change ∃ r, execStart w s = _
  rw [execStart, State.request_up h, if_neg (not_or.2 ⟨h1, h2⟩)]
  exact ⟨_, rfl⟩

/-- Entries put one after another at rising places leave the places outside them. -/
theorem Table.get?_puts {α : Type} (offset : Nat) {a : Nat} (xs : List (α × Nat)) (t : Table α) (h : ∀ e ∈ xs, offset + e.2 ≠ a) :
    Table.get? (xs.foldl (fun (t : Table α) (e : α × Nat) => Table.put t (offset + e.2) e.1) t) a = Table.get? t a := by
  induction xs generalizing t with
  | nil => rfl
  | cons e xs ih =>
    rw [List.foldl_cons, ih _ fun e he => h e (List.mem_cons_of_mem _ he)]
    exact Table.get?_put_of_ne _ _ (h e List.mem_cons_self).symm

theorem bootLoad_keeps (s : State) (h : s.port0Up) (h1 : s.boot ≠ .running) (h2 : s.boot ≠ .verifying) (offset : Nat) (chunk : List Byte)
    (hl : chunk.length = 1024) (ho : offset + 1024 ≤ firmwareBytes) :
    ∃ r store, exec (.bootLoad offset chunk) s = .next { s with boot := .loading, imageStore := store, replies := s.replies ++ [r] } ∧
      ∀ a, (a < offset ∨ offset + 1024 ≤ a) → Table.get? store a = Table.get? s.imageStore a := by
  change ∃ r store, execBootLoad offset chunk s = _ ∧ _
  rw [execBootLoad, State.request_up h, if_neg (by simp [h1, h2, hl]; exact ho)]
  refine ⟨_, _, rfl, fun a ha => Table.get?_puts offset _ _ fun e he => ?_⟩
  have := List.snd_lt_of_mem_zipIdx he
  omega

theorem reset_keeps (s : State) (h : s.port0Up) : ∃ t, exec .reset s = .next t ∧ t.lifeCycle = s.lifeCycle ∧ t.boots = s.boots ∧
    t.spoil = s.spoil ∧ t.portsDown = s.portsDown :=
  ⟨_, (State.request_up h _ : execReset s = _), rfl, rfl, rfl, rfl⟩

theorem lifeCycleChange_keeps (s : State) (h : s.port0Up) (hb : s.boot ≠ .running) (target : Nat) (sig : BitVec 64)
    (h1 : s.lifeCycle < target) (h2 : target ≤ 3) : ∃ t, exec (.lifeCycleChange target sig) s = .next t ∧ t.boots = s.boots ∧
      t.resets = s.resets ∧ (Config.lifeCycleSigned target sig = true → t.lifeCycle = target) := by
  refine ⟨_, (State.request_up h _ : execLifeCycleChange target sig s = _), ?_⟩
  cases hs : Config.lifeCycleSigned target sig with
  | false => simp [State.reply]
  | true =>
    rw [if_neg (by simp [hb]; omega)]
    exact ⟨rfl, rfl, fun _ => rfl⟩

theorem verificationEnd_keeps (s : State) (h : s.boot = .verifying) : ∃ t, exec .verificationEnd s = .next t ∧ t.boot ≠ .verifying ∧
    t.mem = s.mem ∧ t.crews = s.crews ∧ t.queues = s.queues ∧ t.spoil = s.spoil ∧ t.lifeCycle = s.lifeCycle := by
  refine ⟨_, rfl, ?_⟩
  rw [if_neg (not_not.2 h)]
  dsimp only
  split_ifs <;> exact ⟨Boot.noConfusion, rfl, rfl, rfl, rfl, rfl⟩

/-! ## Crashes -/

/-- A queue after a crash of a command-processor core: the core reads the packets of its own queues again. -/
def State.afterCrash (s : State) (core id : Nat) (q : Queue) : Queue :=
  if q.slot.isSome && s.cpCore id q == core then { q with current := none, ahead := [] } else q

theorem firmwareCrash_keeps (s : State) (die core : Nat) (x : CrashInfo) (hd : die ≤ 3) (hc : core ≤ 7) (hb : s.boot = .running)
    (hn : s.cpDown.contains (8 * die + core) = false) :
    ∃ t, exec (.firmwareCrash die core x) s = .next t ∧ t.cpDown = s.cpDown ++ [8 * die + core] ∧ t.mem = s.mem ∧ t.crews = s.crews ∧
      t.launches = s.launches ∧ t.keys = s.keys ∧ t.boot = s.boot ∧
      ∀ id q, s.queues.get? id = some q → (q.slot = none ∨ s.cpCore id q ≠ 8 * die + core) → t.queues.get? id = some q := by
  refine ⟨_, rfl, ?_⟩
  rw [if_neg (by simp [hb]; omega)]
  dsimp only
  rw [if_neg (by rw [hn]; exact Bool.false_ne_true)]
  refine ⟨rfl, rfl, rfl, rfl, rfl, rfl, fun id q hq hout => (Table.get?_mapKey (s.afterCrash (8 * die + core)) s.queues id).trans ?_⟩
  rw [hq]
  refine congrArg some (if_neg fun hb => ?_)
  obtain ⟨hs, hcore⟩ := Bool.and_eq_true_iff.1 hb
  rcases hout with h | h
  · rw [h] at hs
    exact Bool.false_ne_true hs
  · exact h (beq_iff_eq.1 hcore)

/-! ## Power -/

theorem State.setGates_core_of_notMem (s : State) (g : Nat → Nat) {n : Nat} (cores : List Nat) (h : n ∉ cores) :
    (s.setGates cores g).core n = s.core n := by
  unfold State.setGates
  induction cores generalizing s with
  | nil => rfl
  | cons m cores ih =>
    obtain ⟨hm, hcores⟩ := not_or.1 (mt List.mem_cons.2 h)
    rw [List.foldl_cons, ih _ hcores, State.core_modCore, if_neg hm]

/-- Setting gates changes the cores alone. -/
theorem State.setGates_keeps (s : State) (cores : List Nat) (g : Nat → Nat) : (s.setGates cores g).mem = s.mem ∧
    (s.setGates cores g).crews = s.crews ∧ (s.setGates cores g).blocks = s.blocks ∧ (s.setGates cores g).launches = s.launches ∧
    (s.setGates cores g).nextPower = s.nextPower := by
  unfold State.setGates
  induction cores generalizing s with
  | nil => exact ⟨rfl, rfl, rfl, rfl, rfl⟩
  | cons m cores ih => exact ih (s.modCore m fun c => c.setGate s.ck (g m))

theorem State.setGates_queues (s : State) (cores : List Nat) (g : Nat → Nat) (n : Nat) :
    ((s.setGates cores g).core n).queues = (s.core n).queues := by
  unfold State.setGates
  induction cores generalizing s with
  | nil => rfl
  | cons m cores ih =>
    rw [List.foldl_cons, ih, State.core_modCore]
    split_ifs with h
    · rw [h]; rfl
    · rfl

theorem powerArbiter_keeps (s : State) (h : s.nextPower ≤ s.ck) : ∃ t, exec .powerArbiter s = .next t ∧ t.nextPower = s.nextPower + 19000 ∧
    t.mem = s.mem ∧ t.crews = s.crews ∧ t.blocks = s.blocks ∧ t.launches = s.launches ∧ ∀ n, (t.core n).queues = (s.core n).queues := by
  refine ⟨_, rfl, ?_⟩
  rw [if_neg (not_lt.2 h)]
  obtain ⟨hmem, hcrews, hblocks, hlaunches, hnext⟩ := State.setGates_keeps { s with nextPower := s.nextPower + 19000 } (List.range 128)
    fun n => gateFor (s.nextPower / 19000) n (s.clusterPower (s.nextPower / 19000) (n / 4) / 4)
  exact ⟨hnext, hmem, hcrews, hblocks, hlaunches, State.setGates_queues _ _ _⟩

theorem overcurrent_keeps (s : State) (die : Nat) (h : die < 4) : ∃ t, exec (.overcurrent die) s = .next t ∧ t.mem = s.mem ∧
    t.crews = s.crews ∧ t.nextPower = s.nextPower ∧ ∀ n, n / 32 ≠ die → t.core n = s.core n := by
  refine ⟨_, rfl, ?_⟩
  rw [if_pos h]
  obtain ⟨hmem, hcrews, -, -, hnext⟩ := State.setGates_keeps s ((List.range 32).map (32 * die + ·)) fun _ => 16
  refine ⟨hmem, hcrews, hnext, fun n hn => State.setGates_core_of_notMem s _ _ fun hmem => ?_⟩
  obtain ⟨i, hi, rfl⟩ := List.mem_map.1 hmem
  have := List.mem_range.1 hi
  omega

theorem registerWrite_keeps (s : State) (part : Nat) (v : BitVec 32) (x : Part) (h : s.part? part = some x) :
    ∃ t, exec (.registerWrite part v) s = .next t ∧ (∀ p, p ≠ part → t.part? p = s.part? p) ∧ { t with parts := s.parts } = s := by
  refine ⟨_, rfl, ?_⟩
  rw [h]
  exact ⟨fun p hp => Table.get?_put_of_ne _ _ hp, rfl⟩

/-! ## Links -/

theorem linkDown_keeps (s : State) (port : Nat) (h : port ≤ 7) : ∃ t, exec (.linkDown port) s = .next t ∧
    { t with portsDown := s.portsDown } = s ∧ ∀ p, p ≠ port → t.portsDown.contains p = s.portsDown.contains p := by
  refine ⟨_, rfl, ?_⟩
  by_cases hp : s.portsDown.contains port = true
  · rw [if_pos (.inr hp)]
    exact ⟨rfl, fun _ _ => rfl⟩
  · rw [if_neg (not_or.2 ⟨not_lt.2 h, hp⟩)]
    exact ⟨rfl, fun p hne => by simp [hne]⟩

end Sys2Proof.Machine
end

section
/-! PROOFS. What the operations of a policy engine leave unchanged (R410 to R412, R420). -/

namespace Sys2Proof.Machine

/-! ## Operations on registers -/

/-- What an operation's effect may do to its engine: of its registers it changes those listed alone. -/
structure Cluster.Within (ds : List Nat) (c d : Cluster) : Prop where
  cycles : d.cycles = c.cycles
  runq : d.runq = c.runq
  holder : d.holder = c.holder
  reg : ∀ r : Fin 16, ds.contains r.val = false → d.reg r = c.reg r

theorem Cluster.within_refl (ds : List Nat) (c : Cluster) : c.Within ds c := ⟨rfl, rfl, rfl, fun _ _ => rfl⟩

theorem Cluster.within_setReg (c : Cluster) (d : Fin 16) (v : Dword) : c.Within [d.val] (c.setReg d v) where
  cycles := rfl
  runq := rfl
  holder := rfl
  reg r hr := by
    have hne : r.val ≠ d.val := by simpa using hr
    rw [Cluster.reg, Cluster.setReg, Table.getD_put, if_neg hne]
    rfl

theorem Cluster.within_jump (c : Cluster) (imm : BitVec 18) : c.Within [] (c.jump imm) := ⟨rfl, rfl, rfl, fun _ _ => rfl⟩

theorem Cluster.within_enterLoop (c : Cluster) (n : Nat) : c.Within [] (c.enterLoop n) := by
  unfold Cluster.enterLoop
  split_ifs <;> exact ⟨rfl, rfl, rfl, fun _ _ => rfl⟩

theorem Cluster.within_endLoop (c : Cluster) : c.Within [] c.endLoop := by
  unfold Cluster.endLoop
  rcases c.loops with _ | ⟨l, rest⟩
  · exact c.within_refl _
  · dsimp only
    split_ifs <;> exact ⟨rfl, rfl, rfl, fun _ _ => rfl⟩

/-- An operation whose effect changes its engine alone keeps all else. -/
theorem policy_keeps {i : Instr} {cost : Nat} {ds : List Nat} {f : Nat → Cluster → State → State} (hi : ∀ s, exec i s = policy cost f s)
    (hf : ∀ n s, f n (s.cluster n) s = s ∨ ∃ g : Cluster → Cluster, f n (s.cluster n) s = s.modCluster n g ∧ ∀ c : Cluster, c.Within ds (g c)) :
    PolicyKeeps i cost ds := by
  intro s n hn
  let s1 := s.modCluster n fun c => { c with word := c.word + 1, cycles := c.cycles + cost }
  have hexec : exec i s = .next (f n (s1.cluster n) s1) := by rw [hi, policy, hn]
  have hcost (m : Nat) : s1.cluster m = if m = n then { s.cluster n with word := (s.cluster n).word + 1, cycles := (s.cluster n).cycles + cost }
    else s.cluster m := State.cluster_modCluster _ _ _ _
  refine ⟨_, hexec, ?_⟩
  rcases hf n s1 with h | ⟨g, h, hg⟩
  · rw [h, hcost, if_pos rfl]
    exact ⟨rfl, rfl, rfl, rfl, rfl, fun m hm => by rw [hcost, if_neg hm], rfl, rfl, fun _ _ => rfl⟩
  · have hwithin := hg (s1.cluster n)
    have hreg (r : Fin 16) (hr : ds.contains r.val = false) : (g (s1.cluster n)).reg r = (s.cluster n).reg r := by
      rw [hwithin.reg r hr, hcost, if_pos rfl]
      rfl
    rw [h, State.cluster_modCluster, if_pos rfl, hwithin.cycles, hwithin.runq, hwithin.holder]
    refine ⟨?_, rfl, rfl, rfl, rfl, fun m hm => by rw [State.cluster_modCluster, if_neg hm, hcost, if_neg hm], ?_, ?_, hreg⟩ <;>
      rw [hcost, if_pos rfl]

theorem policyOn_keeps {i : Instr} {cost : Nat} {ds : List Nat} {f : Cluster → Cluster} (hi : ∀ s, exec i s = policyOn cost f s)
    (hf : ∀ c : Cluster, c.Within ds (f c)) : PolicyKeeps i cost ds :=
  policy_keeps hi fun _ _ => .inr ⟨f, rfl, hf⟩

theorem policyR3_keeps {i : Instr} {cost : Nat} {d a b : Fin 16} {f : Dword → Dword → Dword} (hi : ∀ s, exec i s = policyR3 cost f d a b s) :
    PolicyKeeps i cost [d.val] :=
  policyOn_keeps hi fun c => c.within_setReg d _

theorem policyR2_keeps {i : Instr} {cost : Nat} {d a : Fin 16} {f : Dword → Dword} (hi : ∀ s, exec i s = policyR2 cost f d a s) :
    PolicyKeeps i cost [d.val] :=
  policyOn_keeps hi fun c => c.within_setReg d _

theorem policyBranch_keeps {i : Instr} {d a : Fin 16} {imm : BitVec 18} {p : Dword → Dword → Bool} (hi : ∀ s, exec i s = policyBranch p d a imm s) :
    PolicyKeeps i 1 [] :=
  policyOn_keeps hi fun c => by
    split_ifs
    · exact c.within_jump imm
    · exact c.within_refl _

theorem policyRead_keeps {i : Instr} {d : Fin 16} {num : Cluster → Nat} (hi : ∀ s, exec i s = policyRead num d s) : PolicyKeeps i 4 [d.val] :=
  policy_keeps hi fun n s => by
    rcases (s.cluster n).running with _ | v
    · exact .inl rfl
    · exact .inr ⟨fun x => x.setReg d (BitVec.ofNat 64 (s.counter n v (num (s.cluster n)))), rfl, fun c => c.within_setReg d _⟩

/-- SETD's effect on its engine. -/
def State.setDecision (s : State) (n : Nat) (a : Fin 16) (imm : BitVec 5) (c : Cluster) : Cluster :=
  { c with
    decisions := c.decisions.put imm.toNat (c.reg a)
    named := if imm = 2 then (s.cluster n).running.bind fun i => s.entryNamed n i ((s.cluster n).reg a).toNat else (s.cluster n).named }

theorem policySetd_keeps (a : Fin 16) (n5 : BitVec 5) : PolicyKeeps (.policySetd a n5) 1 [] :=
  policy_keeps (fun _ => by delta exec; rfl) fun n s => .inr ⟨s.setDecision n a n5, rfl, fun _ => ⟨rfl, rfl, rfl, fun _ _ => rfl⟩⟩

theorem policyEnd_keeps : PolicyKeeps .policyEnd 1 [] :=
  policy_keeps (fun _ => by delta exec; rfl) fun n s => by
    split_ifs
    · exact .inl rfl
    · exact .inr ⟨fun c => { c with ended := some s.ck }, rfl, fun _ => ⟨rfl, rfl, rfl, fun _ _ => rfl⟩⟩

/-- Each operation of one cycle that writes a register writes it alone. -/
theorem oneCycle_keeps (d a b : Fin 16) (imm : BitVec 18) (n6 : BitVec 6) :
    ∀ i ∈ ([.policyAdd d a b, .policySub d a b, .policyAnd d a b, .policyOr d a b, .policyXor d a b, .policyShl d a b, .policyShru d a b,
        .policyShrs d a b, .policyMin d a b, .policyMax d a b, .policyMinu d a b, .policyMaxu d a b, .policySlt d a b, .policySltu d a b,
        .policySeq d a b, .policyAddi d a imm, .policyAndi d a imm, .policyOri d a imm, .policyXori d a imm, .policyShli d a n6,
        .policyShrui d a n6, .policyShrsi d a n6, .policyLi d imm, .policyLcat d imm, .policyIter d] : List Instr), PolicyKeeps i 1 [d.val] := by
  have h3 {i : Instr} (hi : ∃ f, ∀ s, exec i s = policyR3 1 f d a b s) : PolicyKeeps i 1 [d.val] := policyR3_keeps hi.choose_spec
  have h2 {i : Instr} (hi : ∃ f, ∀ s, exec i s = policyR2 1 f d a s) : PolicyKeeps i 1 [d.val] := policyR2_keeps hi.choose_spec
  have h1 {i : Instr} (hi : ∃ v : Cluster → Dword, ∀ s, exec i s = policyOn 1 (fun c => c.setReg d (v c)) s) : PolicyKeeps i 1 [d.val] :=
    policyOn_keeps hi.choose_spec fun c => c.within_setReg d _
  simp only [List.forall_mem_cons]
  refine ⟨h3 ?_, h3 ?_, h3 ?_, h3 ?_, h3 ?_, h3 ?_, h3 ?_, h3 ?_, h3 ?_, h3 ?_, h3 ?_, h3 ?_, h3 ?_, h3 ?_, h3 ?_, h2 ?_, h2 ?_, h2 ?_, h2 ?_, h2 ?_,
    h2 ?_, h2 ?_, h1 ?_, h1 ?_, h1 ?_, fun _ h => absurd h List.not_mem_nil⟩
  all_goals exact ⟨_, fun s => by delta exec; rfl⟩

/-- Branches, loops and SETD write no register. -/
theorem control_keeps (d a : Fin 16) (imm : BitVec 18) (n5 : BitVec 5) :
    ∀ i ∈ ([.policyBeq d a imm, .policyBne d a imm, .policyBlt d a imm, .policyBltu d a imm, .policyJmp imm, .policyLoopi imm, .policyLoopr a,
        .policyEndl, .policySetd a n5] : List Instr), PolicyKeeps i 1 [] := by
  simp only [List.forall_mem_cons]
  have hb {i : Instr} (hi : ∃ p, ∀ s, exec i s = policyBranch p d a imm s) : PolicyKeeps i 1 [] := policyBranch_keeps hi.choose_spec
  exact ⟨hb ⟨_, fun s => by delta exec; rfl⟩, hb ⟨_, fun s => by delta exec; rfl⟩, hb ⟨_, fun s => by delta exec; rfl⟩,
    hb ⟨_, fun s => by delta exec; rfl⟩, policyOn_keeps (fun s => by delta exec; rfl) fun c => c.within_jump imm,
    policyOn_keeps (fun s => by delta exec; rfl) fun c => c.within_enterLoop imm.toNat,
    policyOn_keeps (fun s => by delta exec; rfl) fun c => c.within_enterLoop (min (c.reg a).toNat 256),
    policyOn_keeps (fun s => by delta exec; rfl) Cluster.within_endLoop, policySetd_keeps a n5, fun _ h => absurd h List.not_mem_nil⟩

end Sys2Proof.Machine
end

section
/-! PROOFS. The window accesses of a policy engine (R412), and the decisions of its routines (R407, R409, R420). -/

namespace Sys2Proof.Machine

/-! ## The engine that runs -/

/-- An engine takes part in the choice of the next operation: its routine runs and has not ended. -/
def Cluster.running? (c : Cluster) : Bool := !(c.running.isNone || c.ended.isSome)

/-- The entry whose operation is due first, the first of the list on ties. -/
def firstDue (t : Table Cluster) : Option (Nat × Cluster) := (t.filter fun e => e.2.running?).argmin fun e => e.2.due

theorem State.engineOf_eq (s : State) : s.engineOf = (firstDue s.clusters).map (·.1) := by
  unfold State.engineOf firstDue List.argmin
  rw [List.foldl_filter]
  refine congrArg _ (congrFun (congrFun (congrArg _ (funext fun best => funext fun e => ?_)) _) _)
  unfold Cluster.running?
  cases h : (e.2.running.isNone || e.2.ended.isSome) with
  | true => rfl
  | false => rcases best with _ | b <;> simp [List.argAux]

theorem firstDue_cons (e : Nat × Cluster) (t : Table Cluster) : firstDue (e :: t) =
    if e.2.running? then some (match firstDue t with | none => e | some c => if c.2.due < e.2.due then c else e) else firstDue t := by
  unfold firstDue
  rw [List.filter_cons]
  split_ifs with h
  · rw [List.argmin_cons]
    cases List.argmin (fun e : Nat × Cluster => e.2.due) _ with
    | none => rfl
    | some c => dsimp only; split_ifs <;> rfl
  · rfl

/-- Two engines stand alike in the choice. -/
def Cluster.AsDue (c d : Cluster) : Prop := d.running? = c.running? ∧ d.due = c.due

theorem firstDue_le {t : Table Cluster} {c : Nat × Cluster} {n : Nat} {x : Cluster} (h : firstDue t = some c) (hx : t.get? n = some x)
    (hr : x.running? = true) : c.2.due ≤ x.due :=
  List.le_of_mem_argmin (f := fun e : Nat × Cluster => e.2.due) (List.mem_filter.2 ⟨Table.mem_of_get? hx, hr⟩) h

/-- The choice falls on engine n, whose operation is due at d. -/
def Falls (t : Table Cluster) (n d : Nat) : Prop := ∃ c, firstDue t = some (n, c) ∧ c.due = d

theorem Falls.cons_iff {e : Nat × Cluster} {t : Table Cluster} {n d : Nat} (he : e.1 ≠ n) :
    Falls (e :: t) n d ↔ Falls t n d ∧ (e.2.running? = true → d < e.2.due) := by
  unfold Falls
  rw [firstDue_cons]
  cases hr : e.2.running? with
  | false => simp
  | true =>
    rcases hf : firstDue t with _ | ⟨m, c⟩
    · simp only [if_true, Option.some.injEq, reduceCtorEq, false_and, exists_false, iff_false, not_exists]
      rintro c ⟨rfl, -⟩
      exact he rfl
    · simp only [if_true, Option.some.injEq, Prod.mk.injEq, forall_const]
      constructor
      · rintro ⟨c', h, rfl⟩
        split_ifs at h with hlt
        · cases h
          exact ⟨⟨c, ⟨rfl, rfl⟩, rfl⟩, hlt⟩
        · subst h
          exact absurd rfl he
      · rintro ⟨⟨c', ⟨rfl, rfl⟩, rfl⟩, hlt⟩
        exact ⟨c, if_pos hlt, rfl⟩

/-- An update of an engine that leaves it as due as it was leaves the choice, where it falls on this engine. -/
theorem Falls.put {t : Table Cluster} {n d : Nat} {x y : Cluster} (hx : t.get? n = some x) (hy : x.AsDue y) (h : Falls t n d) :
    Falls (t.put n y) n d := by
  obtain ⟨hrun, hdue⟩ := hy
  induction t with
  | nil => cases hx
  | cons e t ih =>
    rcases lt_trichotomy n e.1 with hlt | heq | hgt
    · rw [Table.put, if_pos hlt]
      obtain ⟨c, hc, rfl⟩ := h
      rw [Falls, firstDue_cons, hc]
      cases hr : y.running? with
      | false => exact ⟨c, rfl, rfl⟩
      | true =>
        have hle : c.due ≤ y.due := hdue ▸ firstDue_le hc hx (hrun ▸ hr)
        by_cases hcy : c.due < y.due
        · exact ⟨c, by simp [hcy], rfl⟩
        · exact ⟨y, by simp [hcy], by omega⟩
    · obtain ⟨k, z⟩ := e
      obtain rfl : n = k := heq
      rw [Table.get?, if_pos rfl] at hx
      obtain rfl := Option.some.inj hx
      rw [Table.put, if_neg (lt_irrefl _), if_pos rfl]
      rw [Falls, firstDue_cons] at h ⊢
      rw [hrun, hdue]
      split_ifs at h ⊢
      · rcases hf : firstDue t with _ | c
        · rw [hf] at h
          obtain ⟨c, hc, rfl⟩ := h
          cases hc
          exact ⟨y, rfl, hdue⟩
        · rw [hf] at h
          dsimp only at h ⊢
          split_ifs at h ⊢
          · exact h
          · obtain ⟨c, hc, rfl⟩ := h
            cases hc
            exact ⟨y, rfl, hdue⟩
      · exact h
    · rw [Table.get?, if_neg hgt.ne] at hx
      rw [Table.put, if_neg (by omega), if_neg hgt.ne']
      rw [Falls.cons_iff hgt.ne] at h ⊢
      exact ⟨ih hx h.1, h.2⟩

theorem State.engineOf_iff (s : State) (n : Nat) : s.engineOf = some n ↔ ∃ d, Falls s.clusters n d := by
  rw [s.engineOf_eq, Option.map_eq_some_iff]
  constructor
  · rintro ⟨⟨m, c⟩, h, rfl⟩
    exact ⟨_, c, h, rfl⟩
  · rintro ⟨-, c, h, -⟩
    exact ⟨(n, c), h, rfl⟩

theorem Table.exists_get? {β : Type} {t : Table β} {a : Nat} {x : β} (h : (a, x) ∈ t) : ∃ y, t.get? a = some y := by
  induction t with
  | nil => cases h
  | cons e t ih =>
    rw [Table.get?]
    split_ifs with he
    · exact ⟨_, rfl⟩
    · rcases List.mem_cons.1 h with rfl | h
      · exact absurd rfl he
      · exact ih h

theorem State.engineOf_modCluster {s : State} {n : Nat} {f : Cluster → Cluster} (h : s.engineOf = some n)
    (hf : ∀ c : Cluster, c.AsDue (f c)) : (s.modCluster n f).engineOf = some n := by
  obtain ⟨d, hd⟩ := (s.engineOf_iff n).1 h
  obtain ⟨c, hc, -⟩ := id hd
  have hmem : (n, c) ∈ s.clusters := (List.mem_filter.1 (List.argmin_mem hc)).1
  obtain ⟨x, hx⟩ := Table.exists_get? hmem
  refine (State.engineOf_iff _ n).2 ⟨d, Falls.put hx ?_ hd⟩
  rw [State.cluster, Table.getD, hx]
  exact hf x

/-! ## What a window access leaves alone -/

/-- A step of a window access of engine n: the blocks, the queues and the other engines stay, and so does engine n but for the registers
listed. -/
structure WindowStep (n : Nat) (ds : List Nat) (s t : State) : Prop where
  blocks : t.blocks = s.blocks
  queues : t.queues = s.queues
  others : ∀ m, m ≠ n → t.cluster m = s.cluster m
  within : (s.cluster n).Within ds (t.cluster n)

theorem Cluster.Within.trans {ds : List Nat} {c d e : Cluster} (h1 : c.Within ds d) (h2 : d.Within ds e) : c.Within ds e :=
  ⟨h2.cycles.trans h1.cycles, h2.runq.trans h1.runq, h2.holder.trans h1.holder, fun r hr => (h2.reg r hr).trans (h1.reg r hr)⟩

theorem WindowStep.trans {n : Nat} {ds : List Nat} {s t u : State} (h1 : WindowStep n ds s t) (h2 : WindowStep n ds t u) : WindowStep n ds s u :=
  ⟨h2.blocks.trans h1.blocks, h2.queues.trans h1.queues, fun m hm => (h2.others m hm).trans (h1.others m hm), h1.within.trans h2.within⟩

/-- What leaves blocks, queues and engines as they are. -/
theorem WindowStep.of_eq {n : Nat} {ds : List Nat} {s t : State} (hb : t.blocks = s.blocks) (hq : t.queues = s.queues)
    (hc : t.clusters = s.clusters) : WindowStep n ds s t := by
  have hcl (m : Nat) : t.cluster m = s.cluster m := by rw [State.cluster, hc]; rfl
  exact ⟨hb, hq, fun m _ => hcl m, hcl n ▸ Cluster.within_refl _ _⟩

theorem WindowStep.refl (n : Nat) (ds : List Nat) (s : State) : WindowStep n ds s s := .of_eq rfl rfl rfl

theorem WindowStep.foldl {α : Type} {n : Nat} {ds : List Nat} {g : State → α → State} (h : ∀ s a, WindowStep n ds s (g s a)) (l : List α)
    (s : State) : WindowStep n ds s (l.foldl g s) := by
  induction l generalizing s with
  | nil => exact .refl n ds s
  | cons a l ih => exact (h s a).trans (ih _)

theorem WindowStep.modCluster {n : Nat} {ds : List Nat} (s : State) {f : Cluster → Cluster} (hf : ∀ c : Cluster, c.Within ds (f c)) :
    WindowStep n ds s (s.modCluster n f) where
  blocks := rfl
  queues := rfl
  others m hm := by rw [State.cluster_modCluster, if_neg hm]
  within := by rw [State.cluster_modCluster, if_pos rfl]; exact hf _

theorem State.countL2_windowStep (s : State) (n line : Nat) (hit : Bool) : WindowStep n [] s (s.countL2 (4 * n) line hit) := by
  unfold State.countL2
  split_ifs
  · exact .refl n [] s
  · rw [show clusterOf (4 * n) = n by unfold clusterOf; omega]
    exact .modCluster s fun _ => ⟨rfl, rfl, rfl, fun _ _ => rfl⟩

theorem State.countL2_engineOf {s : State} {n : Nat} (h : s.engineOf = some n) (line : Nat) (hit : Bool) :
    (s.countL2 (4 * n) line hit).engineOf = some n := by
  unfold State.countL2
  split_ifs
  · exact h
  · rw [show clusterOf (4 * n) = n by unfold clusterOf; omega]
    exact State.engineOf_modCluster h fun _ => ⟨rfl, rfl⟩

theorem State.homeTook_windowStep (s : State) (n line : Nat) : WindowStep n [] s (s.homeTook (4 * n) line) :=
  (s.countL2_windowStep n line _).trans (.foldl (g := fun s (b : Nat × Nat) => s.bankTook b.1 b.2) (fun _ _ => .of_eq rfl rfl rfl) _ _)

/-- Taking a bank changes no engine. -/
theorem State.bankTook_fold_clusters (l : List (Nat × Nat)) (s : State) : (l.foldl (fun s b => s.bankTook b.1 b.2) s).clusters = s.clusters := by
  induction l generalizing s with
  | nil => rfl
  | cons b l ih => exact ih _

theorem State.homeTook_engineOf {s : State} {n : Nat} (h : s.engineOf = some n) (line : Nat) : (s.homeTook (4 * n) line).engineOf = some n := by
  unfold State.homeTook State.engineOf
  rw [State.bankTook_fold_clusters]
  exact State.countL2_engineOf h line _

theorem State.atHome_windowStep (s : State) (n : Nat) (ds : List Nat) (line : Nat) (wr : Bool) : WindowStep n ds s (s.atHome line wr) := by
  unfold State.atHome
  split_ifs
  · exact .of_eq rfl rfl rfl
  · exact .refl n ds s

theorem State.report_windowStep (s : State) (n : Nat) (ds : List Nat) (a t held target) : WindowStep n ds s (s.report a t held target) := by
  unfold State.report State.deliver
  dsimp only
  split_ifs <;> exact .of_eq rfl rfl rfl

theorem State.writeBytes_windowStep (s : State) (n : Nat) (ds : List Nat) (key pa bs) : WindowStep n ds s (s.writeBytes key pa bs) := by
  have hsoil (s : State) (line : Nat) : WindowStep n ds s (s.soil line) := by
    unfold State.soil
    split_ifs
    · exact .refl n ds s
    · exact .of_eq rfl rfl rfl
  have hopen (s : State) (pa : Nat) : WindowStep n ds s (s.openFrame pa) := by
    unfold State.openFrame
    split_ifs
    · exact .refl n ds s
    · exact .of_eq rfl rfl rfl
  rw [State.writeBytes]
  by_cases hkey : s.keyed key pa = true
  · rw [if_pos hkey]
    refine (hopen s pa).trans ((hsoil _ (pa / 128)).trans ?_)
    exact .of_eq rfl rfl rfl
  · rw [if_neg hkey]
    exact .of_eq rfl rfl rfl

theorem State.homeLine_windowStep (s : State) (n : Nat) (ds : List Nat) (line : Nat) : WindowStep n ds s (s.homeLine line) := .of_eq rfl rfl rfl

theorem State.draw_windowStep (s : State) (n : Nat) (ds : List Nat) (v : Nat) : WindowStep n ds s { s with fresh := v } := .of_eq rfl rfl rfl

theorem State.policyError_windowStep (s : State) (n : Nat) (ds : List Nat) (m pa : Nat) : WindowStep n ds s (s.policyError m pa) :=
  s.report_windowStep n ds _ _ _ _

theorem State.perform_windowStep (s : State) (n : Nat) (ds : List Nat) (key pa bs) : WindowStep n ds s (s.perform key pa bs) :=
  (s.writeBytes_windowStep n ds key pa bs).trans (.of_eq rfl rfl rfl)

/-! ## The window accesses -/

/-- The banks of an access's lines take it. -/
def State.tookLines (s : State) (n pa size : Nat) : State :=
  ((linePieces pa size).map fun p => (pa + p.1) / 128).foldl (fun s line => s.homeTook (4 * n) line) s

theorem State.tookLines_engineOf {s : State} {n : Nat} (h : s.engineOf = some n) (pa size : Nat) : (s.tookLines n pa size).engineOf = some n := by
  unfold State.tookLines
  induction (linePieces pa size).map fun p => (pa + p.1) / 128 generalizing s with
  | nil => exact h
  | cons line l ih => exact ih (State.homeTook_engineOf h line)

/-- An access whose lines are open is performed at once. -/
theorem policyWindow_free {s : State} {n size : Nat} {a : Fin 16} {imm : BitVec 18} (h : s.windowFree n a imm size) (hsize : 0 < size)
    (f : Nat → Nat → State → State) :
    policyWindow a imm size f s = .next (f n (windowAt (s.cluster n) a imm) ((s.tookLines n (windowAt (s.cluster n) a imm) size).modCluster n
      fun c => { c with word := c.word + 1, cycles := c.cycles + windowCost n (windowAt (s.cluster n) a imm) })) := by
  obtain ⟨⟨hn, hin⟩, hopen⟩ := h
  have hpa : (s.cluster n).windowPa a imm size = some (windowAt (s.cluster n) a imm) := if_pos hin
  obtain ⟨h1, h2, h3⟩ := hopen 0 hsize
  obtain ⟨h4, h5, h6⟩ := hopen (size - 1) (by omega)
  rw [Nat.add_zero] at h1 h2 h3
  rw [← Nat.add_sub_assoc (by omega)] at h4 h5 h6
  have hengine := State.tookLines_engineOf hn (windowAt (s.cluster n) a imm) size
  unfold policyWindow
  rw [hn]
  dsimp only
  rw [hpa]
  dsimp only
  rw [if_neg (by rw [h1, h2, h3, h4, h5, h6]; decide), policy]
  unfold State.tookLines at hengine ⊢
  rw [hengine]

/-- A window access whose effect is a window step keeps what WindowKeeps names. -/
theorem policyWindow_keeps {i : Instr} {size : Nat} {a : Fin 16} {imm : BitVec 18} {ds : List Nat} {f : Nat → Nat → State → State}
    (hi : ∀ s, exec i s = policyWindow a imm size f s) (hsize : 0 < size) (hf : ∀ n pa s, WindowStep n ds s (f n pa s)) :
    WindowKeeps i size a imm ds := by
  intro s n hfree
  refine ⟨_, (hi s).trans (policyWindow_free hfree hsize f), ?_⟩
  have htook : WindowStep n [] s (s.tookLines n (windowAt (s.cluster n) a imm) size) := .foldl (fun s line => s.homeTook_windowStep n line) _ s
  generalize s.tookLines n (windowAt (s.cluster n) a imm) size = s1 at htook
  have hstep := hf n (windowAt (s.cluster n) a imm) (s1.modCluster n
    fun c => { c with word := c.word + 1, cycles := c.cycles + windowCost n (windowAt (s.cluster n) a imm) })
  have hcost : (s1.modCluster n fun c => { c with word := c.word + 1, cycles := c.cycles + windowCost n (windowAt (s.cluster n) a imm) }).cluster n =
      { s1.cluster n with word := (s1.cluster n).word + 1, cycles := (s1.cluster n).cycles + windowCost n (windowAt (s.cluster n) a imm) } := by
    rw [State.cluster_modCluster, if_pos rfl]
  have hwithin := hstep.within
  rw [hcost] at hwithin
  refine ⟨by rw [hwithin.cycles, htook.within.cycles], hstep.blocks.trans htook.blocks, hstep.queues.trans htook.queues, fun m hm => ?_,
    hwithin.runq.trans htook.within.runq, fun r hr => (hwithin.reg r hr).trans (htook.within.reg r rfl)⟩
  rw [hstep.others m hm, State.cluster_modCluster, if_neg hm, htook.others m hm]

/-- What a load leaves alone. -/
theorem policyLoad_windowStep (n : Nat) (d : Fin 16) (s : State) (bad : Bool) (at_ : Nat) (v w : Dword) :
    WindowStep n [d.val] s (if bad then ({ s.modCluster n fun c => c.setReg d v with fresh := s.fresh + 1 } : State).policyError n at_
      else s.modCluster n fun c => c.setReg d w) := by
  split_ifs
  · refine (WindowStep.modCluster s fun c => c.within_setReg d v).trans ?_
    exact (State.draw_windowStep _ n _ _).trans (State.policyError_windowStep _ n _ _ _)
  · exact .modCluster s fun c => c.within_setReg d w

theorem policyLoad_keeps {i : Instr} {size : Nat} {d a : Fin 16} {imm : BitVec 18} (hi : ∀ s, exec i s = policyLoad size d a imm s)
    (hsize : 0 < size) : WindowKeeps i size a imm [d.val] :=
  policyWindow_keeps hi hsize fun n pa s =>
    (s.atHome_windowStep n [d.val] (pa / 128) false).trans ((State.atHome_windowStep _ n [d.val] ((pa + size - 1) / 128) false).trans
      (policyLoad_windowStep n d _ _ _ _ _))

theorem policyStore_keeps {i : Instr} {size : Nat} {d a : Fin 16} {imm : BitVec 18} (hi : ∀ s, exec i s = policyStore size d a imm s)
    (hsize : 0 < size) : WindowKeeps i size a imm [] :=
  policyWindow_keeps hi hsize fun n pa s => by
    refine WindowStep.foldl (fun s p => ?_) _ _
    exact (s.homeLine_windowStep n [] ((pa + p.1) / 128)).trans (State.perform_windowStep _ n [] _ _ _)

end Sys2Proof.Machine
end

section
/-! PROOFS. What the decisions of a layer T routine leave unchanged (R407, R409, R420). -/

namespace Sys2Proof.Machine

/-- What applying a decision does outside the run queues: crews, command queues and the routine that runs on engine n stay. -/
structure Decides (n : Nat) (s t : State) : Prop where
  crews : t.crews = s.crews
  queues : t.queues = s.queues
  running : (t.cluster n).running = (s.cluster n).running

theorem Decides.refl (n : Nat) (s : State) : Decides n s s := ⟨rfl, rfl, rfl⟩

theorem Decides.trans {n : Nat} {s t u : State} (h1 : Decides n s t) (h2 : Decides n t u) : Decides n s u :=
  ⟨h2.crews.trans h1.crews, h2.queues.trans h1.queues, h2.running.trans h1.running⟩

theorem Decides.modCluster (n : Nat) (s : State) (m : Nat) {f : Cluster → Cluster} (hf : ∀ c : Cluster, (f c).running = c.running) :
    Decides n s (s.modCluster m f) where
  crews := rfl
  queues := rfl
  running := by
    rw [State.cluster_modCluster]
    split_ifs with h
    · rw [hf, h]
    · rfl

/-! ## Memory -/

/-- Memory stays, but for the device regions of the mailbox SRAMs. -/
def MemoryKept (s t : State) : Prop := ∀ a, inDeviceRegion a = false → t.mem.byte a = s.mem.byte a

theorem MemoryKept.of_eq {s t : State} (h : t.mem = s.mem) : MemoryKept s t := fun a _ => by rw [h]

theorem MemoryKept.trans {s t u : State} (h1 : MemoryKept s t) (h2 : MemoryKept t u) : MemoryKept s u :=
  fun a ha => (h2 a ha).trans (h1 a ha)

theorem MemoryKept.congr {s s' t t' : State} (h : MemoryKept s t) (hs : s'.mem = s.mem) (ht : t'.mem = t.mem) : MemoryKept s' t' :=
  fun a ha => by rw [hs, ht, h a ha]

/-- The entries of the migration rings lie in the device regions (R424). -/
theorem ringEntry_inDeviceRegion {die slot i : Nat} (hd : die < 4) (hi : i < 64) : inDeviceRegion (ringEntry die slot + i) = true := by
  have hslot : slot % migrationEntries < 512 := Nat.mod_lt _ (by decide)
  unfold inDeviceRegion inMailbox ringEntry
  simp only [Bool.and_eq_true, decide_eq_true_eq]
  omega

theorem State.writeEntry_memoryKept (s : State) {die : Nat} (hd : die < 4) (slot v : Nat) : MemoryKept s (s.writeEntry die slot v) := by
  intro a ha
  rw [State.writeEntry, Memory.byte_storeBytes, if_neg]
  rintro ⟨h1, h2⟩
  rw [leBytes_length] at h2
  have := ringEntry_inDeviceRegion (slot := slot) (i := a - ringEntry die slot) hd (by omega)
  rw [Nat.add_sub_cancel' h1, ha] at this
  exact Bool.false_ne_true this

/-! ## The pieces of a decision -/

theorem State.leaveRunq_decides (s : State) (n m launch block : Nat) : Decides n s (s.leaveRunq m launch block) := .modCluster n s m fun _ => rfl

theorem State.enterRunq_decides (s : State) (n m : Nat) (front : Bool) (e : RunEntry) : Decides n s (s.enterRunq m front e) := by
  unfold State.enterRunq
  exact .modCluster n s m fun _ => rfl

theorem State.grantEntry_decides (s : State) (n core place : Nat) (e : RunEntry) :
    Decides n s (s.grantEntry n core place e) ∧ (s.grantEntry n core place e).mem = s.mem := by
  unfold State.grantEntry
  dsimp only
  split
  · exact ⟨.refl n s, rfl⟩
  · exact ⟨(s.leaveRunq_decides n n _ _).trans (.modCluster n _ n fun _ => rfl), rfl⟩

theorem State.defaultPick_decides (s : State) (n : Nat) (i : Invocation) : Decides n s (s.defaultPick n i) ∧ (s.defaultPick n i).mem = s.mem := by
  unfold State.defaultPick
  split
  · exact s.grantEntry_decides n _ _ _
  · exact ⟨.refl n s, rfl⟩

theorem State.applyPick_decides (s : State) (n : Nat) (i : Invocation) (ds : Table Dword) :
    Decides n s (s.applyPick n i ds) ∧ (s.applyPick n i ds).mem = s.mem := by
  unfold State.applyPick
  split_ifs
  · exact ⟨.refl n s, rfl⟩
  · split
    · exact s.defaultPick_decides n i
    · split_ifs
      · exact s.grantEntry_decides n _ _ _
      · exact s.defaultPick_decides n i

theorem State.modBlock_decides (s : State) (n key : Nat) (f : Block → Block) : Decides n s (s.modBlock key f) ∧ (s.modBlock key f).mem = s.mem := by
  unfold State.modBlock
  split <;> exact ⟨⟨rfl, rfl, rfl⟩, rfl⟩

theorem State.evict_decides (s : State) (n bound key : Nat) : Decides n s (s.evict bound key) ∧ (s.evict bound key).mem = s.mem := by
  unfold State.evict State.preempt
  split_ifs
  · exact s.modBlock_decides n _ _
  · split
    · exact ⟨.refl n s, rfl⟩
    · split_ifs
      · exact ⟨.refl n s, rfl⟩
      all_goals exact s.modBlock_decides n _ _

theorem Decides.setMem (n : Nat) (s : State) (m : Memory) (ring : Table (List Migrant)) (next : Table Nat) :
    Decides n s { s with mem := m, migRing := ring, migNext := next } := ⟨rfl, rfl, rfl⟩

theorem MemoryKept.setRing {s t : State} (h : MemoryKept s t) (ring : Table (List Migrant)) (next : Table Nat) :
    MemoryKept s { t with migRing := ring, migNext := next } := h

theorem State.refuseMigration_decides (s : State) (n die p : Nat) :
    Decides n s (s.refuseMigration n die p) ∧ (s.refuseMigration n die p).mem = s.mem := by
  unfold State.refuseMigration State.log
  exact ⟨⟨by rw [State.modRing_crews], by rw [State.modRing_queues], by rw [State.cluster, State.modRing_clusters]; rfl⟩, by rw [State.modRing_mem]⟩

theorem State.migrate_decides (s : State) (n die : Nat) (e : RunEntry) (hd : die < 4) :
    Decides n s (s.migrate n die e) ∧ MemoryKept s (s.migrate n die e) := by
  unfold State.migrate
  dsimp only
  split_ifs
  · obtain ⟨hd, hmem⟩ := s.refuseMigration_decides n die ((s.partOfLaunch e.launch).getD 0)
    exact ⟨hd, .of_eq hmem⟩
  · refine ⟨(s.leaveRunq_decides n n e.launch e.block).trans (.setMem n _ _ _ _), .setRing ?_ _ _⟩
    exact (MemoryKept.of_eq rfl).trans ((s.leaveRunq n e.launch e.block).writeEntry_memoryKept hd _ _)

theorem State.applyWake_decides (s : State) (n : Nat) (i : Invocation) (ds : Table Dword) :
    Decides n s (s.applyWake n i ds) ∧ MemoryKept s (s.applyWake n i ds) := by
  unfold State.applyWake
  split
  · exact ⟨.refl n s, .of_eq rfl⟩
  · dsimp only
    split_ifs with h1 h2
    · exact ⟨.refl n s, .of_eq rfl⟩
    · have hd := of_decide_eq_true (Bool.and_eq_true_iff.1 h2).1
      obtain ⟨hm, hmem⟩ := State.migrate_decides (s.enterRunq n false _) n _ _ hd
      exact ⟨(s.enterRunq_decides n n false _).trans hm, (MemoryKept.of_eq rfl).trans hmem⟩
    · exact ⟨s.enterRunq_decides n n false _, .of_eq rfl⟩

theorem State.migrations_decides (s : State) (n : Nat) {die : Nat} (hd : die < 4) (l : List RunEntry) :
    Decides n s (l.foldl (fun s e => s.migrate n die e) s) ∧ MemoryKept s (l.foldl (fun s e => s.migrate n die e) s) := by
  induction l generalizing s with
  | nil => exact ⟨.refl n s, .of_eq rfl⟩
  | cons e l ih =>
    obtain ⟨h1, h2⟩ := s.migrate_decides n die e hd
    exact ⟨h1.trans (ih _).1, h2.trans (ih _).2⟩

theorem State.applyMigrate_decides (s : State) (n : Nat) (i : Invocation) (ds : Table Dword) :
    Decides n s (s.applyMigrate n i ds) ∧ MemoryKept s (s.applyMigrate n i ds) := by
  unfold State.applyMigrate
  dsimp only
  split_ifs with hd
  · exact State.migrations_decides s n hd _
  · exact ⟨.refl n s, .of_eq rfl⟩

/-- A decision of layer T, other than a rebalance. -/
theorem State.applyT_decides (s : State) (n : Nat) (i : Invocation) (ds : Table Dword) (h : i.point ≠ pointRebalance) :
    Decides n s (s.applyT n i ds) ∧ MemoryKept s (s.applyT n i ds) ∧
      (i.point ≠ pointWake → i.point ≠ pointMigrate → (s.applyT n i ds).mem = s.mem) := by
  have keeps {t : State} (ht : Decides n s t ∧ t.mem = s.mem) :
      Decides n s t ∧ MemoryKept s t ∧ (i.point ≠ pointWake → i.point ≠ pointMigrate → t.mem = s.mem) :=
    ⟨ht.1, .of_eq ht.2, fun _ _ => ht.2⟩
  unfold State.applyT
  split
  · split
    · exact keeps ⟨.refl n s, rfl⟩
    · exact keeps ⟨.modCluster n s n fun _ => rfl, rfl⟩
  · exact keeps (s.applyPick_decides n i ds)
  · split
    · split_ifs
      · exact keeps (s.evict_decides n _ _)
      · exact keeps ⟨.refl n s, rfl⟩
    · exact keeps ⟨.refl n s, rfl⟩
  · next hp => exact ⟨(s.applyWake_decides n i ds).1, (s.applyWake_decides n i ds).2, fun hw _ => absurd hp hw⟩
  · next hp => exact ⟨(s.applyMigrate_decides n i ds).1, (s.applyMigrate_decides n i ds).2, fun _ hm => absurd hp hm⟩
  · next hp => exact absurd hp h
  · exact keeps ⟨.refl n s, rfl⟩

theorem routineInvoke_keeps (s : State) (n t0 : Nat) (i : Invocation) (hr : (s.cluster n).running = some i) (he : (s.cluster n).ended = some t0)
    (ht : t0 < s.ck) (hl : i.layer = 0) (hp : i.point ≠ pointRebalance) :
    ∃ t, exec (.routineInvoke n) s = .next t ∧ (t.cluster n).running = none ∧ t.crews = s.crews ∧ t.queues = s.queues ∧
      (∀ a, inDeviceRegion a = false → t.mem.byte a = s.mem.byte a) ∧ (i.point ≠ pointWake → i.point ≠ pointMigrate → t.mem = s.mem) := by
  have hexec : exec (.routineInvoke n) s = .next ((s.modCluster n Cluster.idle).applyT n i (s.cluster n).decisions) := by
    change execRoutineInvoke n s = _
    unfold execRoutineInvoke
    dsimp only
    rw [hr, he]
    dsimp only
    rw [if_neg (not_le.2 ht), State.apply, if_neg (by rw [hl]; decide)]
  obtain ⟨hd, hmem, hsame⟩ := State.applyT_decides (s.modCluster n Cluster.idle) n i (s.cluster n).decisions hp
  refine ⟨_, hexec, hd.running.trans ?_, hd.crews, hd.queues, hmem, hsame⟩
  rw [State.cluster_modCluster, if_pos rfl]
  rfl

end Sys2Proof.Machine
end

section
/-! PROOFS. What FDIV and the special functions, the event counters and BAR leave unchanged (R44, R62, R153, R158, R198, R206, R210 to R214). -/

namespace Sys2Proof.Machine

/-! ## FDIV and the special functions -/

/-- A variable-latency lane instruction leaves everything but the results on their way and the unit's place. -/
theorem variableLane_keeps {op : Nat} {ctor : Args → Instr} {sem : LaneSem} (harm : ∀ a s, exec (ctor a) s = issue op a (variableLane sem) s)
    (x : Ctx) (s : State) (hready : x.ready op s = true) :
    ∃ t r c, exec (ctor x.a) s = .next t ∧ x.awaits s t r ∧ x.crewIn t = some c ∧ c.pool = x.c.pool ∧ c.sregs = x.c.sregs ∧
      c.oregs = x.c.oregs ∧ c.fflags = x.c.fflags ∧ c.tokens = x.c.tokens ∧ t.mem = s.mem ∧ t.blocks = s.blocks ∧ x.goesOn t ∧
      ∀ k, k ≠ x.k → t.crews.get? k = s.crews.get? k := by
  obtain ⟨-, hc, hu, -, -⟩ := Ctx.ready_at hready
  obtain ⟨t, c, ht, hcrew, hd, hgo, hmem, hblocks, hother⟩ := x.sends (x.start s) sem (by simpa using hc) hu
  have hdata := hd
  simp only [Crew.data, Prod.mk.injEq] at hdata
  obtain ⟨hpool, hs, ho, hf, htok, -⟩ := hdata
  exact ⟨t, _, c, ((harm _ _).trans (issue_ready hready _)).trans (congrArg _ ht), x.awaits_sent hcrew hd, hcrew, hpool, hs, ho, hf, htok, hmem,
    hblocks, hgo, hother⟩

/-! ## The unit's place after an instruction -/

/-- The unit is there in a later state. -/
def Ctx.present (x : Ctx) (t : State) : Prop := ∃ c, t.crews.get? x.k = some c ∧ (c.units.get? x.u).isSome

theorem Ctx.present_modCrew {x : Ctx} {t : State} (h : x.present t) {f : Crew → Crew}
    (hf : ∀ c : Crew, (c.units.get? x.u).isSome → ((f c).units.get? x.u).isSome) : x.present (t.modCrew x.k f) := by
  obtain ⟨c, hc, hu⟩ := h
  exact ⟨f c, by rw [State.modCrew_get?_self, hc]; rfl, hf c hu⟩

theorem Ctx.present_writeReg {x : Ctx} {t : State} (h : x.present t) (w : RegWrite) : x.present (t.modCrew x.k fun c => c.writeReg x.u w) :=
  Ctx.present_modCrew h fun c hu => Crew.writeReg_units c x.u w hu

theorem Crew.mapUnits_isSome (c : Crew) (f : Nat → CrewUnit → CrewUnit) (u : Nat) :
    ((c.mapUnits f).units.get? u).isSome = (c.units.get? u).isSome := by
  rw [Crew.mapUnits, Table.get?_mapKey f c.units u, Option.isSome_map]

theorem Ctx.present_mapCrews {x : Ctx} {t : State} (h : x.present t) {f : Nat → Crew → Crew}
    (hf : ∀ k c, ((f k c).units.get? x.u).isSome = (c.units.get? x.u).isSome) : x.present (t.mapCrews f) := by
  obtain ⟨c, hc, hu⟩ := h
  exact ⟨f x.k c, (Table.get?_mapKey f t.crews x.k).trans (by rw [hc]; rfl), (hf _ _).trans hu⟩

/-- The instruction as one that sets S, which the instructions of R210 do. -/
def Ctx.parked (x : Ctx) : Ctx := { x with a := { x.a with sw := true } }

theorem Ctx.parks_eq (x : Ctx) (t : State) : x.parks t = x.parked.ends t := rfl

theorem Ctx.parks_goesOn {x : Ctx} {t : State} (h : x.present t) : x.goesOn (x.parks t) := by
  obtain ⟨c, hc, hu⟩ := h
  exact x.parked.ends_goesOn t hc hu

@[simp] theorem Ctx.parks_mem (x : Ctx) (t : State) : (x.parks t).mem = t.mem := x.parked.ends_mem t

@[simp] theorem Ctx.parks_blocks (x : Ctx) (t : State) : (x.parks t).blocks = t.blocks := x.parked.ends_blocks t

/-! ## Counters and barriers after an instruction -/

theorem State.perf_counters (s : State) (core launch event n m : Nat) : ((s.perf core launch event n).core m).counters = (s.core m).counters := by
  unfold State.perf
  split_ifs
  · rw [State.core_modCore]
    split_ifs with h
    · rw [h]
    · rfl
  · rfl

/-- The group barriers of a launch. -/
def State.barriersOf (s : State) (launch : Nat) : Option (Table Barrier) := (s.launches.get? launch).map (·.barriers)

theorem State.barriersOf_congr {s t : State} (h : t.launches = s.launches) (launch : Nat) : t.barriersOf launch = s.barriersOf launch := by
  rw [State.barriersOf, h]
  rfl

/-- A launch after its own update, and the others. -/
theorem State.modLaunch_get? (s : State) (id j : Nat) (f : Launch → Launch) :
    (s.modLaunch id f).launches.get? j = if j = id then (s.launches.get? id).map f else s.launches.get? j := by
  unfold State.modLaunch
  cases h : s.launches.get? id with
  | none => split_ifs with hj <;> simp [hj, h]
  | some l => exact Table.get?_put _ _ _ _

theorem State.modLaunch_barriersOf (s : State) (id j : Nat) {f : Launch → Launch} (hf : ∀ l, (f l).barriers = l.barriers) :
    (s.modLaunch id f).barriersOf j = s.barriersOf j := by
  unfold State.barriersOf
  rw [State.modLaunch_get?]
  split_ifs with hj
  · rw [hj, Option.map_map]
    exact congrArg (fun g => Option.map g _) (funext hf)
  · rfl

theorem State.noteStop_cores (s : State) (x : Ctx) : (s.noteStop x).cores = s.cores := by
  unfold State.noteStop State.modUnit
  split_ifs <;> simp

theorem State.noteStop_barriersOf (s : State) (x : Ctx) (launch : Nat) : (s.noteStop x).barriersOf launch = s.barriersOf launch := by
  unfold State.noteStop State.modUnit
  split_ifs
  · rw [State.barriersOf_congr (State.modCrew_launches _ _ _), State.modLaunch_barriersOf]
    exact fun _ => rfl
  · rfl

theorem State.noteIssue_counters (s : State) (x : Ctx) (m : Nat) : ((s.noteIssue x).core m).counters = (s.core m).counters := by
  have hstop : ((s.noteStop x).core m).counters = (s.core m).counters := by rw [State.core, State.noteStop_cores]; rfl
  have hspent (t : State) (l : List (Nat × Nat)) : State.core { t with spent := l } m = t.core m := rfl
  unfold State.noteIssue
  cases x.isPair with
  | false =>
    simp only [Bool.false_eq_true, if_false]
    rw [hspent, State.perf_counters, State.perf_counters, hstop]
  | true =>
    simp only [if_true]
    rw [hspent, State.perf_counters, State.perf_counters, State.perf_counters, hstop]

theorem State.noteIssue_barriersOf (s : State) (x : Ctx) (launch : Nat) : (s.noteIssue x).barriersOf launch = s.barriersOf launch := by
  rw [← s.noteStop_barriersOf x launch]
  refine State.barriersOf_congr ?_ launch
  unfold State.noteIssue
  cases x.isPair <;> simp [State.perf_launches]

theorem Ctx.parks_counters (x : Ctx) (t : State) (m : Nat) : ((x.parks t).core m).counters = (t.core m).counters := by
  rw [Ctx.parks, State.noteIssue_counters, State.finish, State.core, State.modCrew_cores]
  rfl

theorem Ctx.parks_barriersOf (x : Ctx) (t : State) (launch : Nat) : (x.parks t).barriersOf launch = t.barriersOf launch := by
  rw [Ctx.parks, State.noteIssue_barriersOf, State.finish]
  exact State.barriersOf_congr (State.modCrew_launches _ _ _) launch

/-! ## The event counters -/

theorem Ctx.counterIndex_named {x : Ctx} (h : x.eventNamed ≤ 2047) : x.counterIndex = .ok x.eventNamed := by
  have hn : ¬ 2047 < (if x.a.ctl.getLsbD 8 then (x.scalar x.a.in2).toNat else x.a.aux.toNat) := not_lt.2 h
  unfold Ctx.counterIndex
  dsimp only
  rw [if_neg hn]
  rfl

theorem State.soft_of_nil {s : State} (h : s.softErrors = []) (code owner index : Nat) : s.soft code owner index = false := by
  rw [State.soft, h]
  rfl

/-- A counter that a block of the launch owns is found. -/
theorem Ctx.launchCounter_owned {x : Ctx} {s : State} {c : Counter} (h : x.eventOwned s c) :
    s.launchCounter x x.eventCore x.eventNamed = .ok c := by
  obtain ⟨hsoft, -, hget, b, hb, hl⟩ := h
  unfold State.launchCounter
  rw [hget]
  dsimp only
  rw [State.soft_of_nil hsoft, hb]
  simp [hl]

/-- Waking units leaves all but the crews. -/
theorem Ctx.present_wakeCounter {x : Ctx} {t : State} (h : x.present t) (core e epoch : Nat) (all : Bool) :
    x.present (t.wakeCounter core e epoch all) := by
  refine Ctx.present_mapCrews h fun k c => ?_
  split_ifs
  · exact c.mapUnits_isSome _ _
  · rfl

theorem State.addCounter_eq {s : State} {core e n : Nat} {c : Counter} (h : (s.core core).counters.get? e = some c) :
    s.addCounter core e n = s.modCore core (fun y => { y with counters := y.counters.put e (c.add n) }) ∨
    s.addCounter core e n = (s.modCore core fun y => { y with counters := y.counters.put e (c.add n) }).wakeCounter core e (c.add n).epoch false := by
  unfold State.addCounter
  rw [h]
  dsimp only
  split_ifs
  · exact .inl rfl
  · exact .inr rfl

/-- An addition leaves memory, blocks and units. -/
theorem State.addCounter_keeps {s : State} {core e n : Nat} {c : Counter} (h : (s.core core).counters.get? e = some c) :
    (s.addCounter core e n).mem = s.mem ∧ (s.addCounter core e n).blocks = s.blocks ∧
      ((s.addCounter core e n).core core).counters.get? e = some (c.add n) ∧ ∀ x : Ctx, x.present s → x.present (s.addCounter core e n) := by
  have hput : ((s.modCore core fun y => { y with counters := y.counters.put e (c.add n) }).core core).counters.get? e = some (c.add n) := by
    rw [State.core_modCore, if_pos rfl]
    exact Table.get?_put_self _ _ _
  rcases State.addCounter_eq (n := n) h with ha | ha <;> rw [ha]
  · exact ⟨rfl, rfl, hput, fun x hx => hx⟩
  · exact ⟨rfl, rfl, hput, fun x hx => Ctx.present_wakeCounter hx _ _ _ _⟩

theorem Counter.add_fields (c : Counter) (n : Nat) : (c.add n).owner = c.owner ∧ (c.add n).target = c.target ∧ (c.add n).bytes = c.bytes := by
  unfold Counter.add
  dsimp only
  split_ifs <;> exact ⟨rfl, rfl, rfl⟩

/-- Nothing added to a counter without a target. -/
theorem Counter.add_zero {c : Counter} (ht : c.target = 0) (hc : c.count < 2 ^ 32) : c.add 0 = c := by
  rw [Counter.add, if_pos ht, Nat.add_zero, Nat.mod_eq_of_lt hc]

theorem Ctx.present_start {x : Ctx} {op : Nat} {s : State} (h : x.ready op s = true) : x.present (x.start s) := by
  obtain ⟨-, hc, hu, -, -⟩ := Ctx.ready_at h
  exact ⟨x.c, hc, by rw [hu]; rfl⟩

theorem evAdd_keeps (x : Ctx) (s : State) (c : Counter) (hready : x.ready 0xD5 s = true) (hscope : x.scopeOk s = true)
    (how : x.eventOwned s c) (hrel : x.releases s) :
    ∃ t c', exec (.evAdd x.a) s = .next t ∧ x.goesOn t ∧ t.mem = s.mem ∧ t.blocks = s.blocks ∧
      (t.core x.eventCore).counters.get? x.eventNamed = some c' ∧ c'.owner = c.owner ∧ c'.target = c.target ∧ c'.bytes = c.bytes ∧
      ((x.word x.a.in0 0).toNat = 0 → c.target = 0 → c.count < 2 ^ 32 → c' = c) := by
  obtain ⟨-, hn, hget, -⟩ := id how
  have how' : x.eventOwned (x.start s) c := how
  have hbody : bodyEvAdd x (x.start s) = .parked (((x.start s).addCounter x.eventCore x.eventNamed (x.word x.a.in0 0).toNat).modCrew x.k fun y =>
      y.writeReg x.u ⟨x.a.dst, 0, [wordOf (c.add (x.word x.a.in0 0).toNat).epoch]⟩) := by
    have hscope' : x.scopeOk (x.start s) = true := hscope
    have hrel' : (x.start s).released x.k x.c x.a.scope.toNat false true false = true := hrel
    have hcore : x.counterCore = x.eventCore := rfl
    unfold bodyEvAdd
    simp only [hscope', x.counterIndex_named hn, hrel', hcore, Ctx.launchCounter_owned how', Bool.not_true, Bool.false_eq_true, if_false]
    rfl
  obtain ⟨hmem, hblocks, hc', hpresent⟩ := State.addCounter_keeps (s := x.start s) (n := (x.word x.a.in0 0).toNat) hget
  obtain ⟨ho, ht, hb⟩ := c.add_fields (x.word x.a.in0 0).toNat
  have hexec : exec (.evAdd x.a) s = .next _ := (rfl : exec (.evAdd x.a) s = issue 0xD5 x.a bodyEvAdd s).trans (issue_ready hready _)
  rw [hbody] at hexec
  refine ⟨_, _, hexec, Ctx.parks_goesOn (Ctx.present_writeReg (hpresent x (Ctx.present_start hready)) _), ?_, ?_, ?_, ho, ht, hb, fun h0 ht0 hlt => ?_⟩
  · exact (x.parks_mem _).trans ((State.modCrew_mem _ _ _).trans hmem)
  · exact (x.parks_blocks _).trans ((State.modCrew_blocks _ _ _).trans hblocks)
  · refine (congrArg (fun t => Table.get? t x.eventNamed) (x.parks_counters _ _)).trans ?_
    rw [State.core, State.modCrew_cores]
    exact hc'
  · rw [h0, Counter.add_zero ht0 hlt]

/-- What EV.SET's effect leaves of a state: counter e of a core is there or not, as `there` says, and every other counter is as it was. -/
structure Ctx.SetsCounter (x : Ctx) (core e : Nat) (there : Bool) (s t : State) : Prop where
  mem : t.mem = s.mem
  blocks : t.blocks = s.blocks
  present : x.present t
  isThere : ((t.core core).counters.get? e).isSome = there
  others : ∀ c i, (c, i) ≠ (core, e) → (t.core c).counters.get? i = (s.core c).counters.get? i

/-- A new table of a core's counters that differs at e alone. -/
theorem Ctx.setsCounter_modCore {x : Ctx} {s : State} (hp : x.present s) (core e : Nat) {g : Table Counter → Table Counter} {there : Bool}
    (hthere : ∀ t, ((g t).get? e).isSome = there) (hg : ∀ t i, i ≠ e → (g t).get? i = t.get? i) :
    x.SetsCounter core e there s (s.modCore core fun y => { y with counters := g y.counters }) where
  mem := rfl
  blocks := rfl
  present := hp
  isThere := by rw [State.core_modCore, if_pos rfl]; exact hthere _
  others c i hne := by
    rw [State.core_modCore]
    split_ifs with hc
    · rw [hc]
      exact hg _ i fun hi => hne (by rw [hc, hi])
    · rfl

theorem Ctx.SetsCounter.wakeCounter {x : Ctx} {core e : Nat} {there : Bool} {s t : State} (h : x.SetsCounter core e there s t)
    (core' e' epoch : Nat) (all : Bool) : x.SetsCounter core e there s (t.wakeCounter core' e' epoch all) :=
  ⟨h.mem, h.blocks, Ctx.present_wakeCounter h.present _ _ _ _, h.isThere, h.others⟩

theorem Ctx.SetsCounter.mend {x : Ctx} {core e : Nat} {there : Bool} {s t : State} (h : x.SetsCounter core e there s t)
    (code owner index : Nat) : x.SetsCounter core e there s (t.mend code owner index) :=
  ⟨h.mem, h.blocks, h.present, h.isThere, h.others⟩

theorem bodyEvSet_sets (x : Ctx) (s : State) (hp : x.present s) (hn : x.eventNamed ≤ 2047)
    (hown : ∀ c, (s.core x.core).counters.get? x.eventNamed = some c → c.owner = s.bslotOf x.k ∧ s.counterBusy x.core x.eventNamed = false) :
    ∃ t, bodyEvSet x s = .parked t ∧ x.SetsCounter x.core x.eventNamed (!x.a.ctl.getLsbD 2) s t := by
  have hput (c : Counter) := Ctx.setsCounter_modCore hp x.core x.eventNamed (g := fun t => t.put x.eventNamed c) (there := true)
    (fun t => by rw [Table.get?_put_self]; rfl) fun t i hi => Table.get?_put_of_ne _ _ hi
  have hdel := Ctx.setsCounter_modCore hp x.core x.eventNamed (g := fun t => t.del x.eventNamed) (there := false)
    (fun t => by rw [Table.get?_del, if_pos rfl]; rfl) fun t i hi => by rw [Table.get?_del, if_neg hi]
  unfold bodyEvSet
  rw [x.counterIndex_named hn]
  dsimp only
  rcases hold : (s.core x.core).counters.get? x.eventNamed with _ | c
  · cases hfree : x.a.ctl.getLsbD 2 with
    | true => exact ⟨s, rfl, rfl, rfl, hp, by rw [hold]; rfl, fun _ _ _ => rfl⟩
    | false => exact ⟨_, rfl, ((hput _).mend _ _ _).wakeCounter _ _ _ _⟩
  · obtain ⟨ho, hb⟩ := hown c hold
    have hmine : (c.owner != x.bslot s) = false := by rw [ho, bne_eq_false_iff_eq]; rfl
    dsimp only
    rw [if_neg (Bool.eq_false_iff.1 hmine)]
    cases hfree : x.a.ctl.getLsbD 2 with
    | true =>
      rw [if_pos rfl, if_neg (Bool.eq_false_iff.1 hb)]
      exact ⟨_, rfl, hdel.wakeCounter _ _ _ _⟩
    | false => exact ⟨_, rfl, ((hput _).mend _ _ _).wakeCounter _ _ _ _⟩

theorem evSet_keeps (x : Ctx) (s : State) (hready : x.ready 0xD6 s = true) (hn : x.eventNamed ≤ 2047)
    (hown : ∀ c, (s.core x.core).counters.get? x.eventNamed = some c → c.owner = s.bslotOf x.k ∧ s.counterBusy x.core x.eventNamed = false) :
    ∃ t, exec (.evSet x.a) s = .next t ∧ x.goesOn t ∧ t.mem = s.mem ∧ t.blocks = s.blocks ∧
      ((t.core x.core).counters.get? x.eventNamed).isSome = !x.a.ctl.getLsbD 2 ∧
      ∀ core e, (core, e) ≠ (x.core, x.eventNamed) → (t.core core).counters.get? e = (s.core core).counters.get? e := by
  obtain ⟨t, ht, hsets⟩ := bodyEvSet_sets x (x.start s) (Ctx.present_start hready) hn hown
  have hexec : exec (.evSet x.a) s = .next _ := (rfl : exec (.evSet x.a) s = issue 0xD6 x.a bodyEvSet s).trans (issue_ready hready _)
  rw [ht] at hexec
  refine ⟨_, hexec, Ctx.parks_goesOn hsets.present, (x.parks_mem t).trans hsets.mem, (x.parks_blocks t).trans hsets.blocks, ?_, fun c e hne => ?_⟩
  · exact (congrArg (fun t => (Table.get? t x.eventNamed).isSome) (x.parks_counters t _)).trans hsets.isThere
  · exact (congrArg (fun t => Table.get? t e) (x.parks_counters t _)).trans (hsets.others c e hne)

/-- EV.RD of a counter that it may read writes its destination alone. -/
theorem bodyEvRd_reads (x : Ctx) (s : State) (c : Counter) (how : x.eventOwned s c)
    (hmay : x.a.ctl.getLsbD 4 = true ∨ c.owner = s.bslotOf x.k ∨ (x.a.ctl.toNat / 4) % 4 = 3) :
    ∃ v, bodyEvRd x s = .parked (s.modCrew x.k fun y => y.writeReg x.u ⟨x.a.dst, 0, [v]⟩) := by
  obtain ⟨hsoft, hn, hget, -⟩ := id how
  have hcore : x.counterCore = x.eventCore := rfl
  have hmine : x.a.ctl.getLsbD 4 ≠ true → (bits x.a.ctl.toNat 2 2 != 3 && c.owner != x.bslot s) = false := by
    intro hpeer
    rcases hmay with h | h | h
    · exact absurd h hpeer
    · rw [Bool.and_eq_false_iff, bne_eq_false_iff_eq, bne_eq_false_iff_eq]
      exact .inr h
    · rw [Bool.and_eq_false_iff, bne_eq_false_iff_eq]
      exact .inl h
  unfold bodyEvRd
  rw [hcore, x.counterIndex_named hn]
  dsimp only
  rw [hget]
  dsimp only
  rw [State.soft_of_nil hsoft, if_neg Bool.false_ne_true]
  by_cases hpeer : x.a.ctl.getLsbD 4 = true
  · rw [if_pos hpeer, Ctx.launchCounter_owned how]
    exact ⟨_, rfl⟩
  · rw [if_neg hpeer, if_neg (Bool.eq_false_iff.1 (hmine hpeer))]
    exact ⟨_, rfl⟩

theorem evRd_keeps (x : Ctx) (s : State) (c : Counter) (hready : x.ready 0xD7 s = true) (how : x.eventOwned s c)
    (hmay : x.a.ctl.getLsbD 4 = true ∨ c.owner = s.bslotOf x.k ∨ (x.a.ctl.toNat / 4) % 4 = 3) :
    ∃ t, exec (.evRd x.a) s = .next t ∧ x.goesOn t ∧ t.mem = s.mem ∧ t.blocks = s.blocks ∧
      ∀ core, (t.core core).counters = (s.core core).counters := by
  obtain ⟨v, hv⟩ := bodyEvRd_reads x (x.start s) c how hmay
  have hexec : exec (.evRd x.a) s = .next _ := (rfl : exec (.evRd x.a) s = issue 0xD7 x.a bodyEvRd s).trans (issue_ready hready _)
  rw [hv] at hexec
  refine ⟨_, hexec, Ctx.parks_goesOn (Ctx.present_writeReg (Ctx.present_start hready) _), ?_, ?_, fun core => ?_⟩
  · exact (x.parks_mem _).trans (State.modCrew_mem _ _ _)
  · exact (x.parks_blocks _).trans (State.modCrew_blocks _ _ _)
  · exact (x.parks_counters _ core).trans (by rw [State.core, State.modCrew_cores]; rfl)

/-! ## BAR -/

/-- What a step at group g of a launch leaves alone: memory, blocks, and the launch's other groups. -/
structure AtGroup (launch g : Nat) (bs : Table Barrier) (s t : State) : Prop where
  mem : t.mem = s.mem
  blocks : t.blocks = s.blocks
  others : ∃ bs', t.barriersOf launch = some bs' ∧ ∀ i, i ≠ g → bs'.get? i = bs.get? i

/-- A step that leaves memory, blocks and every barrier. -/
theorem AtGroup.step {launch g : Nat} {bs : Table Barrier} {s t u : State} (h : AtGroup launch g bs s t) (hm : u.mem = t.mem)
    (hb : u.blocks = t.blocks) (ho : u.barriersOf launch = t.barriersOf launch) : AtGroup launch g bs s u :=
  ⟨hm.trans h.mem, hb.trans h.blocks, ho ▸ h.others⟩

theorem AtGroup.modCrew {launch g : Nat} {bs : Table Barrier} {s t : State} (h : AtGroup launch g bs s t) (k : Nat) (f : Crew → Crew) :
    AtGroup launch g bs s (t.modCrew k f) :=
  h.step (State.modCrew_mem _ _ _) (State.modCrew_blocks _ _ _) (State.barriersOf_congr (State.modCrew_launches _ _ _) _)

/-- The barrier of the group itself is replaced. -/
theorem AtGroup.modLaunch {launch g : Nat} {bs : Table Barrier} {s t : State} (h : AtGroup launch g bs s t) {f : Launch → Launch}
    (hf : ∀ l i, i ≠ g → (f l).barriers.get? i = l.barriers.get? i) : AtGroup launch g bs s (t.modLaunch launch f) where
  mem := (State.modLaunch_mem _ _ _).trans h.mem
  blocks := (State.modLaunch_blocks _ _ _).trans h.blocks
  others := by
    obtain ⟨bs', hbs, hother⟩ := h.others
    obtain ⟨l, hl, rfl⟩ := Option.map_eq_some_iff.1 hbs
    refine ⟨(f l).barriers, ?_, fun i hi => (hf l i hi).trans (hother i hi)⟩
    rw [State.barriersOf, State.modLaunch_get?, if_pos rfl, hl]
    rfl

theorem State.wakeBarrier_barriersOf (s : State) (launch g epoch j : Nat) : (s.wakeBarrier launch g epoch).barriersOf j = s.barriersOf j := by
  unfold State.wakeBarrier
  exact State.modLaunch_barriersOf _ _ _ fun _ => rfl

theorem AtGroup.wakeBarrier {launch g : Nat} {bs : Table Barrier} {s t : State} (h : AtGroup launch g bs s t) (i epoch : Nat) :
    AtGroup launch g bs s (t.wakeBarrier launch i epoch) :=
  h.step (State.modLaunch_mem _ _ _) (State.modLaunch_blocks _ _ _) (State.wakeBarrier_barriersOf _ _ _ _ _)

theorem Ctx.present_wakeBarrier {x : Ctx} {t : State} (h : x.present t) (launch g epoch : Nat) : x.present (t.wakeBarrier launch g epoch) := by
  unfold State.wakeBarrier Ctx.present
  rw [State.modLaunch_crews]
  refine Ctx.present_mapCrews h fun k c => ?_
  split_ifs
  · exact c.mapUnits_isSome _ _
  · rfl

/-- The group's barrier in a state. -/
def State.barrierAt (s : State) (launch g : Nat) : Option Barrier := (s.barriersOf launch).bind fun bs => bs.get? g

theorem State.barrierEpoch_eq (s : State) (launch g : Nat) : s.barrierEpoch launch g = ((s.barrierAt launch g).map (·.epoch)).getD 0 := by
  unfold State.barrierEpoch State.barrierAt State.barriersOf
  rcases s.launches.get? launch with _ | l
  · rfl
  · dsimp only [Option.map_some, Option.bind_some]
    rcases l.barriers.get? g with _ | b <;> rfl

theorem State.modLaunch_barrierAt {s : State} {launch g : Nat} {b c : Barrier} {f : Launch → Launch} (h : s.barrierAt launch g = some b)
    (hf : ∀ l, l.barriers.get? g = some b → (f l).barriers.get? g = some c) : (s.modLaunch launch f).barrierAt launch g = some c := by
  obtain ⟨bs, hbs, hb⟩ := Option.bind_eq_some_iff.1 h
  obtain ⟨l, hl, rfl⟩ := Option.map_eq_some_iff.1 hbs
  rw [State.barrierAt, State.barriersOf, State.modLaunch_get?, if_pos rfl, hl]
  exact hf l hb

theorem State.barrierAt_congr {s t : State} {launch : Nat} (h : t.barriersOf launch = s.barriersOf launch) (g : Nat) :
    t.barrierAt launch g = s.barrierAt launch g := by
  rw [State.barrierAt, h]
  rfl

/-- The completion of a phase: what it leaves alone, and the epoch that it leaves where the last member has arrived. -/
theorem State.completeBarrier_keeps {s t : State} {launch g : Nat} {bs : Table Barrier} {b : Barrier} (h : AtGroup launch g bs s t)
    (hb : t.barrierAt launch g = some b) : AtGroup launch g bs s (t.completeBarrier launch g) ∧
      (∀ x : Ctx, x.present t → x.present (t.completeBarrier launch g)) ∧
      (b.arrived ≠ 0 → b.members ≤ b.arrived → (t.completeBarrier launch g).barrierEpoch launch g = (b.epoch + 1) % 65536) := by
  obtain ⟨bs', hbs, hget⟩ := Option.bind_eq_some_iff.1 hb
  obtain ⟨l, hl, rfl⟩ := Option.map_eq_some_iff.1 hbs
  unfold State.completeBarrier
  rw [hl]
  dsimp only
  rw [hget]
  dsimp only
  split_ifs with hopen
  · exact ⟨h, fun _ hx => hx, fun h0 hle => by omega⟩
  · refine ⟨(h.modLaunch fun l i hi => Table.get?_put_of_ne _ _ hi).wakeBarrier g _, fun x hx => Ctx.present_wakeBarrier ?_ _ _ _, fun _ _ => ?_⟩
    · unfold Ctx.present
      rw [State.modLaunch_crews]
      exact hx
    · rw [State.barrierEpoch_eq, State.barrierAt_congr (State.wakeBarrier_barriersOf _ _ _ _ _),
        State.modLaunch_barrierAt hb (c := ⟨b.members - b.leaving, 0, 0, (b.epoch + 1) % 65536⟩) fun l _ => Table.get?_put_self _ _ _]
      rfl

/-- An arrival (R206, R207). -/
theorem State.arrive_keeps {x : Ctx} {s : State} {l : Launch} {b : Barrier} {g : Nat} (hp : x.present s) (hl : s.launches.get? x.c.launch = some l)
    (hb : l.barriers.get? g = some b) : AtGroup x.c.launch g l.barriers s (s.arrive x.k x.c.launch g b.epoch) ∧
      x.present (s.arrive x.k x.c.launch g b.epoch) ∧
      (b.members ≤ b.arrived + 1 → (s.arrive x.k x.c.launch g b.epoch).barrierEpoch x.c.launch g = (b.epoch + 1) % 65536) := by
  have hstart : AtGroup x.c.launch g l.barriers s s := ⟨rfl, rfl, l.barriers, by rw [State.barriersOf, hl]; rfl, fun _ _ => rfl⟩
  have hcrew := hstart.modCrew x.k fun c => { c with arrivals := c.arrivals.put g ((b.epoch + 1) % 65536) }
  have hat : (s.modCrew x.k fun c => { c with arrivals := c.arrivals.put g ((b.epoch + 1) % 65536) }).barrierAt x.c.launch g = some b := by
    rw [State.barrierAt_congr (State.barriersOf_congr (State.modCrew_launches _ _ _) _), State.barrierAt, State.barriersOf, hl]
    exact hb
  have hset : ∀ m : Launch, m.barriers.get? g = some b → (match m.barriers.get? g with
      | some b => { m with barriers := m.barriers.put g { b with arrived := b.arrived + 1 } }
      | none => m : Launch).barriers.get? g = some { b with arrived := b.arrived + 1 } := by
    intro m hm
    rw [hm]
    exact Table.get?_put_self _ _ _
  have hkeep : ∀ (m : Launch) i, i ≠ g → (match m.barriers.get? g with
      | some b => { m with barriers := m.barriers.put g { b with arrived := b.arrived + 1 } }
      | none => m : Launch).barriers.get? i = m.barriers.get? i := by
    intro m i hi
    split
    · exact Table.get?_put_of_ne _ _ hi
    · rfl
  obtain ⟨h1, h2, h3⟩ := State.completeBarrier_keeps (hcrew.modLaunch hkeep) (State.modLaunch_barrierAt hat hset)
  refine ⟨h1, h2 x ?_, fun hle => h3 (Nat.succ_ne_zero _) hle⟩
  unfold Ctx.present
  rw [State.modLaunch_crews]
  exact Ctx.present_modCrew hp fun _ hu => hu

/-- A BAR that arrives: all that stands before its arrival is passed. -/
theorem barBody_arrives {x : Ctx} {s : State} {l : Launch} {b : Barrier} (hmem : x.member s l b) (hep : x.h.barEpoch = none)
    (hw : x.a.ctl.getLsbD 0 = false) (hpend : x.pends b = false) (hrel : x.releases s) :
    barBody false x s = x.awaitBarrier (s.arrive x.k x.c.launch x.a.aux.toNat b.epoch) x.a.aux.toNat ((b.epoch + 1) % 65536) := by
  obtain ⟨hscope, hl, hused, hhas, hb, hu, hunits, hdef⟩ := hmem
  have hl' : x.launch? s = some l := hl
  have hdivided : x.divided = false := by simp [Ctx.divided, hu, hunits, hdef]
  have hrecord : x.barRecord = none := by simp [Ctx.barRecord, hep]
  have hepoch : s.barrierEpoch x.c.launch x.a.aux.toNat = b.epoch := by
    unfold State.barrierEpoch
    rw [show s.launches.get? x.c.launch = some l from hl]
    dsimp only
    rw [hb]
  have hpend' : x.c.pendingAt x.a.aux.toNat b.epoch = false := hpend
  have hrel' : s.released x.k x.c x.a.scope.toNat false true false = true := hrel
  unfold barBody
  simp only [hscope, hl', hused, hhas, hdivided, hrecord, hepoch, hpend', hrel', hw, Bool.and_self, Bool.not_true, Bool.not_false,
    Bool.and_false, Bool.or_true, Bool.false_eq_true, if_true, if_false]

theorem reached_self (t : Nat) : reached t t = true := by
  unfold reached
  exact decide_eq_true (by omega)

/-- Where the unit is suspended memory, blocks and barriers stay as well. -/
theorem AtGroup.suspends {launch g : Nat} {bs : Table Barrier} {s t : State} (h : AtGroup launch g bs s t) (x : Ctx) (pc : Dword) (w : Wake) :
    AtGroup launch g bs s (((t.modCrew x.k fun c => c.issued x.u x.stepping).suspendUnit x.k x.u pc w x.a.sw x.core x.c.launch).noteIssue x) := by
  have hs : AtGroup launch g bs s ((t.modCrew x.k fun c => c.issued x.u x.stepping).suspendUnit x.k x.u pc w x.a.sw x.core x.c.launch) :=
    ((h.modCrew x.k _).modCrew x.k _).step (State.perf_mem _ _ _ _ _) (State.perf_blocks _ _ _ _ _)
      (State.barriersOf_congr (State.perf_launches _ _ _ _ _) _)
  exact hs.step (State.noteIssue_mem _ _) (State.noteIssue_blocks _ _) (State.noteIssue_barriersOf _ _ _)

theorem AtGroup.parks {launch g : Nat} {bs : Table Barrier} {s t : State} (h : AtGroup launch g bs s t) (x : Ctx) :
    AtGroup launch g bs s (x.parks t) :=
  h.step (x.parks_mem t) (x.parks_blocks t) (x.parks_barriersOf t launch)

theorem bar_keeps (x : Ctx) (s : State) (l : Launch) (b : Barrier) (hready : x.ready 0xD8 s = true) (hmem : x.member s l b)
    (hep : x.h.barEpoch = none) (hw : x.a.ctl.getLsbD 0 = false) (hpend : x.pends b = false) (hrel : x.releases s) :
    ∃ t l', exec (.bar x.a) s = .next t ∧ t.mem = s.mem ∧ t.blocks = s.blocks ∧ t.launches.get? x.c.launch = some l' ∧
      (∀ g, g ≠ x.a.aux.toNat → l'.barriers.get? g = l.barriers.get? g) ∧ (b.members ≤ b.arrived + 1 → x.goesOn t) := by
  have hexec : exec (.bar x.a) s = .next _ := (rfl : exec (.bar x.a) s = issue 0xD8 x.a (barBody false) s).trans (issue_ready hready _)
  rw [barBody_arrives (s := x.start s) hmem hep hw hpend hrel] at hexec
  obtain ⟨-, hl, -, -, hb, -⟩ := hmem
  obtain ⟨hgroup, hpresent, hlast⟩ := State.arrive_keeps (s := x.start s) (Ctx.present_start hready) hl hb
  generalize (x.start s).arrive x.k x.c.launch x.a.aux.toNat b.epoch = t at hexec hgroup hpresent hlast
  have hfrom {u : State} (h : AtGroup x.c.launch x.a.aux.toNat l.barriers (x.start s) u) (hgo : b.members ≤ b.arrived + 1 → x.goesOn u)
      (he : exec (.bar x.a) s = .next u) : ∃ t l', exec (.bar x.a) s = .next t ∧ t.mem = s.mem ∧ t.blocks = s.blocks ∧
        t.launches.get? x.c.launch = some l' ∧ (∀ g, g ≠ x.a.aux.toNat → l'.barriers.get? g = l.barriers.get? g) ∧
        (b.members ≤ b.arrived + 1 → x.goesOn t) := by
    obtain ⟨bs, hbs, hother⟩ := h.others
    obtain ⟨l', hl', rfl⟩ := Option.map_eq_some_iff.1 hbs
    exact ⟨u, l', he, h.mem, h.blocks, hl', hother, hgo⟩
  by_cases hreached : reached (t.barrierEpoch x.c.launch x.a.aux.toNat) ((b.epoch + 1) % 65536) = true
  · rw [Ctx.awaitBarrier, if_pos hreached] at hexec
    refine hfrom ((hgroup.modCrew x.k _).parks x) (fun _ => Ctx.parks_goesOn (Ctx.present_modCrew hpresent fun c hu => ?_)) hexec
    rw [Crew.modUnit_get?_self, Option.isSome_map]
    exact hu
  · rw [Ctx.awaitBarrier, if_neg hreached] at hexec
    refine hfrom ((hgroup.modCrew x.k _).suspends x x.pc (.barrier x.a.aux.toNat ((b.epoch + 1) % 65536))) (fun hle => ?_) hexec
    rw [hlast hle, reached_self] at hreached
    exact absurd rfl hreached

/-! ## All of it -/

/-- FDIV and the special functions are variable-latency lane instructions. -/
theorem special_keeps : ∀ p ∈ ([(0x64, .fdiv), (0x77, .rcp), (0x78, .rsq), (0x79, .sqrt), (0x7A, .exp2), (0x7B, .log2), (0x7C, .sinpi),
      (0x7D, .cospi), (0x7E, .tanh)] : List (Nat × (Args → Instr))), ∀ (x : Ctx) (s : State), x.ready p.1 s = true →
    ∃ t r c, exec (p.2 x.a) s = .next t ∧ x.awaits s t r ∧ x.crewIn t = some c ∧ c.pool = x.c.pool ∧ c.sregs = x.c.sregs ∧
      c.oregs = x.c.oregs ∧ c.fflags = x.c.fflags ∧ c.tokens = x.c.tokens ∧ t.mem = s.mem ∧ t.blocks = s.blocks ∧ x.goesOn t ∧
      ∀ k, k ≠ x.k → t.crews.get? k = s.crews.get? k := by
  simp only [List.forall_mem_cons]
  exact ⟨variableLane_keeps (sem := semFdiv) fun _ _ => rfl, variableLane_keeps (sem := semRcp) fun _ _ => rfl,
    variableLane_keeps (sem := semRsq) fun _ _ => rfl, variableLane_keeps (sem := semSqrt) fun _ _ => rfl,
    variableLane_keeps (sem := semExp2) fun _ _ => rfl, variableLane_keeps (sem := semLog2) fun _ _ => rfl,
    variableLane_keeps (sem := semSinpi) fun _ _ => rfl, variableLane_keeps (sem := semCospi) fun _ _ => rfl,
    variableLane_keeps (sem := semTanh) fun _ _ => rfl, fun _ h => absurd h List.not_mem_nil⟩

/-- Settles O30: each part is the frame of one step, proved above along the step's own definition. -/
theorem effectFrames : Obligations.EffectFrames := by
  refine ⟨special_keeps, evAdd_keeps, evSet_keeps, evRd_keeps, bar_keeps, fun d a b imm n6 n12 n5 => ⟨oneCycle_keeps d a b imm n6,
      policyR3_keeps fun s => by delta exec; rfl, policyR3_keeps fun s => by delta exec; rfl, policyR3_keeps fun s => by delta exec; rfl,
      policyRead_keeps fun s => by delta exec; rfl, policyRead_keeps fun s => by delta exec; rfl, control_keeps d a imm n5,
      policyLoad_keeps (fun s => by delta exec; rfl) (by norm_num), policyLoad_keeps (fun s => by delta exec; rfl) (by norm_num),
      policyStore_keeps (fun s => by delta exec; rfl) (by norm_num), policyStore_keeps (fun s => by delta exec; rfl) (by norm_num)⟩,
    policyEnd_keeps, routineInvoke_keeps, fun s h => ⟨identify_keeps s h, attest_keeps s h, spoilRead_keeps s h, start_verifies s h,
      bootLoad_keeps s h, reset_keeps s h, lifeCycleChange_keeps s h⟩, verificationEnd_keeps, firmwareCrash_keeps,
    fun s die core => ?_, fun s => ⟨_, rfl, rfl, rfl, rfl⟩, fun s => ⟨_, rfl, rfl, rfl, rfl⟩, fun s => ⟨_, rfl, rfl, rfl, rfl⟩, fun s die => ?_,
    powerArbiter_keeps, overcurrent_keeps, registerWrite_keeps, linkDown_keeps, fun s port => ?_⟩
  · rfl
  · rfl
  · rfl

end Sys2Proof.Machine
end

section
/-! PROOFS. What tile tasks compute and leave, refuted by a state whose crew table is out of order and lists a slot twice (R226, R277, R279). -/

namespace Sys2Proof.Machine

/-! ## The state -/

/-- A crew of launch 1 with one token outstanding. -/
def strayCrew (block : Nat) : Crew :=
  { Crew.seated 1 block 0 0 placedLaunch.shape 0 with units := [(0, CrewUnit.start 0 0)], tokens := [(0, 1)] }

/-- An ACC.ST of the crew of block 0 into a chute's slot, with 32-bit elements. -/
def strayTask : Task := { task0 with op := 0xCF, tok := some 0, tile := some 0 }

/-- The entry that the store fills belongs to chute 0, at whose head unit 0 of the crew of block 1 waits. -/
def strayCore : Core :=
  { Core.reset with
    queues := [(4, [.task strayTask])]
    tiles := [(511, { chute := true, late := false, owner := 0, state := 1, size := 0, base := 0, expect := 0, landed := 0 })]
    chutes := [(0, { chuteOf false [] with launch := 1, cluster := false, home := 0, first := 511, head := 0, tail := 0, acqList := [], takeList := [((1, 0), 0)] })] }

/-- Slot 5 holds the crew of block 0; slot 3, listed after it and twice, first reads as that crew again, then as the crew of block 1. -/
def stray : State :=
  { State.reset with ck := 2, cores := [(0, strayCore)], crews := [(5, strayCrew 0), (3, strayCrew 0), (3, strayCrew 1)] }

/-- The task may complete: everything that `completes` asks holds. -/
theorem stray_completes : completes stray 0 4 9 5 (strayCrew 0) strayTask := by
  refine ⟨by decide, by decide, by decide, by decide, rfl, by decide, rfl, fun e he => ?_, fun h hh m => ?_, by decide, by decide, fun h hh r d => ?_⟩
  · exact absurd he List.not_mem_nil
  all_goals
    obtain rfl : CrewUnit.start 0 0 = h := Option.some.inj hh
    exact fun hst => by cases hst

/-! ## What its completion does -/

/-- Bytes that land in no block change nothing. -/
theorem State.landBytes_of_none {s : State} {key : Nat} (hb : s.blocks.get? key = none) (hs : s.softErrors = []) (off : Nat) (bs : List Byte) :
    s.landBytes key off bs = s := by
  have hmod : s.modBlock key (fun b => { b with mem := b.mem.storeBytes off bs }) = s := by rw [State.modBlock, hb]
  unfold State.landBytes
  rw [hmod]
  exact if_pos (by rw [hs]; rfl)

/-- Two nested folds whose step keeps `a` keep it. -/
theorem foldl_foldl_fixed {α β γ : Type} {f : β → γ → α → α} {a : α} (hf : ∀ m i, f m i a = a) (rows : List β) (columns : List γ) :
    rows.foldl (fun acc m => columns.foldl (fun acc i => f m i acc) acc) a = a :=
  List.foldl_fixed' (fun m => List.foldl_fixed' (hf m) columns) rows

/-- A store of 32-bit elements into no block: no state change, no flag. -/
theorem State.storeTile_of_none {s : State} {core : Nat} {t : Task} (hb : s.blocks.get? (blockKey core t.regionBslot) = none)
    (hs : s.softErrors = []) (hcvt : bits t.ctl.toNat 4 2 = 0) (c : Crew) (j : Nat) : s.storeTile core t c j = (s, 0) := by
  unfold State.storeTile
  dsimp only
  generalize List.range 96 = rows
  generalize List.range 128 = columns
  rw [hcvt]
  refine foldl_foldl_fixed (f := fun m i (acc : State × BitVec 7) => (acc.1.landBytes _ _ _, acc.2 ||| _)) (fun m i => ?_) rows columns
  exact Prod.ext (State.landBytes_of_none hb hs _ _) (by simp [storeElement])

/-- An ACC.ST: its store, and the flags of its conversions merged into its crew. -/
theorem State.runTask_store {s s' : State} {core q j : Nat} {t : Task} {c : Crew} {fl : BitVec 7} (hop : t.op = 0xCF) (hj : t.tile = some j)
    (hc : s.taskCrew t = some c) (hst : s.storeTile core t c j = (s', fl)) :
    s.runTask core q t = s'.reachCrew t.launch t.name fun c => c.mergeFlags fl := by
  unfold State.runTask
  rw [hop]
  simp only [hc, hj, Option.getD_some, hst]

/-- What TASK_COMPLETE does to the state that the task's run leaves. -/
def State.afterTask (s : State) (core q id : Nat) (t : Task) : State :=
  let s := (s.dropItem core q id).taskRegion core t
  let s := s.reachCrew t.launch t.name fun c => c.fallToken t.tok
  let s := match s.findCrew t.launch t.name with | some k => s.settleFault k t.spall | none => s
  (s.perf core t.launch 12 1).engineLeft core t.launch t.name

/-- A due task runs, and its effects at completion follow. -/
theorem exec_taskComplete_of_due {s : State} {core q id : Nat} {t : Task} (ht : s.task? core q id = some t) (hst : t.started = true)
    (hck : t.since < s.ck) (hm : t.entryMoved core s = false) :
    exec (.taskComplete core q id) s = .next ((s.runTask core q t).afterTask core q id t) := by
  change execTaskComplete core q id s = _
  unfold execTaskComplete State.afterTask
  simp only [ht, hst, hm, Nat.not_le.2 hck, decide_false, Bool.not_true, Bool.or_false, Bool.false_eq_true, if_false]
    <;> rfl

/-- The stray store writes no byte: its region is in no block. -/
theorem stray_runTask : stray.runTask 0 4 strayTask = stray.reachCrew 1 (0, 0) fun c => c.mergeFlags 0 :=
  State.runTask_store rfl rfl (by decide +kernel : stray.taskCrew strayTask = some (strayCrew 0))
    (State.storeTile_of_none rfl rfl (by decide) _ _)

/-- The state that the stray completion leaves. -/
theorem stray_exec :
    exec (.taskComplete 0 4 9) stray = .next ((stray.reachCrew 1 (0, 0) fun c => c.mergeFlags 0).afterTask 0 4 9 strayTask) := by
  rw [exec_taskComplete_of_due (by decide +kernel : stray.task? 0 4 9 = some strayTask) rfl (by decide) (by decide +kernel), stray_runTask]

/-- The landing wakes the waiter at slot 3, which puts slot 3 before slot 5: the token falls on the crew that slot 3 reads as. -/
theorem stray_token : (((stray.reachCrew 1 (0, 0) fun c => c.mergeFlags 0).afterTask 0 4 9 strayTask).crews.get? 5).map (fun c => c.tokens.getD 0 0) = some 1 := by
  decide +kernel

/-- Refutes O53: `completes` does not ask that the crew table is in order, and where it is not, and lists a slot twice, the wake of a waiter
at a chute can bring another crew of the same name before the task's own, so that the task's token does not fall in its crew. -/
theorem not_taskEffects : ¬ Obligations.TaskEffects := by
  rintro ⟨-, hresults, -⟩
  obtain ⟨t, c, hexec, hcrew, -, -, htoken, -⟩ := hresults stray 0 4 9 5 (strayCrew 0) strayTask stray_completes
  rw [stray_exec] at hexec
  cases hexec
  have h1 := stray_token
  rw [hcrew] at h1
  have h0 : c.tokens.getD 0 0 = 0 := htoken 0 rfl
  exact absurd (h0.symm.trans (Option.some.inj h1)) (by decide)

end Sys2Proof.Machine
end

section
/-! PROOFS. The end of an instruction and of a transfer (R61, R63, R97): what they leave of the crew and of its unit. -/

namespace Sys2Proof.Machine

/-! ## The counts of an issue -/

/-- The counts of an issue change nothing of the crew but the ck that the unit notes at a stop point. -/
theorem State.noteIssue_crew (s : State) (x : Ctx) {c : Crew} (hc : s.crews.get? x.k = some c) :
    ∃ us, (s.noteIssue x).crews.get? x.k = some { c with units := us } ∧ (∀ v ≠ x.u, us.get? v = c.units.get? v) ∧
      ∀ h, c.units.get? x.u = some h → ∃ n, us.get? x.u = some { h with stopAt := n } := by
  rw [State.noteIssue_crews]
  rcases s.noteStop_crew x x.k with e | ⟨-, e⟩
  · exact ⟨c.units, e.trans hc, fun _ _ => rfl, fun h hu => ⟨h.stopAt, hu⟩⟩
  · rw [hc, Option.map_some] at e
    refine ⟨(c.modUnit x.u fun h => { h with stopAt := s.ck }).units, e.trans ?_, fun v hv => Crew.modUnit_get?_of_ne c _ hv,
      fun h hu => ⟨s.ck, by rw [Crew.modUnit_get?_self, hu]; rfl⟩⟩
    unfold Crew.modUnit
    split <;> rfl

/-! ## An issued instruction's marks -/

/-- A unit after the marks of an issue. -/
def CrewUnit.issued (inside step : Bool) (h : CrewUnit) : CrewUnit :=
  { h with
    run := h.run + 1, stop := false, st := .ready, debugSkip := false
    barEpoch := if inside || h.barPc == h.pc then h.barEpoch else none
    debugStops := if step then h.debugStops ++ [.step] else h.debugStops }

/-- The marks of an issue, apart from the capsule count. -/
theorem Crew.issued_eq (c : Crew) (u : Nat) (step : Bool) :
    ∃ d, c.issued u step = { c.modUnit u (CrewUnit.issued (c.inHandler u) step) with cap := d } := by
  have e (c' : Crew) (d : Capsule) : ∃ d', (if c'.cap.mode then { c' with cap := d } else c') = { c' with cap := d' } := by
    split
    · exact ⟨d, rfl⟩
    · exact ⟨c'.cap, rfl⟩
  exact e _ _

theorem Crew.issued_get?_self (c : Crew) (u : Nat) (step : Bool) :
    (c.issued u step).units.get? u = (c.units.get? u).map (CrewUnit.issued (c.inHandler u) step) := by
  obtain ⟨d, e⟩ := c.issued_eq u step
  rw [e]
  exact c.modUnit_get?_self u _

theorem Crew.issued_get?_of_ne (c : Crew) {u v : Nat} (step : Bool) (h : v ≠ u) : (c.issued u step).units.get? v = c.units.get? v := by
  obtain ⟨d, e⟩ := c.issued_eq u step
  rw [e]
  exact c.modUnit_get?_of_ne _ h

@[simp] theorem Crew.issued_out (c : Crew) (u : Nat) (step : Bool) : (c.issued u step).out = c.out := by
  obtain ⟨d, e⟩ := c.issued_eq u step
  simp [e]

@[simp] theorem Crew.issued_deferred (c : Crew) (u : Nat) (step : Bool) : (c.issued u step).deferred = c.deferred := by
  obtain ⟨d, e⟩ := c.issued_eq u step
  simp [e]

@[simp] theorem Crew.issued_hpc (c : Crew) (u : Nat) (step : Bool) : (c.issued u step).hpc = c.hpc := by
  obtain ⟨d, e⟩ := c.issued_eq u step
  simp [e]

@[simp] theorem Crew.issued_hmask (c : Crew) (u : Nat) (step : Bool) : (c.issued u step).hmask = c.hmask := by
  obtain ⟨d, e⟩ := c.issued_eq u step
  simp [e]

/-! ## The marker -/

theorem Crew.waiting_congr {c d : Crew} (h : d.out = c.out) (u : Nat) : d.waiting u = c.waiting u := by rw [Crew.waiting, h]; rfl

/-- Where a marker leaves the unit: MARKED while it waits for results, else it goes on (R63). -/
def Crew.markedState (c : Crew) (u : Nat) : UnitState := if c.waiting u then .marked else .ready

theorem Crew.markedState_congr {c d : Crew} (h : d.out = c.out) (u : Nat) : d.markedState u = c.markedState u := by
  rw [Crew.markedState, Crew.waiting_congr h, Crew.markedState]

theorem Crew.park_get?_self (c : Crew) {u : Nat} {h : CrewUnit} (hu : c.units.get? u = some h) :
    ∃ r p, (c.park u).units.get? u = some { h with st := c.markedState u, run := r, stop := p } := by
  unfold Crew.park Crew.leaveMarker Crew.markedState
  split_ifs
  · exact ⟨h.run, h.stop, by rw [Crew.modUnit_get?_self, hu]; rfl⟩
  · exact ⟨0, true, by rw [Crew.modUnit_get?_self, hu]; rfl⟩

theorem Crew.park_get?_of_ne (c : Crew) {u v : Nat} (h : v ≠ u) : (c.park u).units.get? v = c.units.get? v := by
  unfold Crew.park Crew.leaveMarker
  split_ifs <;> exact c.modUnit_get?_of_ne _ h

@[simp] theorem Crew.park_last (c : Crew) (u : Nat) : (c.park u).last = noLast := by unfold Crew.park Crew.leaveMarker; split_ifs <;> rfl
@[simp] theorem Crew.park_deferred (c : Crew) (u : Nat) : (c.park u).deferred = c.deferred := by
  unfold Crew.park Crew.leaveMarker; split_ifs <;> simp
@[simp] theorem Crew.park_hstate (c : Crew) (u : Nat) : (c.park u).hstate = c.hstate := by
  unfold Crew.park Crew.leaveMarker; split_ifs <;> simp

/-! ## Where the unit is after an instruction -/

/-- In a state the unit of x stands at a place in a unit state; of the crew c with the unit h, from which it came there, its masks,
open joins and deferrals are as they were, and so are the other units. -/
structure Ctx.Stands (x : Ctx) (c : Crew) (h : CrewUnit) (pc : Dword) (st : UnitState) (c' : Crew) (h' : CrewUnit) : Prop where
  unit : c'.units.get? x.u = some h'
  pc : h'.pc = pc
  origin : h'.origin = x.h.pc
  st : h'.st = st
  mask : h'.mask = h.mask
  opens : h'.opens = h.opens
  deferred : c'.deferred = c.deferred
  others : ∀ v ≠ x.u, c'.units.get? v = c.units.get? v

/-- The counts of an issue do not move the unit. -/
theorem Ctx.Stands.noteIssue {x : Ctx} {c c1 : Crew} {h h1 : CrewUnit} {pc : Dword} {st : UnitState} (hs : x.Stands c h pc st c1 h1) {s : State}
    (hc : s.crews.get? x.k = some c1) :
    ∃ c' h', (s.noteIssue x).crews.get? x.k = some c' ∧ x.Stands c h pc st c' h' ∧ c'.last = c1.last := by
  obtain ⟨us, hcrew, hothers, hunit⟩ := s.noteIssue_crew x hc
  obtain ⟨n, hn⟩ := hunit h1 hs.unit
  exact ⟨_, _, hcrew, ⟨hn, hs.pc, hs.origin, hs.st, hs.mask, hs.opens, hs.deferred, fun v hv => (hothers v hv).trans (hs.others v hv)⟩, rfl⟩

/-- A marker after an instruction. -/
theorem Ctx.Stands.park {x : Ctx} {c c1 : Crew} {h h1 : CrewUnit} {pc : Dword} {st : UnitState} (hs : x.Stands c h pc st c1 h1) :
    ∃ h', x.Stands c h pc (c1.markedState x.u) (c1.park x.u) h' := by
  obtain ⟨r, p, hu⟩ := c1.park_get?_self hs.unit
  exact ⟨_, hu, hs.pc, hs.origin, rfl, hs.mask, hs.opens, (c1.park_deferred _).trans hs.deferred,
    fun v hv => (c1.park_get?_of_ne hv).trans (hs.others v hv)⟩

/-- The crew with its unit issued and at another PC. -/
def Ctx.moved (x : Ctx) (pc : Dword) (c : Crew) : Crew :=
  (c.issued x.u x.stepping).modUnit x.u fun h => { h with pc := pc, origin := x.h.pc }

@[simp] theorem Ctx.moved_out (x : Ctx) (pc : Dword) (c : Crew) : (x.moved pc c).out = c.out := by simp [Ctx.moved]

theorem Ctx.view_moved (x : Ctx) (pc : Dword) (c : Crew) : (x.moved pc c).view x.u = c.view x.u :=
  (Crew.view_modUnit _ _ _ (fun h => { h with pc := pc, origin := x.h.pc }) fun _ => rfl).trans (Crew.view_issued _ _ _ _)

theorem Ctx.stands_moved (x : Ctx) {c : Crew} {h : CrewUnit} (hu : c.units.get? x.u = some h) (pc : Dword) :
    ∃ h', x.Stands c h pc .ready (x.moved pc c) h' := by
  refine ⟨{ CrewUnit.issued (c.inHandler x.u) x.stepping h with pc := pc, origin := x.h.pc }, ?_, rfl, rfl, rfl, rfl, rfl, ?_, fun v hv => ?_⟩
  · rw [Ctx.moved, Crew.modUnit_get?_self, Crew.issued_get?_self, hu]
    rfl
  · simp [Ctx.moved]
  · exact (Crew.modUnit_get?_of_ne _ _ hv).trans (Crew.issued_get?_of_ne _ _ hv)

/-! ## The end of an instruction -/

theorem State.finish_eq (s : State) (x : Ctx) (sw : Bool) :
    s.finish x sw = s.modCrew x.k fun c => if sw then (x.moved (skipTail x.next) c).park x.u else x.moved (skipTail x.next) c := rfl

/-- An instruction that makes no transfer: where the unit goes on, and what stays. -/
theorem Ctx.finish_stands (x : Ctx) (s : State) {c : Crew} {h : CrewUnit} (hc : s.crews.get? x.k = some c) (hu : c.units.get? x.u = some h)
    (sw : Bool) :
    ∃ c' h', ((s.finish x sw).noteIssue x).crews.get? x.k = some c' ∧
      x.Stands c h (skipTail x.next) (if sw then c.markedState x.u else .ready) c' h' := by
  obtain ⟨h1, hs1⟩ := x.stands_moved hu (skipTail x.next)
  have hf : ∃ c2 h2, (s.finish x sw).crews.get? x.k = some c2 ∧ x.Stands c h (skipTail x.next) (if sw then c.markedState x.u else .ready) c2 h2 := by
    rw [State.finish_eq, State.modCrew_get?_self, hc]
    cases sw with
    | false => exact ⟨_, h1, rfl, hs1⟩
    | true =>
      obtain ⟨h2, hs2⟩ := hs1.park
      refine ⟨_, h2, rfl, ?_⟩
      rwa [Crew.markedState_congr (x.moved_out _ _)] at hs2
  obtain ⟨c2, h2, hc2, hs2⟩ := hf
  obtain ⟨c', h', hc', hs', -⟩ := hs2.noteIssue hc2
  exact ⟨c', h', hc', hs'⟩

/-! ## Transfers -/

theorem goodTarget_iff (t : Dword) : goodTarget t ↔ badTarget t = false := by
  unfold goodTarget badTarget
  simp only [Bool.or_eq_false_iff, bne_eq_false_iff_eq, decide_eq_false_iff_not, not_le]

/-- The crew at the target of a transfer. -/
def Ctx.crewAt (x : Ctx) (t : Dword) (park : Bool) (c : Crew) : Crew :=
  let c := { x.moved t c with last := noLast }
  if park then c.park x.u
  else if 1024 ≤ x.h.run then c.modUnit x.u fun h => { h with st := .limited } else c

theorem State.transfer_good (s : State) (x : Ctx) {t : Dword} (park : Bool) (h : goodTarget t) :
    s.transfer x t park = s.modCrew x.k (x.crewAt t park) := by
  unfold State.transfer
  rw [if_neg (not_not.2 h.1), if_neg (Nat.not_le.2 h.2)]
  rfl

/-- Where a transfer leaves the unit's state: at a marker, at the limit of R63, or READY. -/
def Ctx.landedState (x : Ctx) (park : Bool) (c : Crew) : UnitState :=
  if park then c.markedState x.u else if 1024 ≤ x.h.run then .limited else .ready

theorem Ctx.stands_crewAt (x : Ctx) {c : Crew} {h : CrewUnit} (hu : c.units.get? x.u = some h) (t : Dword) (park : Bool) :
    (∃ h', x.Stands c h t (x.landedState park c) (x.crewAt t park c) h') ∧ (x.crewAt t park c).last = noLast := by
  obtain ⟨h1, hs⟩ := x.stands_moved hu t
  have hs1 : x.Stands c h t .ready { x.moved t c with last := noLast } h1 := ⟨hs.unit, hs.pc, hs.origin, hs.st, hs.mask, hs.opens, hs.deferred, hs.others⟩
  unfold Ctx.crewAt Ctx.landedState
  split_ifs
  · obtain ⟨h2, hs2⟩ := hs1.park
    have e : Crew.markedState { x.moved t c with last := noLast } x.u = c.markedState x.u := Crew.markedState_congr (x.moved_out t c) x.u
    exact ⟨⟨h2, e ▸ hs2⟩, Crew.park_last _ _⟩
  · refine ⟨⟨{ h1 with st := .limited }, ?_, hs.pc, hs.origin, rfl, hs.mask, hs.opens, ?_, fun v hv => ?_⟩, by simp⟩
    · rw [Crew.modUnit_get?_self, hs1.unit]
      rfl
    · rw [Crew.modUnit_deferred]
      exact hs.deferred
    · rw [Crew.modUnit_get?_of_ne _ _ hv]
      exact hs.others v hv
  · exact ⟨⟨h1, hs1⟩, rfl⟩

/-- The registers at the target of a transfer. -/
theorem Ctx.view_crewAt (x : Ctx) (t : Dword) (park : Bool) (c : Crew) : (x.crewAt t park c).view x.u = c.view x.u := by
  have h : Crew.view { x.moved t c with last := noLast } x.u = c.view x.u := x.view_moved t c
  unfold Ctx.crewAt
  dsimp only
  split_ifs
  · rw [Crew.view_park, h]
  · exact (Crew.view_modUnit _ _ _ (fun h => { h with st := .limited }) fun _ => rfl).trans h
  · exact h

/-- A taken transfer: where the unit goes on, and what stays. -/
theorem Ctx.goto_good (x : Ctx) (s s' : State) {c : Crew} {h : CrewUnit} (hc : s'.crews.get? x.k = some c) (hu : c.units.get? x.u = some h)
    {t : Dword} (park : Bool) (ht : goodTarget t) :
    ∃ c' h', (applyRes x s (.goto s' t park)).crews.get? x.k = some c' ∧ x.Stands c h t (x.landedState (x.a.sw || park) c) c' h' ∧
      c'.last = noLast := by
  obtain ⟨⟨h1, hs⟩, hl⟩ := x.stands_crewAt hu t (x.a.sw || park)
  have hr : applyRes x s (.goto s' t park) = (s'.modCrew x.k (x.crewAt t (x.a.sw || park))).noteIssue x := by
    unfold applyRes
    dsimp only
    rw [(goodTarget_iff t).1 ht, State.transfer_good _ _ _ ht]
    rfl
  rw [hr]
  obtain ⟨c', h', hc', hs', hl'⟩ := hs.noteIssue (s := s'.modCrew x.k (x.crewAt t (x.a.sw || park)))
    (by rw [State.modCrew_get?_self, hc]; rfl)
  exact ⟨c', h', hc', hs', hl'.trans hl⟩

/-- The registers after a taken transfer. -/
theorem Ctx.view_goto (x : Ctx) (s s' : State) {t : Dword} (park : Bool) (ht : goodTarget t) :
    (applyRes x s (.goto s' t park)).view x.k x.u = s'.view x.k x.u := by
  unfold applyRes
  dsimp only
  rw [(goodTarget_iff t).1 ht, State.transfer_good _ _ _ ht]
  exact (State.view_noteIssue _ _).trans (State.view_modCrew _ _ _ _ (x.view_crewAt t _))

/-- The arrival of a transfer without a marker of its own. -/
theorem Ctx.arrives_of_stands (x : Ctx) {t : State} {c c' : Crew} {h h' : CrewUnit} {pc : Dword} (hc' : t.crews.get? x.k = some c')
    (hs : x.Stands c h pc (x.landedState x.a.sw c) c' h') (hl : c'.last = noLast) (hout : c.out = x.c.out) : x.arrives t pc := by
  refine ⟨c', h', hc', hs.unit, hs.pc, hs.origin, hl, fun hsw => ?_, fun hsw => ?_⟩
  · rw [hs.st, Ctx.landedState, if_pos hsw, Crew.markedState, Crew.waiting_congr hout]
  · rw [hs.st, Ctx.landedState, if_neg (by simp [hsw])]

/-- A transfer to a target that R97 refuses. -/
theorem Ctx.goto_misaligned (x : Ctx) (s s' : State) {t : Dword} (park : Bool) (h : t.toNat % 4 ≠ 0) :
    applyRes x s (.goto s' t park) = s'.takeTrap x.k x.u x.len { cause := .misalignedPc, addr := t.toNat } := by
  have hb : badTarget t = true := by simp [badTarget, h]
  unfold applyRes State.transfer
  dsimp only
  rw [if_pos hb, if_pos h]

theorem Ctx.goto_outside (x : Ctx) (s s' : State) {t : Dword} (park : Bool) (h : t.toNat % 4 = 0) (hr : 2 ^ 56 ≤ t.toNat) :
    applyRes x s (.goto s' t park) = s'.takeTrap x.k x.u x.len { cause := .addressRange, addr := t.toNat } := by
  have hb : badTarget t = true := Bool.or_eq_true_iff.2 (.inr (decide_eq_true hr))
  unfold applyRes State.transfer
  dsimp only
  rw [if_pos hb, if_neg (not_not.2 h), if_pos hr]

/-- What a body's transfer has to answer: it goes to the target, from the state of its start where R97 refuses it, else from one in which the
crew's results on their way are the same and whose registers say `more`. -/
def Ctx.GoesFrom (x : Ctx) (s : State) (r : Res) (t : Dword) (more : State → Prop) : Prop :=
  ∃ s', r = .goto s' t false ∧ (¬ goodTarget t → s' = s) ∧ (∃ c h, s'.crews.get? x.k = some c ∧ c.units.get? x.u = some h ∧ c.out = x.c.out) ∧
    (goodTarget t → ∀ t' : State, t'.view x.k x.u = s'.view x.k x.u → more t')

/-- A transfer that its body answers. -/
theorem goesTo_of_body {op : Nat} {ctor : Args → Instr} {body : Ctx → State → Res} {pre : Ctx → State → Prop} {target : Ctx → Dword}
    {more : Ctx → State → Prop} (harm : ∀ a s, exec (ctor a) s = issue op a body s)
    (hbody : ∀ x s, x.a.ok op = true → (x.start s).crews.get? x.k = some x.c → x.c.units.get? x.u = some x.h → pre x s →
      x.GoesFrom (x.start s) (body x (x.start s)) (target x) (more x)) :
    GoesTo op ctor pre target more := by
  have hexec (x : Ctx) (s : State) (hready : x.ready op s = true) :
      exec (ctor x.a) s = .next (applyRes x (x.start s) (body x (x.start s))) := (harm _ _).trans (issue_ready hready _)
  have hanswer (x : Ctx) (s : State) (hready : x.ready op s = true) (hpre : pre x s) :
      x.GoesFrom (x.start s) (body x (x.start s)) (target x) (more x) := by
    obtain ⟨-, hc, hu, -, -⟩ := Ctx.ready_at hready
    exact hbody x s (Ctx.ready_ok hready) (by rwa [Ctx.start_crews]) hu hpre
  refine ⟨fun x s hready hpre ht => ?_, fun x s hready hpre => ?_, fun x s hready hpre => ?_⟩
  · obtain ⟨s', hb, -, ⟨c, h, hc, hu, hout⟩, hmore⟩ := hanswer x s hready hpre
    obtain ⟨c', h', hc', hs, hl⟩ := x.goto_good (x.start s) s' hc hu false ht
    rw [Bool.or_false] at hs
    exact ⟨_, (hexec x s hready).trans (by rw [hb]), x.arrives_of_stands hc' hs hl hout, hmore ht _ (x.view_goto _ _ false ht)⟩
  · obtain ⟨hp, hbad⟩ := hpre
    obtain ⟨s', hb, hs', -⟩ := hanswer x s hready hp
    rw [hexec x s hready, hb, hs' fun h => hbad h.1, x.goto_misaligned _ _ _ hbad]
  · obtain ⟨hp, hal, hbad⟩ := hpre
    obtain ⟨s', hb, hs', -⟩ := hanswer x s hready hp
    rw [hexec x s hready, hb, hs' fun h => Nat.not_lt.2 hbad h.2, x.goto_outside _ _ _ hal hbad]

end Sys2Proof.Machine
end

section
/-! PROOFS. Transfers of control (R97, R98). -/

namespace Sys2Proof.Machine

/-! ## Links -/

/-- An even scalar register has a register after it. -/
theorem evenScalar_lt {i : Fin 64} (he : (Opnd.s i).even = true) : i.val % 2 = 0 ∧ i.val + 1 < 64 := by
  have h : i.val % 2 = 0 := by simpa [Opnd.even, Opnd.index] using he
  have := i.isLt
  exact ⟨h, by omega⟩

/-- The pair that a pair operand names. -/
theorem Ctx.readPair_eq (x : Ctx) {o : Opnd} (ho : (o.isS && o.even) = true) : x.c.readPair x.h o.index = x.pairAt o := by
  cases o with
  | s i =>
    have hn := (evenScalar_lt (by simpa [Opnd.isS] using ho)).2
    simp [Ctx.pairAt, Crew.readPair, Ctx.word, Opnd.index, Opnd.next, hn, Fin.ofNat, Nat.mod_eq_of_lt hn]
  | _ => simp [Opnd.isS] at ho

/-- A pair written by a control instruction is the two scalar writes of its halves. -/
theorem Crew.writePair_eq_wrote (c : Crew) (u : Nat) {i : Fin 64} (he : (Opnd.s i).even = true) (v : Dword) :
    c.writePair u i v = c.wrote u [⟨.s i, 0, [v.setWidth 32]⟩, ⟨Opnd.next (.s i) 1, 0, [(v >>> 32).setWidth 32]⟩] := by
  have hn := (evenScalar_lt he).2
  simp [Crew.writePair, Crew.wrote, Crew.writeReg, Opnd.next, hn, lane, Fin.ofNat, Nat.mod_eq_of_lt hn]

/-- The link that a call writes, in every state that reads like it. -/
theorem Ctx.linked_of_view (x : Ctx) {s t : State} (hc : s.crews.get? x.k = some x.c) (hu : x.c.units.get? x.u = some x.h)
    (hd : (x.a.dst.isS && x.a.dst.even) = true)
    (hv : t.view x.k x.u = (s.modCrew x.k fun c => c.writePair x.u x.a.dst.index x.next).view x.k x.u) : x.linked t := by
  obtain ⟨hS, he⟩ : x.a.dst.isS = true ∧ x.a.dst.even = true := by simpa using hd
  have hr : x.a.dst.isReg = true := by simp [Opnd.isReg, hS]
  have hp : plainOpnd x.a.dst = true := by simp [plainOpnd, hr]
  have hview : t.view x.k x.u = (s.setCrew x.k (x.c.wrote x.u [⟨x.a.dst, 0, [x.next.setWidth 32]⟩,
      ⟨Opnd.next x.a.dst 1, 0, [(x.next >>> 32).setWidth 32]⟩])).view x.k x.u := by
    rw [hv, State.modCrew_of_some _ hc]
    cases hdst : x.a.dst with
    | s i => rw [hdst] at he; rw [← Crew.writePair_eq_wrote _ _ he]; rfl
    | _ => simp [hdst, Opnd.isS] at hS
  have hvec : x.a.dst.isVec = false := by cases hdst : x.a.dst <;> simp_all [Opnd.isS, Opnd.isVec, Opnd.isV, Opnd.isO, Opnd.isL]
  have key := x.reads_writePair s x.a.dst (fun _ => x.next.setWidth 32) (fun _ => (x.next >>> 32).setWidth 32) hu hr he (l := 0) (by norm_num)
  rw [hvec] at key
  exact ⟨(x.reads_congr hview hp 0).trans key.1, (x.reads_congr hview (plainOpnd_next hp 1) 0).trans key.2⟩

/-! ## Forms of a transferring body -/

/-- A transfer without effects of its own. -/
theorem Ctx.goesFrom_plain (x : Ctx) (s : State) (hc : s.crews.get? x.k = some x.c) (hu : x.c.units.get? x.u = some x.h) (t : Dword) :
    x.GoesFrom s (.goto s t false) t fun _ => True :=
  ⟨s, rfl, fun _ => rfl, ⟨x.c, x.h, hc, hu, rfl⟩, fun _ _ _ => trivial⟩

/-- A transfer with effects on its crew, which its target check precedes. -/
theorem Ctx.goesFrom_go (x : Ctx) (s : State) {f : Crew → Crew} {t : Dword} {more : State → Prop} (hc : s.crews.get? x.k = some x.c)
    (hu : x.c.units.get? x.u = some x.h) (hf : ((f x.c).units.get? x.u).isSome) (ho : (f x.c).out = x.c.out)
    (hmore : ∀ t' : State, t'.view x.k x.u = (s.modCrew x.k f).view x.k x.u → more t') :
    x.GoesFrom s (x.go s t f) t more := by
  obtain ⟨h, hh⟩ := Option.isSome_iff_exists.1 hf
  unfold Ctx.go
  split_ifs with hb
  · have hng : ¬ goodTarget t := by rw [goodTarget_iff, hb]; exact Bool.noConfusion
    exact ⟨s, rfl, fun _ => rfl, ⟨x.c, x.h, hc, hu, rfl⟩, fun h => absurd h hng⟩
  · exact ⟨_, rfl, fun hng => absurd ((goodTarget_iff t).2 (by simpa using hb)) hng,
      ⟨f x.c, h, by rw [State.modCrew_get?_self, hc]; rfl, hh, ho⟩, fun _ => hmore⟩

/-! ## The operands of the row -/

/-- An opcode's source in0, by the row of its operand table. -/
theorem Args.in0_accepted {op : Nat} {a : Args} {r : Row} (h : a.ok op = true) (h0 : (op == 0) = false) (hr : row? op = some r) :
    r.in0.accepts (a.form != .f64 && r.word != .own) a.in0 = true := by
  unfold Args.ok Row.accepts at h
  rw [h0, hr] at h
  simp only [Bool.false_eq_true, if_false, Bool.and_eq_true] at h
  tauto

theorem Crew.writePair_units (c : Crew) {u : Nat} {h : CrewUnit} (hu : c.units.get? u = some h) (i : Nat) (v : Dword) :
    ((c.writePair u i v).units.get? u).isSome := by
  rw [Crew.writePair, Crew.writeS_unit _ _ _ _ _ (Crew.writeS_unit _ _ _ _ _ hu)]
  rfl

@[simp] theorem Crew.writePair_out (c : Crew) (u i : Nat) (v : Dword) : (c.writePair u i v).out = c.out := by simp [Crew.writePair]

/-- A call's transfer: the link is written, and then the unit goes to the target. -/
theorem Ctx.goesFrom_call (x : Ctx) (s : State) (t : Dword) (hc : s.crews.get? x.k = some x.c) (hu : x.c.units.get? x.u = some x.h)
    (hd : (x.a.dst.isS && x.a.dst.even) = true) :
    x.GoesFrom s (x.go s t fun c => c.writePair x.u x.a.dst.index x.next) t fun t' => x.linked t' :=
  x.goesFrom_go s hc hu (Crew.writePair_units _ hu _ _) (by simp) fun _ hv => x.linked_of_view hc hu hd hv

/-! ## LOOP -/

/-- The counter that LOOP writes, in every state that reads like it. -/
theorem Ctx.counted_of_view (x : Ctx) {s t : State} (n : Word) (hc : s.crews.get? x.k = some x.c) (hu : x.c.units.get? x.u = some x.h)
    (hd : x.a.dst.isS = true) (hv : t.view x.k x.u = (s.modCrew x.k fun c => c.writeS x.u x.a.dst.index n).view x.k x.u) :
    x.reads t x.a.dst 0 = x.landed x.a.dst (fun _ => n) 0 := by
  have hr : x.a.dst.isReg = true := by simp [Opnd.isReg, hd]
  have hvec : x.a.dst.isVec = false := by cases hdst : x.a.dst <;> simp_all [Opnd.isS, Opnd.isVec, Opnd.isV, Opnd.isO, Opnd.isL]
  have hw : x.c.writeS x.u x.a.dst.index n = x.c.writeReg x.u ⟨x.a.dst, 0, [n]⟩ := by
    cases hdst : x.a.dst with
    | s i => rfl
    | _ => simp [hdst, Opnd.isS] at hd
  have key := x.reads_writeReg s x.a.dst (fun _ => n) hu hr (l := 0) (by norm_num)
  rw [hvec] at key
  refine (x.reads_congr ?_ (by simp [plainOpnd, hr]) 0).trans key
  rw [hv, State.modCrew_of_some _ hc, hw]
  rfl

theorem Ctx.landed_zero (x : Ctx) {o : Opnd} (ho : o.isS = true) : x.landed o (fun _ => 0) 0 = 0 := by
  cases o with
  | s i => simp [Ctx.landed]
  | _ => simp [Opnd.isS] at ho

/-- LOOP at its last turn: the counter is zero and the unit goes on at the next instruction. -/
theorem loop_ends (x : Ctx) (s : State) (hready : x.ready 0x09 s = true) (hone : x.word x.a.dst 0 = 1) :
    ∃ t, exec (.loop x.a) s = .next t ∧ x.reads t x.a.dst 0 = 0 ∧ ∃ h, x.unitIn t = some h ∧ h.pc = skipTail x.next := by
  obtain ⟨-, hc, hu, -, -⟩ := Ctx.ready_at hready
  have hd : x.a.dst.isS = true := Args.dst_accepted (Ctx.ready_ok hready) rfl (rfl : row? 0x09 = some _)
  have hbody : bodyLoop x (x.start s) = x.crewDone (x.start s) fun c => c.writeS x.u x.a.dst.index 0 := by
    simp [bodyLoop, Ctx.scalar, hone]
  have hs : ((x.start s).modCrew x.k fun c => c.writeS x.u x.a.dst.index 0).crews.get? x.k = some (x.c.writeS x.u x.a.dst.index 0) := by
    rw [State.modCrew_get?_self, Ctx.start_crews, hc]
    rfl
  obtain ⟨h, hh, hpc⟩ := x.ends_goesOn _ hs (by rw [Crew.writeS_unit _ _ _ _ _ hu]; rfl)
  refine ⟨x.ends _, (issue_ready hready bodyLoop).trans (by rw [hbody]; rfl), ?_, h, hh, hpc⟩
  rw [x.counted_of_view 0 (by simpa using hc) hu hd (x.view_ends _), x.landed_zero hd]

/-! ## The obligation -/

theorem bne_true_iff (b c : Bool) : (b != c) = true ↔ (b = true ↔ c = false) := by cases b <;> cases c <;> simp

/-- BRC whose condition fails. -/
theorem brc_falls : Does 0x02 .brc (fun x _ => (x.word x.a.in0 0 ≠ 0) ↔ x.a.mod.getLsbD 0 = true) fun _ s => s := by
  intro x s hready hpre
  have hbody : bodyBrc x (x.start s) = .done (x.start s) := if_neg fun h =>
    absurd (hpre.symm.trans (bne_iff_ne.symm.trans ((bne_true_iff _ _).1 h))) (by cases x.a.mod.getLsbD 0 <;> simp)
  exact (issue_ready hready bodyBrc).trans (by rw [hbody]; rfl)

/-- Settles O15: each body transfers to its target, after the link or counter that it writes where R97 admits the target. -/
theorem transfers : Obligations.Transfers := by
  unfold Obligations.Transfers
  refine ⟨goesTo_of_body (body := bodyBra) (fun _ _ => rfl) fun x _ _ hc hu _ => x.goesFrom_plain _ hc hu x.target,
    goesTo_of_body (body := bodyBrc) (fun _ _ => rfl) fun x s _ hc hu hpre => ?_, brc_falls,
    goesTo_of_body (body := bodyCall) (fun _ _ => rfl) fun x _ hok hc hu _ =>
      x.goesFrom_call _ _ hc hu (Args.dst_accepted hok rfl (rfl : row? 0x05 = some _)),
    goesTo_of_body (body := bodyCalli) (fun _ _ => rfl) fun x s hok hc hu _ => ?_,
    goesTo_of_body (body := bodyRet) (fun _ _ => rfl) fun x s hok hc hu _ => ?_,
    goesTo_of_body (body := bodyJmpi) (fun _ _ => rfl) fun x s hok hc hu _ => ?_,
    goesTo_of_body (body := bodyLoop) (fun _ _ => rfl) fun x s hok hc hu hpre => ?_, loop_ends⟩
  case refine_1 =>
    have hbody : bodyBrc x (x.start s) = .goto (x.start s) x.target false := if_pos ((bne_true_iff _ _).2 (bne_iff_ne.trans hpre))
    rw [hbody]
    exact x.goesFrom_plain _ hc hu x.target
  case refine_2 =>
    rw [← x.readPair_eq (Args.in0_accepted hok rfl (rfl : row? 0x06 = some _))]
    exact x.goesFrom_call _ _ hc hu (Args.dst_accepted hok rfl (rfl : row? 0x06 = some _))
  case refine_3 =>
    rw [← x.readPair_eq (Args.in0_accepted hok rfl (rfl : row? 0x07 = some _))]
    exact x.goesFrom_plain _ hc hu _
  case refine_4 =>
    rw [← x.readPair_eq (Args.in0_accepted hok rfl (rfl : row? 0x08 = some _))]
    exact x.goesFrom_plain _ hc hu _
  case refine_5 =>
    have hd : x.a.dst.isS = true := Args.dst_accepted hok rfl (rfl : row? 0x09 = some _)
    have hbody : bodyLoop x (x.start s) = x.go (x.start s) x.target fun c => c.writeS x.u x.a.dst.index (x.word x.a.dst 0 - 1) :=
      if_pos (bne_iff_ne.2 (sub_ne_zero.2 hpre))
    rw [hbody]
    exact x.goesFrom_go _ hc hu (by rw [Crew.writeS_unit _ _ _ _ _ hu]; rfl) (by simp) fun _ hv => x.counted_of_view _ hc hu hd hv

end Sys2Proof.Machine
end

section
/-! PROOFS. Divergence into spalls (R85, R86, R88, R99): the forms of BRX. -/

namespace Sys2Proof.Machine

/-! ## Lanes -/

theorem and_not_and_self {n : Nat} (m c : BitVec n) : m &&& ~~~(m &&& c) = m &&& ~~~c := by
  ext i
  simp
  grind

/-- BRX's lanes that fall through, as the model takes them. -/
theorem Ctx.falls_eq (x : Ctx) :
    x.falls = x.h.mask &&& ~~~(BitVec.ofFnLE fun l : Fin 96 => (x.word x.a.in0 l != 0) != x.a.mod.getLsbD 4) := and_not_and_self _ _

theorem Ctx.mask_and_not_falls (x : Ctx) : x.h.mask &&& ~~~x.falls = x.takes := by
  rw [Ctx.falls_eq, and_not_and_self, BitVec.not_not, Ctx.takes]

theorem Ctx.takes_or_falls (x : Ctx) : x.takes ||| x.falls = x.h.mask := by
  rw [Ctx.falls_eq, Ctx.takes]
  ext i
  simp
  grind

theorem Ctx.takes_and_falls (x : Ctx) : x.takes &&& x.falls = 0 := by
  rw [Ctx.falls_eq, Ctx.takes]
  ext i
  simp
  grind

theorem getLsbD_opened (m : BitVec 16) {k : Nat} (hk : k < 16) : (m ||| (1 <<< k)).getLsbD k = true := by
  rw [BitVec.getLsbD_or, BitVec.natCast_eq_ofNat, BitVec.getLsbD_ofNat, Nat.testBit_shiftLeft]
  simp [hk]

theorem Ctx.joinId_lt (x : Ctx) : x.joinId < 16 := Nat.mod_lt _ (by norm_num)

/-! ## The unit with an open join -/

/-- A unit at whose join id a JOIN has still to come. -/
def CrewUnit.opened (k : Nat) (h : CrewUnit) : CrewUnit := { h with opens := h.opens ||| (1 <<< k) }

theorem setOpen_get?_self {c : Crew} {u : Nat} {h : CrewUnit} (hu : c.units.get? u = some h) (k : Nat) :
    (setOpen u k c).units.get? u = some (h.opened k) := by
  rw [setOpen, Crew.modUnit_get?_self, hu]
  rfl

@[simp] theorem setOpen_out (u k : Nat) (c : Crew) : (setOpen u k c).out = c.out := by simp [setOpen]
@[simp] theorem setOpen_deferred (u k : Nat) (c : Crew) : (setOpen u k c).deferred = c.deferred := by simp [setOpen]

theorem setOpen_get?_of_ne (c : Crew) {u v : Nat} (k : Nat) (h : v ≠ u) : (setOpen u k c).units.get? v = c.units.get? v :=
  Crew.modUnit_get?_of_ne c _ h

/-! ## What BRX answers, case by case -/

/-- No lane falls through: the unit branches. -/
theorem Ctx.brx_all (x : Ctx) (s : State) (h : x.falls = 0) : bodyBrx x s = x.go s x.target (setOpen x.u x.joinId) := by
  rw [Ctx.falls_eq] at h
  exact if_pos h

/-- No lane branches: the unit goes on. -/
theorem Ctx.brx_none (x : Ctx) (s : State) (h : x.falls ≠ 0) (ht : x.takes = 0) : bodyBrx x s = x.crewDone s (setOpen x.u x.joinId) := by
  rw [Ctx.falls_eq] at h
  exact (if_neg h).trans (if_pos ht)

/-- The lanes that fall through are the ones that detach. -/
def Ctx.fallsDetach (x : Ctx) : Bool := decide (popCount 96 x.falls.toNat ≤ popCount 96 x.takes.toNat)

/-- The smaller part of the mask, which detaches, and the place where it goes on (R85). -/
def Ctx.minority (x : Ctx) : Mask := if x.fallsDetach then x.falls else x.takes
def Ctx.minorityPc (x : Ctx) : Dword := if x.fallsDetach then skipTail x.next else x.target

/-- The crew after a split into a record. -/
def Ctx.splitInto (x : Ctx) (n ck : Nat) (c : Crew) : Crew :=
  (setOpen x.u x.joinId c).split x.u x.joinId n x.minority x.minorityPc x.h.pc ck

/-- The state after a split. -/
def Ctx.splitState (x : Ctx) (n : Nat) (s : State) : State := (s.modCrew x.k (x.splitInto n s.ck)).perf x.core x.c.launch 14 1

/-- A split of the unit into two. -/
theorem Ctx.brx_split (x : Ctx) (s : State) {n : Nat} (h : x.falls ≠ 0) (ht : x.takes ≠ 0) (hn : x.c.freeSpall = some n)
    (hg : goodTarget x.target) :
    bodyBrx x s = if x.fallsDetach then .goto (x.splitState n s) x.target true else .parked (x.splitState n s) := by
  have hb : ¬ badTarget x.target = true := by rw [(goodTarget_iff _).1 hg]; exact Bool.noConfusion
  unfold Ctx.splitState Ctx.splitInto Ctx.minority Ctx.minorityPc Ctx.fallsDetach
  rw [Ctx.falls_eq] at h ⊢
  refine ((if_neg h).trans (if_neg ht)).trans ?_
  rw [hn]
  exact if_neg hb

/-- The deferred record that a BRX without a free record leaves. -/
def Ctx.deferral (x : Ctx) : Deferred :=
  match x.c.deferred.get? x.joinId with
  | some r => { r with mask := r.mask ||| x.falls }
  | none => { addr := skipTail x.next, mask := x.falls, running := false, arrived := 0 }

/-- The crew after a deferral. -/
def Ctx.deferInto (x : Ctx) (c : Crew) : Crew :=
  { (setOpen x.u x.joinId c).modUnit x.u fun h => { h with mask := h.mask &&& ~~~x.falls, dom := h.dom &&& ~~~x.falls } with
    deferred := (setOpen x.u x.joinId c).deferred.put x.joinId x.deferral }

/-- Every record is taken, and the id has no deferred lanes: those that fall through are deferred. -/
theorem Ctx.brx_defer (x : Ctx) (s : State) (h : x.falls ≠ 0) (ht : x.takes ≠ 0) (hn : x.c.freeSpall = none)
    (hd : x.c.deferred.get? x.joinId = none) : bodyBrx x s = x.go s x.target x.deferInto := by
  unfold Ctx.deferInto Ctx.deferral
  rw [hd]
  rw [Ctx.falls_eq] at h ⊢
  refine ((if_neg h).trans (if_neg ht)).trans ?_
  replace hd : x.c.deferred.get? (x.a.mod.toNat % 16) = none := hd
  rw [hn]
  simp only [hd]
  exact if_neg Bool.false_ne_true

/-- Every record is taken, and the lanes deferred under the id are to go on elsewhere. -/
theorem Ctx.brx_overflow (x : Ctx) (s : State) {r : Deferred} (h : x.falls ≠ 0) (ht : x.takes ≠ 0) (hn : x.c.freeSpall = none)
    (hd : x.c.deferred.get? x.joinId = some r) (hr : r.addr ≠ skipTail x.next) :
    bodyBrx x s = .trap s { cause := .divergenceOverflow, detail := x.joinId } := by
  rw [Ctx.falls_eq] at h
  refine ((if_neg h).trans (if_neg ht)).trans ?_
  replace hd : x.c.deferred.get? (x.a.mod.toNat % 16) = some r := hd
  rw [hn]
  simp only [hd]
  exact if_pos (bne_iff_ne.2 hr)

theorem Crew.freeSpall_eq_none {c : Crew} (h : ∀ n, 1 ≤ n → n ≤ 16 → (c.units.get? n).isSome = true) : c.freeSpall = none := by
  unfold Crew.freeSpall
  rw [List.find?_eq_none]
  intro n hn
  obtain ⟨m, hm, rfl⟩ := List.mem_map.1 hn
  have := h (m + 1) (by omega) (by have := List.mem_range.1 hm; omega)
  rw [Option.isNone_iff_eq_none, ← Option.not_isSome_iff_eq_none, not_not]
  exact this

/-! ## The two units of a split -/

/-- The merger of a spall that the unit detaches (R86). -/
def Ctx.merger (x : Ctx) : Nat := if x.u ≠ 0 ∧ x.h.joinId = x.joinId then x.h.owner else x.u

/-- The crew after a split: the unit keeps the other lanes, the record holds the detached ones. -/
theorem Ctx.splitInto_units (x : Ctx) (n ck : Nat) (hu : x.c.units.get? x.u = some x.h) (hne : n ≠ x.u) :
    (∃ m, (x.splitInto n ck x.c).units.get? x.u = some m ∧ m.mask = x.h.mask &&& ~~~x.minority ∧ m.opens.getLsbD x.joinId = true) ∧
    (∃ p, (x.splitInto n ck x.c).units.get? n = some p ∧ p.mask = x.minority ∧ p.dom = x.minority ∧ p.pc = x.minorityPc ∧
      p.joinId = x.joinId ∧ p.owner = x.merger ∧ p.st = if x.c.waiting x.u then .splitting x.u else .ready) ∧
    (x.splitInto n ck x.c).out = x.c.out := by
  have ho := setOpen_get?_self hu x.joinId
  have hw : (setOpen x.u x.joinId x.c).waiting x.u = x.c.waiting x.u := Crew.waiting_congr (setOpen_out _ _ _) _
  unfold Ctx.splitInto Crew.split
  rw [ho]
  refine ⟨⟨{ x.h.opened x.joinId with mask := x.h.mask &&& ~~~x.minority, dom := x.h.dom &&& ~~~x.minority }, ?_, rfl,
    getLsbD_opened _ x.joinId_lt⟩, ⟨_, Table.get?_put_self _ _ _, rfl, rfl, rfl, rfl, ?_, ?_⟩, ?_⟩
  · refine (Table.get?_put_of_ne _ _ hne.symm).trans ?_
    rw [Crew.modUnit_get?_self, ho]
    rfl
  · simp [Ctx.merger, CrewUnit.opened]
  · rw [hw]
  · exact (Crew.modUnit_out _ _ _).trans (setOpen_out _ _ _)

/-- The larger part of the mask, which the unit keeps (R85). -/
def Ctx.majority (x : Ctx) : Mask := if x.fallsDetach then x.takes else x.falls

theorem Ctx.mask_and_not_minority (x : Ctx) :
    x.h.mask &&& ~~~x.minority = x.majority := by
  unfold Ctx.minority Ctx.majority
  split_ifs
  · exact x.mask_and_not_falls
  · rfl

/-- The two parts of the mask are disjoint and the detached one is not the larger (R85). -/
theorem Ctx.majority_minority (x : Ctx) : x.majority ||| x.minority = x.h.mask ∧ x.majority &&& x.minority = 0 ∧
    popCount 96 x.minority.toNat ≤ popCount 96 x.majority.toNat := by
  unfold Ctx.majority Ctx.minority
  cases hd : x.fallsDetach with
  | true => exact ⟨x.takes_or_falls, x.takes_and_falls, by simpa [Ctx.fallsDetach] using hd⟩
  | false =>
    refine ⟨(BitVec.or_comm _ _).trans x.takes_or_falls, (BitVec.and_comm _ _).trans x.takes_and_falls, ?_⟩
    have : popCount 96 x.takes.toNat < popCount 96 x.falls.toNat := by simpa [Ctx.fallsDetach] using hd
    exact this.le

/-- Where two equal parts are, those that fall through detach (R85). -/
theorem Ctx.fallsDetach_of_eq {x : Ctx} (h : popCount 96 x.takes.toNat = popCount 96 x.falls.toNat) : x.fallsDetach = true :=
  decide_eq_true h.ge

/-! ## The clauses -/

theorem Ctx.unitIn_of {x : Ctx} {t : State} {c : Crew} {h : CrewUnit} (hc : t.crews.get? x.k = some c) (hu : c.units.get? x.u = some h) :
    x.unitIn t = some h := by rw [Ctx.unitIn, hc]; exact hu

theorem Ctx.go_good (x : Ctx) (s : State) {t : Dword} (f : Crew → Crew) (ht : goodTarget t) : x.go s t f = .goto (s.modCrew x.k f) t false :=
  if_neg (by rw [(goodTarget_iff t).1 ht]; exact Bool.false_ne_true)

/-- BRX that takes every lane. -/
theorem brx_takes_all (x : Ctx) (s : State) (hready : x.ready 0x03 s = true) (hf : x.falls = 0) (hg : goodTarget x.target) :
    ∃ t h, exec (.brx x.a) s = .next t ∧ x.arrives t x.target ∧ x.unitIn t = some h ∧ h.mask = x.h.mask ∧
      h.opens.getLsbD x.joinId = true := by
  obtain ⟨-, hc, hu, -, -⟩ := Ctx.ready_at hready
  have hc1 : ((x.start s).modCrew x.k (setOpen x.u x.joinId)).crews.get? x.k = some (setOpen x.u x.joinId x.c) := by
    rw [State.modCrew_get?_self, Ctx.start_crews, hc]
    rfl
  obtain ⟨c', h', hc', hs, hl⟩ := x.goto_good (x.start s) _ hc1 (setOpen_get?_self hu _) false hg
  rw [Bool.or_false] at hs
  refine ⟨_, h', (issue_ready hready bodyBrx).trans ?_, x.arrives_of_stands hc' hs hl (setOpen_out _ _ _), Ctx.unitIn_of hc' hs.unit, hs.mask, ?_⟩
  · rw [x.brx_all _ hf, x.go_good _ _ hg]
  · rw [hs.opens]
    exact getLsbD_opened _ x.joinId_lt

/-- BRX that takes no lane. -/
theorem brx_takes_none (x : Ctx) (s : State) (hready : x.ready 0x03 s = true) (hf : x.falls ≠ 0) (ht : x.takes = 0) :
    ∃ t h, exec (.brx x.a) s = .next t ∧ x.unitIn t = some h ∧ h.pc = skipTail x.next ∧ h.mask = x.h.mask ∧
      h.opens.getLsbD x.joinId = true := by
  obtain ⟨-, hc, hu, -, -⟩ := Ctx.ready_at hready
  have hc1 : ((x.start s).modCrew x.k (setOpen x.u x.joinId)).crews.get? x.k = some (setOpen x.u x.joinId x.c) := by
    rw [State.modCrew_get?_self, Ctx.start_crews, hc]
    rfl
  obtain ⟨c', h', hc', hs⟩ := x.finish_stands _ hc1 (setOpen_get?_self hu _) x.a.sw
  refine ⟨_, h', (issue_ready hready bodyBrx).trans ?_, Ctx.unitIn_of hc' hs.unit, hs.pc, hs.mask, ?_⟩
  · rw [x.brx_none _ hf ht]
    rfl
  · rw [hs.opens]
    exact getLsbD_opened _ x.joinId_lt

/-- Either answer of a split leaves the unit at a marker, where the larger part of the mask goes on. -/
theorem Ctx.split_stands (x : Ctx) (s : State) {n : Nat} {c : Crew} {h : CrewUnit} (hc : (x.splitState n s).crews.get? x.k = some c)
    (hu : c.units.get? x.u = some h) (hg : goodTarget x.target) :
    ∃ c' h', (applyRes x s (if x.fallsDetach then .goto (x.splitState n s) x.target true else .parked (x.splitState n s))).crews.get? x.k =
      some c' ∧ x.Stands c h (if x.fallsDetach then x.target else skipTail x.next) (c.markedState x.u) c' h' := by
  cases x.fallsDetach with
  | true =>
    obtain ⟨c', h', hc', hs, -⟩ := x.goto_good s _ hc hu true hg
    rw [Bool.or_true] at hs
    exact ⟨c', h', hc', hs⟩
  | false => exact x.finish_stands _ hc hu true

/-- BRX that divides the unit. -/
theorem brx_splits (x : Ctx) (s : State) (n : Nat) (hready : x.ready 0x03 s = true) (hf : x.falls ≠ 0) (ht : x.takes ≠ 0)
    (hg : goodTarget x.target) (hn : ((List.range 16).map (· + 1)).find? (fun n => (x.c.units.get? n).isNone) = some n) :
    ∃ t c m p, exec (.brx x.a) s = .next t ∧ x.crewIn t = some c ∧ c.units.get? x.u = some m ∧ c.units.get? n = some p ∧
      m.mask ||| p.mask = x.h.mask ∧ m.mask &&& p.mask = 0 ∧ popCount 96 p.mask.toNat ≤ popCount 96 m.mask.toNat ∧
      (p.mask = x.falls ∧ p.pc = skipTail x.next ∧ m.pc = x.target ∨ p.mask = x.takes ∧ p.pc = x.target ∧ m.pc = skipTail x.next) ∧
      (popCount 96 x.takes.toNat = popCount 96 x.falls.toNat → m.mask = x.takes) ∧ p.dom = p.mask ∧ p.joinId = x.joinId ∧
      p.owner = (if x.u ≠ 0 ∧ x.h.joinId = x.joinId then x.h.owner else x.u) ∧ m.opens.getLsbD x.joinId = true ∧
      (x.c.waiting x.u = true → m.st = .marked ∧ p.st = .splitting x.u) ∧ (x.c.waiting x.u = false → m.st = .ready ∧ p.st = .ready) := by
  obtain ⟨-, hc, hu, -, -⟩ := Ctx.ready_at hready
  have hne : n ≠ x.u := by
    rintro rfl
    have hfree := List.find?_some (p := fun n => (x.c.units.get? n).isNone) hn
    simp only [hu] at hfree
    exact Bool.false_ne_true hfree
  obtain ⟨⟨m1, hm1, hmask1, hopens1⟩, ⟨p, hp, hpmask, hpdom, hppc, hpjoin, hpowner, hpst⟩, hout⟩ := x.splitInto_units n (x.start s).ck hu hne
  have hc1 : (x.splitState n (x.start s)).crews.get? x.k = some (x.splitInto n (x.start s).ck x.c) := by
    rw [Ctx.splitState, State.perf_crews, State.modCrew_get?_self, Ctx.start_crews, hc]
    rfl
  obtain ⟨c', m, hc', hs⟩ := x.split_stands (x.start s) hc1 hm1 hg
  have hmst : m.st = if x.c.waiting x.u then .marked else .ready := hs.st.trans (Crew.markedState_congr hout _)
  have hmmask : m.mask = x.majority := hs.mask.trans (hmask1.trans x.mask_and_not_minority)
  refine ⟨_, c', m, p, (issue_ready hready bodyBrx).trans ?_, hc', hs.unit, (hs.others n hne).trans hp, ?_⟩
  · rw [x.brx_split _ hf ht hn hg]
  obtain ⟨hor, hand, hcount⟩ := x.majority_minority
  rw [hmmask, hpdom, hpmask, hmst, hpst, hppc, hs.pc, hs.opens]
  refine ⟨hor, hand, hcount, ?_, fun heq => ?_, rfl, hpjoin, hpowner, hopens1, fun hw => ?_, fun hw => ?_⟩
  · unfold Ctx.minority Ctx.minorityPc
    cases x.fallsDetach
    · exact .inr ⟨rfl, rfl, rfl⟩
    · exact .inl ⟨rfl, rfl, rfl⟩
  · rw [Ctx.majority, Ctx.fallsDetach_of_eq heq]
    rfl
  · rw [hw]
    exact ⟨rfl, rfl⟩
  · rw [hw]
    exact ⟨rfl, rfl⟩

/-- The crew after a deferral: the unit keeps the lanes that branch. -/
theorem Ctx.deferInto_unit (x : Ctx) (hu : x.c.units.get? x.u = some x.h) :
    ∃ m, (x.deferInto x.c).units.get? x.u = some m ∧ m.mask = x.takes := by
  refine ⟨_, (Crew.modUnit_get?_self _ _ _).trans (congrArg _ (setOpen_get?_self hu _)), ?_⟩
  exact x.mask_and_not_falls

/-- BRX without a free record. -/
theorem brx_defers (x : Ctx) (s : State) (hready : x.ready 0x03 s = true) (hf : x.falls ≠ 0) (ht : x.takes ≠ 0) (hg : goodTarget x.target)
    (hn : ∀ n, 1 ≤ n → n ≤ 16 → (x.c.units.get? n).isSome = true) (hd : x.c.deferred.get? x.joinId = none) :
    ∃ t c m r, exec (.brx x.a) s = .next t ∧ x.crewIn t = some c ∧ c.units.get? x.u = some m ∧ m.mask = x.takes ∧ m.pc = x.target ∧
      c.deferred.get? x.joinId = some r ∧ r.addr = skipTail x.next ∧ r.mask = x.falls ∧ r.running = false := by
  obtain ⟨-, hc, hu, -, -⟩ := Ctx.ready_at hready
  obtain ⟨m1, hm1, hmask⟩ := x.deferInto_unit hu
  have hc1 : ((x.start s).modCrew x.k x.deferInto).crews.get? x.k = some (x.deferInto x.c) := by
    rw [State.modCrew_get?_self, Ctx.start_crews, hc]
    rfl
  obtain ⟨c', m, hc', hs, -⟩ := x.goto_good (x.start s) _ hc1 hm1 false hg
  refine ⟨_, c', m, { addr := skipTail x.next, mask := x.falls, running := false, arrived := 0 }, (issue_ready hready bodyBrx).trans ?_, hc',
    hs.unit, hs.mask.trans hmask, hs.pc, ?_, rfl, rfl, rfl⟩
  · rw [x.brx_defer _ hf ht (Crew.freeSpall_eq_none hn) hd, x.go_good _ _ hg]
  · rw [hs.deferred]
    exact (Table.get?_put_self _ _ _).trans (by rw [Ctx.deferral, hd])

/-- BRX whose lanes cannot be deferred. -/
theorem brx_overflows : Traps 0x03 .brx (fun x _ => x.falls ≠ 0 ∧ x.takes ≠ 0 ∧
      (∀ n, 1 ≤ n → n ≤ 16 → (x.c.units.get? n).isSome = true) ∧ ∃ r, x.c.deferred.get? x.joinId = some r ∧ r.addr ≠ skipTail x.next)
    fun x _ => { cause := .divergenceOverflow, detail := x.joinId } := by
  rintro x s hready ⟨hf, ht, hn, r, hr, haddr⟩
  exact (issue_ready hready bodyBrx).trans (by rw [x.brx_overflow _ hf ht (Crew.freeSpall_eq_none hn) hr haddr]; rfl)

theorem divergence : Divergence :=
  ⟨brx_takes_all, brx_takes_none, brx_splits, brx_defers, brx_overflows⟩

end Sys2Proof.Machine
end

section
/-! PROOFS. Joining (R63, R87, R88): the forms of JOIN, and what a merge takes into the unit. -/

namespace Sys2Proof.Machine

/-! ## A unit's records, listed -/

/-- A filter that drops a key lists the same entries after the key's is replaced. -/
theorem Table.filter_put {β : Type} {p : Nat × β → Bool} {a : Nat} (hp : ∀ y, p (a, y) = false) (t : Table β) (y : β) :
    (Table.put t a y).filter p = t.filter p := by
  induction t with
  | nil => simp [Table.put, hp]
  | cons e t ih =>
    obtain ⟨k, z⟩ := e
    unfold Table.put
    split_ifs with h1 h2
    · simp [hp]
    · subst h2
      simp [hp]
    · simp [List.filter_cons, ih]

theorem Crew.filter_modUnit {p : Nat × CrewUnit → Bool} {u : Nat} (hp : ∀ y, p (u, y) = false) (c : Crew) (f : CrewUnit → CrewUnit) :
    (c.modUnit u f).units.filter p = c.units.filter p := by
  unfold Crew.modUnit
  split
  · exact Table.filter_put hp _ _
  · rfl

theorem Crew.filter_issued {p : Nat × CrewUnit → Bool} {u : Nat} (hp : ∀ y, p (u, y) = false) (c : Crew) (step : Bool) :
    (c.issued u step).units.filter p = c.units.filter p := by
  obtain ⟨d, e⟩ := c.issued_eq u step
  rw [e]
  exact Crew.filter_modUnit hp c _

/-! ## A merge -/

/-- The JOINED spalls that a unit takes into itself (R87). -/
def Crew.joinedTo (c : Crew) (u k : Nat) : List (Nat × CrewUnit) :=
  c.units.filter fun e => e.1 != 0 && e.1 != u && e.2.owner == u && e.2.joinId == k && e.2.st == .joined none

theorem foldl_or {α : Type} {n : Nat} (f : α → BitVec n) (l : List α) (m : BitVec n) :
    l.foldl (fun m e => m ||| f e) m = m ||| l.foldl (fun m e => m ||| f e) 0 := by
  induction l generalizing m with
  | nil => simp
  | cons a l ih => rw [List.foldl_cons, List.foldl_cons, ih (m ||| f a), ih (0 ||| f a), BitVec.or_assoc]; simp

theorem foldl_del_units (l : List (Nat × CrewUnit)) (c : Crew) :
    l.foldl (fun c e => { c with units := c.units.del e.1 }) c = { c with units := (l.map (·.1)).foldl Table.del c.units } := by
  induction l generalizing c with
  | nil => rfl
  | cons e l ih => rw [List.foldl_cons, ih]; rfl

theorem getLsbD_closed (m : BitVec 16) (k : Nat) : (m &&& ~~~((1 : BitVec 16) <<< k)).getLsbD k = false := by
  by_cases hk : k < 16
  · simp [hk]
  · simp [BitVec.getLsbD_of_ge _ k (not_lt.1 hk)]

/-- A unit that has merged. -/
def CrewUnit.merged (mine : List (Nat × CrewUnit)) (k : Nat) (h : CrewUnit) : CrewUnit :=
  { h with
    mask := h.mask ||| mine.foldl (fun m e => m ||| e.2.mask) 0 ||| 0, dom := h.dom ||| mine.foldl (fun m e => m ||| e.2.dom) 0
    opens := h.opens &&& ~~~((1 : BitVec 16) <<< k), st := .ready, stop := true }

/-- A merge without deferred lanes, apart from the results of the freed records. -/
theorem Crew.merge_eq (c : Crew) (u k : Nat) (hd : c.deferred.get? k = none) :
    ∃ out, c.merge u k = { Crew.modUnit { c with out := out, units := ((c.joinedTo u k).map (·.1)).foldl Table.del c.units } u
      (CrewUnit.merged (c.joinedTo u k) k) with last := noLast } := by
  refine ⟨c.out.map fun r => if (c.joinedTo u k).any fun e => e.1 == r.unit then { r with unit := orphanUnit } else r, ?_⟩
  unfold Crew.merge
  simp only [foldl_del_units, hd, Bool.false_eq_true, if_false]
  rfl

/-- A merge without deferred lanes: the unit has the masks and domains of its JOINED spalls, whose records are free. -/
theorem Crew.merge_units (c : Crew) {u k : Nat} {h : CrewUnit} (hu : c.units.get? u = some h) (hd : c.deferred.get? k = none) :
    (∃ h', (c.merge u k).units.get? u = some h' ∧ h'.st = .ready ∧ h'.pc = h.pc ∧
      h'.mask = (c.joinedTo u k).foldl (fun m e => m ||| e.2.mask) h.mask ∧ h'.dom = (c.joinedTo u k).foldl (fun m e => m ||| e.2.dom) h.dom ∧
      h'.opens.getLsbD k = false) ∧ ∀ e ∈ c.joinedTo u k, (c.merge u k).units.get? e.1 = none := by
  have hne (e) (he : e ∈ c.joinedTo u k) : e.1 ≠ u := by
    have := (List.mem_filter.1 he).2
    simp only [Bool.and_eq_true, bne_iff_ne] at this
    tauto
  have hkeep : Table.get? (((c.joinedTo u k).map (·.1)).foldl Table.del c.units) u = some h := by
    rw [Table.get?_dels, if_neg, hu]
    intro hm
    obtain ⟨e, he, heq⟩ := List.mem_map.1 hm
    exact hne e he heq
  obtain ⟨out, heq⟩ := c.merge_eq u k hd
  rw [heq]
  refine ⟨⟨CrewUnit.merged (c.joinedTo u k) k h, ?_, rfl, rfl, ?_, ?_, getLsbD_closed _ _⟩, fun e he => ?_⟩
  · refine (Crew.modUnit_get?_self _ _ _).trans ?_
    rw [hkeep]
    rfl
  · exact (BitVec.or_zero).trans (foldl_or _ _ _).symm
  · exact (foldl_or _ _ _).symm
  · refine (Crew.modUnit_get?_of_ne _ _ (hne e he)).trans ?_
    rw [Table.get?_dels, if_pos (List.mem_map_of_mem he)]

/-! ## An instruction that places its crew itself -/

/-- The crew after an instruction whose body leaves it as it is to be. -/
theorem Ctx.placed_crew {x : Ctx} {op : Nat} {s : State} (hready : x.ready op s = true) {body : Ctx → State → Res} {f : Crew → Crew} {h : CrewUnit}
    (hbody : body x (x.start s) = .placed ((x.start s).modCrew x.k f)) (hu : (f x.c).units.get? x.u = some h) :
    ∃ t us n, issue op x.a body s = .next t ∧ t.crews.get? x.k = some { f x.c with units := us } ∧ us.get? x.u = some { h with stopAt := n } ∧
      ∀ v ≠ x.u, us.get? v = (f x.c).units.get? v := by
  obtain ⟨-, hc, -, -, -⟩ := Ctx.ready_at hready
  have hc1 : ((x.start s).modCrew x.k f).crews.get? x.k = some (f x.c) := by
    rw [State.modCrew_get?_self, Ctx.start_crews, hc]
    rfl
  obtain ⟨us, hcrew, hothers, hunit⟩ := State.noteIssue_crew _ x hc1
  obtain ⟨n, hn⟩ := hunit h hu
  exact ⟨_, us, n, (issue_ready hready body).trans (by rw [hbody]; rfl), hcrew, hn, hothers⟩

/-! ## What JOIN answers, case by case -/

/-- The crew at a JOIN that has issued. -/
def Ctx.joinStart (x : Ctx) (c : Crew) : Crew := { c.issued x.u x.stepping with last := noLast }

/-- A spall at its own JOIN (R87). -/
def Ctx.joinSpall (x : Ctx) (c : Crew) : Crew :=
  let c := x.joinStart c
  if x.a.sw && c.waiting x.u then c.modUnit x.u fun h => { h with st := .joining }
  else (c.modUnit x.u fun h => { h with st := .joined none }).tryMerge x.h.owner

/-- A merger at its JOIN: it waits for its spalls, or runs the lanes deferred (R87, R88). -/
def Ctx.joinWait (x : Ctx) (c : Crew) : Crew :=
  c.modUnit x.u fun h => { h with st := .joined (some (x.joinId, x.a.sw)), pc := skipTail x.next, origin := x.pc }

def Ctx.joinDeferred (x : Ctx) (r : Deferred) (c : Crew) : Crew :=
  { c.modUnit x.u fun h => { h with mask := r.mask, dom := h.dom ||| r.mask, pc := r.addr, origin := x.pc } with
    deferred := c.deferred.put x.joinId { r with running := true, arrived := x.h.mask } }

def Ctx.joinRun (x : Ctx) (r : Deferred) (c : Crew) : Crew :=
  if x.a.sw then (x.joinDeferred r c).park x.u else x.joinDeferred r c

def Ctx.joinMerger (x : Ctx) (c : Crew) : Crew :=
  match (x.joinStart c).deferred.get? x.joinId with
  | some r => if r.running then { x.joinWait (x.joinStart c) with last := noLast }.tryMerge x.u else x.joinRun r (x.joinStart c)
  | none => (x.joinWait (x.joinStart c)).tryMerge x.u

theorem Ctx.join_spall (x : Ctx) (s : State) (hu : x.u ≠ 0) (hj : x.h.joinId = x.joinId) :
    bodyJoin x s = .placed (s.modCrew x.k x.joinSpall) :=
  if_pos (by simpa [Ctx.joinId] using And.intro hu hj)

theorem Ctx.not_spall {x : Ctx} (h : x.u = 0 ∨ x.h.joinId ≠ x.joinId) : ¬ (x.u != 0 && x.h.joinId == x.a.mod.toNat % 16) = true := by
  simp only [Bool.and_eq_true, bne_iff_ne, beq_iff_eq]
  rintro ⟨h0, hj⟩
  exact h.elim h0 fun hne => hne hj

theorem Ctx.join_merger (x : Ctx) (s : State) (h : x.u = 0 ∨ x.h.joinId ≠ x.joinId) (ho : x.h.opens.getLsbD x.joinId = true) :
    bodyJoin x s = .placed (s.modCrew x.k x.joinMerger) :=
  (if_neg (Ctx.not_spall h)).trans (if_neg (by rw [Ctx.joinId] at ho; rw [ho]; exact Bool.false_ne_true))

theorem Ctx.join_mismatch (x : Ctx) (s : State) (h : x.u = 0 ∨ x.h.joinId ≠ x.joinId) (ho : x.h.opens.getLsbD x.joinId = false) :
    bodyJoin x s = .trap s { cause := .joinMismatch, detail := x.joinId } :=
  (if_neg (Ctx.not_spall h)).trans (if_pos (by rw [Ctx.joinId] at ho; rw [ho]; rfl))

/-! ## The crew at a JOIN -/

/-- The unit at a JOIN that has issued. -/
def Ctx.joinUnit (x : Ctx) : CrewUnit := x.h.issued (x.c.inHandler x.u) x.stepping

theorem Ctx.joinStart_unit (x : Ctx) (hu : x.c.units.get? x.u = some x.h) : (x.joinStart x.c).units.get? x.u = some x.joinUnit :=
  (Crew.issued_get?_self _ _ _).trans (by rw [hu]; rfl)

theorem Ctx.joinStart_deferred (x : Ctx) : (x.joinStart x.c).deferred = x.c.deferred := Crew.issued_deferred _ _ _

theorem Ctx.joinStart_waiting (x : Ctx) : (x.joinStart x.c).waiting x.u = x.c.waiting x.u := Crew.waiting_congr (Crew.issued_out _ _ _) _

/-- A unit that is changed after the issue. -/
theorem Ctx.joinStart_modUnit (x : Ctx) (hu : x.c.units.get? x.u = some x.h) (f : CrewUnit → CrewUnit) :
    ((x.joinStart x.c).modUnit x.u f).units.get? x.u = some (f x.joinUnit) := by
  rw [Crew.modUnit_get?_self, x.joinStart_unit hu]
  rfl

theorem Ctx.joinWait_unit (x : Ctx) (hu : x.c.units.get? x.u = some x.h) : (x.joinWait (x.joinStart x.c)).units.get? x.u =
    some { x.joinUnit with st := .joined (some (x.joinId, x.a.sw)), pc := skipTail x.next, origin := x.pc } := x.joinStart_modUnit hu _

/-- The entries of other units are listed as before. -/
theorem Ctx.filter_joinWait (x : Ctx) {p : Nat × CrewUnit → Bool} (hp : ∀ y, p (x.u, y) = false) :
    (x.joinWait (x.joinStart x.c)).units.filter p = x.c.units.filter p :=
  (Crew.filter_modUnit hp _ _).trans (Crew.filter_issued hp _ _)

theorem Ctx.outstanding_joinWait (x : Ctx) : (x.joinWait (x.joinStart x.c)).outstanding x.u x.joinId = x.toCome.length :=
  congrArg List.length (x.filter_joinWait (by simp))

theorem Ctx.joinedTo_joinWait (x : Ctx) : (x.joinWait (x.joinStart x.c)).joinedTo x.u x.joinId = x.arrived :=
  x.filter_joinWait (by simp)

/-- A merge is tried at a unit that waits for one. -/
theorem Crew.tryMerge_waiting {c : Crew} {u k : Nat} {h : CrewUnit} {sw : Bool} (hu : c.units.get? u = some h) (hst : h.st = .joined (some (k, sw))) :
    c.tryMerge u = if c.outstanding u k = 0 then if sw then (c.merge u k).park u else c.merge u k else c := by
  unfold Crew.tryMerge
  rw [hu]
  simp only [hst]

theorem Crew.tryMerge_other {c : Crew} {u : Nat} (h : ∀ o, c.units.get? u = some o → ∀ m, o.st ≠ .joined (some m)) : c.tryMerge u = c := by
  unfold Crew.tryMerge
  split
  · rename_i o ho
    split
    · rename_i k sw hst
      exact absurd hst (h o ho (k, sw))
    · rfl
  · rfl

/-! ## The clauses -/

/-- A spall that becomes JOINED and whose merger does not wait. -/
theorem join_spall_joined (x : Ctx) (s : State) (hready : x.ready 0x04 s = true) (h0 : x.u ≠ 0) (hj : x.h.joinId = x.joinId)
    (ho : x.h.owner ≠ x.u) (hsw : x.a.sw = false ∨ x.c.waiting x.u = false)
    (howner : ∀ o, x.c.units.get? x.h.owner = some o → ∀ m, o.st ≠ .joined (some m)) :
    ∃ t h, exec (.join x.a) s = .next t ∧ x.unitIn t = some h ∧ h.st = .joined none ∧ h.mask = x.h.mask := by
  obtain ⟨-, -, hu, -, -⟩ := Ctx.ready_at hready
  have hcrew : x.joinSpall x.c = (x.joinStart x.c).modUnit x.u fun h => { h with st := .joined none } := by
    have hno : ¬ (x.a.sw && (x.joinStart x.c).waiting x.u) = true := by
      rw [x.joinStart_waiting, Bool.and_eq_true]
      rintro ⟨h1, h2⟩
      simp [h1, h2] at hsw
    refine (if_neg hno).trans (Crew.tryMerge_other fun o hget => howner o ?_)
    rwa [Crew.modUnit_get?_of_ne _ _ ho, Ctx.joinStart, Crew.issued_get?_of_ne _ _ ho] at hget
  obtain ⟨t, us, n, hexec, hc, hn, -⟩ := Ctx.placed_crew hready (x.join_spall _ h0 hj)
    (by rw [hcrew]; exact x.joinStart_modUnit hu _)
  exact ⟨t, _, hexec, Ctx.unitIn_of hc hn, rfl, rfl⟩

/-- A spall with S that has results on their way. -/
theorem join_spall_joining (x : Ctx) (s : State) (hready : x.ready 0x04 s = true) (h0 : x.u ≠ 0) (hj : x.h.joinId = x.joinId)
    (hsw : x.a.sw = true) (hw : x.c.waiting x.u = true) :
    ∃ t h, exec (.join x.a) s = .next t ∧ x.unitIn t = some h ∧ h.st = .joining ∧ h.mask = x.h.mask := by
  obtain ⟨-, -, hu, -, -⟩ := Ctx.ready_at hready
  have hcrew : x.joinSpall x.c = (x.joinStart x.c).modUnit x.u fun h => { h with st := .joining } :=
    if_pos (by rw [x.joinStart_waiting, hsw, hw]; rfl)
  obtain ⟨t, us, n, hexec, hc, hn, -⟩ := Ctx.placed_crew hready (x.join_spall _ h0 hj)
    (by rw [hcrew]; exact x.joinStart_modUnit hu _)
  exact ⟨t, _, hexec, Ctx.unitIn_of hc hn, rfl, rfl⟩

/-- A merger without deferred lanes: what it leaves depends on the spalls that are still to come. -/
theorem Ctx.joinMerger_none (x : Ctx) (hu : x.c.units.get? x.u = some x.h) (hd : x.c.deferred.get? x.joinId = none) :
    x.joinMerger x.c = if x.toCome = [] then
      (let c := (x.joinWait (x.joinStart x.c)).merge x.u x.joinId; if x.a.sw then c.park x.u else c) else x.joinWait (x.joinStart x.c) := by
  unfold Ctx.joinMerger
  rw [x.joinStart_deferred, hd]
  dsimp only
  rw [Crew.tryMerge_waiting (x.joinWait_unit hu) rfl, x.outstanding_joinWait]
  simp only [List.length_eq_zero_iff]

theorem join_merger_waits (x : Ctx) (s : State) (hready : x.ready 0x04 s = true) (hm : x.u = 0 ∨ x.h.joinId ≠ x.joinId)
    (ho : x.h.opens.getLsbD x.joinId = true) (hd : x.c.deferred.get? x.joinId = none) (hcome : x.toCome ≠ []) :
    ∃ t h, exec (.join x.a) s = .next t ∧ x.unitIn t = some h ∧ h.st = .joined (some (x.joinId, x.a.sw)) ∧ h.pc = skipTail x.next := by
  obtain ⟨-, -, hu, -, -⟩ := Ctx.ready_at hready
  have hcrew : x.joinMerger x.c = x.joinWait (x.joinStart x.c) := (x.joinMerger_none hu hd).trans (if_neg hcome)
  obtain ⟨t, us, n, hexec, hc, hn, -⟩ := Ctx.placed_crew hready (x.join_merger _ hm ho) (by rw [hcrew]; exact x.joinWait_unit hu)
  exact ⟨t, _, hexec, Ctx.unitIn_of hc hn, rfl, rfl⟩

theorem join_merger_merges (x : Ctx) (s : State) (hready : x.ready 0x04 s = true) (hm : x.u = 0 ∨ x.h.joinId ≠ x.joinId)
    (ho : x.h.opens.getLsbD x.joinId = true) (hd : x.c.deferred.get? x.joinId = none) (hcome : x.toCome = []) (hsw : x.a.sw = false) :
    ∃ t c h, exec (.join x.a) s = .next t ∧ x.crewIn t = some c ∧ c.units.get? x.u = some h ∧ h.st = .ready ∧ h.pc = skipTail x.next ∧
      h.mask = x.arrived.foldl (fun m e => m ||| e.2.mask) x.h.mask ∧ h.dom = x.arrived.foldl (fun m e => m ||| e.2.dom) x.h.dom ∧
      h.opens.getLsbD x.joinId = false ∧ ∀ e ∈ x.arrived, c.units.get? e.1 = none := by
  obtain ⟨-, -, hu, -, -⟩ := Ctx.ready_at hready
  have hcrew : x.joinMerger x.c = (x.joinWait (x.joinStart x.c)).merge x.u x.joinId := by
    rw [x.joinMerger_none hu hd, if_pos hcome, hsw]
    rfl
  have hdw : (x.joinWait (x.joinStart x.c)).deferred.get? x.joinId = none := by
    rw [Ctx.joinWait, Crew.modUnit_deferred, x.joinStart_deferred, hd]
  obtain ⟨⟨h, hget, hst, hpc, hmask, hdom, hopens⟩, hfree⟩ := Crew.merge_units _ (x.joinWait_unit hu) hdw
  rw [x.joinedTo_joinWait] at hmask hdom hfree
  obtain ⟨t, us, n, hexec, hc, hn, hothers⟩ := Ctx.placed_crew hready (x.join_merger _ hm ho) (by rw [hcrew]; exact hget)
  refine ⟨t, _, _, hexec, hc, hn, hst, hpc, hmask, hdom, hopens, fun e he => ?_⟩
  have hne : e.1 ≠ x.u := by
    have := (List.mem_filter.1 he).2
    simp only [Bool.and_eq_true, bne_iff_ne] at this
    tauto
  refine (hothers e.1 hne).trans ?_
  rw [hcrew]
  exact hfree e he

theorem join_merger_runs (x : Ctx) (s : State) (r : Deferred) (hready : x.ready 0x04 s = true) (hm : x.u = 0 ∨ x.h.joinId ≠ x.joinId)
    (ho : x.h.opens.getLsbD x.joinId = true) (hd : x.c.deferred.get? x.joinId = some r) (hr : r.running = false) :
    ∃ t c h r', exec (.join x.a) s = .next t ∧ x.crewIn t = some c ∧ c.units.get? x.u = some h ∧ h.mask = r.mask ∧ h.pc = r.addr ∧
      c.deferred.get? x.joinId = some r' ∧ r'.running = true ∧ r'.arrived = x.h.mask := by
  obtain ⟨-, -, hu, -, -⟩ := Ctx.ready_at hready
  have hcrew : x.joinMerger x.c = x.joinRun r (x.joinStart x.c) := by
    unfold Ctx.joinMerger
    rw [x.joinStart_deferred, hd]
    dsimp only
    rw [hr]
    rfl
  have hrun : ∃ h, (x.joinRun r (x.joinStart x.c)).units.get? x.u = some h ∧ h.mask = r.mask ∧ h.pc = r.addr ∧
      (x.joinRun r (x.joinStart x.c)).deferred = x.c.deferred.put x.joinId { r with running := true, arrived := x.h.mask } := by
    have hget : (x.joinDeferred r (x.joinStart x.c)).units.get? x.u = some _ := x.joinStart_modUnit hu _
    have hdef : (x.joinDeferred r (x.joinStart x.c)).deferred = _ := congrArg (Table.put · _ _) x.joinStart_deferred
    unfold Ctx.joinRun
    cases x.a.sw with
    | false => exact ⟨_, hget, rfl, rfl, hdef⟩
    | true =>
      obtain ⟨n, p, hp⟩ := Crew.park_get?_self _ hget
      exact ⟨_, hp, rfl, rfl, (Crew.park_deferred _ _).trans hdef⟩
  obtain ⟨h, hget, hmask, hpc, hdef⟩ := hrun
  obtain ⟨t, us, n, hexec, hc, hn, -⟩ := Ctx.placed_crew hready (x.join_merger _ hm ho) (by rw [hcrew]; exact hget)
  refine ⟨t, _, _, { r with running := true, arrived := x.h.mask }, hexec, hc, hn, hmask, hpc, ?_, rfl, rfl⟩
  rw [hcrew]
  exact (congrArg (Table.get? · _) hdef).trans (Table.get?_put_self _ _ _)

theorem join_traps : Traps 0x04 .join (fun x _ => (x.u = 0 ∨ x.h.joinId ≠ x.joinId) ∧ x.h.opens.getLsbD x.joinId = false)
    fun x _ => { cause := .joinMismatch, detail := x.joinId } := by
  rintro x s hready ⟨hm, ho⟩
  exact (issue_ready hready bodyJoin).trans (by rw [x.join_mismatch _ hm ho]; rfl)

theorem joining : Joining :=
  ⟨join_spall_joined, join_spall_joining, join_merger_waits, join_merger_merges, join_merger_runs, join_traps⟩

/-- Settles O42: each form of BRX and of JOIN by the equation of its body. -/
theorem branchesAndJoins : Obligations.BranchesAndJoins := ⟨divergence, joining⟩

end Sys2Proof.Machine
end

section
/-! PROOFS. Fault records (R430): what a record's fields read. -/

namespace Sys2Proof.Machine

/-! ## Words put together from fields -/

/-- The word of fields, each a value at its lowest bit. -/
def fieldsSum (fs : List (Nat × Nat)) : Nat := (fs.map fun f => placeField f.1 f.2).sum

/-- The fields stand one below the other, the first below bit `top`. -/
def Fits : Nat → List (Nat × Nat) → Prop
  | _, [] => True
  | top, f :: fs => f.2 ≤ top ∧ f.1 < 2 ^ (top - f.2) ∧ Fits f.2 fs

theorem fieldsSum_lt {top : Nat} {fs : List (Nat × Nat)} (h : Fits top fs) : fieldsSum fs < 2 ^ top := by
  induction fs generalizing top with
  | nil => exact Nat.two_pow_pos top
  | cons f fs ih =>
    obtain ⟨hle, hv, hrest⟩ := h
    calc fieldsSum (f :: fs) = f.1 * 2 ^ f.2 + fieldsSum fs := by simp [fieldsSum, placeField]
      _ < f.1 * 2 ^ f.2 + 2 ^ f.2 := Nat.add_lt_add_left (ih hrest) _
      _ = (f.1 + 1) * 2 ^ f.2 := by ring
      _ ≤ 2 ^ (top - f.2) * 2 ^ f.2 := Nat.mul_le_mul_right _ hv
      _ = 2 ^ top := by rw [← Nat.pow_add, Nat.sub_add_cancel hle]

/-- A field of w bits, with the fields above it clear of those bits, reads its value. -/
theorem fieldsSum_field {top v lo w : Nat} {above below : List (Nat × Nat)} (h : Fits top (above ++ (v, lo) :: below)) (hv : v < 2 ^ w)
    (habove : ∀ f ∈ above, lo + w ≤ f.2) : fieldsSum (above ++ (v, lo) :: below) / 2 ^ lo % 2 ^ w = v := by
  induction above generalizing top with
  | nil =>
    have hb : fieldsSum below < 2 ^ lo := fieldsSum_lt h.2.2
    have he : fieldsSum ((v, lo) :: below) = fieldsSum below + v * 2 ^ lo := by simp [fieldsSum, placeField, Nat.add_comm]
    rw [List.nil_append, he, Nat.add_mul_div_right _ _ (Nat.two_pow_pos lo), Nat.div_eq_of_lt hb, Nat.zero_add, Nat.mod_eq_of_lt hv]
  | cons f above ih =>
    have hf : lo + w ≤ f.2 := habove f List.mem_cons_self
    have hp : f.1 * 2 ^ f.2 = f.1 * 2 ^ (f.2 - lo - w) * 2 ^ w * 2 ^ lo := by
      rw [Nat.mul_assoc, Nat.mul_assoc, ← Nat.pow_add, ← Nat.pow_add]
      congr 2
      omega
    have he : fieldsSum (f :: above ++ (v, lo) :: below) =
        fieldsSum (above ++ (v, lo) :: below) + f.1 * 2 ^ (f.2 - lo - w) * 2 ^ w * 2 ^ lo := by
      rw [← hp]
      simp [fieldsSum, placeField, Nat.add_comm]
    rw [he, Nat.add_mul_div_right _ _ (Nat.two_pow_pos lo), Nat.add_mul_mod_self_right]
    exact ih h.2.2 fun g hg => habove g (List.mem_cons_of_mem _ hg)

/-- The same of a bit vector. -/
theorem extractLsb'_fieldsSum {n v lo w : Nat} {above below : List (Nat × Nat)} (h : Fits n (above ++ (v, lo) :: below)) (hv : v < 2 ^ w)
    (habove : ∀ f ∈ above, lo + w ≤ f.2) : (BitVec.ofNat n (fieldsSum (above ++ (v, lo) :: below))).extractLsb' lo w = BitVec.ofNat w v := by
  apply BitVec.eq_of_toNat_eq
  rw [BitVec.extractLsb'_toNat, BitVec.toNat_ofNat, BitVec.toNat_ofNat, Nat.mod_eq_of_lt (fieldsSum_lt h), Nat.shiftRight_eq_div_pow,
    fieldsSum_field h hv habove, Nat.mod_eq_of_lt hv]

/-! ## The record -/

theorem Cause.code_lt (c : Cause) : c.code < 2 ^ 8 := by cases c <;> decide

/-- A record's fields, from the highest (R430). -/
def recordFields (a : Agent) (t : Trap) (route : Nat) (held : Bool) (ck : Nat) : List (Nat × Nat) :=
  [(t.addr % 2 ^ 64, 448), (t.cursor % 2 ^ 32, 416), ((t.pc.getD a.pc).toNat, 352), (t.detail % 2 ^ 32, 320), (a.launch % 2 ^ 32, 288),
    (a.index % 2 ^ 32, 256), (t.cause.code, 248), (route, 246), (t.lane % 128, 239), (a.spall % 32, 234), (t.slot % 16, 230),
    (t.ixkind % 8, 227), (t.index % 2048, 216), (t.core.getD a.core / 32 % 4, 214), (t.core.getD a.core / 4 % 8, 211),
    (t.core.getD a.core % 4, 209), (a.issuer % 4, 207), (a.slot % 8, 204), (a.bslot % 16, 200), (a.part % 16, 196), (a.tenant % 16, 192),
    (t.stage % 4, 190), (if t.wr then 1 else 0, 189), (if held then 1 else 0, 188), (a.block % 2 ^ 32, 128), (ck % 2 ^ 64, 64)]

/-- The record's sum of fields, whatever places a field: placeField itself is no name here, for the kernel would compute with its powers
of two. -/
theorem recordFields_sum (place : Nat → Nat → Nat) (a : Agent) (t : Trap) (route : Nat) (held : Bool) (ck : Nat) :
    place (t.addr % 2 ^ 64) 448 + place (t.cursor % 2 ^ 32) 416 + place (t.pc.getD a.pc).toNat 352 + place (t.detail % 2 ^ 32) 320 +
      place (a.launch % 2 ^ 32) 288 + place (a.index % 2 ^ 32) 256 + place t.cause.code 248 + place route 246 + place (t.lane % 128) 239 +
      place (a.spall % 32) 234 + place (t.slot % 16) 230 + place (t.ixkind % 8) 227 + place (t.index % 2048) 216 +
      place (t.core.getD a.core / 32 % 4) 214 + place (t.core.getD a.core / 4 % 8) 211 + place (t.core.getD a.core % 4) 209 +
      place (a.issuer % 4) 207 + place (a.slot % 8) 204 + place (a.bslot % 16) 200 + place (a.part % 16) 196 + place (a.tenant % 16) 192 +
      place (t.stage % 4) 190 + place (if t.wr then 1 else 0) 189 + place (if held then 1 else 0) 188 + place (a.block % 2 ^ 32) 128 +
      place (ck % 2 ^ 64) 64 = ((recordFields a t route held ck).map fun f => place f.1 f.2).sum := by
  simp only [recordFields, List.map_cons, List.map_nil, List.sum_cons, List.sum_nil, Nat.add_zero, Nat.add_assoc]

theorem faultRecord_eq (a : Agent) (t : Trap) (route : Nat) (held : Bool) (ck : Nat) :
    faultRecord a t route held ck = BitVec.ofNat 512 (fieldsSum (recordFields a t route held ck)) :=
  congrArg (BitVec.ofNat 512) (recordFields_sum placeField a t route held ck)

theorem recordFields_fit (a : Agent) (t : Trap) {route : Nat} (held : Bool) (ck : Nat) (hr : route < 4) :
    Fits 512 (recordFields a t route held ck) := by
  have hcode := t.cause.code_lt
  have hpc := (t.pc.getD a.pc).isLt
  have hbit (b : Bool) : (if b then 1 else 0) < 2 := by split <;> norm_num
  have hmod (m n : Nat) : m % 2 ^ n < 2 ^ n := Nat.mod_lt _ (Nat.two_pow_pos n)
  simp only [recordFields, Fits, and_true, Nat.reduceLeDiff, true_and]
  exact ⟨hmod _ 64, hmod _ 32, hpc, hmod _ 32, hmod _ 32, hmod _ 32, hcode, hr, hmod _ 7, hmod _ 5, hmod _ 4, hmod _ 3, hmod _ 11, hmod _ 2,
    hmod _ 3, hmod _ 2, hmod _ 2, hmod _ 3, hmod _ 4, hmod _ 4, hmod _ 4, hmod _ 2, hbit _, hbit _, (hmod _ 32).trans (by norm_num), hmod _ 64⟩

section
variable (a : Agent) (t : Trap) {route : Nat} (held : Bool) (ck : Nat)

/-- A field of a record, by its place in the list. -/
theorem faultRecord_field (hr : route < 4) (n : Nat) {v lo w : Nat} {below : List (Nat × Nat)}
    (hf : recordFields a t route held ck = (recordFields a t route held ck).take n ++ (v, lo) :: below) (hv : v < 2 ^ w)
    (habove : ∀ f ∈ (recordFields a t route held ck).take n, lo + w ≤ f.2) :
    (faultRecord a t route held ck).extractLsb' lo w = BitVec.ofNat w v := by
  rw [faultRecord_eq, hf]
  exact extractLsb'_fieldsSum (hf ▸ recordFields_fit a t held ck hr) hv habove

theorem faultRecord_pc (hr : route < 4) : (faultRecord a t route held ck).extractLsb' 352 64 = t.pc.getD a.pc :=
  (faultRecord_field a t held ck hr 2 rfl (t.pc.getD a.pc).isLt (by simp [recordFields])).trans (BitVec.ofNat_toNat _ _)

theorem faultRecord_detail (hr : route < 4) : (faultRecord a t route held ck).extractLsb' 320 32 = BitVec.ofNat 32 (t.detail % 2 ^ 32) :=
  faultRecord_field a t held ck hr 3 rfl (Nat.mod_lt _ (Nat.two_pow_pos 32)) (by simp [recordFields])

theorem faultRecord_cause (hr : route < 4) : (faultRecord a t route held ck).extractLsb' 248 8 = BitVec.ofNat 8 t.cause.code :=
  faultRecord_field a t held ck hr 6 rfl t.cause.code_lt (by simp [recordFields])

theorem faultRecord_route (hr : route < 4) : (faultRecord a t route held ck).extractLsb' 246 2 = BitVec.ofNat 2 route :=
  faultRecord_field a t held ck hr 7 rfl hr (by simp [recordFields])

theorem faultRecord_part (hr : route < 4) : (faultRecord a t route held ck).extractLsb' 196 4 = BitVec.ofNat 4 (a.part % 16) :=
  faultRecord_field a t held ck hr 19 rfl (Nat.mod_lt _ (by norm_num)) (by simp [recordFields])

theorem faultRecord_ck (hr : route < 4) : (faultRecord a t route held ck).extractLsb' 64 64 = BitVec.ofNat 64 (ck % 2 ^ 64) :=
  faultRecord_field a t held ck hr 25 rfl (Nat.mod_lt _ (Nat.two_pow_pos 64)) (by simp [recordFields])

end

end Sys2Proof.Machine
end

section
/-! PROOFS. Taking a trap outside capsule mode (R432, R434, R436): into the handler, or to the fault ring. -/

namespace Sys2Proof.Machine

/-! ## The trap -/

/-- Where a trap enters the launch's handler, if it does (R434, R436). -/
def State.trapEntry (s : State) (c : Crew) (u : Nat) (t : Trap) : Option Dword :=
  match s.launches.get? c.launch with
  | some l => if t.cause.handled && l.trapoff != 0xFFFFFFFF && !c.inHandler u then some l.handler else none
  | none => none

/-- What the supervisor holds of a trap outside capsule mode. -/
def Trap.hold (t : Trap) (len : Nat) : Hold := { cause := t.cause.code, length := len, capsule := false, dbg := t.dbg }

/-- A trap outside capsule mode ends the unit's leases; then it enters the handler, or holds the unit, or waits for either. -/
theorem State.takeTrap_plain {s : State} {k u : Nat} (len : Nat) (t : Trap) {c : Crew} {h : CrewUnit} (hc : s.crews.get? k = some c)
    (hu : c.units.get? u = some h) (hm : c.cap.mode = false) :
    s.takeTrap k u len t =
      let s1 := s.setCrew k (c.endLeasesOf u)
      match s.trapEntry c u t with
      | some handler =>
        let record := faultRecord (s.agent k u c h) t 0 false s.ck
        let resume := t.resume.getD h.pc
        if c.waiting u || c.hstate.getLsbD 0 then s1.modUnit k u fun h => { h with st := .entering record resume }
        else (s1.modCrew k fun c => c.enterHandler u handler resume record).modUnit k u fun h => { h with tried := some s.ck }
      | none =>
        let record := faultRecord (s.agent k u c h) t t.route true s.ck
        if c.waiting u then s1.modUnit k u fun h => { h with st := .faulting record (t.hold len) } else s1.holdUnit k u c record (t.hold len) := by
  have hd : s.deschedule k u = s.setCrew k (c.endLeasesOf u) := by
    unfold State.deschedule
    rw [hc]
    dsimp only
    rw [hm]
    rfl
  have hoff : (c.endLeasesOf u).onIssue = false := by simp [Crew.onIssue, Crew.endLeasesOf, hm]
  unfold State.takeTrap
  simp only [hc, hu, hd, State.setCrew_crews, Table.get?_put_self, hoff, Bool.or_false, hm]
  rfl

/-! ## The records of a unit -/

/-- The record of a trap that enters the handler, and of one that goes to the ring. -/
def Ctx.handlerRecord (x : Ctx) (s : State) (t : Trap) : BitVec 512 := faultRecord (s.agent x.k x.u x.c x.h) t 0 false s.ck
def Ctx.ringRecord (x : Ctx) (s : State) (t : Trap) : BitVec 512 := faultRecord (s.agent x.k x.u x.c x.h) t t.route true s.ck

theorem Trap.route_lt (t : Trap) : t.route < 4 := by unfold Trap.route; split <;> norm_num

/-! ## Rings -/

theorem FaultRec.mem_join (r : FaultRec) (l : List FaultRec) : r ∈ r.join l := by
  induction l with
  | nil => exact List.mem_singleton_self r
  | cons a l ih =>
    unfold FaultRec.join
    split
    · exact List.mem_cons_self
    · exact List.mem_cons_of_mem a ih

theorem FaultRec.length_join (r : FaultRec) (l : List FaultRec) : (r.join l).length = l.length + 1 := by
  induction l with
  | nil => rfl
  | cons a l ih =>
    unfold FaultRec.join
    split
    · rfl
    · rw [List.length_cons, ih]
      rfl

/-- The record of a cause that the hypervisor gets no copy of, on the way to a partition's ring. -/
theorem State.deliver_partition (s : State) {r : BitVec 512} (target : Target) (place : Nat) (hroute : (r.extractLsb' 246 2).toNat ≠ 2)
    (hcopy : copiedCode (r.extractLsb' 248 8).toNat = false) :
    s.deliver r target place = s.modRing (r.extractLsb' 196 4).toNat fun x =>
      { x with waiting := FaultRec.join ⟨r, target, restartableCode (r.extractLsb' 248 8).toNat, place⟩ x.waiting } := by
  unfold State.deliver
  dsimp only
  rw [if_neg hroute, hcopy]
  rfl

/-! ## The four outcomes -/

/-- A unit that has only ended its leases. -/
theorem Ctx.trapped_unit {x : Ctx} (s : State) (hu : x.c.units.get? x.u = some x.h) (f : CrewUnit → CrewUnit) :
    x.unitIn ((s.setCrew x.k (x.c.endLeasesOf x.u)).modUnit x.k x.u f) = some (f x.h) := by
  have hcrew : ((s.setCrew x.k (x.c.endLeasesOf x.u)).modUnit x.k x.u f).crews.get? x.k = some ((x.c.endLeasesOf x.u).modUnit x.u f) := by
    rw [State.modUnit, State.modCrew_get?_self, State.setCrew_crews, Table.get?_put_self]
    rfl
  refine Ctx.unitIn_of hcrew ?_
  rw [Crew.modUnit_get?_self]
  exact congrArg _ hu

/-- What entering the handler leaves of a crew (R436). -/
theorem Crew.enterHandler_fields {c : Crew} {u : Nat} {h : CrewUnit} (hu : c.units.get? u = some h) (handler resume : Dword) (r : BitVec 512) :
    let c' := c.enterHandler u handler resume r
    c'.units.get? u = some { h with pc := handler, st := .ready, origin := h.pc } ∧ c'.hpc = resume ∧ c'.hmask = h.mask ∧
      c'.hcause = r.extractLsb' 248 8 ∧ c'.hstate = BitVec.ofNat 6 (1 + 2 * u) ∧ c'.hrec = r ∧ c'.last = noLast := by
  unfold Crew.enterHandler
  dsimp only
  rw [hu]
  refine ⟨?_, by simp⟩
  rw [Crew.modUnit_get?_self]
  exact congrArg _ hu

section
variable {x : Ctx} {s : State} (len : Nat) {t : Trap} (hc : s.crews.get? x.k = some x.c) (hu : x.c.units.get? x.u = some x.h)
  (hm : x.c.cap.mode = false)
include hc hu hm

/-- The handler is free and the unit waits for nothing: it enters. -/
theorem Ctx.trap_enters {handler : Dword} (he : s.trapEntry x.c x.u t = some handler) (hw : x.c.waiting x.u = false)
    (hh : x.c.hstate.getLsbD 0 = false) :
    ∃ c h, x.crewIn (s.takeTrap x.k x.u len t) = some c ∧ c.units.get? x.u = some h ∧ c.hpc = t.resume.getD x.h.pc ∧ c.hmask = x.h.mask ∧
      c.hcause = (x.handlerRecord s t).extractLsb' 248 8 ∧ c.hstate = BitVec.ofNat 6 (1 + 2 * x.u) ∧ c.hrec = x.handlerRecord s t ∧
      h.pc = handler ∧ h.st = .ready ∧ h.mask = x.h.mask ∧ c.last = noLast := by
  have hentered : (x.c.endLeasesOf x.u).units.get? x.u = some x.h := hu
  obtain ⟨hunit, hpc, hmask, hcause, hstate, hrec, hlast⟩ :=
    Crew.enterHandler_fields hentered handler (t.resume.getD x.h.pc) (x.handlerRecord s t)
  have htrap : s.takeTrap x.k x.u len t = ((s.setCrew x.k (x.c.endLeasesOf x.u)).modCrew x.k fun c =>
      c.enterHandler x.u handler (t.resume.getD x.h.pc) (x.handlerRecord s t)).modUnit x.k x.u fun h => { h with tried := some s.ck } := by
    rw [State.takeTrap_plain len t hc hu hm, he]
    dsimp only
    rw [hw, hh]
    rfl
  refine ⟨((x.c.endLeasesOf x.u).enterHandler x.u handler (t.resume.getD x.h.pc) (x.handlerRecord s t)).modUnit x.u fun h =>
    { h with tried := some s.ck }, _, ?_, (Crew.modUnit_get?_self _ _ _).trans (congrArg _ hunit), ?_⟩
  · rw [htrap, Ctx.crewIn, State.modUnit, State.modCrew_get?_self, State.modCrew_get?_self, State.setCrew_crews, Table.get?_put_self]
    rfl
  · rw [Crew.modUnit_hpc, Crew.modUnit_hmask, Crew.modUnit_hcause, Crew.modUnit_hstate, Crew.modUnit_hrec, Crew.modUnit_last]
    exact ⟨hpc, hmask, hcause, hstate, hrec, rfl, rfl, rfl, hlast⟩

/-- Another unit is in the handler, or results are on their way: the unit waits to enter. -/
theorem Ctx.trap_waits {handler : Dword} (he : s.trapEntry x.c x.u t = some handler)
    (hb : x.c.waiting x.u = true ∨ x.c.hstate.getLsbD 0 = true) :
    x.unitIn (s.takeTrap x.k x.u len t) = some { x.h with st := .entering (x.handlerRecord s t) (t.resume.getD x.h.pc) } := by
  rw [State.takeTrap_plain len t hc hu hm, he]
  dsimp only
  rw [if_pos (Bool.or_eq_true_iff.2 hb)]
  exact Ctx.trapped_unit s hu fun h => { h with st := .entering (x.handlerRecord s t) (t.resume.getD x.h.pc) }

/-- No handler takes it, and results are on their way: the unit stands at the fault. -/
theorem Ctx.trap_faults (he : s.trapEntry x.c x.u t = none) (hw : x.c.waiting x.u = true) :
    x.unitIn (s.takeTrap x.k x.u len t) = some { x.h with st := .faulting (x.ringRecord s t) (t.hold len) } := by
  rw [State.takeTrap_plain len t hc hu hm, he]
  dsimp only
  rw [if_pos hw]
  exact Ctx.trapped_unit s hu fun h => { h with st := .faulting (x.ringRecord s t) (t.hold len) }

/-- No handler takes it, and no result is on its way: the unit is held, and its record waits for the partition's ring. -/
theorem Ctx.trap_holds (he : s.trapEntry x.c x.u t = none) (hw : x.c.waiting x.u = false) (hroute : t.route = 1)
    (hcopy : copiedCode t.cause.code = false) :
    x.unitIn (s.takeTrap x.k x.u len t) = some { x.h with st := .held { t.hold len with serial := s.nextHold } } ∧
    ∃ r : FaultRec, r.record = x.ringRecord s t ∧ r.target = .unit x.c.launch x.c.name x.u s.nextHold ∧
      ((s.takeTrap x.k x.u len t).ring (s.partOf x.c % 16)).waiting = r.join (s.ring (s.partOf x.c % 16)).waiting := by
  have hr := t.route_lt
  have hcause : ((x.ringRecord s t).extractLsb' 248 8).toNat = t.cause.code := by
    rw [Ctx.ringRecord, faultRecord_cause _ _ _ _ hr, BitVec.toNat_ofNat, Nat.mod_eq_of_lt t.cause.code_lt]
  have hpart : ((x.ringRecord s t).extractLsb' 196 4).toNat = s.partOf x.c % 16 := by
    rw [Ctx.ringRecord, faultRecord_part _ _ _ _ hr, BitVec.toNat_ofNat]
    exact Nat.mod_mod _ _
  have hone : ((x.ringRecord s t).extractLsb' 246 2).toNat ≠ 2 := by
    rw [Ctx.ringRecord, faultRecord_route _ _ _ _ hr, hroute]
    decide
  have hheld : ∃ place, s.takeTrap x.k x.u len t = (({ s with nextHold := s.nextHold + 1 }.modRing (s.partOf x.c % 16) fun r => { r with
      waiting := FaultRec.join ⟨x.ringRecord s t, .unit x.c.launch x.c.name x.u s.nextHold, restartableCode t.cause.code, place⟩
        r.waiting }).setCrew x.k (x.c.endLeasesOf x.u)).modUnit x.k x.u
      fun h => { h with st := .held { t.hold len with serial := s.nextHold } } := by
    refine ⟨Agent.place { core := coreOf x.k, issuer := issuerOf x.k, slot := slotOf x.k, spall := x.u }
      (.unit x.c.launch x.c.name x.u s.nextHold), ?_⟩
    rw [State.takeTrap_plain len t hc hu hm, he]
    dsimp only
    rw [if_neg (by simp [hw])]
    unfold State.holdUnit
    refine congrArg (State.modUnit · x.k x.u _) ((State.deliver_partition _ _ _ hone (by rw [hcause, hcopy])).trans ?_)
    rw [hcause, hpart]
    rfl
  obtain ⟨place, htrap⟩ := hheld
  rw [htrap]
  refine ⟨Ctx.trapped_unit _ hu _, ⟨x.ringRecord s t, .unit x.c.launch x.c.name x.u s.nextHold, restartableCode t.cause.code, place⟩, rfl, rfl, ?_⟩
  rw [State.modUnit, State.ring, State.modCrew_rings, State.setCrew_rings]
  exact congrArg Ring.waiting ((State.ring_modRing _ _ _ _).trans (if_pos rfl))

end

/-! ## Trap instructions -/

/-- The trap that TRAP and TRAPC raise (R104). -/
def Ctx.userTrap (x : Ctx) (detail : Word) : Trap := { cause := .user, detail := detail.toNat, resume := some x.next }

theorem ofNat_toNat_mod (w : Word) : BitVec.ofNat 32 (w.toNat % 2 ^ 32) = w := by
  rw [Nat.mod_eq_of_lt w.isLt, BitVec.ofNat_toNat, BitVec.setWidth_eq]

theorem Ctx.inHandler_iff (x : Ctx) : x.c.inHandler x.u = true ↔ x.handling := by
  simp [Crew.inHandler, Ctx.handling]

/-- A user trap of a launch with a handler, in a unit that is not in it, enters the handler (R434). -/
theorem Ctx.userTrap_entry {x : Ctx} {s : State} {l : Launch} (detail : Word) (hl : x.launchOf s = some l) (hoff : l.trapoff ≠ 0xFFFFFFFF)
    (hin : x.c.inHandler x.u = false) : s.trapEntry x.c x.u (x.userTrap detail) = some l.handler := by
  unfold State.trapEntry
  rw [show s.launches.get? x.c.launch = some l from hl]
  exact if_pos (by simp [Ctx.userTrap, Cause.handled, hin, hoff])

theorem Ctx.userTrap_noEntry {x : Ctx} {s : State} {l : Launch} (detail : Word) (hl : x.launchOf s = some l)
    (h : l.trapoff = 0xFFFFFFFF ∨ x.c.inHandler x.u = true) : s.trapEntry x.c x.u (x.userTrap detail) = none := by
  unfold State.trapEntry
  rw [show s.launches.get? x.c.launch = some l from hl]
  exact if_neg (by rcases h with h | h <;> simp [h])

theorem State.trapEntry_unhandled (s : State) (c : Crew) (u : Nat) {t : Trap} (h : t.cause.handled = false) : s.trapEntry c u t = none := by
  unfold State.trapEntry
  split
  · exact if_neg (by simp [h])
  · rfl

/-- A record of the unit, outside capsule mode, reads its cause, its detail and the unit's PC. -/
theorem Ctx.record_fields (x : Ctx) (s : State) (cause : Cause) (detail : Word) (resume : Option Dword) {route : Nat} (held : Bool) (hr : route < 4) :
    let r := faultRecord (s.agent x.k x.u x.c x.h) { cause := cause, detail := detail.toNat, resume := resume } route held s.ck
    r.extractLsb' 248 8 = BitVec.ofNat 8 cause.code ∧ r.extractLsb' 320 32 = detail ∧ r.extractLsb' 352 64 = x.h.pc :=
  ⟨faultRecord_cause _ _ _ _ hr, (faultRecord_detail _ _ _ _ hr).trans (ofNat_toNat_mod detail), faultRecord_pc _ _ _ _ hr⟩

section
variable {x : Ctx} {s : State} (len : Nat) (detail : Word)

/-- A user trap that enters the handler at once. -/
theorem Ctx.user_enters {l : Launch} (hc : s.crews.get? x.k = some x.c) (hu : x.c.units.get? x.u = some x.h) (hopen : x.handlerOpen s l) :
    x.entered (s.takeTrap x.k x.u len (x.userTrap detail)) l 0x0B x.next detail := by
  obtain ⟨hl, hoff, hstate, hw, hm⟩ := hopen
  have he := Ctx.userTrap_entry detail hl hoff (by rw [Crew.inHandler, hstate]; rfl : x.c.inHandler x.u = false)
  obtain ⟨c, h, hcr, hunit, hpc, hmask, hcause, hst, hrec, hpc', hrdy, hmask', hlast⟩ := Ctx.trap_enters len hc hu hm he hw hstate
  obtain ⟨fcause, fdetail, fpc⟩ := x.record_fields s .user detail (some x.next) false (by norm_num : 0 < 4)
  exact ⟨c, h, hcr, hunit, hpc, hmask, hcause.trans fcause, hst, hrec ▸ fcause, hrec ▸ fdetail, hrec ▸ fpc, hpc', hrdy, hmask', hlast⟩

/-- A trap that the supervisor gets, without a stop of the debug registers, of a cause that it alone answers. -/
theorem Ctx.trap_supervisor (cause : Cause) (resume : Option Dword) (hc : s.crews.get? x.k = some x.c) (hu : x.c.units.get? x.u = some x.h)
    (hm : x.c.cap.mode = false) (he : s.trapEntry x.c x.u { cause := cause, detail := detail.toNat, resume := resume } = none)
    (hroute : Trap.route { cause := cause, detail := detail.toNat, resume := resume } = 1) (hcopy : copiedCode cause.code = false) :
    let t := s.takeTrap x.k x.u x.len { cause := cause, detail := detail.toNat, resume := resume }
    if x.c.waiting x.u = true then x.faultsIn t cause else x.heldBy s t cause detail := by
  obtain ⟨fcause, fdetail, fpc⟩ := x.record_fields s cause detail resume true (by norm_num : 1 < 4)
  rw [← hroute] at fcause fdetail fpc
  dsimp only
  split_ifs with hw
  · exact ⟨_, _, Ctx.trap_faults x.len hc hu hm he hw, rfl, fcause, rfl, rfl⟩
  · obtain ⟨hunit, r, hrec, htarget, hring⟩ := Ctx.trap_holds x.len hc hu hm he (by simpa using hw) hroute hcopy
    refine ⟨_, r, hunit, rfl, rfl, rfl, hring ▸ r.mem_join _, hring ▸ r.length_join _, ?_, hrec ▸ fcause, hrec ▸ fdetail, hrec ▸ fpc, htarget⟩
    rw [FaultRec.time, hrec, Ctx.ringRecord, faultRecord_ck _ _ _ _ (Trap.route_lt _), BitVec.toNat_ofNat, Nat.mod_mod]

end

/-- TRAP, and TRAPC with its condition: the start of the trap. -/
theorem trap_exec {x : Ctx} {s : State} (hready : x.ready 0x0C s = true) :
    exec (.trap x.a) s = .next ((x.start s).takeTrap x.k x.u x.len (x.userTrap (x.word x.a.in0 0))) := issue_ready hready bodyTrap

theorem trapc_exec {x : Ctx} {s : State} (hready : x.ready 0x16 s = true) (h : x.word x.a.in0 0 ≠ 0) :
    exec (.trapc x.a) s = .next ((x.start s).takeTrap x.k x.u x.len (x.userTrap (x.word x.a.in1 0))) := by
  have hbody : bodyTrapc x (x.start s) = .trap (x.start s) (x.userTrap (x.word x.a.in1 0)) := if_pos (bne_iff_ne.2 h)
  exact (issue_ready hready bodyTrapc).trans (by rw [hbody]; rfl)

theorem Ctx.start_at {x : Ctx} {op : Nat} {s : State} (hready : x.ready op s = true) :
    (x.start s).crews.get? x.k = some x.c ∧ x.c.units.get? x.u = some x.h := by
  obtain ⟨-, hc, hu, -, -⟩ := Ctx.ready_at hready
  exact ⟨by rwa [Ctx.start_crews], hu⟩

/-- A user trap that no handler takes. -/
theorem trap_to_supervisor (x : Ctx) (s : State) (l : Launch) (hready : x.ready 0x0C s = true) (hl : x.launchOf s = some l)
    (hno : l.trapoff = 0xFFFFFFFF ∨ x.handling) (hm : x.c.cap.mode = false) :
    ∃ t, exec (.trap x.a) s = .next t ∧
      if x.c.waiting x.u = true then x.faultsIn t .user else x.heldBy s t .user (x.word x.a.in0 0) := by
  obtain ⟨hc, hu⟩ := Ctx.start_at hready
  exact ⟨_, trap_exec hready, Ctx.trap_supervisor _ .user (some x.next) hc hu hm
    (Ctx.userTrap_noEntry _ hl (hno.imp id x.inHandler_iff.2)) rfl rfl⟩

/-- A user trap that waits for the handler. -/
theorem trap_awaits_handler (x : Ctx) (s : State) (l : Launch) (hready : x.ready 0x0C s = true) (hl : x.launchOf s = some l)
    (hoff : l.trapoff ≠ 0xFFFFFFFF) (hin : ¬ x.handling) (hbusy : x.c.waiting x.u = true ∨ x.c.hstate.getLsbD 0 = true)
    (hm : x.c.cap.mode = false) :
    ∃ t h r, exec (.trap x.a) s = .next t ∧ x.unitIn t = some h ∧ h.st = .entering r x.next ∧ h.pc = x.h.pc := by
  obtain ⟨hc, hu⟩ := Ctx.start_at hready
  have hno : x.c.inHandler x.u = false := Bool.eq_false_iff.2 fun h => hin (x.inHandler_iff.1 h)
  exact ⟨_, _, _, trap_exec hready, Ctx.trap_waits x.len hc hu hm (Ctx.userTrap_entry _ hl hoff hno) hbusy, rfl, rfl⟩

theorem trapc_passes : Does 0x16 .trapc (fun x _ => x.word x.a.in0 0 = 0) fun _ s => s := by
  intro x s hready h
  have hbody : bodyTrapc x (x.start s) = .done (x.start s) := if_neg (by simp [Ctx.scalar, h])
  exact (issue_ready hready bodyTrapc).trans (by rw [hbody]; rfl)

theorem bkpt_to_supervisor (x : Ctx) (s : State) (hready : x.ready 0x15 s = true) (hm : x.c.cap.mode = false) :
    ∃ t, exec (.bkpt x.a) s = .next t ∧
      if x.c.waiting x.u = true then x.faultsIn t .breakpoint else x.heldBy s t .breakpoint (x.word x.a.in0 0) := by
  obtain ⟨hc, hu⟩ := Ctx.start_at hready
  exact ⟨_, issue_ready hready bodyBkpt, Ctx.trap_supervisor _ .breakpoint none hc hu hm (State.trapEntry_unhandled _ _ _ rfl) rfl rfl⟩

theorem trapInstructions : TrapInstructions := by
  refine ⟨fun x s l hready hopen => ?_, trap_to_supervisor, trap_awaits_handler, fun x s l hready hcond hopen => ?_, trapc_passes, bkpt_to_supervisor⟩
  · obtain ⟨hc, hu⟩ := Ctx.start_at hready
    exact ⟨_, trap_exec hready, Ctx.user_enters _ _ hc hu hopen⟩
  · obtain ⟨hc, hu⟩ := Ctx.start_at hready
    exact ⟨_, trapc_exec hready hcond, Ctx.user_enters _ _ hc hu hopen⟩

/-! ## TRET -/

/-- The crew after TRET. -/
def Ctx.returned (x : Ctx) (c : Crew) : Crew :=
  let c := (c.issued x.u x.stepping).leaveHandler x.u
  if x.a.sw then c.park x.u else c

theorem Ctx.tret_good (x : Ctx) (s : State) (h : x.handling) (hg : goodTarget x.c.hpc) : bodyTret x s = .placed (s.modCrew x.k x.returned) :=
  (if_neg (by rw [x.inHandler_iff.2 h]; exact Bool.false_ne_true)).trans
    (if_neg (by rw [(goodTarget_iff _).1 hg]; exact Bool.false_ne_true))

/-- The unit that leaves the handler. -/
theorem Crew.leaveHandler_unit {c : Crew} {u : Nat} {h : CrewUnit} (hu : c.units.get? u = some h) :
    (c.leaveHandler u).units.get? u = some { h with mask := c.hmask &&& h.dom, pc := c.hpc, origin := h.pc, st := .ready } := by
  refine (Crew.modUnit_get?_self _ _ _).trans ?_
  rw [hu]
  rfl

theorem Ctx.returned_fields (x : Ctx) (hu : x.c.units.get? x.u = some x.h) :
    ∃ h, (x.returned x.c).units.get? x.u = some h ∧ h.pc = x.c.hpc ∧ h.mask = x.c.hmask &&& x.h.dom ∧ (x.returned x.c).hstate = 0 ∧
      (x.returned x.c).last = noLast ∧ (x.c.waiting x.u = false → h.st = .ready) := by
  have hissued : (x.c.issued x.u x.stepping).units.get? x.u = some (x.h.issued (x.c.inHandler x.u) x.stepping) := by
    rw [Crew.issued_get?_self, hu]
    rfl
  have hleft := Crew.leaveHandler_unit hissued
  rw [Crew.issued_hpc, Crew.issued_hmask] at hleft
  unfold Ctx.returned
  cases x.a.sw with
  | false => exact ⟨_, hleft, rfl, rfl, rfl, rfl, fun _ => rfl⟩
  | true =>
    obtain ⟨r, p, hp⟩ := Crew.park_get?_self _ hleft
    refine ⟨_, hp, rfl, rfl, Crew.park_hstate _ _, Crew.park_last _ _, fun hw => ?_⟩
    have hout : ((x.c.issued x.u x.stepping).leaveHandler x.u).out = x.c.out := (Crew.modUnit_out _ _ _).trans (Crew.issued_out _ _ _)
    exact (Crew.markedState_congr hout _).trans (by rw [Crew.markedState, hw]; rfl)

theorem tret_returns (x : Ctx) (s : State) (hready : x.ready 0x0D s = true) (h : x.handling) (hg : goodTarget x.c.hpc) :
    ∃ t c h, exec (.tret x.a) s = .next t ∧ x.crewIn t = some c ∧ c.units.get? x.u = some h ∧ h.pc = x.c.hpc ∧
      h.mask = x.c.hmask &&& x.h.dom ∧ c.hstate = 0 ∧ c.last = noLast ∧ (x.c.waiting x.u = false → h.st = .ready) := by
  obtain ⟨-, hu⟩ := Ctx.start_at hready
  obtain ⟨h1, hget, hpc, hmask, hstate, hlast, hst⟩ := x.returned_fields hu
  obtain ⟨t, us, n, hexec, hc, hn, -⟩ := Ctx.placed_crew hready (x.tret_good _ h hg) hget
  exact ⟨t, _, _, hexec, hc, hn, hpc, hmask, hstate, hlast, hst⟩

theorem tret_outside : Traps 0x0D .tret (fun x _ => ¬ x.handling) fun _ _ => { cause := .handlerState } := by
  intro x s hready h
  have hbody : bodyTret x (x.start s) = .trap (x.start s) { cause := .handlerState } := if_pos (by simpa using mt x.inHandler_iff.1 h)
  exact (issue_ready hready bodyTret).trans (by rw [hbody]; rfl)

theorem tret_misaligned : Traps 0x0D .tret (fun x _ => x.handling ∧ x.c.hpc.toNat % 4 ≠ 0)
    fun x _ => { cause := .misalignedPc, addr := x.c.hpc.toNat } := by
  rintro x s hready ⟨h, hbad⟩
  have hbody : bodyTret x (x.start s) = .goto (x.start s) x.c.hpc false :=
    (if_neg (by rw [x.inHandler_iff.2 h]; exact Bool.false_ne_true)).trans (if_pos (by simp [badTarget, hbad]))
  exact (issue_ready hready bodyTret).trans (by rw [hbody, x.goto_misaligned _ _ _ hbad])

/-- Settles O41: a trap goes where the launch's handler and the results on their way let it, with the record's fields as R430 places them;
TRET by the equation of its body. -/
theorem trapsAndReturns : Obligations.TrapsAndReturns := ⟨trapInstructions, tret_returns, tret_outside, tret_misaligned⟩

end Sys2Proof.Machine
end

section
/-! PROOFS. Control registers, queries and debug registers, refuted: a trace buffer whose next record stands on the page-table entry that
maps the buffer itself (R115, R322, R323). The record is written, and then the walk of the count's write sets the flag bits of that entry. -/

namespace Sys2Proof.Machine

/-! ## The state -/

/-- A launch whose trace buffer begins 4,096 bytes below the second table of the translation of its own addresses. -/
def selfTraced : Launch := { placedLaunch with trace := true, tset := true, tbase := 0x20BF000, tlen := 8192 }

/-- 252 of its records are written, and none is read. -/
def selfTracing (s : State) : State :=
  { mapped s with
    launches := [(1, selfTraced)]
    mem := (mapped s).mem.storeBytes 0x20BF000 (leBytes 8 252)
    frames := [(0, ⟨false, 0⟩), (0x20, ⟨false, 0⟩), (0x400, ⟨false, 0⟩), (0x408, ⟨false, 0⟩), (0x410, ⟨false, 0⟩), (0x417, ⟨false, 0⟩),
      (0x418, ⟨false, 0⟩)] }

/-- A TMARK of 15: the record's first word is a leaf entry of the same page whose flag bits are not set. -/
def selfMark : Ctx := ctxOf 0x1A (fields .none (.small 15) .none .none) id 0
def selfState : State := stateOf id 0 selfTracing

/-- The place of the next record is the leaf entry of the buffer's page. -/
def leafPlace : Nat := 0x20C0000

/-- The record of the statement. -/
def selfRecord : List Byte := leBytes 4 (selfMark.word selfMark.a.in0 0).toNat ++ leBytes 4 selfMark.c.index ++ leBytes 8 selfState.ck

/-! ## What the statement supposes of it -/

/-- A device write of the buffer at an address finds its place there. -/
def foundAt (s : State) (va : Nat) : Bool :=
  okWith ({ s with heads := [] }.devXlate 0 va true false) fun p =>
    p.1.pa == va && p.2.keyed p.1.key p.1.pa && !inRings (p.1.pa / 128 * 128)

theorem traceFinds_of_foundAt {s : State} {va : Nat} (h : foundAt s va = true) : ∃ p, s.traceFinds 0 va p ∧ p.pa = va := by
  obtain ⟨⟨p, s'⟩, hx, hp⟩ := (okWith_iff _ _).1 h
  simp only [Bool.and_eq_true, beq_iff_eq, Bool.not_eq_true'] at hp
  obtain ⟨⟨hpa, hkey⟩, hring⟩ := hp
  exact ⟨p, ⟨⟨s', hx, hkey⟩, hring, by rw [hpa]⟩, hpa⟩

theorem selfMark_ready : selfMark.ready 0x1A selfState = true := by decide +kernel

/-- The header, and the places of the record and of the count. -/
theorem selfMark_found : okWith ((selfMark.start selfState).vread 0 0x20BF000 24) (fun r => writtenOf r.1 == 252 && leNat (r.1.drop 16) == 0 &&
    foundAt r.2 leafPlace && okWith (r.2.traceWrite 0 leafPlace selfRecord) fun s => foundAt s 0x20BF000) = true := by decide +kernel

/-- After the instruction the leaf entry, where the record stands, has its flag bits set. -/
theorem selfMark_overwritten : (match exec (.tmark selfMark.a) selfState with
    | .next t => t.mem.byte leafPlace == 0xCF
    | _ => false) = true := by decide +kernel

/-- Refutes O40: the record's first byte is not that of the value marked, for the count's write sets the flag bits of the leaf entry there. -/
theorem not_controlState : ¬ Obligations.ControlState := by
  rintro ⟨-, -, -, -, -, -, -, -, -, -, -, -, -, -, hmark, -⟩
  obtain ⟨⟨hd, s1⟩, hread, hfacts⟩ := (okWith_iff _ _).1 selfMark_found
  simp only [Bool.and_eq_true, beq_iff_eq] at hfacts
  obtain ⟨⟨⟨hwritten, hunread⟩, hplace⟩, hwrite⟩ := hfacts
  obtain ⟨s2, hwrite, hcount⟩ := (okWith_iff _ _).1 hwrite
  obtain ⟨p, hp, hpa⟩ := traceFinds_of_foundAt hplace
  obtain ⟨q, hq, hqa⟩ := traceFinds_of_foundAt hcount
  have hnext : nextRecord selfTraced hd = leafPlace := by rw [nextRecord, hwritten]; rfl
  have hroom : hasRoom selfTraced hd := by rw [hasRoom, hwritten, hunread]; decide
  rw [← hnext] at hp hwrite
  obtain ⟨t, ht, -, -, hrecord, -⟩ := hmark selfMark selfState s1 s2 selfTraced hd p q selfMark_ready ⟨rfl, rfl, rfl, rfl, rfl, hread⟩ hroom
    hp hwrite hq (.inl (by rw [hpa, hqa]; decide))
  have hbyte := hrecord 0 (by norm_num)
  have hover := selfMark_overwritten
  rw [ht] at hover
  rw [hpa, Nat.add_zero, beq_iff_eq.1 hover] at hbyte
  exact absurd hbyte (by decide)

end Sys2Proof.Machine
end

section
/-! PROOFS. Blocks placed, started, saved, flushed and restored, refuted: a save whose crew table is out of order. Descheduling its crew, which
17 units that wait for a line of the save area hold, enters the crew a second time, so that the line's bank counts 34 waiting units and takes
no write (R333, R390). -/

namespace Sys2Proof.Machine

/-! ## A save that waits -/

theorem linePieces_eq_cons (va : Nat) {n : Nat} (h : 0 < n) : ∃ m ps, linePieces va n = (0, m) :: ps := by
  obtain ⟨k, hk⟩ : ∃ k, (va + n + 127) / 128 - va / 128 = k + 1 := ⟨(va + n + 127) / 128 - va / 128 - 1, by omega⟩
  unfold linePieces
  rw [hk, List.range_succ_eq_map, List.map_cons, if_pos rfl]
  exact ⟨_, _, congrArg (fun a => (a, _) :: _) (Nat.sub_self va)⟩

/-- A device write of which the first piece waits. -/
theorem State.vwrite_waits {s : State} {part va n : Nat} {bs : List Byte} (h : s.devXlate part va true false = .error (.waits n)) (hbs : bs ≠ []) :
    s.vwrite part va bs = .error (.waits n) := by
  obtain ⟨m, ps, hp⟩ := linePieces_eq_cons va (List.length_pos_iff.2 hbs)
  unfold State.vwrite
  simp only [hp, List.foldl_cons, Nat.add_zero, h]
  rw [List.foldl_fixed']
  exact fun _ => rfl

/-- An image whose first range waits. -/
theorem State.writeRanges_waits {s : State} {part start n : Nat} {e : Nat × Nat} {es : List (Nat × Nat)} {bs : List Byte}
    (h : s.devXlate part (start + e.1) true false = .error (.waits n)) (hbs : bs.take e.2 ≠ []) :
    s.writeRanges part start (e :: es) bs = .error n := by
  unfold State.writeRanges
  rw [State.vwrite_waits h hbs]

/-- The units of a block's crews leave the lines that they watch. -/
def State.unwatch (s : State) (core : Nat) (ks : List Nat) : State :=
  ks.foldl (fun s k => match s.crews.get? k with
    | some c => c.units.foldl (fun s u => s.dropWatch core u.2.st) s
    | none => s) s

/-- The state in which a block's image is written. -/
def State.leaving (s : State) (key : Nat) (b : Block) : State :=
  let s := (s.descheduleAll b.crews).1.unwatch (key / 16) b.crews
  { s with fresh := s.fresh + imageDraws }

theorem Saved.sections_take_ne_nil (v : Saved) (draw : Nat) {n : Nat} (h : 0 < n) :
    ((v.sections draw).flatMap fun (e : Nat × List Byte) => e.2).take n ≠ [] := by
  obtain ⟨m, rfl⟩ : ∃ m, n = m + 1 := ⟨n - 1, by omega⟩
  simp [Saved.sections, openBytes]

/-- A save whose first range waits leaves the state. -/
theorem State.saveBlock_waits {s : State} {key n : Nat} {b : Block} {l : Launch} {e : Nat × Nat} {es : List (Nat × Nat)}
    (hoff : (s.descheduleAll b.crews).2 = true) (hroom : l.saveRoom ((s.leaving key b).contextBytes key) = e :: es) (hpos : 0 < e.2)
    (hwait : (s.leaving key b).devXlate l.part (l.saveAddr.toNat + e.1) true false = .error (.waits n)) : s.saveBlock key b l = s := by
  have hwrite (v : Saved) (draw : Nat) : (s.leaving key b).writeRanges l.part l.saveAddr.toNat (l.saveRoom ((s.leaving key b).contextBytes key))
      ((v.sections draw).flatMap fun (e : Nat × List Byte) => e.2) = .error n := by
    rw [hroom]
    exact State.writeRanges_waits hwait (v.sections_take_ne_nil draw hpos)
  unfold State.saveBlock
  dsimp only
  rw [if_neg (by rw [hoff]; decide)]
  split
  · rfl
  · rename_i t ht
    exact absurd (ht.symm.trans (hwrite _ _)) (by simp)

/-! ## The state -/

/-- The line of the save area's first bytes. -/
def savingLine : Nat := 0x1000000 / 128

/-- A crew of which all 17 units wait for that line at stop points. -/
def savingCrew : Crew :=
  { crew0 with units := (List.range 17).map fun u => (u, { unit0 with st := .stalled (.line savingLine), stop := true }) }

def savingBlock : Block := { block0 with strategy := 2 }
def savingLaunch : Launch := { placedLaunch with saveLen := 2 ^ 20, saveAddr := 0x1000000 }

/-- The crew stands in the table behind one of a higher slot. -/
def saving : State :=
  launched savingLaunch (blocks0 savingBlock { mapped base with crews := [(5, { crew0 with units := [], launch := 2 }), (0, savingCrew)] })

/-! ## What the statement supposes of it -/

/-- Units that are halted stand before nobody. -/
theorem State.unitAhead_halted {s : State} (h : ∀ e ∈ s.crews, ∀ u ∈ e.2.units, s.halted e.1 u.2 = true) (n since : Nat) (me : Option (Nat × Nat)) :
    s.unitAhead n since me = false := by
  unfold State.unitAhead
  rw [List.any_eq_false]
  intro e he
  rw [Bool.not_eq_true, List.any_eq_false]
  intro u hu
  simp [h e he u hu]

/-- A bank without a queue has room while fewer than 32 units are there. -/
theorem State.bankFull_few {s : State} {bank : Nat} (hq : (s.bank bank).conflict = []) (h : (s.crews.map fun e => e.2.units.length).sum < 32) :
    s.bankFull bank = false := by
  unfold State.bankFull
  rw [hq, decide_eq_false_iff_not, List.length_nil, Nat.zero_add, Nat.not_le]
  exact lt_of_le_of_lt (List.sum_le_sum fun e _ => List.length_filter_le _ _) h

theorem saving_linesFree : saving.linesFree := by
  refine ⟨fun n => ⟨rfl, ?_⟩, fun bank => ?_⟩
  · unfold State.lineQueued
    rw [State.unitAhead_halted (by decide +kernel)]
    rfl
  · have hfull : saving.bankFull bank = false := State.bankFull_few rfl (by decide +kernel)
    unfold State.deviceTakes State.bankTakes
    rw [hfull]
    rfl

theorem saving_stopped : savingCrew.stopped (saving.waitingResults 0 savingCrew) = true ∧ savingCrew.onIssue = false ∧ savingCrew.units ≠ [] ∧
    saving.itemsSavable 0 savingBlock.launch savingBlock.number = true ∧ saving.foreignWindow (blockKey 0 0) savingBlock = false ∧
    savingLaunch.saveUsed + saving.contextBytes (blockKey 0 0) ≤ savingLaunch.saveLen ∧ (saving.descheduleAll savingBlock.crews).2 = true := by
  decide +kernel

/-! ## What becomes of it -/

theorem saving_room : savingLaunch.saveRoom ((saving.leaving (blockKey 0 0) savingBlock).contextBytes (blockKey 0 0)) = [(0, 66528)] := by
  decide +kernel

/-- The crew descheduled stands in the table twice, and the bank of its line takes no write. -/
theorem saving_waits : (match (saving.leaving (blockKey 0 0) savingBlock).devXlate savingLaunch.part (savingLaunch.saveAddr.toNat + 0) true false with
    | .error (.waits n) => n == savingLine
    | _ => false) = true := by decide +kernel

theorem saving_stays : saving.saveBlock (blockKey 0 0) savingBlock savingLaunch = saving := by
  obtain ⟨-, -, -, -, -, -, hoff⟩ := saving_stopped
  have hwait := saving_waits
  split at hwait
  · rename_i n hn
    exact State.saveBlock_waits hoff saving_room (by norm_num) hn
  · exact absurd hwait Bool.false_ne_true

theorem saving_exec : exec (.blockSave 0 0) saving = .next saving := by
  have hsave : exec (.blockSave 0 0) saving = .next (saving.saveBlock (blockKey 0 0) savingBlock savingLaunch) :=
    congrArg Host.Outcome.next ((if_neg (by decide +kernel)).trans (if_neg (by decide +kernel)))
  rw [hsave, saving_stays]

/-- Refutes O28: the block stays, though no line is held and each bank takes the device's accesses when the save begins. -/
theorem not_blockSteps : ¬ Obligations.BlockSteps := by
  rintro ⟨-, -, -, -, hsave, -⟩
  obtain ⟨hstopped, hissue, hunits, hitems, hwindow, hlen, hoff⟩ := saving_stopped
  obtain ⟨t, l, v, ht, hgone, -⟩ := hsave saving 0 0 savingBlock savingLaunch (by norm_num) rfl rfl rfl rfl
    (fun k hk => ⟨savingCrew, by rw [List.mem_singleton.1 hk]; rfl, hstopped, hissue, hunits⟩) hitems hwindow hlen saving_linesFree hoff
  have hstay : t = saving := Host.Outcome.next.inj (ht.symm.trans saving_exec)
  rw [hstay] at hgone
  exact absurd hgone (by decide +kernel)

end Sys2Proof.Machine
end
